-- ==== Sys2Proof/Word.lean ====
section
/-! DEFINITION. The word types of the QDR-1024 and sorted tables keyed by numbers, which hold everything the
machine has many of (cores, slots, slices, clusters, requests in flight, memory cells). -/

namespace Sys2Proof

/-- A general register, a special register, an address (R11, R27, R138). -/
abbrev Word := BitVec 64
/-- An instruction word, a vector lane, a queue payload word (R58, R184, R214). -/
abbrev Half := BitVec 32
/-- One byte of memory. -/
abbrev Byte := BitVec 8

/-- A table keyed by numbers: keys strictly rising. A missing key is the caller's default. -/
abbrev FMap (α : Type) := List (Nat × α)

namespace FMap

/-- The entry of a key, if the table has one. -/
def find? {α : Type} : FMap α → Nat → Option α
  | [], _ => none
  | (k, v) :: r, n => if k = n then some v else find? r n

/-- The entry of a key, or the default. -/
def getD {α : Type} (m : FMap α) (n : Nat) (d : α) : α := (m.find? n).getD d

/-- Put an entry, keeping the keys rising. -/
def insert {α : Type} : FMap α → Nat → α → FMap α
  | [], n, x => [(n, x)]
  | (k, v) :: r, n, x =>
    if n < k then (n, x) :: (k, v) :: r
    else if n = k then (n, x) :: r
    else (k, v) :: insert r n x

/-- Take an entry away. -/
def erase {α : Type} : FMap α → Nat → FMap α
  | [], _ => []
  | (k, v) :: r, n => if k = n then erase r n else (k, v) :: erase r n

/-- The keys of a table. -/
def keys {α : Type} (m : FMap α) : List Nat := m.map (·.1)

/-- The entries of a table. -/
def vals {α : Type} (m : FMap α) : List α := m.map (·.2)

/-- The keys rise strictly. -/
def sorted {α : Type} : FMap α → Bool
  | [] => true
  | [_] => true
  | (k, _) :: (k', v) :: r => decide (k < k') && sorted ((k', v) :: r)

end FMap

end Sys2Proof
end

