-- ==== Sys2Proof/Config.lean ====
section
/-! DEFINITION. The constants the spec fixes for every QDR-1024 and the free values it leaves open. -/

namespace Sys2Proof.Config

/-- Slots of a core (R11). -/
def slots : Nat := 16
/-- Core positions of the mesh (R8). -/
def positions : Nat := 1024
/-- Clusters (R10). -/
def clusters : Nat := 128
/-- Publication queue entries of a core (R157). -/
def pqSize : Nat := 32
/-- Hardware deque records of a core (R43). -/
def dequeSize : Nat := 64
/-- Activation buffer of a core (R36). -/
def actBuf : Nat := 4
/-- Issue spacing of one slot in cycles (R31). -/
def spacing : Nat := 8
/-- The judgement window of a population in cycles (R56). -/
def window : Nat := 65536
/-- The steal back-off in cycles (R48). -/
def stealBackoff : Nat := 1024
/-- The quantum in cycles (R244). -/
def quantum : Nat := 42000
/-- HBM channels (R12). -/
def channels : Nat := 512
/-- Bytes of one channel (R12, R140): 3 GiB. -/
def channelBytes : Nat := 3 * 2 ^ 30
/-- Bytes of one scratchpad (R11). -/
def spBytes : Nat := 2 ^ 18
/-- Base of the own-core scratchpad alias (R141). -/
def spAlias : Nat := 0x01E000000000
/-- Base of the scratchpad windows (R141). -/
def spWindow : Nat := 0x01F000000000
/-- End of the scratchpad aperture (R141). -/
def spEnd : Nat := 0x020000000000
/-- General miss-table entries of a slice (R152). -/
def missEntries : Nat := 28
/-- Reserved write-back entries of a slice (R152). -/
def wbEntries : Nat := 4
/-- Pending-write filter of a slice (R152). -/
def filterSize : Nat := 16
/-- Jobs a cluster's queue holds, and a core may have outstanding (R196). -/
def jobs : Nat := 64
/-- Vector queue entries of a slot (R218). -/
def vqueue : Nat := 8
/-- Lane groups of a vector pool (R214). -/
def laneGroups : Nat := 32
/-- Requests an SFU queues (R220). -/
def sfuQueue : Nat := 16
/-- Cycles from an SFU request's last service cycle to its result (R220). -/
def sfuLatency : Nat := 24
/-- Walks a CSC runs at once (R232). -/
def walks : Nat := 16
/-- Entries of a core TLB (R229). -/
def coreTlb : Nat := 64
/-- Sets and ways of a cluster TLB (R229). -/
def clusTlbSets : Nat := 1024
/-- Ways of a cluster TLB set (R229). -/
def clusTlbWays : Nat := 4
/-- Scratchpad mark-table entries of a core (R142). -/
def spMarks : Nat := 64
/-- Open command queues of the device (R267). -/
def queues : Nat := 1024
/-- Core number of the service core of cluster 0; that of cluster k follows it by k (the model's numbering). -/
def cscBase : Nat := 2048

/-- Free value: what a place the spec leaves open holds. The argument is the state's counter of such values. -/
opaque freeValue : Nat → BitVec 64
/-- Free value: a byte string the spec does not fix (SPDM answers, digests and signatures: R277), by request and counter. -/
opaque freeBytes : Nat → Nat → List (BitVec 8)
/-- Free value: a measurement over some words (R277: SHA-384 of contents whose encoding the spec does not give). -/
opaque digest : Nat → List (BitVec 64) → List (BitVec 8)

/-- What no state of the device decides at a power-on (R275, R277, R278): the least security version that the fuses hold from then on,
whether the image's signature verifies, the step of the boot that fails (0 for none), which copy of the stacks' records is lost
(1 or 2, else none), and how the ports train in step 5: `far` gives second-tier ports with rate, width and capacity (R280), `links` Ubham
ports with the major and minor version of their peer (R279). -/
structure Boot where
  minver : Nat
  verified : Bool
  fail : Nat
  lost : Nat
  far : List (Nat × Nat × Nat × Nat) := []
  links : List (Nat × Nat × Nat) := []
  deriving DecidableEq, Repr

end Sys2Proof.Config
end

