-- ==== Sys2Proof/Syntax.lean ====
section
/-! DEFINITION. The instructions and events of the QDR-1024: one constructor per row of spec/opcode_table.json,
instruction words first, then the events. Word rows carry the fields of their encoding (R64, R66-R70) under the table's letters; event
rows carry what names the place the event happens at. The eight SWR rows of special selectors carry the register. -/

namespace Sys2Proof

/-- One row of the opcode table. -/
inductive Instr where
  /-- R293. Branch when the predicate is 1. -/
  | br (p : BitVec 3) (o : BitVec 20)
  /-- R293. Branch when the predicate is 0. -/
  | brn (p : BitVec 3) (o : BitVec 20)
  /-- R315. Jump by a word offset and link the sequential successor. -/
  | jal (d : BitVec 6) (i : BitVec 18)
  /-- R316. Jump to a register plus offset and link. -/
  | jalr (d : BitVec 6) (a : BitVec 6) (i : BitVec 12)
  /-- R307. End the task, dispatching a deque record of the population or freeing the slot. -/
  | exit
  /-- R227. Raise software trap 0x09 with the code in %TVAL. -/
  | trap (i : BitVec 18)
  /-- R227. Return from a handler to %TPC and clear IN_TRAP. -/
  | tret
  /-- R305. Halt for an attached debugger, or take trap 0x0A. -/
  | dbrk (i : BitVec 18)
  /-- R317. Load a sign-extended byte. -/
  | ldb (t : BitVec 6) (a : BitVec 6) (i : BitVec 12)
  /-- R317. Load a zero-extended byte. -/
  | ldbu (t : BitVec 6) (a : BitVec 6) (i : BitVec 12)
  /-- R317. Load a sign-extended halfword. -/
  | ldh (t : BitVec 6) (a : BitVec 6) (i : BitVec 12)
  /-- R317. Load a zero-extended halfword. -/
  | ldhu (t : BitVec 6) (a : BitVec 6) (i : BitVec 12)
  /-- R317. Load a sign-extended word. -/
  | ldw (t : BitVec 6) (a : BitVec 6) (i : BitVec 12)
  /-- R317. Load a zero-extended word. -/
  | ldwu (t : BitVec 6) (a : BitVec 6) (i : BitVec 12)
  /-- R317. Load a doubleword. -/
  | ldd (t : BitVec 6) (a : BitVec 6) (i : BitVec 12)
  /-- R318. Load with order and scope, at home for DEV or SYS. -/
  | lda (d : BitVec 6) (a : BitVec 6) (e : BitVec 1) (z : BitVec 2) (s : BitVec 2) (o : BitVec 1)
  /-- R334. Store a byte through the PQ. -/
  | stb (t : BitVec 6) (a : BitVec 6) (i : BitVec 12)
  /-- R334. Store a halfword through the PQ. -/
  | sth (t : BitVec 6) (a : BitVec 6) (i : BitVec 12)
  /-- R334. Store a word through the PQ. -/
  | stw (t : BitVec 6) (a : BitVec 6) (i : BitVec 12)
  /-- R334. Store a doubleword through the PQ. -/
  | std (t : BitVec 6) (a : BitVec 6) (i : BitVec 12)
  /-- R335. Store with order and scope, a DEV or SYS release carrying a mark. -/
  | str (d : BitVec 6) (a : BitVec 6) (z : BitVec 2) (s : BitVec 2) (o : BitVec 1)
  /-- R290. Atomic add at home returning the old value. -/
  | amoadd (d : BitVec 6) (a : BitVec 6) (b : BitVec 6) (s : BitVec 2) (o : BitVec 2) (w : BitVec 1)
  /-- R290. Atomic AND at home. -/
  | amoand (d : BitVec 6) (a : BitVec 6) (b : BitVec 6) (s : BitVec 2) (o : BitVec 2) (w : BitVec 1)
  /-- R290. Atomic OR at home. -/
  | amoor (d : BitVec 6) (a : BitVec 6) (b : BitVec 6) (s : BitVec 2) (o : BitVec 2) (w : BitVec 1)
  /-- R290. Atomic XOR at home. -/
  | amoxor (d : BitVec 6) (a : BitVec 6) (b : BitVec 6) (s : BitVec 2) (o : BitVec 2) (w : BitVec 1)
  /-- R290. Atomic signed minimum at home. -/
  | amomin (d : BitVec 6) (a : BitVec 6) (b : BitVec 6) (s : BitVec 2) (o : BitVec 2) (w : BitVec 1)
  /-- R290. Atomic signed maximum at home. -/
  | amomax (d : BitVec 6) (a : BitVec 6) (b : BitVec 6) (s : BitVec 2) (o : BitVec 2) (w : BitVec 1)
  /-- R290. Atomic unsigned minimum at home. -/
  | amominu (d : BitVec 6) (a : BitVec 6) (b : BitVec 6) (s : BitVec 2) (o : BitVec 2) (w : BitVec 1)
  /-- R290. Atomic unsigned maximum at home. -/
  | amomaxu (d : BitVec 6) (a : BitVec 6) (b : BitVec 6) (s : BitVec 2) (o : BitVec 2) (w : BitVec 1)
  /-- R290. Atomic swap at home. -/
  | amoswap (d : BitVec 6) (a : BitVec 6) (b : BitVec 6) (s : BitVec 2) (o : BitVec 2) (w : BitVec 1)
  /-- R291. Atomic FP32 add at home with absent handling. -/
  | amofadd (d : BitVec 6) (a : BitVec 6) (b : BitVec 6) (s : BitVec 2) (o : BitVec 2)
  /-- R294. Compare and swap at home. -/
  | cas (d : BitVec 6) (a : BitVec 6) (b : BitVec 6) (s : BitVec 2) (o : BitVec 2) (w : BitVec 1)
  /-- R167. Release, acquire or full fence at a scope. -/
  | fence (s : BitVec 2) (o : BitVec 2)
  /-- R168. Park until a home word differs from the comparand. -/
  | waitw (d : BitVec 6) (a : BitVec 6) (b : BitVec 6) (s : BitVec 2) (o : BitVec 1) (w : BitVec 1)
  /-- R169. Firmware wait on a word with a timeout predicate. -/
  | waitwt (p : BitVec 3) (a : BitVec 6) (b : BitVec 6) (f : BitVec 6)
  /-- R330. Take a unit of a core semaphore or park. -/
  | semp (s : BitVec 4)
  /-- R330. Wake a semaphore waiter or add a unit. -/
  | semv (s : BitVec 4)
  /-- R127. Send a token and receive a claimed index. -/
  | cntInc (d : BitVec 6) (a : BitVec 6)
  /-- R127. Send an antitoken and receive the freed index. -/
  | cntDec (d : BitVec 6) (a : BitVec 6)
  /-- R127. Give up a held index with an antitoken, with the refill duty. -/
  | cntCan (d : BitVec 6) (a : BitVec 6) (b : BitVec 6)
  /-- R127. Send a token whose exit forwards a spread record to a slice queue. -/
  | cntSprd (d : BitVec 6) (a : BitVec 6) (b : BitVec 6)
  /-- R130. Send a barrier token and wait for the phase's release. -/
  | cntBar (a : BitVec 6)
  /-- R127. Read the sum of a counter's exit counts by a snapshot wave. -/
  | cntRdq (d : BitVec 6) (a : BitVec 6)
  /-- R122. Firmware write of a counter-table entry, marking the CID reconfiguring. -/
  | cntCfg (a : BitVec 6) (b : BitVec 6)
  /-- R186. Enqueue or fold a record into a slice queue. -/
  | qEnq (d : BitVec 6) (a : BitVec 6) (b : BitVec 6)
  /-- R189. Remove the oldest record and acquire its marks. -/
  | qDeq (d : BitVec 6) (a : BitVec 6)
  /-- R190. Wait until a queue holds a record. -/
  | qWait (a : BitVec 6)
  /-- R181. Make a queue in a slice from a descriptor. -/
  | qMake (d : BitVec 6) (a : BitVec 6) (b : BitVec 6)
  /-- R182. Remove a queue, its records and its waiters. -/
  | qFree (a : BitVec 6)
  /-- R183. Read a snapshot of a queue's state. -/
  | qStat (d : BitVec 6) (a : BitVec 6)
  /-- R45. Push a continuation record and run a child in the same slot. -/
  | spawn (a : BitVec 6) (b : BitVec 6)
  /-- R47. Wait for the frame's children, suspending the continuation if any remain. -/
  | sync
  /-- R46. End a child task, decrement the parent's JOIN and dispatch or pop or steal. -/
  | tend
  /-- R292. Send an active message to one logical core. -/
  | asend (s : BitVec 6) (a : BitVec 6) (b : BitVec 6) (n : BitVec 4)
  /-- R292. Send an active message to each member of a group. -/
  | asendG (s : BitVec 6) (a : BitVec 6) (b : BitVec 6) (n : BitVec 4)
  /-- R199. Take the oldest inbox message of the slot, waiting if none. -/
  | ibx (d : BitVec 6)
  /-- R199. Take the oldest inbox message of the slot or return 0. -/
  | ibxTry (d : BitVec 6)
  /-- R53. Set %LIVE from a register. -/
  | setlive (a : BitVec 6)
  /-- R203. Submit a plain copy job. -/
  | cpy (d : BitVec 6) (a : BitVec 6)
  /-- R203. Submit a decode-convert copy job. -/
  | cpyCvt (d : BitVec 6) (a : BitVec 6)
  /-- R203. Submit a gather copy job. -/
  | cpyGather (d : BitVec 6) (a : BitVec 6)
  /-- R203. Submit a peer copy job after SYS publication. -/
  | cpyPeer (d : BitVec 6) (a : BitVec 6)
  /-- R203. Submit a fill job. -/
  | cpyFill (d : BitVec 6) (a : BitVec 6)
  /-- R208. Submit a matrix multiply into an accumulator tile. -/
  | mxMul (d : BitVec 6) (a : BitVec 6)
  /-- R210. Submit one torus rotation step. -/
  | mxRot (d : BitVec 6) (a : BitVec 6)
  /-- R211. Submit a drain of a tile to memory. -/
  | mxDrain (d : BitVec 6) (a : BitVec 6)
  /-- R212. Submit a clear of a tile. -/
  | mxZero (d : BitVec 6) (a : BitVec 6)
  /-- R212. Submit a load of a tile from memory. -/
  | mxLoad (d : BitVec 6) (a : BitVec 6)
  /-- R200. Report the status of a job id. -/
  | jpoll (d : BitVec 6) (a : BitVec 6)
  /-- R89. Load a decode-table image into a table slot. -/
  | dtld (a : BitVec 6) (s : BitVec 2)
  /-- R215. Request a claim on the vector pool. -/
  | vclaim (d : BitVec 6) (a : BitVec 6) (b : BitVec 6)
  /-- R217. End the slot's vector claim after its queue empties. -/
  | vrels
  /-- R216. Shrink the claim to a fair share when requests wait. -/
  | vreneg (d : BitVec 6)
  /-- R219. Wait until every earlier vector operation of the slot has completed. -/
  | vfence
  /-- R354. Strided vector load. -/
  | vld (m : BitVec 1) (t : BitVec 5) (a : BitVec 6) (b : BitVec 6) (z : BitVec 3)
  /-- R354. Strided vector store. -/
  | vst (m : BitVec 1) (t : BitVec 5) (a : BitVec 6) (b : BitVec 6) (z : BitVec 3)
  /-- R354. Vector gather load. -/
  | vgth (m : BitVec 1) (t : BitVec 5) (a : BitVec 6) (v : BitVec 5) (z : BitVec 3)
  /-- R354. Vector scatter store. -/
  | vsct (m : BitVec 1) (t : BitVec 5) (a : BitVec 6) (v : BitVec 5) (z : BitVec 3)
  /-- R332. Read a special register. -/
  | srd (d : BitVec 6) (s : BitVec 12)
  /-- R332. Write a special register that has no row of its own. -/
  | swr (a : BitVec 6) (s : BitVec 12)
  /-- R327. Wait until an inbox message of the slot is present. -/
  | park
  /-- R231. Firmware write of an entry into the core TLB. -/
  | tlbwCore (a : BitVec 6) (b : BitVec 6)
  /-- R231. Firmware write of an entry into the cluster TLB. -/
  | tlbwClus (a : BitVec 6) (b : BitVec 6)
  /-- R237. Invalidate a page's entries of a VF across the partition. -/
  | tlbiPage (a : BitVec 6) (b : BitVec 6)
  /-- R237. Invalidate every non-global entry of a VF across the partition. -/
  | tlbiVf (b : BitVec 6)
  /-- R237. Invalidate every entry of the partition. -/
  | tlbiAll
  /-- R235. Reply retry to a page fault, releasing the slot to re-execute. -/
  | frepRetry (a : BitVec 6)
  /-- R235. Reply kill to a page fault, giving the slot trap 0x05. -/
  | frepKill (a : BitVec 6)
  /-- R284. Integer add, wrapping. -/
  | add (d : BitVec 6) (a : BitVec 6) (b : BitVec 6) (w : BitVec 1)
  /-- R323. Integer subtract, wrapping. -/
  | sub (d : BitVec 6) (a : BitVec 6) (b : BitVec 6) (w : BitVec 1)
  /-- R284. Bitwise AND. -/
  | and (d : BitVec 6) (a : BitVec 6) (b : BitVec 6) (w : BitVec 1)
  /-- R323. Bitwise OR. -/
  | or (d : BitVec 6) (a : BitVec 6) (b : BitVec 6) (w : BitVec 1)
  /-- R284. Bitwise XOR. -/
  | xor (d : BitVec 6) (a : BitVec 6) (b : BitVec 6) (w : BitVec 1)
  /-- R284. Bitwise AND with the complement of the second source. -/
  | andn (d : BitVec 6) (a : BitVec 6) (b : BitVec 6) (w : BitVec 1)
  /-- R323. Logical shift left by a register amount. -/
  | sll (d : BitVec 6) (a : BitVec 6) (b : BitVec 6) (w : BitVec 1)
  /-- R323. Logical shift right by a register amount. -/
  | srl (d : BitVec 6) (a : BitVec 6) (b : BitVec 6) (w : BitVec 1)
  /-- R323. Arithmetic shift right by a register amount. -/
  | sra (d : BitVec 6) (a : BitVec 6) (b : BitVec 6) (w : BitVec 1)
  /-- R301. Signed minimum. -/
  | min (d : BitVec 6) (a : BitVec 6) (b : BitVec 6) (w : BitVec 1)
  /-- R301. Signed maximum. -/
  | max (d : BitVec 6) (a : BitVec 6) (b : BitVec 6) (w : BitVec 1)
  /-- R301. Unsigned minimum. -/
  | minu (d : BitVec 6) (a : BitVec 6) (b : BitVec 6) (w : BitVec 1)
  /-- R301. Unsigned maximum. -/
  | maxu (d : BitVec 6) (a : BitVec 6) (b : BitVec 6) (w : BitVec 1)
  /-- R301. Low half of a product. -/
  | mul (d : BitVec 6) (a : BitVec 6) (b : BitVec 6) (w : BitVec 1)
  /-- R301. High half of a signed product. -/
  | mulh (d : BitVec 6) (a : BitVec 6) (b : BitVec 6) (w : BitVec 1)
  /-- R301. High half of an unsigned product. -/
  | mulhu (d : BitVec 6) (a : BitVec 6) (b : BitVec 6) (w : BitVec 1)
  /-- R302. Signed division, parking until the quotient returns. -/
  | div (d : BitVec 6) (a : BitVec 6) (b : BitVec 6) (w : BitVec 1)
  /-- R302. Unsigned division, parking until the quotient returns. -/
  | divu (d : BitVec 6) (a : BitVec 6) (b : BitVec 6) (w : BitVec 1)
  /-- R323. Signed remainder, parking. -/
  | rem (d : BitVec 6) (a : BitVec 6) (b : BitVec 6) (w : BitVec 1)
  /-- R323. Unsigned remainder, parking. -/
  | remu (d : BitVec 6) (a : BitVec 6) (b : BitVec 6) (w : BitVec 1)
  /-- R284. Count leading zeros. -/
  | clz (d : BitVec 6) (a : BitVec 6) (w : BitVec 1)
  /-- R284. Count trailing zeros. -/
  | ctz (d : BitVec 6) (a : BitVec 6) (w : BitVec 1)
  /-- R323. Count set bits. -/
  | popc (d : BitVec 6) (a : BitVec 6) (w : BitVec 1)
  /-- R284. Reverse byte order. -/
  | bswap (d : BitVec 6) (a : BitVec 6) (w : BitVec 1)
  /-- R285. Add a signed immediate. -/
  | addi (d : BitVec 6) (a : BitVec 6) (i : BitVec 12)
  /-- R285. AND with a signed immediate. -/
  | andi (d : BitVec 6) (a : BitVec 6) (i : BitVec 12)
  /-- R285. OR with a signed immediate. -/
  | ori (d : BitVec 6) (a : BitVec 6) (i : BitVec 12)
  /-- R285. XOR with a signed immediate. -/
  | xori (d : BitVec 6) (a : BitVec 6) (i : BitVec 12)
  /-- R324. Logical shift left by an immediate. -/
  | slli (d : BitVec 6) (a : BitVec 6) (w : BitVec 1) (s : BitVec 6)
  /-- R324. Logical shift right by an immediate. -/
  | srli (d : BitVec 6) (a : BitVec 6) (w : BitVec 1) (s : BitVec 6)
  /-- R324. Arithmetic shift right by an immediate. -/
  | srai (d : BitVec 6) (a : BitVec 6) (w : BitVec 1) (s : BitVec 6)
  /-- R319. Load an upper immediate. -/
  | lui (d : BitVec 6) (i : BitVec 18)
  /-- R289. Form an address relative to the bundle. -/
  | addpc (d : BitVec 6) (i : BitVec 18)
  /-- R295. Compare registers into a predicate. -/
  | cmp (p : BitVec 3) (c : BitVec 3) (a : BitVec 6) (b : BitVec 6) (w : BitVec 1)
  /-- R296. Compare with a signed immediate into a predicate. -/
  | cmpi (p : BitVec 3) (c : BitVec 3) (a : BitVec 6) (i : BitVec 12)
  /-- R325. Predicate AND with optional negation. -/
  | pand (d : BitVec 3) (a : BitVec 3) (b : BitVec 3) (x : BitVec 1) (y : BitVec 1)
  /-- R325. Predicate OR with optional negation. -/
  | por (d : BitVec 3) (a : BitVec 3) (b : BitVec 3) (x : BitVec 1) (y : BitVec 1)
  /-- R325. Predicate XOR with optional negation. -/
  | pxor (d : BitVec 3) (a : BitVec 3) (b : BitVec 3) (x : BitVec 1) (y : BitVec 1)
  /-- R325. Predicate AND-NOT with optional negation. -/
  | pandn (d : BitVec 3) (a : BitVec 3) (b : BitVec 3) (x : BitVec 1) (y : BitVec 1)
  /-- R329. Select a register under a predicate. -/
  | sel (d : BitVec 6) (a : BitVec 6) (b : BitVec 6) (p : BitVec 3)
  /-- R320. Move the predicates into a register. -/
  | movpG (d : BitVec 6)
  /-- R320. Set p1-p7 from a register. -/
  | movpP (a : BitVec 6)
  /-- R308. Floating add. -/
  | fadd (d : BitVec 6) (a : BitVec 6) (b : BitVec 6) (x : BitVec 1)
  /-- R308. Floating subtract. -/
  | fsub (d : BitVec 6) (a : BitVec 6) (b : BitVec 6) (x : BitVec 1)
  /-- R308. Floating multiply. -/
  | fmul (d : BitVec 6) (a : BitVec 6) (b : BitVec 6) (x : BitVec 1)
  /-- R313. Floating minimum. -/
  | fmin (d : BitVec 6) (a : BitVec 6) (b : BitVec 6) (x : BitVec 1)
  /-- R313. Floating maximum. -/
  | fmax (d : BitVec 6) (a : BitVec 6) (b : BitVec 6) (x : BitVec 1)
  /-- R314. Sign injection from the second operand. -/
  | fsgnj (d : BitVec 6) (a : BitVec 6) (b : BitVec 6) (x : BitVec 1)
  /-- R314. Negated sign injection. -/
  | fsgnjn (d : BitVec 6) (a : BitVec 6) (b : BitVec 6) (x : BitVec 1)
  /-- R314. XOR sign injection. -/
  | fsgnjx (d : BitVec 6) (a : BitVec 6) (b : BitVec 6) (x : BitVec 1)
  /-- R309. Classify a floating value into one bit. -/
  | fclass (d : BitVec 6) (a : BitVec 6) (x : BitVec 1)
  /-- R312. FP32 fused multiply-add. -/
  | fma (d : BitVec 6) (a : BitVec 6) (b : BitVec 6) (c : BitVec 6)
  /-- R312. FP64 fused multiply-add. -/
  | fmaD (d : BitVec 6) (a : BitVec 6) (b : BitVec 6) (c : BitVec 6)
  /-- R310. Floating compare into a predicate. -/
  | fcmp (p : BitVec 3) (c : BitVec 2) (a : BitVec 6) (b : BitVec 6) (x : BitVec 1)
  /-- R311. Convert signed 64-bit integer to FP32. -/
  | fcvtF32I64 (d : BitVec 6) (a : BitVec 6)
  /-- R311. Convert unsigned 64-bit integer to FP32. -/
  | fcvtF32I64u (d : BitVec 6) (a : BitVec 6)
  /-- R311. Convert FP32 to signed 64-bit integer. -/
  | fcvtI64F32 (d : BitVec 6) (a : BitVec 6)
  /-- R311. Convert FP32 to unsigned 64-bit integer. -/
  | fcvtI64uF32 (d : BitVec 6) (a : BitVec 6)
  /-- R311. Convert signed 64-bit integer to FP64. -/
  | fcvtF64I64 (d : BitVec 6) (a : BitVec 6)
  /-- R311. Convert FP64 to signed 64-bit integer. -/
  | fcvtI64F64 (d : BitVec 6) (a : BitVec 6)
  /-- R311. Convert FP64 to FP32. -/
  | fcvtF32F64 (d : BitVec 6) (a : BitVec 6)
  /-- R311. Convert FP32 to FP64. -/
  | fcvtF64F32 (d : BitVec 6) (a : BitVec 6)
  /-- R288. Set a predicate when a value is the format's absent code. -/
  | abtAbs (p : BitVec 3) (a : BitVec 6) (f : BitVec 4)
  /-- R288. Set a predicate when a value is present. -/
  | abtPrs (p : BitVec 3) (a : BitVec 6) (f : BitVec 4)
  /-- R287. Make a value absent under a predicate. -/
  | abm (d : BitVec 6) (a : BitVec 6) (p : BitVec 3) (f : BitVec 4)
  /-- R102. Decode a code to FP32. -/
  | cvtd (d : BitVec 6) (a : BitVec 6) (f : BitVec 4)
  /-- R102. Encode FP32 to a code under a rounding mode. -/
  | cvte (d : BitVec 6) (a : BitVec 6) (r : BitVec 2) (f : BitVec 4)
  /-- R328. Draw the next output of the slot's generator. -/
  | rand (d : BitVec 6)
  /-- R220. Reciprocal on the quad SFU. -/
  | sfuRcp (d : BitVec 6) (a : BitVec 6)
  /-- R220. Square root on the quad SFU. -/
  | sfuSqrt (d : BitVec 6) (a : BitVec 6)
  /-- R220. Reciprocal square root on the quad SFU. -/
  | sfuRsqrt (d : BitVec 6) (a : BitVec 6)
  /-- R220. Power of two on the quad SFU. -/
  | sfuExp2 (d : BitVec 6) (a : BitVec 6)
  /-- R220. Base-2 logarithm on the quad SFU. -/
  | sfuLog2 (d : BitVec 6) (a : BitVec 6)
  /-- R220. sin(pi x) on the quad SFU. -/
  | sfuSinpi (d : BitVec 6) (a : BitVec 6)
  /-- R220. cos(pi x) on the quad SFU. -/
  | sfuCospi (d : BitVec 6) (a : BitVec 6)
  /-- R346. Element-wise add. -/
  | vadd (m : BitVec 1) (d : BitVec 5) (a : BitVec 5) (b : BitVec 5) (t : BitVec 3)
  /-- R346. Element-wise subtract. -/
  | vsub (m : BitVec 1) (d : BitVec 5) (a : BitVec 5) (b : BitVec 5) (t : BitVec 3)
  /-- R346. Element-wise multiply. -/
  | vmul (m : BitVec 1) (d : BitVec 5) (a : BitVec 5) (b : BitVec 5) (t : BitVec 3)
  /-- R346. Element-wise minimum. -/
  | vmin (m : BitVec 1) (d : BitVec 5) (a : BitVec 5) (b : BitVec 5) (t : BitVec 3)
  /-- R346. Element-wise maximum. -/
  | vmax (m : BitVec 1) (d : BitVec 5) (a : BitVec 5) (b : BitVec 5) (t : BitVec 3)
  /-- R347. Bitwise AND on lanes. -/
  | vand (m : BitVec 1) (d : BitVec 5) (a : BitVec 5) (b : BitVec 5) (t : BitVec 3)
  /-- R347. Bitwise OR on lanes. -/
  | vor (m : BitVec 1) (d : BitVec 5) (a : BitVec 5) (b : BitVec 5) (t : BitVec 3)
  /-- R347. Bitwise XOR on lanes. -/
  | vxor (m : BitVec 1) (d : BitVec 5) (a : BitVec 5) (b : BitVec 5) (t : BitVec 3)
  /-- R360. Shift elements left. -/
  | vshl (m : BitVec 1) (d : BitVec 5) (a : BitVec 5) (b : BitVec 5) (t : BitVec 3)
  /-- R360. Shift elements right logically. -/
  | vshr (m : BitVec 1) (d : BitVec 5) (a : BitVec 5) (b : BitVec 5) (t : BitVec 3)
  /-- R360. Shift elements right arithmetically. -/
  | vsra (m : BitVec 1) (d : BitVec 5) (a : BitVec 5) (b : BitVec 5) (t : BitVec 3)
  /-- R353. Element-wise fused multiply-add. -/
  | vfma (m : BitVec 1) (d : BitVec 5) (a : BitVec 5) (b : BitVec 5) (t : BitVec 3) (c : BitVec 5)
  /-- R350. Compare lanes into VM. -/
  | vcmp (m : BitVec 1) (a : BitVec 5) (b : BitVec 5) (t : BitVec 3) (c : BitVec 2)
  /-- R358. Select lanes by VM. -/
  | vsel (d : BitVec 5) (a : BitVec 5) (b : BitVec 5) (t : BitVec 3)
  /-- R351. Decode lane codes to a floating lane type. -/
  | vcvtDec (m : BitVec 1) (d : BitVec 5) (a : BitVec 5) (t : BitVec 3) (f : BitVec 4)
  /-- R351. Encode floating lanes into codes. -/
  | vcvtEnc (m : BitVec 1) (d : BitVec 5) (a : BitVec 5) (t : BitVec 3) (f : BitVec 4)
  /-- R357. Sum present terms into a scalar with their count. -/
  | vredAdd (m : BitVec 1) (d : BitVec 6) (a : BitVec 5) (t : BitVec 3)
  /-- R357. Minimum of present terms with their count. -/
  | vredMin (m : BitVec 1) (d : BitVec 6) (a : BitVec 5) (t : BitVec 3)
  /-- R357. Maximum of present terms with their count. -/
  | vredMax (m : BitVec 1) (d : BitVec 6) (a : BitVec 5) (t : BitVec 3)
  /-- R348. Broadcast a scalar to the lanes. -/
  | vbc (m : BitVec 1) (d : BitVec 5) (a : BitVec 6) (t : BitVec 3)
  /-- R352. Read one lane into a general register. -/
  | vext (d : BitVec 6) (a : BitVec 5) (b : BitVec 6) (t : BitVec 3)
  /-- R356. Permute lanes or elements. -/
  | vperm (m : BitVec 1) (d : BitVec 5) (a : BitVec 5) (b : BitVec 5) (t : BitVec 3)
  /-- R359. Reciprocal on lanes via the SFU. -/
  | vsfuRcp (m : BitVec 1) (d : BitVec 5) (a : BitVec 5) (t : BitVec 3)
  /-- R359. Square root on lanes via the SFU. -/
  | vsfuSqrt (m : BitVec 1) (d : BitVec 5) (a : BitVec 5) (t : BitVec 3)
  /-- R359. Reciprocal square root on lanes via the SFU. -/
  | vsfuRsqrt (m : BitVec 1) (d : BitVec 5) (a : BitVec 5) (t : BitVec 3)
  /-- R359. Power of two on lanes via the SFU. -/
  | vsfuExp2 (m : BitVec 1) (d : BitVec 5) (a : BitVec 5) (t : BitVec 3)
  /-- R359. Base-2 logarithm on lanes via the SFU. -/
  | vsfuLog2 (m : BitVec 1) (d : BitVec 5) (a : BitVec 5) (t : BitVec 3)
  /-- R359. sin(pi x) on lanes via the SFU. -/
  | vsfuSinpi (m : BitVec 1) (d : BitVec 5) (a : BitVec 5) (t : BitVec 3)
  /-- R359. cos(pi x) on lanes via the SFU. -/
  | vsfuCospi (m : BitVec 1) (d : BitVec 5) (a : BitVec 5) (t : BitVec 3)
  /-- R345. Read a tile row segment into a vector register. -/
  | vaccFrom (m : BitVec 1) (d : BitVec 5) (a : BitVec 6)
  /-- R345. Write a vector register into a tile row segment. -/
  | vaccTo (m : BitVec 1) (d : BitVec 5) (a : BitVec 6)
  /-- R344. Test lanes for absent into VM. -/
  | vabt (m : BitVec 1) (a : BitVec 5) (f : BitVec 4)
  /-- R343. Make lanes absent where VM is set. -/
  | vabm (d : BitVec 5) (a : BitVec 5) (f : BitVec 4)
  /-- R355. Write each lane's number into it. -/
  | viota (m : BitVec 1) (d : BitVec 5) (t : BitVec 1)
  /-- R30. An SWR to %TCMP arms or disarms the slot's timer. -/
  | tcmpWrite (a : BitVec 6)
  /-- R105. An SWR to %FMTD writes it, or takes trap 0x11 for an illegal value. -/
  | fmtdWrite (a : BitVec 6)
  /-- R43. An SWR to %DQBASE sets the deque spill ring, or takes trap 0x13 while the ring holds records or it would overflow SP. -/
  | dqbaseWrite (a : BitVec 6)
  /-- R100. An SWR of %RSEED0-3 parks until earlier SR VCVTs have drawn, then writes the generator state. -/
  | rseedWrite (n : BitVec 2) (a : BitVec 6)
  /-- R250. An SWR to %PMCn writes the count, with that cycle's events added. -/
  | pmcWrite (n : BitVec 3) (a : BitVec 6)
  /-- R250. An SWR to %PMSELn selects an event and sets or clears UNSUP with the counter at 0. -/
  | pmselWrite (n : BitVec 3) (a : BitVec 6)
  /-- R262. An SWR to %PMCTL enables or disables counters from its own cycle. -/
  | pmctlWrite (a : BitVec 6)
  /-- R253. An SWR to %PMOVF clears the overflow bits written as 1. -/
  | pmovfWrite (a : BitVec 6)
  /-- R31. Each cycle the core picks the eligible READY slot whose last issue is oldest and issues its bundle, or issues nothing. -/
  | issueCycle (core : Nat)
  /-- R242. When the spill and fill end, the bank is retagged to the toucher and the toucher is released. -/
  | bankExchangeDone (kind unit idx : Nat)
  /-- R30. When %CYC reaches a non-zero %TCMP, a timer trap becomes pending for the slot and %TCMP becomes 0. -/
  | timerExpiry (core slot : Nat)
  /-- R33. The reply or wake for a parked slot arrives, its result is written and the slot becomes READY. -/
  | parkReply (core slot : Nat) (aWord : Bool)
  /-- R35. A launch or message packet arriving at a core claims its lowest FREE slot and loads it, or waits in the activation buffer. -/
  | activationPacket (core idx : Nat)
  /-- R36. When a slot becomes FREE, the oldest packet of the activation buffer leaves it and starts in that slot. -/
  | activationBufferDispatch (core : Nat)
  /-- R292. A parked ASEND injects its packet to the next unserved target once the activation channel admits it. -/
  | asendInject (core slot : Nat)
  /-- R48. A slot in IDLE-STEAL sends a steal request to the next victim of its search order. -/
  | stealRequest (core slot : Nat)
  /-- R48. A victim answers a steal request with its top record after draining its PQ, or with FAIL. -/
  | stealAnswer (core slot : Nat)
  /-- R48. A thief receiving a record self-invalidates its L and dispatches it with STOLEN set; a FAIL moves it to the next victim. -/
  | stealReply (core slot : Nat)
  /-- R48. After a failed full pass, the 1,024-cycle wait ends and a new pass starts at distance 1. -/
  | stealBackoffExpiry (core slot : Nat)
  /-- R52. A migration packet reaching the owner is accepted into a FREE slot, which re-executes the bundle, or is refused. -/
  | migrationArrival (core slot : Nat)
  /-- R52. The owner's acknowledgement makes the origin slot FREE. -/
  | migrationAck (core slot : Nat)
  /-- R52. On a refusal the origin slot re-executes the bundle with its access as a remote fetch. -/
  | migrationRefusal (core slot : Nat)
  /-- R56. When nothing of a population has been in flight for 65,536 cycles and all its slots are free or idle, it is judged complete. -/
  | populationComplete (pop : Nat)
  /-- R56. A population parked on a wait without movement for 65,536 cycles is judged hung and HANGTRAP slots take trap 0x10. -/
  | populationHung (pop : Nat)
  /-- R174. Once its jobs, publications, remote accesses and Ubham sends are done, the Ochre pair reports a complete population to the host. -/
  | completionReport (pop : Nat)
  /-- R157. A store parked on a full PQ enters it once an entry leaves. -/
  | storePqEntry (core slot : Nat)
  /-- R159. A PQ entry reaches its home, writes the word, sets or clears its marks and clears O when no entry covers the word. -/
  | pqDrain (core seq : Nat)
  /-- R165. A force request reaching a core drains its PQ entries up to the given seq and is acknowledged. -/
  | forceRequest (core slot idx : Nat)
  /-- R165. When all forces of an acquire are acknowledged, the core's L is self-invalidated and the acquire completes. -/
  | forceAck (core slot idx : Nat)
  /-- R166. A home writes its line to the memory behind it, publishing the stores at SYS. -/
  | sysPublish (core seq : Nat)
  /-- R162. A sector fill returns and writes only the words that are still eligible, serving waiting loads. -/
  | l1Fill (core fid : Nat)
  /-- R152. A read, write or home operation reaching a slice hits, allocates a miss entry, joins one, bypasses or waits. -/
  | sliceRequest (rid : Nat)
  /-- R153. A line fill returns and writes only unmasked bytes, serving the reads that waited for it. -/
  | l2FillReturn (slice line sector : Nat)
  /-- R152. A freed general miss entry lets a store, AMO or CAS waiting at the slice input proceed. -/
  | missEntryFree (slice line : Nat)
  /-- R152. Memory acknowledges a write-back or flush, freeing its reserved entry and filter slot and releasing waiting reads. -/
  | writebackAck (slice line : Nat)
  /-- R117. A token leaves a balancer on the output its toggle names and flips the toggle. -/
  | balancerToken (tok : Nat)
  /-- R117. An antitoken flips a balancer's toggle and leaves on the output the new toggle names. -/
  | balancerAntitoken (tok : Nat)
  /-- R124. A token at an exit cell takes its value from the output count, increments it and returns the result. -/
  | exitToken (tok : Nat)
  /-- R124. An antitoken at an exit cell decrements the output count and returns the freed value with u. -/
  | exitAntitoken (tok : Nat)
  /-- R127. A CNT.RDQ snapshot wave reads each exit count once and returns the sum. -/
  | snapshot (tok out : Nat)
  /-- R130. After the reset the release is broadcast and every slot parked on CNT.BAR of the CID continues. -/
  | barrierRelease (cid core : Nat)
  /-- R127. A spread record forwarded from an exit cell is enqueued in its target slice queue as a FIFO record, or dropped. -/
  | spreadRecord (tok : Nat)
  /-- R122. Once earlier operations on the CID have delivered, CNT.CFG clears its toggles and counts and writes the entry to every copy. -/
  | cntCfgApply (core slot : Nat)
  /-- R181. A Q.MAKE's new ways are written back, unpinned and invalidated, the queue is created and its QID returned. -/
  | queueReservationDone (core slot : Nat)
  /-- R196. A parked CPY or MX submission enters the cluster job queue when the queue and its core's budget have room. -/
  | jobAdmit (cluster : Nat)
  /-- R196. The job at the head of the queue starts when its engine can accept it. -/
  | jobStart (cluster : Nat)
  /-- R196. While a job runs, the MXE fetches the next MX.MUL's operands into a free operand set. -/
  | mxePrefetch (cluster : Nat)
  /-- R205. The copy unit reads a piece of a row and writes it to the destination. -/
  | cpxPiece (cluster job : Nat)
  /-- R209. The MXE adds one k-block of products into each output's value and count. -/
  | mxeKblock (cluster : Nat)
  /-- R210. A rotated block arriving on an engine link is accepted into the free operand set or waits. -/
  | rotBlockArrival (cluster side : Nat)
  /-- R198. After its writes are placed, a job's four-word completion message enters the submitter's inbox. -/
  | jobComplete (cluster job : Nat)
  /-- R215. When groups are free, the oldest waiting VCLAIM is granted up to its request. -/
  | vclaimGrant (cluster : Nat)
  /-- R218. The head operation of a slot's vector queue is performed by its claim's groups. -/
  | vectorOpPerform (core slot : Nat)
  /-- R220. A quad's SFU starts serving the oldest queued request. -/
  | sfuService (cluster quad : Nat)
  /-- R220. The SFU result returns 24 cycles after its last service cycle and is written to the slot. -/
  | sfuResult (core slot : Nat)
  /-- R90. Once all 256 loads return, the image is checked and replaces the table slot in one step, or trap 0x11 is taken. -/
  | dtldComplete (core slot : Nat)
  /-- R232. A walk ends by writing the cluster TLB and releasing accesses, or by posting a page fault. -/
  | walkDone (cluster idx : Nat)
  /-- R238. A TLB acknowledges a shoot-down once its entries are invalid and translated PQ entries reached home. -/
  | tlbShootdownAck (core slot tlb : Nat)
  /-- R248. A running VF's WEIGHT quanta end and the core set passes to the next VF with work. -/
  | quantumExpiry (domain : Nat)
  /-- R241. After the drain and invalidations, the eager state is exchanged and the incoming VF's slots become READY. -/
  | worldSwitchExchange (core : Nat)
  /-- R257. The debugger resumes a HALTED slot, which returns to the state it left. -/
  | debugResume (core slot : Nat)
  /-- R257. The debugger reads or writes the registers of a HALTED slot. -/
  | debugRegisterAccess (core slot reg wr value : Nat)
  /-- R149. A peer access arriving over Ubham is performed at the home and answered across the link. -/
  | peerRequest (port op addr value : Nat)
  /-- R255. A peer write or AMO for a paused VF is held for forwarding, or answered MOVED after switchover. -/
  | peerOpHeld (port op addr value : Nat)
  /-- R268. An open doorbell write checks the QCB and opens the queue with a negotiated version, or refuses it. -/
  | queueOpen (bell qcb : Nat)
  /-- R268. A tail doorbell publishes packets up to a SEQ, which are read and checked in SEQ order. -/
  | tailDoorbell (queue seq : Nat)
  /-- R273. An acceptance record is written to two stacks, and once both acknowledge, ACCEPT is written and the packet dispatched. -/
  | acceptanceRecord (queue : Nat)
  /-- R271. A release doorbell reopens a halted or held queue and parsing resumes at ACCEPT+1. -/
  | releaseDoorbell (queue : Nat)
  /-- R273. When a packet's effect ends, completion entries go to both stacks and then a record to the host ring. -/
  | packetComplete (queue seq : Nat)
  /-- R272. A LAUNCH packet starts a population by sending q launch packets to each core of its group. -/
  | launch (queue : Nat)
  /-- R22. The Ochre pair validates a partition record and creates the partition. -/
  | pcreate (queue : Nat)
  /-- R245. A partition without live VFs is destroyed and its clusters power-gated. -/
  | pdestroy (queue : Nat)
  /-- R247. The Ochre pair validates a VF record and creates the VF. -/
  | vcreate (queue : Nat)
  /-- R249. A VF reset ends its populations, clears its banks, state, counters and pending traps. -/
  | vreset (queue : Nat)
  /-- R249. A VF destroy resets the VF, frees its queues, invalidates its TLB entries and releases its id. -/
  | vdestroy (queue : Nat)
  /-- R25. A GROUP packet writes or invalidates a group-table entry of a partition. -/
  | group (queue : Nat)
  /-- R121. A CIDCFG packet makes the Ochre pair write a counter-table entry with CNT.CFG. -/
  | cidcfg (queue : Nat)
  /-- R150. An OCCLIM packet sets a VF's soft L2 occupancy limit in every slice of the partition. -/
  | occlim (queue : Nat)
  /-- R279. A WINDOW packet programs or closes a peer window for a local VF. -/
  | window (queue : Nat)
  /-- R280. A FARPORT packet assigns a second-tier port to a partition. -/
  | farport (queue : Nat)
  /-- R282. A PCAP packet sets the package power cap. -/
  | pcap (queue : Nat)
  /-- R258. A DEBUG packet writes a packet-break or DBM match register of a partition. -/
  | debug (queue : Nat)
  /-- R260. A TRACE packet writes a partition's trace control record. -/
  | trace (queue : Nat)
  /-- R254. A PAUSE switches a VF out everywhere, lets its operations end, publishes and spills, and writes its migration image. -/
  | pause (queue : Nat)
  /-- R254. A RESUME imports a migration image, applies held peer operations and restarts the VF's slots. -/
  | resume (queue : Nat)
  /-- R276. A lock-step mismatch stops the Ochre pair, which reloads its firmware and recovers. -/
  | ochreMismatch
  /-- R278. Boot verifies the image, trains memory and links, creates partition 0 with its management queue and writes the device record. -/
  | powerOnReset (fused : List Nat) (secver : Nat) (boot : Config.Boot)
  /-- R277. An SPDM GET_VERSION request is answered over the UCIe management channel. -/
  | spdmGetVersion (nonce : Nat)
  /-- R277. An SPDM GET_CAPABILITIES request is answered. -/
  | spdmGetCapabilities (nonce : Nat)
  /-- R277. An SPDM NEGOTIATE_ALGORITHMS request is answered. -/
  | spdmNegotiateAlgorithms (nonce : Nat)
  /-- R277. An SPDM GET_DIGESTS request is answered. -/
  | spdmGetDigests (nonce : Nat)
  /-- R277. An SPDM GET_CERTIFICATE request is answered. -/
  | spdmGetCertificate (nonce : Nat)
  /-- R277. An SPDM CHALLENGE is answered with a signature by the device identity key. -/
  | spdmChallenge (nonce : Nat)
  /-- R277. An SPDM GET_MEASUREMENTS request returns the image, fuse and partition measurements. -/
  | spdmGetMeasurements (nonce : Nat)
  /-- R279. A Ubham port trains its lanes and negotiates the link version, or stays down. -/
  | ubhamLinkTrain (port major minor : Nat)
  /-- R279. A port that loses a lane runs on two lanes and is reported degraded. -/
  | ubhamLaneLoss (port : Nat)
  /-- R279. A flit failing its CRC is retried at link level. -/
  | ubhamFlitRetry (port : Nat)
  /-- R280. A second-tier port trains, possibly at a lower rate or width, and reports into the device record. -/
  | farportTrain (port rate width cap : Nat)
  /-- R282. Die temperature starts clock stretching from 95 C, and HBM temperature doubles refresh from 85 C. -/
  | temperatureInput (sensor temp : Nat)
  /-- R282. A thermal trip stops the device and reports to the host die. -/
  | thermalTrip (sensor : Nat)
  /-- R282. Each 1 ms window enforces the package power cap. -/
  | pcapWindow (watts : Nat)
  /-- R169. When the timeout of a parked WAITWT runs out before the word differs, pd becomes 1, nothing is acquired and the slot continues at the next bundle. -/
  | waitwtTimeout (core slot : Nat)
  /-- R258. On the host's resume, the front end dispatches a packet held by a packet-break register without comparing it again and lets its queue continue. -/
  | packetBreakResume (queue : Nat)
  /-- R257. The host attaches a debugger to a partition, or detaches it, through the Ochre pair, which decides whether DBRK halts or traps. -/
  | debuggerAttach (pid on : Nat)
  /-- R154. A stored bit in L2, a Saffron record, scratchpad, AC, L1, HBM, registers or Indigo state flips of itself, becoming a correctable error, a poisoned word or a parity error. -/
  | softError (store unit idx bit : Nat)
  /-- R255. A MOVED answer arriving at this device's Ubham endpoint makes it retarget the peer window and resend the operations to the destination in their original order. -/
  | peerMovedReply (win peer : Nat)
  deriving DecidableEq, Repr

end Sys2Proof
end

