-- ==== Sys2Proof/Machine/State.lean ====
section
/-! DEFINITION. The state of the QDR-1024: every piece of state the manual gives the machine, as plain data.

Cores are keyed by logical number (R18); the service core of cluster k is core 2,048 + k (Config.cscBase). Everything in
flight between units (requests, tokens, packets, jobs, walks) stands in the state, and an event of the opcode table moves it
on. What comes next from outside a core is the head of `agenda`; with none left the cores take their issue cycles in turn. -/

namespace Sys2Proof.Machine

/-! ### Memory -/

/-- Memory: (key, byte) pairs, keys strictly rising, no byte 0 listed; an unlisted byte reads 0 (assumption 1).
Keys lay out every place with bytes: HBM at channel · 3 GiB + offset (R147), far ports from 2^48, scratchpads from 2^50 by VF,
host memory from 2^65 (assumption 2). -/
abbrev Memory := List Host.Cell

/-- What an unlisted byte reads as (assumption 1). -/
def Memory.blank : Byte := 0

/-- One byte. -/
def Memory.get (m : Memory) (a : Nat) : Byte := FMap.getD m a Memory.blank

/-- Write one byte, keeping the canonical form. -/
def Memory.set (m : Memory) (a : Nat) (b : Byte) : Memory :=
  if b = Memory.blank then FMap.erase m a else FMap.insert m a b

/-- The canonical form: keys strictly rising, no entry equal to what an unlisted byte reads as. -/
def Memory.wf (m : Memory) : Bool := FMap.sorted m && m.all fun c => c.2 ≠ Memory.blank

/-- Read `n` bytes, lowest address first. -/
def Memory.read (m : Memory) (a : Nat) : Nat → List Byte
  | 0 => []
  | n + 1 => m.get a :: Memory.read m (a + 1) n

/-- Write bytes from an address upwards. -/
def Memory.write (m : Memory) (a : Nat) : List Byte → Memory
  | [] => m
  | b :: r => Memory.write (m.set a b) (a + 1) r

/-! ### The ordering machine -/

/-- A mark (core, seq, scope) of a home word or a queue record (R156); `age` orders additions (R142, R160). -/
structure Mark where
  core : Nat
  seq : Nat
  sys : Bool
  age : Nat
  deriving DecidableEq, Repr

/-- A publication-queue entry (R157). -/
structure PqEntry where
  seq : Nat
  key : Nat
  bytes : List Byte
  mark : Option Mark
  slot : Nat
  pop : Option Nat
  vf : Nat
  /-- The virtual address, by which a shoot-down finds the entry (R238). -/
  va : Word
  /-- The line may be cached (R148); its home, 256 · slice + set, none for a scratchpad (R146). -/
  cached : Bool
  slice : Option Nat
  deriving DecidableEq, Repr

/-- A line of the L view (R144): its set, its last use, its valid words by index, its poisoned words. -/
structure L1Line where
  set : Nat
  used : Nat
  words : FMap Half
  poison : List Nat
  deriving DecidableEq, Repr

/-- A line of the L1 instruction cache with its poisoned 8-byte words (R145, R154). -/
structure ILine where
  line : Nat
  bytes : List Byte
  poison : List Nat
  deriving DecidableEq, Repr

/-- A sector fill on its way (R162): what it may not write, and the bytes once read at home. -/
structure Fill where
  line : Nat
  sector : Nat
  set : Nat
  /-- Words whose O bit was set at the request or since. -/
  blocked : List Nat
  /-- Ranges (key, bytes) the core has stored to since the request. -/
  stored : List (Nat × Nat)
  /-- Words a home-direct operation wrote into the line, with the core's later stores on top. -/
  patched : FMap Half
  /-- A self-invalidation has taken place since the request. -/
  stale : Bool
  data : Option (List Byte)
  poison : List Nat
  /-- Whom the request is counted for: the VF, the slot, what the slice tagged it with; it has been counted (R251). -/
  vf : Nat := 0
  slot : Nat := 0
  tag : Nat := 0
  counted : Bool := false
  deriving DecidableEq, Repr

/-! ### Slots -/

/-- The states of R27; a switched-out slot is SAVED by standing in a VF that its core does not run. -/
inductive SlotMode where
  | free | ready | parked | idleSteal | halted
  deriving DecidableEq, Repr

/-- A register a reply writes. -/
inductive Wr where
  | g (n : Nat) (v : Word)
  | p (n : Nat) (v : Bool)
  | flags (v : Word)
  deriving DecidableEq, Repr

/-- The atomic operations of R290, R291, R294. -/
inductive AmoKind where
  | add | and | or | xor | min | max | minu | maxu | swap | fadd | cas
  /-- TEND's decrement of a JOIN word (R46). -/
  | tend
  deriving DecidableEq, Repr

/-- What one word does to memory: a load through L, a read at home, an atomic, a wait on a word (with a predicate and a
time-out for WAITWT), a store. -/
inductive MemKind where
  | load | home | amo (k : AmoKind) | waitw | waitwt (pd until_ : Nat) | store
  deriving DecidableEq, Repr

/-- A memory operation of a slot, its address translated. -/
structure MemOp where
  kind : MemKind
  key : Nat
  va : Word
  size : Nat
  /-- The destination register; a sign-extending load. -/
  d : Nat
  sext : Bool
  /-- The operand, the expected value or comparand, and the data of a store. -/
  arg : Word
  cmp : Word
  /-- The acquire and the release side take effect (R158); the scope is SYS. -/
  acq : Bool
  rel : Bool
  sys : Bool
  /-- The line may be cached (R148); its home, 256 · slice + set, none for a scratchpad (R146). -/
  cached : Bool
  slice : Option Nat
  /-- The mark prepared at issue (R164). -/
  mark : Option Mark
  deriving DecidableEq, Repr

/-- An operation sent to a peer and not yet answered (R149, R174), or one of a peer held for a paused VF (R255): the
window, the address in the peer's VF (R279), what it does (0 read, 1 write, 2 an atomic), its bytes, the operand, the comparand of a CAS. -/
structure PeerOp where
  win : Nat
  op : Nat
  amo : AmoKind
  addr : Nat
  size : Nat
  value : Word
  cmp : Word
  core : Nat
  slot : Nat
  vf : Nat
  d : Nat
  acq : Bool
  pop : Option Nat
  /-- The peer's VF, whose virtual address `addr` is (R279). -/
  pvf : Nat := 0
  deriving DecidableEq, Repr

/-- One force of an acquire (R165). -/
structure Force where
  mark : Mark
  asked : Bool
  acked : Bool
  deriving DecidableEq, Repr

/-- A task record of a deque (R40). -/
structure TaskRec where
  pc : Word
  fp : Word
  g4 : Word
  g5 : Word
  g6 : Word
  fmtd : Word
  scale : Word
  gtid : BitVec 48
  stolen : Bool
  deriving DecidableEq, Repr

/-- One k-block's half of an operand set (R206): rows of decoded values as FP32 patterns (absent 0xFFFF_FFFF), 128 rows of 32 of
an A half and 32 rows of 128 of a B half, and its 128 scale codes (R106; 127, which is 1, without block scales). -/
structure KPart where
  rows : List (List Half)
  scales : List Nat
  deriving DecidableEq, Repr

/-- A block of an operand set or on a link (R210): the k-blocks in ascending order, the K of the set, the VF and the population of
the job that made it. -/
structure Block where
  vf : Nat
  k : Nat
  parts : List KPart
  pop : Option Nat
  deriving DecidableEq, Repr

/-- How a job stands. -/
inductive JobStatus where
  | queued | running | finished | faulted (reason : Nat) (place : Word)
  deriving DecidableEq, Repr

/-- An engine job with what it captured at submission (R196, R197). -/
structure Job where
  id : BitVec 16
  /-- 1 CPY, 2 MX.MUL, 3 MX.ROT, 4 MX.DRAIN, 5 MX.ZERO, 6 MX.LOAD; the mode of a CPY. -/
  kind : Nat
  mode : Nat
  core : Nat
  slot : Nat
  pop : Option Nat
  vf : Nat
  regs : List Word
  fmtd : Word
  scale : Word
  tables : FMap (List Half)
  rng : Vector (BitVec 32) 4
  eftrap : Bool
  /-- Orders submissions by issue (R196). -/
  age : Nat
  status : JobStatus := .queued
  /-- Row or k-block to do next; destination bytes written (of the row, for an MX job); bytes still to write; a gather row's
  source. -/
  row : Nat := 0
  done : Nat := 0
  buf : List Byte := []
  src : Word := 0
  /-- The walk the job waits for. -/
  walking : Option (Word × Nat) := none
  /-- The CSAT bit a completion reports (R198). -/
  csat : Bool := false
  /-- The operand set read so far, for KEEP (R210). -/
  setA : List KPart := []
  setB : List KPart := []
  deriving DecidableEq, Repr

/-- What the C-word of a parked bundle still has to do once what it waits for is there: the fork-join instructions between
their frame accesses (R45-R47), and those that wait for the vector queue (R216, R217). -/
inductive Cont where
  /-- SPAWN's JOIN increment is acknowledged: the record, the child's pc and frame, its stores still to make. -/
  | spawn (rec : TaskRec) (pc fp : Word) (es : List PqEntry)
  /-- TEND has the PARENT word; its decrement of the JOIN word at a key is done. -/
  | tendParent
  | tendJoin (pf : Word) (key : Nat)
  /-- TEND's last child dispatches the frame at a key (R46), once its bank is there (R242). -/
  | frame (pf : Word) (key : Nat)
  /-- SYNC has read the JOIN word; its frame words enter the PQ; its CAS is done. `es` are all the frame words. -/
  | syncRead (op : MemOp) (es : List PqEntry)
  | syncStore (op : MemOp) (w : Word) (es : List PqEntry)
  | syncCas (op : MemOp) (w : Word) (es : List PqEntry)
  /-- The task has ended (R46); EXIT (R307); VRELS; VRENEG to a register count. -/
  | popOrSteal
  | exit
  /-- A word that ends the task (EXIT or not), or halts the slot with a tag, acts once its pair's A-word has its result (R62,
  R305, R307, R340). -/
  | ended (exit : Bool)
  | halt (tag : Word)
  | vrels
  | reneg (d regs : Nat)
  deriving DecidableEq, Repr

/-- What a slot, or one word of its bundle, waits for (R33, R54). -/
inductive Wait where
  /-- The reply is at hand: PARK_REPLY writes it. -/
  | done (ws : List Wr)
  /-- The wake is at hand: the bundle is executed again. -/
  | redo
  /-- The reply reports a trap. -/
  | trap (cause : Nat) (val : Word)
  /-- A load's sector fill (R161 step 4). -/
  | fill (fid : Nat) (op : MemOp)
  /-- The covering entries of the own PQ (R161 step 2, R163). -/
  | cover (op : MemOp)
  /-- A request on its way to a home or slice. -/
  | request (rid : Nat)
  /-- WAITW's watch on a home word (R168); with a time-out for WAITWT (R169). -/
  | watch (op : MemOp) (until_ : Option Nat) (pd : Nat)
  /-- The forces of an acquire (R165); `keep`: a world switch lets it run to its end (R240). -/
  | acquire (fs : List Force) (sys : Bool) (ws : List Wr) (keep : Bool)
  /-- Entries of the PQ up to a seq must be home (and published); then an acquire, and the next step. -/
  | drain (seq : Nat) (sys : Bool) (acq : Bool)
  /-- The PQ is full (R157): the entries still to enter, what then is written, the seqs of those entered whose arrival is awaited. -/
  | pqFull (es : List PqEntry) (ws : List Wr) (sent : List Nat)
  | semp (n : Nat)
  | ibx (d : Nat)
  | park
  /-- CNT.BAR: its drain, then the phase's release (R130, R131). -/
  | bar (cid : Nat) (seq : Nat) (tok : Option Nat)
  /-- A counter result (R125). -/
  | counter (tok : Nat)
  /-- CNT.CFG waits for earlier operations (R122). -/
  | cntCfg (cid : Nat) (e0 e1 : Word)
  /-- Q.WAIT in a queue's waiter list (R190). -/
  | qWait (qid : Nat)
  /-- Q.MAKE's reservation: the slice and the index (R181). -/
  | qMake (slice idx : Nat)
  /-- ASEND: drained up to `seq`, then its packet injected to each target left (R50); the targets of a group are its members once the
  drain is over (R26, R292). -/
  | asend (seq : Nat) (pc : Word) (payload : List Word) (targets : List Nat) (group : Option Nat)
  /-- The word acts on a value once its pair's A-word has its result (R62). -/
  | partner (v : Word)
  /-- A scratchpad bank that the C-word's next step touches, of a deque ring place or a frame: the core and the offset (R242). -/
  | ring (core off : Nat)
  /-- A submission: drained up to `seq`, then admitted (R172, R196). -/
  | submit (seq : Nat) (sys : Bool) (d : Nat) (job : Job)
  /-- VCLAIM's place in the pool's list (R215). -/
  | vclaim (d groups regs : Nat)
  /-- The vector queue must be empty: VFENCE, VRENEG, the end of a claim (R216, R217, R219). -/
  | vempty
  /-- The vector queue must have room (R218). -/
  | vroom
  /-- VEXT, VRED, VSFU: the vector queue performs the operation (R218). -/
  | vresult
  /-- The checks of a vector memory operation wait until at most `left` operations stand in the vector queue, those behind the
  last one that writes its index register or VM (R225, R354). -/
  | vaddr (left : Nat)
  /-- An SFU request (R220). -/
  | sfu (id : Nat)
  /-- A DIV or REM (R302). -/
  | divide (ws : List Wr)
  /-- A table image is being read (R89, R90): the loads still to make, the words loaded, the fill the first of those left waits for,
  and what that fill has given it (a word, or none where it is poisoned). -/
  | dtld (slot : Nat) (left : List MemOp) (got : List Half) (fill : Option Nat) (ans : Option (Option Half))
  /-- A shoot-down: TLBs still to acknowledge (R238). -/
  | shoot (form : Nat) (va : Word) (vf : Nat) (left : List Nat)
  /-- A walk of the CSC (R232). -/
  | walk (vpn : Nat) (kind : Nat)
  /-- A posted page fault (R234). -/
  | fault
  /-- A migration in flight (R52). -/
  | migrate
  /-- Earlier SR draws of the vector queue (R100). -/
  | draws
  /-- A bank exchange (R242). -/
  | bank (kind unit idx : Nat)
  /-- Own entries, by their seqs, must have reached their homes (R331, R334: stores on the fetch path). -/
  | landed (seqs : List Nat)
  /-- A peer operation over Ubham (R149), and the drain to SYS before a releasing one (R166). -/
  | peer (pid : Nat)
  | peerDrain (seq : Nat) (op : PeerOp)
  deriving DecidableEq, Repr

/-- What became of the word just executed: it goes on, it traps, or its bundle is to be executed again after a park. -/
inductive Fate where
  | ok | trap (cause : Nat) (val : Word) | replay
  deriving DecidableEq, Repr

/-- What the A-word of a pair overwrote while its C-word is parked (R62). -/
structure Prior where
  g : Vector Word 64
  p : BitVec 8
  fflags : Word
  /-- The generator's state, where the A-word changed it. -/
  rseed : Option (Vector (BitVec 32) 4)
  /-- The decode tables in force when the bundle issued (R90). -/
  tables : Option (FMap (List Half)) := none
  deriving DecidableEq, Repr

/-- One enabled element of a vector memory operation, its address translated (R225, R354). -/
structure Elem where
  lane : Nat
  key : Nat
  va : Word
  cached : Bool
  slice : Option Nat
  deriving DecidableEq, Repr

/-- An accepted vector operation with the state it captured at issue (R218, R337). -/
structure VOp where
  op : Instr
  fmtd : Word
  scale : Word
  amode : Word
  /-- Values of the general registers it reads. -/
  x : Word
  y : Word
  /-- Decode table named at issue (R91). -/
  table : List Half
  /-- For vector memory: the enabled elements still to move, in ascending lane order, and the values already loaded. -/
  addrs : List Elem := []
  got : List (Nat × Half) := []
  /-- The C-word of its pair is still parked (R62). -/
  held : Bool := false
  /-- It has begun to move data or read its lanes (R239). -/
  begun : Bool := false
  /-- The fill that the element at the head of `addrs` waits for, and what it has given it: a value, or none where it is poisoned
  (R162, R354). -/
  fill : Option Nat := none
  ans : Option (Option Half) := none
  /-- That element has waited for entries of the own PQ (R161 step 2). -/
  late : Bool := false
  /-- The cycle its bundle issued (R57, R220). -/
  cycle : Nat := 0
  /-- The lowest poisoned element address met so far (R354). -/
  bad : Option Word := none
  /-- The SFU request of a VSFU, once sent. -/
  sent : Option Nat := none
  deriving DecidableEq, Repr

/-- A vector claim (R214): groups, register count, lanes of registers at 256·register + lane, the mask, the queue. -/
structure Claim where
  groups : List Nat
  regs : Nat
  v : FMap Half
  vm : BitVec 256
  queue : List VOp
  deriving DecidableEq, Repr

/-- A slot's search for work (R48). -/
structure Steal where
  /-- Next place in the search order. -/
  pos : Nat
  /-- Failed requests since IDLE-STEAL, and the cycle it was entered (R260). -/
  failed : Nat
  since : Nat
  /-- End of the back-off. -/
  backoff : Option Nat
  /-- The victim asked, and its answer once given. -/
  asked : Option Nat
  answer : Option (Option TaskRec)
  deriving DecidableEq, Repr

/-- The arrived mark of a CNT.BAR that a hang trap abandoned (R298): its bundle, its token, whether its release has come while the bundle
is still to be executed again. -/
structure BarMark where
  cid : Nat
  pc : Word
  tok : Nat
  released : Bool
  again : Bool := true
  deriving DecidableEq, Repr

/-- One thread slot of one VF (R27-R29). `p` bit n is predicate `pn`; bit 0 reads 1. -/
structure Slot where
  mode : SlotMode := .free
  haltFrom : SlotMode := .ready
  pc : Word := 0
  nextPc : Word := 0
  g : Vector Word 64 := .replicate 64 0
  p : BitVec 8 := 1
  gtid : BitVec 48 := 0
  tcmp : Word := 0
  tpc : Word := 0
  tcause : Word := 0
  tval : Word := 0
  tstat : Word := 2
  tscr : Word := 0
  fmtd : Word := 0
  scale : Word := 0
  frm : Word := 0
  fflags : Word := 0
  amode : Word := 0
  rseed : Vector (BitVec 32) 4 := #v[0, 0, 0x9E3779B9, 0x7F4A7C15]
  live : Word := BitVec.allOnes 64
  pop : Option Nat := none
  fw : Bool := false
  lastIssue : Option Nat := none
  readyAt : Nat := 0
  pendVpoison : Option Word := none
  pendHang : Option Word := none
  pendEngine : List Word := []
  pendOvf : Bool := false
  pendTimer : Option Word := none
  cWait : Option Wait := none
  aWait : Option Wait := none
  /-- What the C-word does next once its wait is over. -/
  cont : Option Cont := none
  fate : Fate := .ok
  /-- Floating flags the bundle's A-word raised (R332). -/
  raised : Word := 0
  prior : Option Prior := none
  /-- What the home's slice tagged a reply with that a watch or the forces of an acquire hold back: counted when it comes (R251). -/
  owed : Option Nat := none
  /-- The decode tables in force when the bundle issued that is to be executed again (R90). -/
  tabs : Option (FMap (List Half)) := none
  /-- The table slot of the bundle's DTLD and its place in the order of issue: kept while the bundle is executed again (R90). -/
  dtld : Option (Nat × Nat) := none
  /-- Barriers whose token has arrived though the slot no longer waits (R298). -/
  arrived : List BarMark := []
  /-- Members that ASENDs not yet complete have served, each with its bundle (R292). -/
  served : List (Word × Nat) := []
  /-- The last page fault: VA, cause, and how many followed a replay (R236). -/
  replay : Option (Word × Nat × Nat) := none
  /-- The bundle that is performed again without migrating, its migration having been refused (R52). -/
  noMig : Option Word := none
  /-- Halt before the next issue (R259 STOPALL). -/
  stop : Bool := false
  /-- The bundle at which a match register halted the slot: once resumed there it issues without comparing again (R259). -/
  matched : Option Word := none
  steal : Option Steal := none
  claim : Option Claim := none
  deriving DecidableEq, Repr

/-! ### Cores -/

/-- An activation packet (R35): a launch packet gets its index and GTID on arrival (R37, R51). -/
structure Packet where
  pc : Word
  payload : List Word
  g12 : Word
  g13 : Word
  fmtd : Word
  scale : Word
  gtid : BitVec 48
  vf : Nat
  pop : Option Nat
  /-- The sending core of a message; none for a launch packet. -/
  sender : Option Nat
  deriving DecidableEq, Repr

/-- A completion message in an inbox (R198). -/
structure Msg where
  slot : Nat
  pop : Option Nat
  vf : Nat
  cluster : Nat
  w0 : Word
  w1 : Word
  w2 : Word
  w3 : Word
  deriving DecidableEq, Repr

/-- What a core holds for one VF: the eager state of R241, the contents of its banks, its kept packets. -/
structure CoreVf where
  slots : FMap Slot := []
  tvec : Word := 0
  dqbase : Word := 0
  pmc : Vector (BitVec 48) 8 := .replicate 8 0
  pmsel : Vector Word 8 := .replicate 8 0
  pmEn : BitVec 8 := 0
  pmUnsup : BitVec 8 := 0
  pmOvf : BitVec 8 := 0
  pmTgt : Word := 0
  /-- Semaphore counts, and the slots waiting for each, first come first (R330). -/
  sems : FMap Nat := []
  semWait : FMap (List Nat) := []
  /-- Hardware deque, oldest first (R43); the ring's head and count; the population that owns it (R44). -/
  deque : List TaskRec := []
  ringHead : Nat := 0
  ringCount : Nat := 0
  dqPop : Option Nat := none
  taskSeq : BitVec 32 := 0
  /-- Deferred event sums by event and slot (R252). -/
  deferred : List (Nat × Nat × Nat) := []
  /-- Packets kept while the VF does not run (R239). -/
  kept : List Packet := []
  /-- Decode tables by slot; missing: empty (R90). -/
  tables : FMap (List Half) := []
  deriving DecidableEq, Repr

/-- A bank exchange in progress (R242). -/
structure Xfer where
  kind : Nat
  unit : Nat
  idx : Nat
  vf : Nat
  deriving DecidableEq, Repr

/-- A TLB entry: the two words of R230. -/
structure TlbEntry where
  lo : Word
  hi : Word
  deriving DecidableEq, Repr

/-- A compute core or a service core. -/
structure Core where
  /-- The running VF; none when no VF holds the core. After reset VF 0 holds every core (R23). -/
  vf : Option Nat := some 0
  /-- %CYC (R28). -/
  cyc : BitVec 64 := 0
  /-- State per VF, keyed by VF id + 1; key 0 is the firmware's own. -/
  vfs : FMap CoreVf := []
  /-- Owners of the banks: GPR, scratchpad, decode-table slots (R242). -/
  gprTag : FMap Nat := []
  spTag : FMap Nat := []
  tabTag : FMap Nat := []
  pq : List PqEntry := []
  /-- The sequence counter (R156). -/
  seq : BitVec 64 := 0
  /-- Stores that have reached home and are not yet published at SYS (R166). -/
  unpub : List PqEntry := []
  l1 : FMap L1Line := []
  fills : FMap Fill := []
  nextFill : Nat := 0
  /-- Counts the uses of L1 lines, so that the least recently used one is known (R144). -/
  uses : Nat := 0
  /-- L1 instruction lines, most recently used first (R145; assumption 53). -/
  l1i : List ILine := []
  /-- Most recently used first (R229). -/
  tlb : List TlbEntry := []
  buf : List Packet := []
  inbox : List Msg := []
  /-- Firmware-level special registers 0x800-0xFFF (R28). -/
  fwRegs : FMap Word := []
  /-- A world switch ordered to a VF (R239): its slots issue nothing more. -/
  switchTo : Option (Option Nat) := none
  /-- Cycles the running VF has held the core since it was switched in (R244). -/
  held : Nat := 0
  deriving DecidableEq, Repr

/-! ### Slices, queues, counters -/

/-- A queue record (R184): words are (count, value). -/
structure QRec where
  key : Half
  words : List (Nat × Half)
  fold : Nat
  sealed : Bool
  sat : Bool
  ovf : Bool
  marks : List Mark
  poison : Bool
  deriving DecidableEq, Repr

/-- A Saffron queue (R177, R180): waiters are (core, slot, VF), head first. -/
structure Queue where
  ownVf : Nat
  keyed : Bool
  nw : Nat
  ops : Half
  cap : Nat
  wlim : Nat
  recs : List QRec
  waiters : List (Nat × Nat × Nat)
  deriving DecidableEq, Repr

/-- A line of a slice (R146, R150): sectors whose data is here. -/
structure L2Line where
  line : Nat
  way : Nat
  vf : Nat
  dirty : Bool
  pins : Nat
  used : Nat
  sectors : BitVec 4
  deriving DecidableEq, Repr

/-- A general miss-table entry (R152, R153): pending sectors with their write masks, the requests that wait. -/
structure MissEntry where
  line : Nat
  pend : FMap (BitVec 32)
  waiters : List Nat
  deriving DecidableEq, Repr

/-- A queue whose ways are being made ready (R181): its index, the slot that waits for it, the register of its QID. -/
structure Making where
  idx : Nat
  core : Nat
  slot : Nat
  vf : Nat
  d : Nat
  queue : Queue
  deriving DecidableEq, Repr

/-- An L2 slice; lines are listed under their set. -/
structure Slice where
  sets : FMap (List L2Line) := []
  miss : List MissEntry := []
  /-- Lines with a write-back or flush entry (R152). -/
  wb : List Nat := []
  /-- The pending-write filter (R152), and reads that wait for it. -/
  filter : List Nat := []
  filterWait : List Nat := []
  /-- Requests waiting at the slice input, in arrival order (R152). -/
  stalled : List Nat := []
  /-- Reserved ways (R177). -/
  resv : Nat := 0
  queues : FMap Queue := []
  making : List Making := []
  deriving DecidableEq, Repr

/-- A queue operation on its way to a slice (R178). -/
structure QOp where
  form : Nat
  qid : Nat
  d : Nat
  b : Nat
  regs : List Word
  mark : Option Mark
  deriving DecidableEq, Repr

/-- What a request does at its home or slice. -/
inductive ReqKind where
  | fill (fid : Nat)
  | mem (op : MemOp)
  | queue (q : QOp)
  deriving DecidableEq, Repr

/-- A request of a slot on its way (R158). -/
structure Req where
  kind : ReqKind
  core : Nat
  slot : Nat
  vf : Nat
  key : Nat
  size : Nat
  /-- The home, 256 · slice + set (R146), or none for a scratchpad. -/
  slice : Option Nat
  cached : Bool
  /-- The request stands in a miss entry, a filter list or the input queue. -/
  waiting : Bool
  /-- What the slice tags the reply with: 0 hit, 1 miss, 2 bypass (R251). -/
  tag : Nat
  /-- Its turn has come and it waits for a force or a flush: later operations on this word (key div 8) wait behind it, at the slice's
  input, and those of other words pass (R160, R152). -/
  due : Option Nat := none
  deriving DecidableEq, Repr

/-- A counter-table entry: the two words of R121, and the marks of R122 and R134. -/
structure CidEntry where
  e0 : Word
  e1 : Word
  broken : Bool
  reconf : Bool
  deriving DecidableEq, Repr

/-- What an Indigo operation is for. -/
inductive TokKind where
  | inc | dec | can (v : BitVec 32) | sprd (words : List Half) | bar | rdq (read : FMap Int)
  deriving DecidableEq, Repr

/-- A token, antitoken or snapshot in flight (R117, R127). -/
structure Token where
  kind : TokKind
  cid : Nat
  core : Nat
  slot : Nat
  vf : Nat
  pop : Option Nat
  d : Nat
  layer : Nat
  pos : Nat
  /-- For a spread token that has passed its exit: output and value (R127); for a barrier token: its phase has ended. -/
  out : Option (Nat × BitVec 32)
  /-- The barrier token has reached its exit. -/
  arrived : Bool
  deriving DecidableEq, Repr

/-! ### Engines -/

/-- One element of an accumulator tile (R206): FP32 value, count, poison. -/
structure AcElem where
  val : Half
  cnt : Nat
  poison : Bool
  deriving DecidableEq, Repr

/-- An accumulator tile: elements at 128·row + column, missing: 0 with count 0; CSAT (R113). -/
structure Tile where
  elems : FMap AcElem := []
  csat : Bool := false
  deriving DecidableEq, Repr

/-- A request of an SFU's queue (R220). -/
structure SfuReq where
  id : Nat
  core : Nat
  slot : Nat
  vf : Nat
  /-- A VSFU; its service cycles; the cycle it was issued. -/
  vec : Bool
  n : Nat
  cycle : Nat
  /-- What a scalar result writes. -/
  ws : List Wr
  /-- Cycle the result returns, once the service has started. -/
  served : Option Nat
  /-- The request waits at its core: the queue was full (R220). -/
  atCore : Bool := false
  deriving DecidableEq, Repr

/-- A walk of a CSC (R232). -/
structure Walk where
  vpn : Nat
  vf : Nat
  pid : Nat
  /-- The TLBs that a TLBW has written for its page since the request: the walk does not write them (R341, assumption 76). -/
  keep : List Nat := []
  deriving DecidableEq, Repr

/-- A fault record in the CSC's mailbox (R234). -/
structure FaultRec where
  w0 : Word
  w1 : Word
  w2 : Word
  deriving DecidableEq, Repr

/-- A cluster's shared units (R10). -/
structure Cluster where
  queue : List Job := []
  running : List Job := []
  nextJob : BitVec 16 := 1
  /-- Accumulator tiles at 64·VF + tile, their owners. -/
  ac : FMap Tile := []
  tileTag : FMap Nat := []
  /-- The kept operand set of each VF, in the engine or saved: A and B blocks (R210, R243); the owners of the two sets. -/
  kept : FMap (Block × Block) := []
  setTag : FMap Nat := []
  /-- The blocks each VF has taken into the other set, in the engine or saved: from the east (A) and from the south (B) (R210,
  R242). -/
  gotA : FMap Block := []
  gotB : FMap Block := []
  /-- Blocks waiting on the links from the east and from the south. -/
  linkA : List Block := []
  linkB : List Block := []
  /-- The first k-blocks of the next MX.MUL, prefetched (R196). -/
  prefetched : Option (BitVec 16 × List KPart × List KPart) := none
  /-- Lines the prefetched data keeps pinned: home and line (R206). -/
  pinned : List (Nat × Nat) := []
  /-- Claims waiting, oldest first (R215): core, slot, VF; the owners of the lane groups. -/
  claims : List (Nat × Nat × Nat) := []
  laneTag : FMap Nat := []
  /-- SFU queues of the lower and the upper quad (R220). -/
  sfu0 : List SfuReq := []
  sfu1 : List SfuReq := []
  /-- Cluster TLB by set, most recently used first (R229). -/
  tlb : FMap (List TlbEntry) := []
  walks : List Walk := []
  mailbox : List FaultRec := []
  /-- The wait table: populations reported by a core of the cluster (R55). -/
  waits : List (Nat × Nat) := []
  deriving DecidableEq, Repr

/-! ### Work, tenants, host -/

/-- A migration packet in flight (R52): where from, where to, the slot as it travels, accepted or refused. -/
structure Mig where
  core : Nat
  slot : Nat
  owner : Nat
  image : Slot
  vf : Nat
  /-- The packet leaves once the origin's entries up to this seq are home. -/
  seq : Nat
  /-- Cycles left to %TCMP (R52). -/
  tleft : Option Nat
  reply : Option Bool
  deriving DecidableEq, Repr

/-- How a population stands (R56, R228). -/
inductive PopStatus where
  | running | complete | reported | fatal | reset
  deriving DecidableEq, Repr

/-- A launch population (R37). -/
structure Pop where
  vf : Nat
  pid : Nat
  cores : List Nat
  quota : Nat
  /-- Launch packets that have arrived at each core (R37). -/
  seen : FMap Nat
  queue : Nat
  seq : Nat
  status : PopStatus
  hung : Bool
  /-- Cycles since a packet or token was in flight, and since the population moved (R56). -/
  quiet : Nat
  still : Nat
  /-- The fatal report: GTID and cause (R228). -/
  report : Word
  deriving DecidableEq, Repr

/-- A partition (R21) with its tables (R25, R150, R258-R260). -/
structure Part where
  w0 : Word
  w1 : Word
  w2 : Word
  groups : FMap (List Nat)
  limits : FMap Nat
  brk : FMap Word
  dbm : FMap (Word × Word)
  trace0 : Word
  trace1 : Word
  traceHead : Nat
  debugger : Bool
  deriving DecidableEq, Repr

/-- A virtual function: its record (R246), and whether it is fatal or being destroyed, paused, moved away, or being reset (R228, R249,
R254). -/
structure Vf where
  w0 : Word
  w1 : Word
  w2 : Word
  w3 : Word
  fatal : Bool
  paused : Bool
  moved : Bool
  resetting : Bool := false
  deriving DecidableEq, Repr

/-- The states of a packet between its checks and its end (R273). -/
inductive PktStage where
  | checked | accepted | dispatched
  deriving DecidableEq, Repr

/-- A packet the Ochre pair works on. -/
structure Pkt where
  seq : Nat
  words : List Word
  stage : PktStage
  /-- A packet-break register holds it (R258), or let it pass. -/
  broken : Bool
  passed : Bool
  /-- The cores a GROUP packet was accepted with (R25). -/
  cores : Option (List Nat) := none
  deriving DecidableEq, Repr

/-- An open command queue (R267): the key of its QCB, whether the ring lies in host memory, its published SEQ, and the
packets accepted and not complete. -/
structure CmdQueue where
  qcb : Nat
  host : Bool
  base : Nat
  cbase : Nat
  sizelog : Nat
  vf : Nat
  maj : Nat
  min : Nat
  state : Nat
  accept : BitVec 32
  tail : BitVec 32
  chead : BitVec 32
  head : Option Pkt
  live : List Pkt
  deriving DecidableEq, Repr

/-- An acceptance record, or a completion entry with its STATUS and word 1, as a stack keeps it (R273, R275). -/
structure StackRec where
  queue : Nat
  seq : Nat
  digest : Nat
  restart : Bool
  fin : Option (Nat × Word)
  deriving DecidableEq, Repr

/-- A peer window: the three words of R279. -/
structure Window where
  w1 : Word
  w2 : Word
  w3 : Word
  deriving DecidableEq, Repr

/-- A second-tier port (R280): rate, width, capacity in 64 KiB, partition. -/
structure FarPort where
  rate : Nat
  width : Nat
  cap : Nat
  pid : Option Nat
  deriving DecidableEq, Repr

/-- A Ubham port (R279): state, version, flits retried. -/
structure UPort where
  st : Nat
  maj : Nat
  min : Nat
  retries : Nat
  deriving DecidableEq, Repr

/-- What the device tells the host die, the debugger or a peer, oldest first. -/
inductive Report where
  /-- Boot failed at a step (R278). -/
  | bootFailed (step : Nat)
  /-- The device record (R362). -/
  | device (words : List Word)
  | hung (pop : Nat)
  | fatal (pop : Nat) (gtid : BitVec 48) (cause : Nat) (tpc tval : Word)
  | breakHit (queue : Nat)
  | dbm (core slot reg : Nat)
  | dbrk (core slot : Nat) (tag : Word)
  | debugValue (v : Word)
  | thermalTrip (sensor : Nat)
  | portDown (port : Nat)
  | degraded (port : Nat)
  /-- A write to a peer (R149, R279): the window, the peer's VF, the address in it. -/
  | peerWrite (win pvf addr : Nat) (bytes : List Byte)
  | peerReply (port : Nat) (v : Word)
  | peerMoved (port : Nat)
  | spdm (code : Nat) (bytes : List Byte)
  /-- Measurements 1 to 3 (R277), before the rest of their answer. -/
  | measured (regs : List (List Byte))
  | domainReset (pid : Nat)
  | parity (cid : Nat)
  deriving DecidableEq, Repr

/-- A snapshot of what both words of a pair read (R60), and the words' place in their bundle. -/
structure Src where
  g : Vector Word 64
  p : BitVec 8
  slot : Slot
  deriving DecidableEq, Repr

/-- The word being executed: core, slot, the word, whether it is the A-word of a pair, whether its bundle is a pair, and what
both words read. -/
structure Cur where
  core : Nat := 0
  slot : Nat := 0
  word : Half := 0
  pairA : Bool := false
  pair : Bool := false
  src : Option Src := none
  deriving DecidableEq, Repr

/-- What a cluster holds of a VF: its tiles by number, its kept operand set, the blocks taken into the other set, and its blocks
on the links (R243, R254). -/
structure ClusterImage where
  tiles : FMap Tile
  kept : Option (Block × Block)
  gotA : Option Block
  gotB : Option Block
  linkA : List Block
  linkB : List Block
  deriving DecidableEq, Repr

/-- A migration image (R254), a core being named by its place in the VF's core set: the VF's record; its memory, as 4 KiB units of
guest addresses, their bytes and the poisoned words, by address div 8 (R154); each core's state, and the scratchpads' bytes at
2^18 · place + offset, with their poisoned words; each cluster's; the
untaken completions of each core; the queues by QID; the counter entries with toggles, exit counts and wrong parities; the
barrier tokens that have arrived; the populations that run; the operations of peers held since PAUSE (R255). -/
structure Image where
  vf : Vf
  units : List Nat
  mem : Memory
  poison : List Nat
  cores : List CoreVf
  sp : Memory
  spPoison : List Nat
  clusters : List ClusterImage
  inbox : List (List Msg)
  queues : FMap Queue
  cids : FMap CidEntry
  toggles : FMap Bool
  counts : FMap (BitVec 32)
  badParity : List Nat
  tokens : FMap Token
  pops : FMap Pop
  held : List PeerOp
  deriving DecidableEq, Repr

/-- Who waits to write an entry of a counter table (R122): a slot, or a packet of a queue. -/
inductive CfgBy where
  | slot (core vk n : Nat)
  | packet (queue seq : Nat)
  deriving DecidableEq, Repr

/-- An accepted write of a counter-table entry that waits for earlier operations (R122). -/
structure CfgWrite where
  cid : Nat
  by_ : CfgBy
  e0 : Word
  e1 : Word
  deriving DecidableEq, Repr

/-- What the world does next: an event of the table, bytes written by the host or a CXL agent, the activation channel's room at a
core changing (R36), or a migration image of another device arriving at an address (R254). -/
inductive Move where
  | act (i : Instr)
  | hostWrite (key : Nat) (bytes : List Byte)
  | channel (core : Nat) (full : Bool)
  | image (addr : Nat) (x : Image)
  deriving DecidableEq, Repr

/-- The machine. -/
structure State where
  /-- Fused positions 32y + x, rising (R16, R18). -/
  fused : List Nat := []
  cur : Cur := {}
  /-- The slot whose bundle issues next. -/
  issuing : Option (Nat × Nat) := none
  /-- The core whose issue cycle is next when the agenda is empty. -/
  turn : Nat := 0
  agenda : List Move := []
  /-- How many free values have been drawn (Config.freeValue). -/
  free : Nat := 0
  /-- Orders marks and uses. -/
  tick : Nat := 0
  cores : FMap Core := []
  clusters : FMap Cluster := []
  slices : FMap Slice := []
  reqs : FMap Req := []
  nextReq : Nat := 0
  /-- The homes' values (R156), and what memory behind them holds (R166). -/
  mem : Memory := []
  behind : Memory := []
  /-- Marks of home words, by key div 8, oldest first (R160). -/
  marks : FMap (List Mark) := []
  /-- Words, by key div 8, that are poisoned where they are read from: in the slice that holds their line, else in memory, or in
  their scratchpad (R154). -/
  poison : FMap Unit := []
  /-- Words, by key div 8, that are poisoned in the memory behind a line which a slice holds (R154). -/
  hbmPoison : FMap Unit := []
  /-- Activation channel (R36): packets in flight with their target, and cores whose channel admits none. -/
  chan : List (Nat × Packet) := []
  chanFull : List Nat := []
  /-- Launch packets the front end has yet to inject, in order (R36). -/
  unsent : List (Nat × Packet) := []
  migs : List Mig := []
  xfers : List Xfer := []
  cids : FMap CidEntry := []
  /-- Accepted entry writes that wait, in order (R122). -/
  cfgs : List CfgWrite := []
  /-- Toggles at (CID, layer, lower position), exit counts at (CID, position) (R117, R124). -/
  toggles : FMap Bool := []
  counts : FMap (BitVec 32) := []
  /-- Toggles at 2·key and counts at 2·key + 1 whose parity is wrong (R134). -/
  badParity : List Nat := []
  tokens : FMap Token := []
  nextTok : Nat := 0
  pops : FMap Pop := []
  nextPop : Nat := 0
  parts : FMap Part := []
  vfs : FMap Vf := []
  queues : FMap CmdQueue := []
  nextQueue : Nat := 0
  /-- The records on the two stacks; none for a copy that is lost (R273, R275). -/
  stackA : Option (List StackRec) := some []
  stackB : Option (List StackRec) := some []
  windows : FMap Window := []
  farPorts : FMap FarPort := []
  uports : FMap UPort := []
  peerOps : FMap PeerOp := []
  nextPeer : Nat := 0
  heldOps : List PeerOp := []
  /-- Migration images by image address (R254). -/
  images : FMap Image := []
  reports : List Report := []
  /-- Corrected soft errors (R154). -/
  errorLog : Nat := 0
  /-- Package cap in W; cycles are suppressed to stay below it (R281, R282). -/
  pcap : Nat := 2700
  stretch : Bool := false
  /-- Temperatures in °C by sensor: compute dies 0-3, then HBM stacks 0-15 as sensors 4-19. -/
  temps : FMap Nat := []
  doubleRefresh : Bool := false
  /-- The device runs; off after a thermal trip or a failed boot (R278, R282). -/
  on : Bool := true
  /-- The security version of the running image, and the least one that the fuses allow (R277). -/
  secver : Nat := 0
  fuseMin : Nat := 0
  /-- Measurement registers 1 (the image) and 2 (fuses and security version); register 3 follows the live partition records
  (R277). -/
  meas1 : List Byte := []
  meas2 : List Byte := []
  deriving DecidableEq, Repr

/-- Partition 0 as it exists after reset (R23): whole grid, all octets, exits 0-63, counter IDs 0-4,095. -/
def Part.zero : Part where
  w0 := 0x0000000100006000
  w1 := 0x000000000003F800
  w2 := BitVec.allOnes 64
  groups := []
  limits := []
  brk := []
  dbm := []
  trace0 := 0
  trace1 := 0
  traceHead := 0
  debugger := false

/-- VF 0 as it exists after reset (R23, R246). -/
def Vf.zero : Vf where
  w0 := 0x0000000100000000
  w1 := 0x0000000000010000
  w2 := 0x0000000000020000
  w3 := 0x0000000100000001
  fatal := false
  paused := false
  moved := false

/-- The management queue the firmware opens at boot (R278): its QCB at the partition's physical address 0, its ring at
0x1000 (channel 16, offset 0) and its completion ring at 0x1800 (channel 24, offset 0). -/
def CmdQueue.management : CmdQueue where
  qcb := 0
  host := false
  base := 0x1000
  cbase := 0x1800
  sizelog := 4
  vf := 0x1FF
  maj := 1
  min := 1
  state := 1
  accept := 0
  tail := 0
  chead := 0
  head := none
  live := []

/-- The bytes of the management queue's QCB that are not 0 (R267, R278): BASE, VF and RMAJ, RMIN, SIZELOG, CBASE, and MAJ,
MIN, STATE. -/
def Memory.boot : Memory :=
  [(0x01, 0x10), (0x08, 0x14), (0x09, 0x01), (0x0C, 0xFF), (0x0D, 0x01), (0x19, 0x18), (0x20, 0x01), (0x21, 0x11)]

/-- The machine right after reset: booted as R278 says, no fused core (assumption 3), partition 0, VF 0 and the management
queue as R23 gives them; every register at the value R28 gives, and where it gives none at the value assumption 4 names. -/
def State.reset : State :=
  { mem := Memory.boot, behind := Memory.boot
    parts := [(0, Part.zero)], vfs := [(0, Vf.zero)], queues := [(0, CmdQueue.management)], nextQueue := 1 }

/-- Why the machine stops with a fault. -/
inductive Fault where
  /-- Raised by `step` when the device is off (thermal trip, failed boot: R278, R282) and no power-on is at hand. Safe: the
  spec says that the device has stopped. -/
  | deviceOff
  deriving DecidableEq, Repr

/-- Why a step is refused. -/
inductive Refusal where
  /-- Raised by an arm of `exec` whose instruction has no meaning yet. Safe. -/
  | notModelled (mnemonic : String)
  deriving DecidableEq, Repr

end Sys2Proof.Machine
end

