-- ==== Sys2Proof/Machine/Basics.lean ====
section
/-! DEFINITION. The basic operations over the state: cores, slots, registers, partitions, homes and their marks, publication
queues, the L view, self-invalidation, and counters of events. -/

namespace Sys2Proof.Machine

/-! ### Cores, virtual functions, slots -/

namespace Core

/-- The key of the running VF's state in `vfs`. -/
def vkey (k : Core) : Nat := match k.vf with
  | none => 0
  | some v => v + 1

/-- The running VF's state on a core (R241). -/
def cvf (k : Core) : CoreVf := FMap.getD k.vfs k.vkey {}

/-- Replace the running VF's state. -/
def setCvf (k : Core) (x : CoreVf) : Core := { k with vfs := FMap.insert k.vfs k.vkey x }

/-- A slot of the running VF. -/
def slot (k : Core) (n : Nat) : Slot := FMap.getD k.cvf.slots n {}

/-- Replace a slot of the running VF. -/
def setSlot (k : Core) (n : Nat) (x : Slot) : Core :=
  k.setCvf { k.cvf with slots := FMap.insert k.cvf.slots n x }

end Core

namespace State

/-- A core (compute cores by logical number, service cores from 2,048). -/
def core (s : State) (c : Nat) : Core := FMap.getD s.cores c {}
/-- Replace a core. -/
def setCore (s : State) (c : Nat) (k : Core) : State := { s with cores := FMap.insert s.cores c k }
/-- Change a core. -/
def updCore (s : State) (c : Nat) (f : Core → Core) : State := s.setCore c (f (s.core c))
/-- The running VF's state on a core. -/
def cvf (s : State) (c : Nat) : CoreVf := (s.core c).cvf
/-- Change the running VF's state on a core. -/
def updCvf (s : State) (c : Nat) (f : CoreVf → CoreVf) : State := s.updCore c fun k => k.setCvf (f k.cvf)
/-- A slot of a core's running VF. -/
def slot (s : State) (c n : Nat) : Slot := (s.core c).slot n
/-- Replace a slot. -/
def setSlot (s : State) (c n : Nat) (x : Slot) : State := s.setCore c ((s.core c).setSlot n x)
/-- Change a slot. -/
def updSlot (s : State) (c n : Nat) (f : Slot → Slot) : State := s.setSlot c n (f (s.slot c n))
/-- A slot of one VF on a core, running there or not: `vk` is the VF's key. -/
def slotV (s : State) (c vk n : Nat) : Slot := FMap.getD (FMap.getD (s.core c).vfs vk {}).slots n {}
/-- Change a slot of one VF on a core. -/
def updSlotV (s : State) (c vk n : Nat) (f : Slot → Slot) : State := s.updCore c fun k =>
  let x : CoreVf := FMap.getD k.vfs vk {}
  { k with vfs := FMap.insert k.vfs vk { x with slots := FMap.insert x.slots n (f (FMap.getD x.slots n {})) } }
/-- The key of the VF that runs on a core. -/
def vk (s : State) (c : Nat) : Nat := (s.core c).vkey
/-- The VF whose slot of a core waits for something: the running one, or else the first stored one that does (R240). -/
def waitVk (s : State) (c n : Nat) (p : Wait → Bool) : Nat :=
  let is (vk : Nat) : Bool := (s.slotV c vk n).cWait.any p
  if is (s.vk c) then s.vk c
  else match (s.core c).vfs.keys.find? is with
    | some vk => vk
    | none => s.vk c
/-- The slot whose bundle is being executed. -/
def me (s : State) : Slot := s.slot s.cur.core s.cur.slot
/-- Change the slot whose bundle is being executed. -/
def updMe (s : State) (f : Slot → Slot) : State := s.updSlot s.cur.core s.cur.slot f
/-- A cluster. -/
def cluster (s : State) (k : Nat) : Cluster := FMap.getD s.clusters k {}
/-- Change a cluster. -/
def updCluster (s : State) (k : Nat) (f : Cluster → Cluster) : State :=
  { s with clusters := FMap.insert s.clusters k (f (s.cluster k)) }
/-- A slice, by slice number 32y + x (R177). -/
def slice (s : State) (k : Nat) : Slice := FMap.getD s.slices k {}
/-- Change a slice. -/
def updSlice (s : State) (k : Nat) (f : Slice → Slice) : State :=
  { s with slices := FMap.insert s.slices k (f (s.slice k)) }
/-- Tell the host die, the debugger or a peer something. -/
def report (s : State) (r : Report) : State := { s with reports := s.reports ++ [r] }
/-- Draw a free value (Config.freeValue). -/
def draw (s : State) : Word × State := (Config.freeValue s.free, { s with free := s.free + 1 })

/-- E, the number of enabled cores (R16, R18). -/
def ncore (s : State) : Nat := Config.positions - s.fused.length
/-- The physical position 32y + x of a logical core (R18): fused positions are skipped. -/
def physOf (s : State) (n : Nat) : Nat := s.fused.foldl (fun p f => if f ≤ p then p + 1 else p) n
/-- The logical core at a physical position, if it is enabled (R18). -/
def logicalOf (s : State) (p : Nat) : Option Nat :=
  if s.fused.contains p then none else some (p - (s.fused.filter (· < p)).length)
/-- The cluster of a physical position (R10). -/
def clusterAt (p : Nat) : Nat := 16 * (p / 32 / 4) + p % 32 / 2
/-- The cluster of a core (R10); a service core is in its own. -/
def clusterOf (s : State) (c : Nat) : Nat :=
  if Config.cscBase ≤ c then c - Config.cscBase else clusterAt (s.physOf c)

/-- Enabled cores of a cluster and its service core. -/
def coresOf (s : State) (cl : Nat) : List Nat :=
  ((List.range 8).filterMap fun i => s.logicalOf (32 * (4 * (cl / 16) + i / 2) + 2 * (cl % 16) + i % 2)) ++ [Config.cscBase + cl]

/-- The record of a VF. -/
def vfRec (s : State) (v : Nat) : Option Vf := FMap.find? s.vfs v
/-- The partition of a VF (R246). -/
def pidOf (s : State) (v : Nat) : Nat := match s.vfRec v with
  | some x => (x.w0 >>> 16).toNat % 16
  | none => 0
/-- A partition that exists. -/
def part (s : State) (p : Nat) : Option Part := FMap.find? s.parts p
/-- Change a partition that exists. -/
def updPart (s : State) (p : Nat) (f : Part → Part) : State := match s.part p with
  | some x => { s with parts := FMap.insert s.parts p (f x) }
  | none => s
/-- The VF that runs on a core, as %VF reads it (R24). -/
def runVf (s : State) (c : Nat) : Nat := ((s.core c).vf).getD 0
/-- The partition of the VF that runs on a core (R24). -/
def runPid (s : State) (c : Nat) : Nat := s.pidOf (s.runVf c)

end State

/-- The node of an exit cell (R120). -/
def exitNode (p : Nat) : Nat := 32 * (4 * (p / 8)) + 4 * (p % 8)

namespace Part

/-- The rectangle (R21): first column and row, width and height, in clusters. -/
def cx0 (p : Part) : Nat := p.w1.toNat % 16
/-- South-west cluster row (R21). -/
def cy0 (p : Part) : Nat := p.w1.toNat / 2 ^ 8 % 8
/-- Width in clusters (R21). -/
def cw (p : Part) : Nat := p.w1.toNat / 2 ^ 11 % 16 + 1
/-- Height in clusters (R21). -/
def ch (p : Part) : Nat := p.w1.toNat / 2 ^ 15 % 16 + 1
/-- A cluster lies in the rectangle. -/
def hasCluster (p : Part) (k : Nat) : Bool :=
  p.cx0 ≤ k % 16 && k % 16 < p.cx0 + p.cw && p.cy0 ≤ k / 16 && k / 16 < p.cy0 + p.ch
/-- A physical position lies in the rectangle. -/
def hasPos (p : Part) (q : Nat) : Bool := p.hasCluster (State.clusterAt q)
/-- The number of slices S (R146). -/
def slices (p : Part) : Nat := 8 * p.cw * p.ch
/-- The slice number 32y + x of the partition's slice of an index: y ascending, then x (R146, R177). -/
def sliceAt (p : Part) (i : Nat) : Nat :=
  32 * (4 * p.cy0 + i / (2 * p.cw)) + 2 * p.cx0 + i % (2 * p.cw)
/-- The owned channels, ascending (R12, R21, R147): eight per owned octet. -/
def octets (p : Part) : List Nat := (List.range 64).filter fun k => p.w2.getLsbD k
/-- The number of owned channels C. -/
def channels (p : Part) : Nat := 8 * p.octets.length
/-- First exit and span size (R21). -/
def spanBase (p : Part) : Nat := p.w0.toNat / 2 ^ 6 % 64
/-- Log2 of the span size (R21). -/
def spanLog (p : Part) : Nat := p.w0.toNat / 2 ^ 12 % 16
/-- First counter ID (R21). -/
def cidBase (p : Part) : Nat := 16 * (p.w0.toNat / 2 ^ 16 % 256)
/-- Counter IDs owned (R21). -/
def cidCount (p : Part) : Nat := 16 * (p.w0.toNat / 2 ^ 24 % 512)

end Part

namespace State

/-- A logical core that exists and lies in a partition (R18, R141). -/
def coreIn (s : State) (pid n : Nat) : Bool :=
  n < s.ncore && (match s.part pid with
    | some p => p.hasPos (s.physOf n)
    | none => false)

/-- The enabled cores of a partition, ascending (R25: group entry 0). -/
def partCores (s : State) (pid : Nat) : List Nat := (List.range s.ncore).filter (s.coreIn pid ·)

/-- The cores of a group entry of a partition; none where the entry is invalid (R25). -/
def group (s : State) (pid e : Nat) : Option (List Nat) :=
  if e = 0 then some (s.partCores pid) else match s.part pid with
    | some p => FMap.find? p.groups e
    | none => none

/-! ### Registers -/

/-- What a word reads: the bundle's state before either word of a pair wrote (R60). -/
def src (s : State) : Src := match s.cur.src with
  | some x => x
  | none => { g := s.me.g, p := s.me.p, slot := s.me }

/-- Read a general register: `g0` reads 0 (R5). -/
def rg (s : State) (a : BitVec 6) : Word := if a = 0 then 0 else s.src.g[a.toNat]
/-- Read a general register by number; numbers past 63 read 0 (no instruction that passes R72 reads one). -/
def rgn (s : State) (n : Nat) : Word := if n < 64 then s.rg (BitVec.ofNat 6 n) else 0
/-- Read a predicate: `p0` reads 1 (R5). -/
def rp (s : State) (n : BitVec 3) : Bool := n = 0 || s.src.p.getLsbD n.toNat

end State

/-- Write a general register of a slot: writing `g0` has no effect (R5). -/
def Slot.wg (x : Slot) (d : BitVec 6) (v : Word) : Slot :=
  if d = 0 then x else { x with g := x.g.set d.toNat v }

/-- Bit n of `p` set to a value. -/
def setBit8 (p : BitVec 8) (n : Nat) (v : Bool) : BitVec 8 :=
  if v then p ||| (1#8 <<< n) else p &&& ~~~(1#8 <<< n)

/-- Write a predicate of a slot: writing `p0` has no effect (R5). -/
def Slot.wp (x : Slot) (n : BitVec 3) (v : Bool) : Slot :=
  if n = 0 then x else { x with p := setBit8 x.p n.toNat v }

/-- Write what a reply writes. -/
def Slot.wr (x : Slot) : Wr → Slot
  | .g n v => x.wg (BitVec.ofNat 6 n) v
  | .p n v => x.wp (BitVec.ofNat 3 n) v
  | .flags v => { x with fflags := x.fflags ||| v }

/-- Write several. -/
def Slot.wrs (x : Slot) (ws : List Wr) : Slot := ws.foldl Slot.wr x

namespace State

/-- Write a general register of the executing slot. -/
def wg (s : State) (d : BitVec 6) (v : Word) : State := s.updMe (·.wg d v)
/-- Write a predicate of the executing slot. -/
def wp (s : State) (n : BitVec 3) (v : Bool) : State := s.updMe (·.wp n v)
/-- Set sticky floating flags of the executing slot (R28 %FFLAGS). -/
def orFlags (s : State) (f : BitVec 5) : State := s.updMe fun x =>
  { x with fflags := x.fflags ||| f.zeroExtend 64, raised := x.raised ||| f.zeroExtend 64 }
/-- The bundle address (R59). -/
def addr (s : State) : Word := s.me.pc
/-- The executing core. -/
def here (s : State) : Core := s.core s.cur.core

/-! ### Parking -/

/-- Park the executing slot on what its C-word waits for (R33). -/
def parkC (s : State) (w : Wait) : State := s.updMe fun x => { x with mode := .parked, cWait := some w }
/-- Park the executing slot on what its A-word waits for (R33, R62). -/
def parkA (s : State) (w : Wait) : State := s.updMe fun x => { x with mode := .parked, aWait := some w }
/-- Park the executing slot so that the whole bundle is executed again on the wake, under the decode tables in force when it issued
(R90). -/
def replay (s : State) (w : Wait) : State := s.updMe fun x =>
  { x with mode := .parked, cWait := some w, fate := .replay, tabs := some (x.tabs.getD (s.cvf s.cur.core).tables) }

/-! ### Homes, marks, publication (R156-R166) -/

end State

/-- Two byte ranges meet. -/
def overlap (a n b m : Nat) : Bool := a < b + m && b < a + n

/-- Little-endian value of bytes (R4). -/
def leVal : List Byte → Nat
  | [] => 0
  | b :: r => b.toNat + 256 * leVal r

/-- The low n bytes of a value, lowest first (R4). -/
def leBytes : Nat → Nat → List Byte
  | 0, _ => []
  | n + 1, v => BitVec.ofNat 8 v :: leBytes n (v / 256)

/-- The O bit of the word at a key: the PQ holds a store to it (R144). -/
def Core.owned (k : Core) (key : Nat) : Bool := k.pq.any fun e => overlap e.key e.bytes.length key 4

/-- A PQ entry covers a byte of the range. -/
def Core.covered (k : Core) (key n : Nat) : Bool := k.pq.any fun e => overlap e.key e.bytes.length key n

/-- The byte the youngest entry of the PQ gives for a key (R161). -/
def Core.pqByte (k : Core) (key : Nat) : Option Byte :=
  k.pq.foldl (fun b e => if e.key ≤ key ∧ key < e.key + e.bytes.length then some (e.bytes.getD (key - e.key) 0) else b) none

/-- The bytes of a range from the PQ, if it covers them all. -/
def Core.pqBytes (k : Core) (key n : Nat) : Option (List Byte) := (List.range n).mapM fun i => k.pqByte (key + i)

/-- A 32-bit word at a key with the bytes of the PQ on top. -/
def Core.pqWord (k : Core) (key : Nat) (v : Half) : Half :=
  BitVec.ofNat 32 (leVal ((List.range 4).map fun i => (k.pqByte (key + i)).getD (BitVec.ofNat 8 (v.toNat / 256 ^ i))))

/-- A 32-bit word at a key with the bytes of a store on top. -/
def overlay (key : Nat) (v : Half) (at_ : Nat) (bs : List Byte) : Half :=
  BitVec.ofNat 32 (leVal ((List.range 4).map fun i =>
    if at_ ≤ key + i ∧ key + i < at_ + bs.length then bs.getD (key + i - at_) 0 else BitVec.ofNat 8 (v.toNat / 256 ^ i)))

/-- The words of a line that a range touches. -/
def lineWords (key n : Nat) : List Nat := (List.range ((key % 4 + n + 3) / 4)).map fun i => key % 128 / 4 + i

/-- The words of a line that stay: those with O = 1. -/
def Core.keepOwned (k : Core) (line : Nat) (l : L1Line) : L1Line :=
  { l with words := l.words.filter fun w => k.owned (line * 128 + w.1 * 4) }

/-- Self-invalidate the L view (R165 step 2): V clears on every word with O = 0, and no fill asked for before writes. -/
def Core.selfInvalidate (k : Core) : Core :=
  { k with
    l1 := (k.l1.map fun e => (e.1, k.keepOwned e.1 e.2)).filter fun e => !e.2.words.isEmpty
    fills := k.fills.map fun e => (e.1, { e.2 with stale := true }) }

/-- A line of the L view is used (R144: least recently used). -/
def Core.useLine (k : Core) (line : Nat) : Core := { k with
  uses := k.uses + 1
  l1 := k.l1.map fun e => if e.1 = line then (e.1, { e.2 with used := k.uses + 1 }) else e }

/-- A store of the core changes its L copy only when every word it touches is there (R144); a store of all 8 bytes of a word
clears its poison (R155). A word that is there beside one that is not loses its copy, which the store has made old (R170,
assumption 54). -/
def Core.storeL1 (k : Core) (key : Nat) (bs : List Byte) : Core :=
  match FMap.find? k.l1 (key / 128) with
  | none => k
  | some l =>
    let ws := lineWords key bs.length
    if ws.all fun w => (FMap.find? l.words w).isSome then
      let words := ws.foldl (fun m w =>
        FMap.insert m w (overlay (key / 128 * 128 + w * 4) (FMap.getD m w 0) key bs)) l.words
      ({ k with l1 := FMap.insert k.l1 (key / 128) { l with
          words := words
          poison := if bs.length = 8 then l.poison.filter fun w => !ws.contains w else l.poison } } : Core).useLine (key / 128)
    else
      let words := l.words.filter fun w => !ws.contains w.1
      { k with l1 := if words.isEmpty then FMap.erase k.l1 (key / 128)
                     else FMap.insert k.l1 (key / 128) { l with words := words } }

/-- A store sets the O bit of its words while a fill is outstanding: the fill leaves them alone (R162). -/
def Core.blockFills (k : Core) (key : Nat) (bs : List Byte) : Core :=
  { k with fills := k.fills.map fun f =>
      if f.2.line = key / 128 then
        let ws := lineWords key bs.length
        (f.1, { f.2 with
          blocked := f.2.blocked ++ ws
          stored := f.2.stored ++ [(key, bs.length)]
          patched := f.2.patched.map fun p =>
            if ws.contains p.1 then (p.1, overlay (key / 128 * 128 + p.1 * 4) p.2 key bs) else p })
      else f }

namespace State

/-- The value at home of n bytes (R163). -/
def home (s : State) (key n : Nat) : Nat := leVal (s.mem.read key n)

/-- The next tick of the order of marks and uses. -/
def ticked (s : State) : State := { s with tick := s.tick + 1 }

/-- The marks of a home word (R156). -/
def marksAt (s : State) (key : Nat) : List Mark := FMap.getD s.marks (key / 8) []

/-- A slice holds the data of a word (R150); `w` is the word's key div 8. -/
def holdsWord (s : State) (w : Nat) : Bool := s.slices.any fun k => k.2.sets.any fun e => e.2.any fun l =>
  l.line = w / 16 && l.sectors.getLsbD (w % 16 / 4)

/-- The home, 256 · slice + set, of a line that a slice's array has. -/
def holder (s : State) (line : Nat) : Option Nat := s.slices.findSome? fun k => k.2.sets.findSome? fun e =>
  if e.2.any (·.line = line) then some (256 * k.1 + e.1) else none

/-- A slice has a line in its array. -/
def holdsLine (s : State) (line : Nat) : Bool := s.slices.any fun k => k.2.sets.any fun e => e.2.any fun l => l.line = line

/-- A slice holds the line of a word, but neither its sector's data nor a fill of it on its way: a read reads the memory behind. -/
def sectorAbsent (s : State) (w : Nat) : Bool := s.slices.any fun k =>
  (k.2.sets.any fun e => e.2.any fun l => l.line = w / 16 && !l.sectors.getLsbD (w % 16 / 4)) &&
  !k.2.miss.any fun e => e.line = w / 16 && (FMap.find? e.pend (w % 16 / 4)).isSome

/-- A word is poisoned where it is read from (R154). -/
def wordPoisoned (s : State) (w : Nat) : Bool := (FMap.find? (if s.sectorAbsent w then s.hbmPoison else s.poison) w).isSome

/-- A word of the range is poisoned (R154). -/
def poisoned (s : State) (key n : Nat) : Bool :=
  (List.range (n / 8 + 2)).any fun i => overlap ((key / 8 + i) * 8) 8 key n && s.wordPoisoned (key / 8 + i)

/-- The bytes of a sector that a range covers (R153). -/
def sectorMask (key n : Nat) : BitVec 32 := BitVec.ofNat 32 ((2 ^ n - 1) * 2 ^ (key % 32))

/-- What stands at home for a word has taken the place of what memory holds: its sector is in the slice, or writes have covered all of it
while the sector is on its way (R153). -/
def wordHere (s : State) (w : Nat) : Bool := s.holdsWord w || s.slices.any fun k => k.2.miss.any fun e =>
  e.line = w / 16 && (FMap.find? e.pend (w % 16 / 4)).any fun p => p &&& sectorMask (8 * w) 8 = sectorMask (8 * w) 8

/-- The memory behind a home holds new bytes: a word written whole is not poisoned there (R154). -/
def wroteMemory (s : State) (key n : Nat) : State :=
  { s with hbmPoison := s.hbmPoison.filter fun e => !(key ≤ 8 * e.1 && 8 * e.1 + 8 ≤ key + n) }

/-- The flags of the memory behind a line take those of the words that were written back from it (R154). -/
def writtenFlags (s : State) (line : Nat) : FMap Unit :=
  ((List.range 16).map (16 * line + ·)).foldl (fun m w =>
    if !s.wordHere w then m else if (FMap.find? s.poison w).isSome then FMap.insert m w () else FMap.erase m w) s.hbmPoison

/-- Set the marks of a home word. -/
def setMarks (s : State) (key : Nat) (ms : List Mark) : State :=
  { s with marks := if ms.isEmpty then FMap.erase s.marks (key / 8) else FMap.insert s.marks (key / 8) ms }

/-- Write bytes at home within one word: a write of all 8 bytes clears poison (R155). -/
def putHome (s : State) (key : Nat) (bs : List Byte) : State :=
  { s with
    mem := s.mem.write key bs
    poison := if bs.length = 8 then FMap.erase s.poison (key / 8) else s.poison }

/-- Poison flags of the words of a line: those of one copy take the place of those of another (R154). -/
def copyFlags (line : Nat) (src dst : FMap Unit) : FMap Unit :=
  (src.filter fun w => w.1 / 16 = line).foldl (fun m w => FMap.insert m w.1 ()) (dst.filter fun w => w.1 / 16 ≠ line)

end State

/-- The marks a word holds after one is added (R160): a mark of the same core merges into one with the larger seq and the
wider scope; otherwise it joins at the end. -/
def addMark (ms : List Mark) (m : Mark) : List Mark :=
  if ms.any (·.core = m.core)
  then ms.map fun x => if x.core = m.core then { x with seq := Nat.max x.seq m.seq, sys := x.sys || m.sys } else x
  else ms ++ [m]

/-- The acquire side of a home read (R165): the forces of its marks. -/
def forcesOf (ms : List Mark) : List Force := ms.map fun m => { mark := m, asked := false, acked := false }

namespace State

/-- What a waiting word waits for next once it holds its result: the forces of an acquire, or nothing (R165). With no
mark the L view is self-invalidated at once. -/
def finishAcquire (s : State) (c vk n : Nat) (acq sys keep : Bool) (ms : List Mark) (ws : List Wr) : State :=
  if acq then
    if ms.isEmpty then (s.updCore c (·.selfInvalidate)).updSlotV c vk n fun x => { x with cWait := some (.done ws) }
    else s.updSlotV c vk n fun x => { x with cWait := some (.acquire (forcesOf ms) sys ws keep) }
  else s.updSlotV c vk n fun x => { x with cWait := some (.done ws) }

/-- Change a line of an L1, allocating it where it is missing: of four lines of its set the least recently used leaves
(R144). -/
def l1Put (k : Core) (line set : Nat) (f : L1Line → L1Line) : Core :=
  match FMap.find? k.l1 line with
  | some l => { k with uses := k.uses + 1, l1 := FMap.insert k.l1 line (f { l with used := k.uses + 1 }) }
  | none =>
    let peers := k.l1.filter fun e => e.2.set = set
    let lru := peers.foldl (fun (b : Option (Nat × L1Line)) e => match b with
      | none => some e
      | some q => if e.2.used < q.2.used then some e else b) none
    let l1 := match lru with
      | some e => if 4 ≤ peers.length then FMap.erase k.l1 e.1 else k.l1
      | none => k.l1
    { k with
      uses := k.uses + 1
      l1 := FMap.insert l1 line (f { set := set, used := k.uses + 1, words := [], poison := [] }) }

/-- A home-direct operation of a core leaves a value at home: its L view takes it where it holds the word, or where the sector's fill is
outstanding, with the core's own stores to other bytes of the word on top (R162, R170; that a copy with O = 1 takes it is
assumption 73). `words` are the line's words by index. -/
def patchL1 (k : Core) (line : Nat) (words : List (Nat × Half)) : Core := words.foldl (fun k w =>
  let pend := List.find? (fun (f : Nat × Fill) => f.2.line = line && f.2.sector = w.1 / 8) k.fills
  let put (v : Half) (l : L1Line) : L1Line :=
    { l with words := FMap.insert l.words w.1 v, poison := l.poison.filter (· ≠ w.1) }
  match pend with
  | some f =>
    let v := k.pqWord (line * 128 + w.1 * 4) w.2
    l1Put { k with fills := k.fills.map fun f =>
      if f.2.line = line ∧ f.2.sector = w.1 / 8 then (f.1, { f.2 with patched := FMap.insert f.2.patched w.1 v, poison := f.2.poison.filter (· ≠ w.1) }) else f }
      line f.2.set (put v)
  | none => match FMap.find? k.l1 line with
    | some l =>
      if (FMap.find? l.words w.1).isSome then
        { k with l1 := FMap.insert k.l1 line (put (k.pqWord (line * 128 + w.1 * 4) w.2) l) }
      else k
    | none => k) k

/-- The 32-bit words at home of a range. -/
def wordsAt (s : State) (key n : Nat) : List (Nat × Half) :=
  (List.range ((key % 4 + n + 3) / 4)).map fun i =>
    (key % 128 / 4 + i, BitVec.ofNat 32 (leVal (s.mem.read (key / 4 * 4 + 4 * i) 4)))

/-- The L view of a core after a home-direct operation on a cached range (R162). -/
def homeDirect (s : State) (c key n : Nat) (cached : Bool) : State :=
  if cached then s.updCore c fun k => patchL1 k (key / 128) (s.wordsAt key n) else s

/-- A watch of a slot on the word that was just written: compare, and go on where the value differs (R168); a poisoned word
traps (R361), and a time-out that has run out ends the watch (R169). -/
def recompareAt (s : State) (c n : Nat) (key : Nat) : State :=
  match (s.slot c n).cWait with
  | some (.watch op u pd) =>
    if op.key / 8 ≠ key / 8 then s
    else if u.any (· ≤ (s.core c).cyc.toNat) then s.updSlot c n fun x => { x with cWait := some (.done [.p pd true]) }
    else if s.poisoned op.key op.size then s.updSlot c n fun x => { x with cWait := some (.trap 0x0B op.va) }
    else if s.home op.key op.size ≠ op.cmp.toNat % 2 ^ (8 * op.size) then
      let ws := match u with
        | none => [Wr.g op.d (BitVec.ofNat 64 (s.home op.key op.size))]
        | some _ => [Wr.p pd false]
      (s.homeDirect c op.key op.size op.cached).finishAcquire c (s.vk c) n op.acq op.sys false (s.marksAt key) ws
    else s
  | _ => s

/-- Every watch on a word just written compares again (WAITW_RECOMPARE, R168). -/
def recompare (s : State) (key : Nat) : State :=
  s.cores.foldl (fun t e => (List.range 16).foldl (fun t n => t.recompareAt e.1 n key) t) s

/-- Arrival of an ordinary store at a home word (R160): value written, marks cleared. -/
def storeHome (s : State) (key : Nat) (bs : List Byte) : State :=
  ((s.putHome key bs).setMarks key []).recompare key

/-- Arrival of a PQ entry at its home (R160): a release entry's mark replaces the word's marks. A mark's age is the moment it
stands on a word. -/
def entryHome (s : State) (e : PqEntry) : State :=
  ((s.putHome e.key e.bytes).setMarks e.key (e.mark.toList.map ({ · with age := s.tick }))).ticked.recompare e.key

/-- Write bytes at home as ordinary stores, word by word (R160, R172): `n` bounds the words. -/
def writeHome (s : State) (key : Nat) : Nat → List Byte → State
  | 0, _ => s
  | n + 1, bs =>
    if bs.isEmpty then s
    else (s.storeHome key (bs.take (8 - key % 8))).writeHome (key + (8 - key % 8)) n (bs.drop (8 - key % 8))

/-- A key of a scratchpad byte (assumption 2). -/
def isSp (key : Nat) : Bool := 2 ^ 50 ≤ key && key < 2 ^ 64
/-- The core whose scratchpad a key lies in. -/
def spCore (key : Nat) : Nat := (key - 2 ^ 50) % 2 ^ 30 / 2 ^ 18

/-- The owner of a scratchpad bank of a core (R242). -/
def spOwned (s : State) (core vf off : Nat) : Bool := FMap.find? (s.core core).spTag (off / 2048) = some vf

/-- Ask for a bank exchange (R242), once. -/
def askBank (s : State) (kind unit idx vf : Nat) : State :=
  let x : Xfer := { kind := kind, unit := unit, idx := idx, vf := vf }
  if s.xfers.contains x then s else { s with xfers := s.xfers ++ [x] }

/-- The bank of a key is a VF's (R242); places other than scratchpads have none. -/
def bankReady (s : State) (key vf : Nat) : Bool :=
  !isSp key || s.spOwned (spCore key) vf (key % Config.spBytes)

/-- Ask for the scratchpad bank of a key (R242). -/
def askKeyBank (s : State) (key vf : Nat) : State := s.askBank 1 (spCore key) (key % Config.spBytes / 2048) vf

/-- The scratchpad bank of a key is exchanged within a step that must reach it (R242): the contents of a bank stand under the key of
their VF, so that its tag is all that changes. -/
def takeBank (s : State) (key vf : Nat) : State :=
  if s.bankReady key vf then s
  else s.updCore (spCore key) fun k => { k with spTag := FMap.insert k.spTag (key % Config.spBytes / 2048) vf }

/-- Write a block at home as engines do (R172): the memory behind the home takes the bytes as well. -/
def engineWrite (s : State) (key : Nat) (bs : List Byte) : State :=
  let t := s.writeHome key (bs.length / 8 + 2) bs
  if isSp key then t
  else { t.wroteMemory key bs.length with behind := t.behind.write key bs }

/-- The memory behind a home takes its line, and every store that has reached the line is published (R166). A scratchpad
has no memory behind it. -/
def publishLine (s : State) (line : Nat) : State :=
  if isSp (line * 128) then s
  else { s with
    behind := s.behind.write (line * 128) (s.mem.read (line * 128) 128)
    hbmPoison := if s.holdsLine line then s.writtenFlags line else s.hbmPoison.filter fun w => w.1 / 16 ≠ line
    cores := s.cores.map fun e => (e.1, { e.2 with unpub := e.2.unpub.filter fun q => q.key / 128 ≠ line }) }

/-- One entry of a core's PQ reaches its home (R159); it is then unpublished, unless no memory stands behind the home or
the home works on memory directly (R148, R166). -/
def drainEntry (s : State) (c : Nat) (e : PqEntry) : State :=
  let t := (s.entryHome e).updCore c fun k =>
    { k with
      pq := k.pq.filter (·.seq ≠ e.seq)
      unpub := if e.slice.isSome && e.cached then k.unpub ++ [e] else k.unpub }
  if e.slice.isSome && !e.cached then (t.wroteMemory e.key e.bytes.length).publishLine (e.key / 128) else t

/-- A store entry enters the PQ with the next seq (R157), sets O on its words and updates the L copy (R144). -/
def enterPq (s : State) (c : Nat) (e : PqEntry) : State :=
  s.updCore c fun k =>
    let e := { e with seq := (k.seq + 1).toNat }
    (({ k with seq := k.seq + 1, pq := k.pq ++ [e] } : Core).storeL1 e.key e.bytes).blockFills e.key e.bytes

/-- The PQ of a core has no room (R157). -/
def pqIsFull (s : State) (c : Nat) : Bool := Config.pqSize ≤ (s.core c).pq.length

/-- The entry lies in another core's scratchpad (R334). -/
def remoteKey (c key : Nat) : Bool := isSp key && spCore key ≠ c

/-! ### Requests -/

/-- Send a request of a slot (R158). -/
def newReq (s : State) (r : Req) : State := { s with reqs := FMap.insert s.reqs s.nextReq r, nextReq := s.nextReq + 1 }

/-- A parked slot's C-word waits for something else. -/
def setWait (s : State) (c vk n : Nat) (w : Wait) : State := s.updSlotV c vk n fun x => { x with cWait := some w }

/-- The mark a releasing operation carries (R164): the youngest entry of the PQ, if there is one. -/
def releaseMark (s : State) (c : Nat) (sys : Bool) : Option Mark :=
  match (s.core c).pq.getLast? with
  | some e => some { core := c, seq := e.seq, sys := sys, age := s.tick }
  | none => none

/-- Every entry of a core up to a seq has reached its home, and is published where `sys` (R165, R167; assumption 12). -/
def forced (s : State) (c seq : Nat) (sys : Bool) : Bool :=
  !((s.core c).pq.any (·.seq ≤ seq)) && !(sys && (s.core c).unpub.any (·.seq ≤ seq))

/-- A mark's stores have been published as its scope asks. -/
def markForced (s : State) (m : Mark) (sys : Bool) : Bool := s.forced m.core m.seq (m.sys || sys)

/-- The word of the mark table that is reused when all 64 entries of a core are in use (R142): the one whose newest mark is
the oldest. -/
def markVictim (s : State) (c : Nat) : Option (Nat × List Mark) :=
  let l := s.marks.filter fun e => isSp (e.1 * 8) && spCore (e.1 * 8) = c
  let newest (ms : List Mark) : Nat := ms.foldl (fun a m => Nat.max a m.age) 0
  if l.length < Config.spMarks then none
  else l.foldl (fun b e => match b with
    | none => some e
    | some q => if newest e.2 < newest q.2 then some e else b) none

/-- Room for a mark table entry of a word (R142): none while a force of the reused entry's marks is outstanding. -/
def roomForEntry (s : State) (key : Nat) : Option State :=
  if !isSp key || !(s.marksAt key).isEmpty then some s
  else match s.markVictim (spCore key) with
    | none => some s
    | some e => if e.2.all (s.markForced · false) then some (s.setMarks (e.1 * 8) []) else none

/-- Add a mark to a home word (R160): none while the force of a fifth mark's oldest predecessor is outstanding. -/
def giveMark (s : State) (key : Nat) (m : Mark) : Option State :=
  let ms := s.marksAt key
  let m := { m with age := s.tick }
  let s := s.ticked
  if ms.any (·.core = m.core) then some (s.setMarks key (addMark ms m))
  else match ms with
    | o :: _ :: _ :: _ :: _ => if s.markForced o false then some (s.setMarks key (addMark (ms.drop 1) m)) else none
    | _ => (s.roomForEntry key).map fun t => t.setMarks key (addMark ms m)

/-! ### Performance counters (R250-R253) -/

/-- Counter `i` of a VF's set adds `n` of event `ev` by slot `sl` (R250, R253). -/
def addCounter (x : CoreVf) (i : Nat) (ev sl n : Nat) : CoreVf :=
  if h : i < 8 then
    let sel := x.pmsel[i]
    if n ≠ 0 ∧ x.pmEn.getLsbD i ∧ !x.pmUnsup.getLsbD i ∧ sel.toNat % 256 = ev ∧ ev ≠ 0 ∧
       (!sel.getLsbD 12 || sel.toNat / 256 % 16 = sl) then
      let sum := x.pmc[i].toNat + n
      let x := { x with pmc := x.pmc.set i (BitVec.ofNat 48 sum) }
      if 2 ^ 48 ≤ sum ∧ !x.pmOvf.getLsbD i then
        let t := x.pmTgt.toNat % 16
        { x with
          pmOvf := setBit8 x.pmOvf i true
          slots := FMap.insert x.slots t { (FMap.getD x.slots t {}) with pendOvf := true } }
      else x
    else x
  else x

/-- An event of a slot counts in every counter that selects it. -/
def addEvent (x : CoreVf) (ev sl n : Nat) : CoreVf := (List.range 8).foldl (fun x i => addCounter x i ev sl n) x

/-- An event counts for a VF on a core: at once if the VF runs there, else, and from the
order of its switch on, in its deferred sums (R251, R252, R263). -/
def countFor (s : State) (c vkey ev sl n : Nat) : State :=
  s.updCore c fun k =>
    if k.vkey = vkey && k.switchTo.isNone then k.setCvf (addEvent k.cvf ev sl n)
    else
      let x : CoreVf := FMap.getD k.vfs vkey {}
      { k with vfs := FMap.insert k.vfs vkey { x with deferred := x.deferred ++ [(ev, sl, n)] } }

/-- An event of a slot of the running VF (R251). -/
def count (s : State) (c ev sl n : Nat) : State := s.countFor c (s.vk c) ev sl n

/-- Count what a slice tagged a reply with (R251): 0 hit, 1 miss, 2 bypass. -/
def countTag (s : State) (c vf n tag : Nat) : State :=
  if tag = 0 then s.countFor c (vf + 1) 0x10 n 1
  else if tag = 2 then (s.countFor c (vf + 1) 0x11 n 1).countFor c (vf + 1) 0x12 n 1
  else s.countFor c (vf + 1) 0x11 n 1

/-- The VF running on a core counts fabric events (R246, R251). -/
def fab (s : State) (c : Nat) : Bool := match ((s.core c).vf).bind s.vfRec with
  | some v => v.w0.getLsbD 20 && (s.core c).switchTo.isNone
  | none => false

end State

/-- The value an operation writes for the bytes it read: sign- or zero-extended (R317). -/
def MemOp.result (op : MemOp) (v : Nat) : Word :=
  if op.sext then (BitVec.ofNat (8 * op.size) v).signExtend 64 else BitVec.ofNat 64 v

end Sys2Proof.Machine
end

