-- ==== Sys2Proof/Machine/Operands.lean ====
section
/-! DEFINITION. Operand forms: immediates and targets (R65), the 32- and 64-bit views of registers (R69, R283), signed
readings, shift amounts. -/

namespace Sys2Proof.Machine

/-- A 12-bit immediate, sign-extended (R65). -/
def imm12 (i : BitVec 12) : Word := i.signExtend 64
/-- An upper immediate: SignExt(imm18 << 12, 29) (R65). -/
def immUpper (i : BitVec 18) : Word := (i ++ (0 : BitVec 12)).signExtend 64
/-- A BR offset in bytes: 4 · SignExt(off20, 19) (R65). -/
def brOffset (o : BitVec 20) : Word := (o ++ (0 : BitVec 2)).signExtend 64
/-- A JAL offset in bytes: 4 · SignExt(imm18, 17) (R65). -/
def jalOffset (i : BitVec 18) : Word := (i ++ (0 : BitVec 2)).signExtend 64

/-- The operand width in bits of an A-word with a W bit: 32 when W = 1, else 64 (R283). -/
def bitsA (w : BitVec 1) : Nat := if w = 1 then 32 else 64
/-- The operand size in bytes of an MO word: 4 when W = 0, else 8 (R283). -/
def bytesM (w : BitVec 1) : Nat := if w = 1 then 8 else 4
/-- Src(v) over n bits (R283). -/
def srcBits (n : Nat) (v : Word) : Nat := v.toNat % 2 ^ n
/-- Res(v): the low n bits, sign-extended (R283). -/
def resBits (n : Nat) (v : Nat) : Word := (BitVec.ofNat n v).signExtend 64
/-- The signed reading of an n-bit number (R5). -/
def signedOf (n v : Nat) : Int := if v < 2 ^ (n - 1) then v else (v : Int) - 2 ^ n
/-- The n-bit pattern of an integer (R5). -/
def patternOf (n : Nat) (v : Int) : Nat := (v % 2 ^ n).toNat
/-- The first byte's offset at which an access of n bytes is misaligned: the address itself (R139). -/
def aligned (va : Word) (n : Nat) : Bool := va.toNat % n = 0

end Sys2Proof.Machine
end

