-- ==== Sys2Proof/Machine/Flags.lean ====
section
/-! DEFINITION. Conditions of compares (R295) and the sticky floating flags of %FFLAGS (R28). -/

namespace Sys2Proof.Machine

/-- A condition code of CMP and CMPI over two n-bit patterns (R295): EQ, NE, LT, GE, LTU, GEU. -/
def condition (c : BitVec 3) (n x y : Nat) : Bool := match c.toNat with
  | 0 => x = y
  | 1 => x ≠ y
  | 2 => signedOf n x < signedOf n y
  | 3 => !(decide (signedOf n x < signedOf n y))
  | 4 => x < y
  | _ => !(decide (x < y))

/-- NV, invalid operation (R28 %FFLAGS [4]). -/
def flagNV : BitVec 5 := 16
/-- DZ, division by zero ([3]). -/
def flagDZ : BitVec 5 := 8
/-- OF, overflow ([2]). -/
def flagOF : BitVec 5 := 4
/-- UF, underflow ([1]). -/
def flagUF : BitVec 5 := 2
/-- NX, inexact ([0]). -/
def flagNX : BitVec 5 := 1

end Sys2Proof.Machine
end

