-- ==== Sys2Proof/Machine/Alu.lean ====
section
/-! DEFINITION. Integer A-words: register operations (R284, R301, R302, R323), immediates (R285, R324), LUI and ADDPC (R319,
R289), compares and predicates (R295, R296, R325), SEL and MOVP (R329, R320). -/

namespace Sys2Proof.Machine

/-! ### Operations over n-bit numbers -/

/-- ADD: (x + y) mod 2^n. -/
def opAdd (n x y : Nat) : Nat := (x + y) % 2 ^ n
/-- SUB: (x − y) mod 2^n. -/
def opSub (n x y : Nat) : Nat := (x + (2 ^ n - y)) % 2 ^ n
/-- AND. -/
def opAnd (_n x y : Nat) : Nat := x &&& y
/-- OR. -/
def opOr (_n x y : Nat) : Nat := x ||| y
/-- XOR. -/
def opXor (_n x y : Nat) : Nat := x ^^^ y
/-- ANDN: x AND NOT y. -/
def opAndn (n x y : Nat) : Nat := x &&& (2 ^ n - 1 - y)
/-- SLL by y mod n. -/
def opSll (n x y : Nat) : Nat := x * 2 ^ (y % n) % 2 ^ n
/-- SRL by y mod n. -/
def opSrl (n x y : Nat) : Nat := x / 2 ^ (y % n)
/-- SRA by y mod n: copies of the top bit shifted in. -/
def opSra (n x y : Nat) : Nat := patternOf n (signedOf n x / 2 ^ (y % n))
/-- MIN, signed. -/
def opMin (n x y : Nat) : Nat := if signedOf n x ≤ signedOf n y then x else y
/-- MAX, signed. -/
def opMax (n x y : Nat) : Nat := if signedOf n x ≤ signedOf n y then y else x
/-- MINU, unsigned. -/
def opMinu (_n x y : Nat) : Nat := if x ≤ y then x else y
/-- MAXU, unsigned. -/
def opMaxu (_n x y : Nat) : Nat := if x ≤ y then y else x
/-- MUL: the low n bits of the product. -/
def opMul (n x y : Nat) : Nat := x * y % 2 ^ n
/-- MULH: the high n bits of the signed product. -/
def opMulh (n x y : Nat) : Nat := patternOf n (signedOf n x * signedOf n y / 2 ^ n)
/-- MULHU: the high n bits of the unsigned product. -/
def opMulhu (n x y : Nat) : Nat := x * y / 2 ^ n
/-- DIV: the signed quotient, truncated towards zero; all ones for y = 0; x for the overflow (R301). -/
def opDiv (n x y : Nat) : Nat := if y = 0 then 2 ^ n - 1 else patternOf n (Int.tdiv (signedOf n x) (signedOf n y))
/-- DIVU: the unsigned quotient; all ones for y = 0 (R301). -/
def opDivu (n x y : Nat) : Nat := if y = 0 then 2 ^ n - 1 else x / y
/-- REM: the remainder with the sign of x; x for y = 0 (R323). -/
def opRem (n x y : Nat) : Nat := if y = 0 then x else patternOf n (Int.tmod (signedOf n x) (signedOf n y))
/-- REMU: the unsigned remainder; x for y = 0 (R323). -/
def opRemu (_n x y : Nat) : Nat := if y = 0 then x else x % y
/-- CLZ: the 0 bits above the highest 1; n for x = 0. -/
def opClz (n x : Nat) : Nat := if x = 0 then n else n - 1 - Nat.log2 x
/-- CTZ over the bits from the lowest: `k` counts the bits left to look at. -/
def ctzFrom : Nat → Nat → Nat
  | 0, _ => 0
  | k + 1, x => if x % 2 = 1 then 0 else 1 + ctzFrom k (x / 2)
/-- CTZ: the 0 bits below the lowest 1; n for x = 0. -/
def opCtz (n x : Nat) : Nat := ctzFrom n x
/-- The 1 bits among the lowest `k`. -/
def popcFrom : Nat → Nat → Nat
  | 0, _ => 0
  | k + 1, x => x % 2 + popcFrom k (x / 2)
/-- POPC: the 1 bits of x. -/
def opPopc (n x : Nat) : Nat := popcFrom n x
/-- BSWAP: byte i moved to byte n/8 − 1 − i. -/
def opBswap (n x : Nat) : Nat := leVal (leBytes (n / 8) x).reverse

namespace State

/-- A register operation of two sources (R284): Res of the operation over the sources' low bits. -/
def alu2 (s : State) (d a b : BitVec 6) (w : BitVec 1) (f : Nat → Nat → Nat → Nat) : State :=
  s.wg d (resBits (bitsA w) (f (bitsA w) (srcBits (bitsA w) (s.rg a)) (srcBits (bitsA w) (s.rg b))))

/-- A register operation of one source (R284). -/
def alu1 (s : State) (d a : BitVec 6) (w : BitVec 1) (f : Nat → Nat → Nat) : State :=
  s.wg d (resBits (bitsA w) (f (bitsA w) (srcBits (bitsA w) (s.rg a))))

/-- A division (R302): the slot parks until the result returns. -/
def divide (s : State) (d a b : BitVec 6) (w : BitVec 1) (f : Nat → Nat → Nat → Nat) : State :=
  s.parkA (.divide [.g d.toNat
    (resBits (bitsA w) (f (bitsA w) (srcBits (bitsA w) (s.rg a)) (srcBits (bitsA w) (s.rg b))))])

/-- A shift by an immediate (R324). -/
def shiftImm (s : State) (d a : BitVec 6) (w : BitVec 1) (k : BitVec 6) (f : Nat → Nat → Nat → Nat) : State :=
  s.wg d (resBits (bitsA w) (f (bitsA w) (srcBits (bitsA w) (s.rg a)) k.toNat))

end State

/-! ### The instructions -/

/-- ADD (R284). -/
def execAdd (d a b : BitVec 6) (w : BitVec 1) (s : State) : Host.Outcome State Fault Refusal := .next (s.alu2 d a b w opAdd)
/-- SUB (R323). -/
def execSub (d a b : BitVec 6) (w : BitVec 1) (s : State) : Host.Outcome State Fault Refusal := .next (s.alu2 d a b w opSub)
/-- AND (R284). -/
def execAnd (d a b : BitVec 6) (w : BitVec 1) (s : State) : Host.Outcome State Fault Refusal := .next (s.alu2 d a b w opAnd)
/-- OR (R323). -/
def execOr (d a b : BitVec 6) (w : BitVec 1) (s : State) : Host.Outcome State Fault Refusal := .next (s.alu2 d a b w opOr)
/-- XOR (R284). -/
def execXor (d a b : BitVec 6) (w : BitVec 1) (s : State) : Host.Outcome State Fault Refusal := .next (s.alu2 d a b w opXor)
/-- ANDN (R284). -/
def execAndn (d a b : BitVec 6) (w : BitVec 1) (s : State) : Host.Outcome State Fault Refusal := .next (s.alu2 d a b w opAndn)
/-- SLL (R323). -/
def execSll (d a b : BitVec 6) (w : BitVec 1) (s : State) : Host.Outcome State Fault Refusal := .next (s.alu2 d a b w opSll)
/-- SRL (R323). -/
def execSrl (d a b : BitVec 6) (w : BitVec 1) (s : State) : Host.Outcome State Fault Refusal := .next (s.alu2 d a b w opSrl)
/-- SRA (R323). -/
def execSra (d a b : BitVec 6) (w : BitVec 1) (s : State) : Host.Outcome State Fault Refusal := .next (s.alu2 d a b w opSra)
/-- MIN (R301). -/
def execMin (d a b : BitVec 6) (w : BitVec 1) (s : State) : Host.Outcome State Fault Refusal := .next (s.alu2 d a b w opMin)
/-- MAX (R301). -/
def execMax (d a b : BitVec 6) (w : BitVec 1) (s : State) : Host.Outcome State Fault Refusal := .next (s.alu2 d a b w opMax)
/-- MINU (R301). -/
def execMinu (d a b : BitVec 6) (w : BitVec 1) (s : State) : Host.Outcome State Fault Refusal := .next (s.alu2 d a b w opMinu)
/-- MAXU (R301). -/
def execMaxu (d a b : BitVec 6) (w : BitVec 1) (s : State) : Host.Outcome State Fault Refusal := .next (s.alu2 d a b w opMaxu)
/-- MUL (R301). -/
def execMul (d a b : BitVec 6) (w : BitVec 1) (s : State) : Host.Outcome State Fault Refusal := .next (s.alu2 d a b w opMul)
/-- MULH (R301). -/
def execMulh (d a b : BitVec 6) (w : BitVec 1) (s : State) : Host.Outcome State Fault Refusal := .next (s.alu2 d a b w opMulh)
/-- MULHU (R301). -/
def execMulhu (d a b : BitVec 6) (w : BitVec 1) (s : State) : Host.Outcome State Fault Refusal := .next (s.alu2 d a b w opMulhu)
/-- DIV (R301, R302): parks until the result returns. -/
def execDiv (d a b : BitVec 6) (w : BitVec 1) (s : State) : Host.Outcome State Fault Refusal := .next (s.divide d a b w opDiv)
/-- DIVU (R301, R302): parks until the result returns. -/
def execDivu (d a b : BitVec 6) (w : BitVec 1) (s : State) : Host.Outcome State Fault Refusal := .next (s.divide d a b w opDivu)
/-- REM (R323): parks until the result returns. -/
def execRem (d a b : BitVec 6) (w : BitVec 1) (s : State) : Host.Outcome State Fault Refusal := .next (s.divide d a b w opRem)
/-- REMU (R323): parks until the result returns. -/
def execRemu (d a b : BitVec 6) (w : BitVec 1) (s : State) : Host.Outcome State Fault Refusal := .next (s.divide d a b w opRemu)
/-- CLZ (R284). -/
def execClz (d a : BitVec 6) (w : BitVec 1) (s : State) : Host.Outcome State Fault Refusal := .next (s.alu1 d a w opClz)
/-- CTZ (R284). -/
def execCtz (d a : BitVec 6) (w : BitVec 1) (s : State) : Host.Outcome State Fault Refusal := .next (s.alu1 d a w opCtz)
/-- POPC (R323). -/
def execPopc (d a : BitVec 6) (w : BitVec 1) (s : State) : Host.Outcome State Fault Refusal := .next (s.alu1 d a w opPopc)
/-- BSWAP (R284). -/
def execBswap (d a : BitVec 6) (w : BitVec 1) (s : State) : Host.Outcome State Fault Refusal := .next (s.alu1 d a w opBswap)
/-- ADDI (R285). -/
def execAddi (d a : BitVec 6) (i : BitVec 12) (s : State) : Host.Outcome State Fault Refusal := .next (s.wg d (s.rg a + imm12 i))
/-- ANDI (R285). -/
def execAndi (d a : BitVec 6) (i : BitVec 12) (s : State) : Host.Outcome State Fault Refusal := .next (s.wg d (s.rg a &&& imm12 i))
/-- ORI (R285). -/
def execOri (d a : BitVec 6) (i : BitVec 12) (s : State) : Host.Outcome State Fault Refusal := .next (s.wg d (s.rg a ||| imm12 i))
/-- XORI (R285). -/
def execXori (d a : BitVec 6) (i : BitVec 12) (s : State) : Host.Outcome State Fault Refusal := .next (s.wg d (s.rg a ^^^ imm12 i))
/-- SLLI (R324). -/
def execSlli (d a : BitVec 6) (w : BitVec 1) (k : BitVec 6) (s : State) : Host.Outcome State Fault Refusal := .next (s.shiftImm d a w k opSll)
/-- SRLI (R324). -/
def execSrli (d a : BitVec 6) (w : BitVec 1) (k : BitVec 6) (s : State) : Host.Outcome State Fault Refusal := .next (s.shiftImm d a w k opSrl)
/-- SRAI (R324). -/
def execSrai (d a : BitVec 6) (w : BitVec 1) (k : BitVec 6) (s : State) : Host.Outcome State Fault Refusal := .next (s.shiftImm d a w k opSra)
/-- LUI (R319). -/
def execLui (d : BitVec 6) (i : BitVec 18) (s : State) : Host.Outcome State Fault Refusal := .next (s.wg d (immUpper i))
/-- ADDPC (R289): from the bundle's address, also as the second word of a pair. -/
def execAddpc (d : BitVec 6) (i : BitVec 18) (s : State) : Host.Outcome State Fault Refusal := .next (s.wg d (s.addr + immUpper i))
/-- CMP (R295). -/
def execCmp (p c : BitVec 3) (a b : BitVec 6) (w : BitVec 1) (s : State) : Host.Outcome State Fault Refusal :=
  .next (s.wp p (condition c (bitsA w) (srcBits (bitsA w) (s.rg a)) (srcBits (bitsA w) (s.rg b))))
/-- CMPI (R296): always 64 bits. -/
def execCmpi (p c : BitVec 3) (a : BitVec 6) (i : BitVec 12) (s : State) : Host.Outcome State Fault Refusal :=
  .next (s.wp p (condition c 64 (s.rg a).toNat (imm12 i).toNat))

/-- A predicate source with its negate bit (R325). -/
def State.pnot (s : State) (p : BitVec 3) (n : BitVec 1) : Bool := s.rp p != (n == 1)

/-- PAND (R325). -/
def execPand (d a b : BitVec 3) (x y : BitVec 1) (s : State) : Host.Outcome State Fault Refusal := .next (s.wp d (s.pnot a x && s.pnot b y))
/-- POR (R325). -/
def execPor (d a b : BitVec 3) (x y : BitVec 1) (s : State) : Host.Outcome State Fault Refusal := .next (s.wp d (s.pnot a x || s.pnot b y))
/-- PXOR (R325). -/
def execPxor (d a b : BitVec 3) (x y : BitVec 1) (s : State) : Host.Outcome State Fault Refusal := .next (s.wp d (s.pnot a x != s.pnot b y))
/-- PANDN (R325). -/
def execPandn (d a b : BitVec 3) (x y : BitVec 1) (s : State) : Host.Outcome State Fault Refusal := .next (s.wp d (s.pnot a x && !s.pnot b y))
/-- SEL (R329). -/
def execSel (d a b : BitVec 6) (p : BitVec 3) (s : State) : Host.Outcome State Fault Refusal := .next (s.wg d (if s.rp p then s.rg a else s.rg b))
/-- MOVP.G (R320): the predicates, bit 0 reading 1. -/
def execMovpG (d : BitVec 6) (s : State) : Host.Outcome State Fault Refusal := .next (s.wg d ((s.src.p ||| 1).zeroExtend 64))
/-- MOVP.P (R320): `p1`-`p7` from bits 1-7. -/
def execMovpP (a : BitVec 6) (s : State) : Host.Outcome State Fault Refusal := .next (s.updMe fun x => { x with p := (s.rg a).truncate 8 ||| 1 })

end Sys2Proof.Machine
end

