-- ==== Sys2Proof/Machine/Float.lean ====
section
/-! DEFINITION. Floating arithmetic (R84-R86, R108, R303): bit patterns as exact rational numbers, one rounding, and the
scalar operations over them with their flags. -/

namespace Sys2Proof.Machine

/-- A binary floating layout: exponent and mantissa widths. -/
structure FSpec where
  ew : Nat
  mw : Nat
  deriving DecidableEq, Repr

/-- IEEE 754 binary32 (R84). -/
def fp32 : FSpec := ⟨8, 23⟩
/-- IEEE 754 binary64 (R86). -/
def fp64 : FSpec := ⟨11, 52⟩
/-- binary32 cut to its high 16 bits (R84). -/
def bf16 : FSpec := ⟨8, 7⟩
/-- IEEE 754 binary16 (R84). -/
def fp16 : FSpec := ⟨5, 10⟩

namespace FSpec

/-- Width in bits. -/
def width (f : FSpec) : Nat := f.ew + f.mw + 1
/-- Exponent bias. -/
def bias (f : FSpec) : Nat := 2 ^ (f.ew - 1) - 1
/-- The sign bit as a number. -/
def signBit (f : FSpec) : Nat := 2 ^ (f.ew + f.mw)
/-- The pattern of +∞. -/
def inf (f : FSpec) : Nat := (2 ^ f.ew - 1) * 2 ^ f.mw
/-- The pattern of the largest finite value. -/
def maxFin (f : FSpec) : Nat := f.inf - 1
/-- The canonical NaN (R85, R303). -/
def nan (f : FSpec) : Nat := f.inf + 2 ^ (f.mw - 1)
/-- The absent code: all ones (R84, R86). -/
def absent (f : FSpec) : Nat := 2 ^ f.width - 1

end FSpec

/-- What a present pattern stands for: a NaN (signalling or not), an infinity, or the number n/d with a sign. -/
inductive Num where
  | nan (signalling : Bool)
  | inf (neg : Bool)
  | fin (neg : Bool) (n d : Nat)
  deriving DecidableEq, Repr

/-- The meaning of a present pattern (R85, R303). -/
def FSpec.unpack (f : FSpec) (b : Nat) : Num :=
  let neg := b / f.signBit % 2 = 1
  let e := b / 2 ^ f.mw % 2 ^ f.ew
  let m := b % 2 ^ f.mw
  if e = 2 ^ f.ew - 1 then (if m = 0 then .inf neg else .nan (m / 2 ^ (f.mw - 1) = 0))
  else if e = 0 then .fin neg (2 * m) (2 ^ (f.bias + f.mw))
  else .fin neg ((2 ^ f.mw + m) * 2 ^ e) (2 ^ (f.bias + f.mw))

/-- Rounding modes: those of %FRM (R303), and stochastic rounding with 16 random bits (R99). -/
inductive RMode where
  | rne | rtz | rdn | rup | sr (r : Nat)
  deriving DecidableEq, Repr

/-- The mode %FRM names (R28). -/
def frmMode (v : Word) : RMode := match v.toNat % 4 with
  | 0 => .rne
  | 1 => .rtz
  | 2 => .rdn
  | _ => .rup

/-- The magnitude q + r/d rounds up (R95, R99, R303). -/
def roundsUp (m : RMode) (neg : Bool) (q r d : Nat) : Bool := match m with
  | .rne => d < 2 * r || (2 * r = d && q % 2 = 1)
  | .rtz => false
  | .rdn => neg && r ≠ 0
  | .rup => !neg && r ≠ 0
  | .sr x => x < r * 2 ^ 16 / d

/-- The integer a rational magnitude rounds to, and whether it is inexact. -/
def roundInt (m : RMode) (neg : Bool) (n d : Nat) : Nat × Bool :=
  let q := n / d
  let r := n % d
  (if roundsUp m neg q r d then q + 1 else q, r ≠ 0)

/-- Floor of the binary logarithm of n/d, offset by `o` so that it is a natural number (n, d > 0). -/
def ratLog2 (n d o : Nat) : Nat :=
  let e := o + Nat.log2 n - Nat.log2 d
  if d * 2 ^ e ≤ n * 2 ^ o then e else e - 1

/-- Round a positive rational to a layout: the magnitude's pattern (it may pass the infinity), and whether it is inexact
(R97, R303). Exponents are counted from the smallest quantum, 2^(1 − bias − mw). -/
def FSpec.roundMag (f : FSpec) (m : RMode) (neg : Bool) (n d : Nat) : Nat × Bool :=
  if n = 0 then (0, false)
  else
    let o := f.bias + f.mw - 1
    let big := 2 ^ 12
    let l := ratLog2 (n * 2 ^ o) d big
    let q := l - big - f.mw
    let r := roundInt m neg (n * 2 ^ o) (d * 2 ^ q)
    (q * 2 ^ f.mw + r.1, r.2)

/-- A sign and a magnitude as a pattern. -/
def FSpec.withSign (f : FSpec) (neg : Bool) (mag : Nat) : Nat := if neg then f.signBit + mag else mag

/-- A result and the flags it sets. -/
structure FRes where
  bits : Nat
  flags : BitVec 5
  deriving DecidableEq, Repr

/-- Round an exact number once under a mode, with the overflow results and flags of R303. -/
def FSpec.finish (f : FSpec) (m : RMode) (neg : Bool) (n d : Nat) : FRes :=
  let r := f.roundMag m neg n d
  if f.inf ≤ r.1 then
    let toInf := match m with
      | .rtz => false
      | .rdn => neg
      | .rup => !neg
      | _ => true
    ⟨f.withSign neg (if toInf then f.inf else f.maxFin), flagOF ||| flagNX⟩
  else ⟨f.withSign neg r.1,
    (if r.2 then flagNX else 0) ||| (if r.2 && r.1 < 2 ^ f.mw then flagUF else 0)⟩

/-- A NaN result: the canonical NaN, NV when an operand is signalling (R303). -/
def FSpec.nanRes (f : FSpec) (sig : Bool) : FRes := ⟨f.nan, if sig then flagNV else 0⟩

/-- A number is a NaN. -/
def Num.isNan : Num → Bool
  | .nan _ => true
  | _ => false
/-- A number is a signalling NaN. -/
def Num.isSig : Num → Bool
  | .nan s => s
  | _ => false
/-- The sign of a number. -/
def Num.neg : Num → Bool
  | .nan _ => false
  | .inf s => s
  | .fin s _ _ => s
/-- The number with its sign turned. -/
def Num.negate : Num → Num
  | .nan s => .nan s
  | .inf s => .inf !s
  | .fin s n d => .fin (!s) n d

/-- The sign of an exact zero sum (R308): equal signs keep it, else + except under RDN. -/
def zeroSign (m : RMode) (a b : Bool) : Bool := if a = b then a else m = .rdn

/-- The signed numerator of a number. -/
def signedNum (neg : Bool) (n : Nat) : Int := if neg then -(n : Int) else n

/-- A sum rounded once (R308). -/
def FSpec.addNum (f : FSpec) (m : RMode) (x y : Num) : FRes :=
  if x.isNan || y.isNan then f.nanRes (x.isSig || y.isSig)
  else match x, y with
  | .inf a, .inf b => if a = b then ⟨f.withSign a f.inf, 0⟩ else ⟨f.nan, flagNV⟩
  | .inf a, _ => ⟨f.withSign a f.inf, 0⟩
  | _, .inf b => ⟨f.withSign b f.inf, 0⟩
  | .fin a n d, .fin b k e =>
    let t := signedNum a (n * e) + signedNum b (k * d)
    if t = 0 then ⟨f.withSign (zeroSign m a b) 0, 0⟩ else f.finish m (t < 0) t.natAbs (d * e)
  | _, _ => f.nanRes false

/-- A product rounded once (R308). -/
def FSpec.mulNum (f : FSpec) (m : RMode) (x y : Num) : FRes :=
  if x.isNan || y.isNan then f.nanRes (x.isSig || y.isSig)
  else match x, y with
  | .fin a n d, .fin b k e => if n * k = 0 then ⟨f.withSign (a != b) 0, 0⟩ else f.finish m (a != b) (n * k) (d * e)
  | .inf a, .fin b k _ => if k = 0 then ⟨f.nan, flagNV⟩ else ⟨f.withSign (a != b) f.inf, 0⟩
  | .fin a n _, .inf b => if n = 0 then ⟨f.nan, flagNV⟩ else ⟨f.withSign (a != b) f.inf, 0⟩
  | .inf a, .inf b => ⟨f.withSign (a != b) f.inf, 0⟩
  | _, _ => f.nanRes false

/-- A product of infinity and zero is invalid (R303). -/
def badProduct : Num → Num → Bool
  | .inf _, .fin _ n _ => n = 0
  | .fin _ n _, .inf _ => n = 0
  | _, _ => false

/-- The exact product of two numbers that are no NaN and no invalid product. -/
def exactProduct : Num → Num → Num
  | .fin a n d, .fin b k e => .fin (a != b) (n * k) (d * e)
  | x, y => .inf (x.neg != y.neg)

/-- x · y + z computed exactly and rounded once (R312). -/
def FSpec.fmaNum (f : FSpec) (m : RMode) (x y z : Num) : FRes :=
  if badProduct x y then ⟨f.nan, flagNV⟩
  else if x.isNan || y.isNan || z.isNan then f.nanRes (x.isSig || y.isSig || z.isSig)
  else f.addNum m (exactProduct x y) z

/-- x below y, both no NaN: −0 counts below +0 where `zeros` says so (R310, R313). -/
def numLt (zeros : Bool) : Num → Num → Bool
  | .inf a, .inf b => a && !b
  | .inf a, _ => a
  | _, .inf b => !b
  | .fin a n d, .fin b k e =>
    let x := signedNum a (n * e)
    let y := signedNum b (k * d)
    x < y || (zeros && x = y && n = 0 && a && !b)
  | _, _ => false

/-- x equals y as numbers (R310). -/
def numEq (x y : Num) : Bool := !x.isNan && !y.isNan && !numLt false x y && !numLt false y x

/-! ### Absent operands (R108) and the scalar operations -/

/-- An absent pattern of a layout. -/
def FSpec.isAbsent (f : FSpec) (b : Nat) : Bool := b % 2 ^ f.width = f.absent

/-- The other operand of a sum in identity mode, returned exactly (R108). -/
def FSpec.passThrough (f : FSpec) (neg : Bool) (b : Nat) : FRes :=
  let b := b % 2 ^ f.width
  if (f.unpack b).isNan then f.nanRes (f.unpack b).isSig
  else ⟨if neg then (b + f.signBit) % 2 ^ f.width else b, 0⟩

/-- The absent result. -/
def FSpec.absentRes (f : FSpec) : FRes := ⟨f.absent, 0⟩

/-- Which of two operands are absent, and the mode: strict, or identity (R108). -/
def FSpec.binary (f : FSpec) (identity : Bool) (x y : Nat) (left right : FRes) (both : FRes) : FRes :=
  match f.isAbsent x, f.isAbsent y with
  | true, true => f.absentRes
  | true, false => if identity then left else f.absentRes
  | false, true => if identity then right else f.absentRes
  | false, false => both

/-- FADD (R308). -/
def FSpec.fadd (f : FSpec) (identity : Bool) (m : RMode) (x y : Nat) : FRes :=
  f.binary identity x y (f.passThrough false y) (f.passThrough false x) (f.addNum m (f.unpack x) (f.unpack y))

/-- FSUB (R308): an absent minuend gives −y exactly. -/
def FSpec.fsub (f : FSpec) (identity : Bool) (m : RMode) (x y : Nat) : FRes :=
  f.binary identity x y (f.passThrough true y) (f.passThrough false x) (f.addNum m (f.unpack x) (f.unpack y).negate)

/-- FMUL (R308): an absent operand stands for 1. -/
def FSpec.fmul (f : FSpec) (identity : Bool) (m : RMode) (x y : Nat) : FRes :=
  f.binary identity x y (f.passThrough false y) (f.passThrough false x) (f.mulNum m (f.unpack x) (f.unpack y))

/-- FMIN and FMAX (R313): one of the operands; an absent operand stands for the far infinity. -/
def FSpec.fminmax (f : FSpec) (identity mx : Bool) (x y : Nat) : FRes :=
  let a := f.unpack x
  let b := f.unpack y
  let both : FRes :=
    if a.isNan || b.isNan then f.nanRes (a.isSig || b.isSig)
    else if numLt true a b = mx then ⟨y % 2 ^ f.width, 0⟩ else ⟨x % 2 ^ f.width, 0⟩
  f.binary identity x y (f.passThrough false y) (f.passThrough false x) both

/-- FMA (R312): an absent factor stands for 1, an absent addend for −0, which leaves the product rounded once. -/
def FSpec.ffma (f : FSpec) (identity : Bool) (m : RMode) (x y z : Nat) : FRes :=
  let a := f.isAbsent x
  let b := f.isAbsent y
  let c := f.isAbsent z
  let one : Num := .fin false 1 1
  let p := if a then one else f.unpack x
  let q := if b then one else f.unpack y
  if a && b && c then f.absentRes
  else if (a || b || c) && !identity then f.absentRes
  else if c then f.mulNum m p q
  else f.fmaNum m p q (f.unpack z)

/-- FSGNJ, FSGNJN, FSGNJX (R314). -/
def FSpec.fsgnj (f : FSpec) (sgn : Bool → Bool → Bool) (x y : Nat) : Nat :=
  if f.isAbsent x || f.isAbsent y then f.absent
  else if (f.unpack x).isNan then f.nan
  else f.withSign (sgn (x / f.signBit % 2 = 1) (y / f.signBit % 2 = 1)) (x % f.signBit)

/-- FCLASS (R309): the number of the class bit. -/
def FSpec.fclass (f : FSpec) (x : Nat) : Nat :=
  let neg := x / f.signBit % 2 = 1
  if f.isAbsent x then 10
  else match f.unpack x with
  | .nan s => if s then 8 else 9
  | .inf s => if s then 0 else 7
  | .fin _ n _ =>
    if n = 0 then (if neg then 3 else 4)
    else if x % f.signBit < 2 ^ f.mw then (if neg then 2 else 5) else (if neg then 1 else 6)

/-- FCMP (R310): EQ, LT, LE, UN, and the NV flag. -/
def FSpec.fcmp (f : FSpec) (c : Nat) (x y : Nat) : Bool × BitVec 5 :=
  if f.isAbsent x || f.isAbsent y then (false, 0)
  else
    let a := f.unpack x
    let b := f.unpack y
    let nan := a.isNan || b.isNan
    let sig := a.isSig || b.isSig
    match c with
    | 0 => (numEq a b, if sig then flagNV else 0)
    | 1 => (!nan && numLt false a b, if nan then flagNV else 0)
    | 2 => (!nan && (numLt false a b || numEq a b), if nan then flagNV else 0)
    | _ => (nan, if sig then flagNV else 0)

/-- Integer to float (R311). -/
def FSpec.ofInt (f : FSpec) (m : RMode) (v : Int) : FRes :=
  if v = 0 then ⟨0, 0⟩ else f.finish m (v < 0) v.natAbs 1

/-- Float to signed 64-bit integer (R311). -/
def FSpec.toI64 (f : FSpec) (m : RMode) (x : Nat) : Word × BitVec 5 :=
  if f.isAbsent x then (0x8000000000000000, 0)
  else match f.unpack x with
  | .nan _ => (0, flagNV)
  | .inf s => (if s then 0x8000000000000001 else 0x7FFFFFFFFFFFFFFF, flagNV)
  | .fin s n d =>
    let r := roundInt m s n d
    if 2 ^ 63 - 1 < r.1 then (if s then 0x8000000000000001 else 0x7FFFFFFFFFFFFFFF, flagNV)
    else (BitVec.ofInt 64 (signedNum s r.1), if r.2 then flagNX else 0)

/-- Float to unsigned 64-bit integer (R311). -/
def FSpec.toU64 (f : FSpec) (m : RMode) (x : Nat) : Word × BitVec 5 :=
  if f.isAbsent x then (0x8000000000000000, 0)
  else match f.unpack x with
  | .nan _ => (0, flagNV)
  | .inf s => (if s then 0 else BitVec.allOnes 64, flagNV)
  | .fin s n d =>
    let r := roundInt m s n d
    if s && r.1 ≠ 0 then (0, flagNV)
    else if 2 ^ 64 - 1 < r.1 then (BitVec.allOnes 64, flagNV)
    else (BitVec.ofNat 64 r.1, if r.2 then flagNX else 0)

/-- One layout to another, rounded once (R311). -/
def FSpec.convert (f g : FSpec) (m : RMode) (x : Nat) : FRes :=
  if f.isAbsent x then g.absentRes
  else match f.unpack x with
  | .nan s => g.nanRes s
  | .inf s => ⟨g.withSign s g.inf, 0⟩
  | .fin s n d => if n = 0 then ⟨g.withSign s 0, 0⟩ else g.finish m s n d

end Sys2Proof.Machine
end

