-- ==== Sys2Proof/Machine/Lines.lean ====
section
/-! DEFINITION. Slices and homes: the line array, the miss table and its victims (R146, R150-R154), requests at a slice (R152, R153),
one indivisible step at a home (R160, R163, R290, R291, R294), and the way of publication-queue entries home (R159, R160). -/

namespace Sys2Proof.Machine

/-! ### The line array and the miss table -/

namespace Slice

/-- The lines of a set. -/
def lines (k : Slice) (set : Nat) : List L2Line := FMap.getD k.sets set []
/-- A line, if the array holds it. -/
def line? (k : Slice) (set line : Nat) : Option L2Line := (k.lines set).find? (·.line = line)
/-- Put a line into its set. -/
def putLine (k : Slice) (set : Nat) (l : L2Line) : Slice :=
  { k with sets := FMap.insert k.sets set (l :: (k.lines set).filter (·.line ≠ l.line)) }
/-- Take a line out of its set. -/
def dropLine (k : Slice) (set line : Nat) : Slice :=
  { k with sets := FMap.insert k.sets set ((k.lines set).filter (·.line ≠ line)) }
/-- The general miss-table entry of a line. -/
def entry? (k : Slice) (line : Nat) : Option MissEntry := k.miss.find? (·.line = line)
/-- Change or add the miss-table entry of a line. -/
def putEntry (k : Slice) (e : MissEntry) : Slice :=
  if k.miss.any (·.line = e.line) then { k with miss := k.miss.map fun x => if x.line = e.line then e else x }
  else { k with miss := k.miss ++ [e] }
/-- The valid lines that carry a VF's tag (R150). -/
def countVf (k : Slice) (vf : Nat) : Nat := k.sets.foldl (fun n e => n + (e.2.filter (·.vf = vf)).length) 0

/-- The least recently used of some lines. -/
def lru (l : List L2Line) : Option L2Line := l.foldl (fun b e => match b with
  | none => some e
  | some q => if e.used < q.used then some e else b) none

/-- Where a new line of a VF goes (R151): a way, and the line that leaves it; none when no way qualifies. A line whose flush still holds
a reserved entry is held by the miss table. With every reserved entry in use the write-back of a dirty victim waits and its line
stays (R152): no way then qualifies (assumption 70). -/
def victim (k : Slice) (set vf limit : Nat) : Option (Nat × Option L2Line) :=
  let ls := k.lines set
  match (List.range (16 - k.resv)).find? fun w => !ls.any (·.way = w) with
  | some w => some (w, none)
  | none =>
    let free := ls.filter fun l => l.way < 16 - k.resv && l.pins = 0 && (k.entry? l.line).isNone && !k.wb.contains l.line
    let own := lru (free.filter (·.vf = vf))
    let pick := if limit ≠ 0 ∧ limit ≤ k.countVf vf then (match own with
        | some l => some l
        | none => lru free)
      else lru free
    match pick with
    | none => none
    | some l =>
      if l.dirty && (Config.wbEntries ≤ k.wb.length || Config.filterSize ≤ k.filter.length) then none
      else some (l.way, some l)

end Slice

/-- What a request meets at a slice (R152, R153). -/
inductive L2Res where
  | served | wait | stall | bypass | filter
  deriving DecidableEq, Repr

/-- The answer of a slice: what happens to the request, whether it found its line, whether it took a new line, a line that leaves
dirty, one that leaves clean, the slice. -/
structure L2Ans where
  res : L2Res
  hit : Bool
  new : Bool
  out : Option Nat
  gone : Option Nat
  slice : Slice
  deriving DecidableEq, Repr

/-- A request of a VF for some bytes of a sector: `rd` needs their old values, `wr` writes them (R152, R153). -/
def Slice.access (k : Slice) (set line sector vf limit tick : Nat) (m : BitVec 32) (rd wr : Bool) : L2Ans :=
  let full (hit : Bool) : L2Ans :=
    ⟨if wr then .stall else if k.filter.contains line then .filter else .bypass, hit, false, none, none, k⟩
  let pend (k' : Slice) (l : L2Line) (hit : Bool) (out gone : Option Nat) : L2Ans :=
    let l := { l with used := tick, dirty := l.dirty || (wr && !rd) }
    let mask : BitVec 32 := if wr && !rd then m else 0
    let res : L2Res := if wr && !rd then .served else .wait
    match k.entry? line with
    | some e => ⟨res, hit, !hit, out, gone, (k'.putLine set l).putEntry { e with pend := FMap.insert e.pend sector mask }⟩
    | none =>
      if k.miss.length < Config.missEntries then
        ⟨res, hit, !hit, out, gone, (k'.putLine set l).putEntry { line := line, pend := [(sector, mask)], waiters := [] }⟩
      else full hit
  match k.line? set line with
  | some l =>
    let l := { l with used := tick }
    if l.sectors.getLsbD sector then ⟨.served, true, false, none, none, k.putLine set { l with dirty := l.dirty || (wr && !rd) }⟩
    else match (k.entry? line).bind fun e => (FMap.find? e.pend sector).map fun p => (e, p) with
    | some (e, p) =>
      if rd && p &&& m ≠ m then ⟨.wait, true, false, none, none, k.putLine set l⟩
      else ⟨.served, true, false, none, none,
        (k.putLine set { l with dirty := l.dirty || (wr && !rd) }).putEntry
          { e with pend := FMap.insert e.pend sector (if wr then p ||| m else p) }⟩
    | none => pend k l true none none
  | none =>
    if Config.missEntries ≤ k.miss.length then full false
    else match k.victim set vf limit with
    | none => full false
    | some (w, old) =>
      let l : L2Line := { line := line, way := w, vf := vf, dirty := false, pins := 0, used := tick, sectors := 0 }
      match old with
      | none => pend k l false none none
      | some o =>
        let k' := k.dropLine set o.line
        if o.dirty then
          pend { k' with wb := k'.wb ++ [o.line], filter := k'.filter ++ [o.line] } l false (some o.line) none
        else pend k' l false none (some o.line)

namespace State

/-- The soft limit of a VF in lines per slice (R150). -/
def limitOf (s : State) (vf : Nat) : Nat := match s.part (s.pidOf vf) with
  | some p => FMap.getD p.limits vf 0
  | none => 0

/-- A line leaves the array with no write-back: what is read from then on is the memory behind it, with the flags it has
(R154). -/
def leaveClean (s : State) (line : Nat) : State := { s with
  poison := copyFlags line s.hbmPoison s.poison
  hbmPoison := s.hbmPoison.filter fun w => w.1 / 16 ≠ line }

/-- A line is new in the array: the memory behind it keeps its flags (R154). -/
def enterLine (s : State) (line : Nat) : State := { s with hbmPoison := copyFlags line s.poison s.hbmPoison }

/-- A request meets its slice: the slice's answer, and the state with the slice changed and the victim gone, written back where it
is dirty (R151, R152). -/
def l2 (s : State) (home key n vf : Nat) (rd wr : Bool) : L2Ans × State :=
  let a := (s.slice (home / 256)).access (home % 256) (key / 128) (key % 128 / 32) vf (s.limitOf vf) s.tick
    (sectorMask key n) rd wr
  let t := match a.out with
    | some l => s.publishLine l
    | none => s
  let t := (t.updSlice (home / 256) fun _ => a.slice).ticked
  let t := match a.out.orElse fun _ => a.gone with
    | some l => t.leaveClean l
    | none => t
  (a, if a.new then t.enterLine (key / 128) else t)

/-- A word that a returning fill brings poisoned (R154, R155): the memory's is, and no mask covers all of it. -/
def fillsPoison (p : BitVec 32) (hbm : FMap Unit) (w : Nat) : Bool :=
  (FMap.find? hbm w).isSome && p &&& sectorMask (8 * w) 8 ≠ sectorMask (8 * w) 8

/-- A sector's fill returns (R153): it writes the bytes no write has covered. Until then a word poisoned in memory stays poisoned, also
where two narrower stores have covered its 8 bytes (assumption 71). -/
def fillSector (s : State) (sl line sector : Nat) : State := match (s.slice sl).entry? line with
  | none => s
  | some e =>
    let p := FMap.getD e.pend sector 0
    let bad := ((List.range 4).map fun i => 16 * line + 4 * sector + i).filter (fillsPoison p s.hbmPoison)
    let t := s.updSlice sl fun k =>
      let k := k.putEntry { e with pend := FMap.erase e.pend sector }
      { k with sets := k.sets.map fun x => (x.1, x.2.map fun l =>
          if l.line = line then { l with sectors := l.sectors ||| (1#4 <<< sector) } else l) }
    { t with poison := bad.foldl (fun m w => FMap.insert m w ()) t.poison }

/-- An entry with no fill outstanding and no reader left is free (R152). -/
def freeEntry (s : State) (sl line : Nat) : State := s.updSlice sl fun k =>
  { k with miss := k.miss.filter fun e => !(e.line = line && e.pend.isEmpty && e.waiters.isEmpty) }

/-- A flush of a line to memory finds a reserved entry and a place in the filter (R152). -/
def flushRoom (s : State) (home : Nat) : Bool :=
  let k := s.slice (home / 256)
  k.wb.length < Config.wbEntries && k.filter.length < Config.filterSize

/-- A line is flushed to memory (R152, R166): it takes a reserved entry and a place in the filter until memory acknowledges. -/
def flushLine (s : State) (home line : Nat) : State :=
  (s.updSlice (home / 256) fun k =>
    let k := { k with wb := k.wb ++ [line], filter := k.filter ++ [line] }
    match k.line? (home % 256) line with
    | some l => k.putLine (home % 256) { l with dirty := false }
    | none => k).publishLine line

/-- An operation has written a line that the array holds (R151). -/
def wroteLine (s : State) (home line : Nat) : State :=
  (s.updSlice (home / 256) fun k => match k.line? (home % 256) line with
    | some l => k.putLine (home % 256) { l with dirty := true, used := s.tick }
    | none => k).ticked

end State

/-! ### One step at a home (R163) -/

/-- Op(old, x) over n bytes (R46, R290, R291, R294); none where nothing is written. -/
def amoNew (k : AmoKind) (n old x cmp : Nat) : Option Nat :=
  let w := 8 * n
  let x := x % 2 ^ w
  match k with
  | .add => some ((old + x) % 2 ^ w)
  | .and => some (old &&& x)
  | .or => some (old ||| x)
  | .xor => some (old ^^^ x)
  | .min => some (if signedOf w old ≤ signedOf w x then old else x)
  | .max => some (if signedOf w x ≤ signedOf w old then old else x)
  | .minu => some (Nat.min old x)
  | .maxu => some (Nat.max old x)
  | .swap => some x
  | .fadd =>
    if fp32.isAbsent x then some old
    else if fp32.isAbsent old then some (if (fp32.unpack x).isNan then fp32.nan else x)
    else some (fp32.addNum .rne (fp32.unpack old) (fp32.unpack x)).bits
  | .tend => some (if old = 0x8000000000000001 then 0 else (old + 2 ^ 64 - 1) % 2 ^ 64)
  | .cas => if old = cmp % 2 ^ w then some x else none

/-- A plain operation of n bytes at an address, its fields filled in by each instruction. -/
def baseOp (va : Word) (n : Nat) (d : BitVec 6) (sext : Bool) : MemOp :=
  { kind := .load, key := 0, va := va, size := n, d := d.toNat, sext := sext, arg := 0, cmp := 0, acq := false, rel := false
    sys := false, cached := false, slice := none, mark := none }

/-- The value among what a reply writes. -/
def replyValue (ws : List Wr) : Word := (ws.findSome? fun w => match w with
  | .g _ v => some v
  | _ => none).getD 0

/-- What a fill gives an element or an image word: a value, none where it is poisoned; nothing where it must be looked up again. -/
def fillGives : Wait → Option (Option Half)
  | .done ws => some (some ((replyValue ws).setWidth 32))
  | .trap _ _ => some none
  | _ => none

/-- The operation of an element of a vector load. -/
def Elem.load (e : Elem) (z : Nat) : MemOp :=
  { baseOp e.va z 0 false with key := e.key, cached := e.cached, slice := e.slice }

/-- The size in bytes of the elements of a vector load. -/
def VOp.loadSize (o : VOp) : Nat := match o.op with
  | .vld _ _ _ _ z => 2 ^ z.toNat
  | .vgth _ _ _ _ z => 2 ^ z.toNat
  | _ => 4

/-- A slot's vector load and its image load take what a fill gives them (R162: they are bound to the fill they wait for); what it gives
nothing yet goes on waiting. -/
def Slot.filled (x : Slot) (fid : Nat) (give : MemOp → Option Wait) : Slot :=
  let cl := x.claim.map fun k => match k.queue with
    | o :: r => match o.addrs with
      | e :: _ =>
        if o.fill ≠ some fid then k
        else match give (e.load o.loadSize) with
          | some w => { k with queue := { o with fill := none, ans := fillGives w } :: r }
          | none => k
      | [] => k
    | [] => k
  let w := match x.cWait with
    | some (.dtld y (op :: ops) got fill ans) =>
      if fill ≠ some fid then some (.dtld y (op :: ops) got fill ans)
      else match give op with
        | some w => some (.dtld y (op :: ops) got none (fillGives w))
        | none => some (.dtld y (op :: ops) got fill ans)
    | w => w
  { x with claim := cl, cWait := w }

/-- The loads of a slot's vector operation and of its image that wait for a fill. -/
def Slot.fillOps (x : Slot) (fid : Nat) : List MemOp :=
  (match x.claim.bind (·.queue.head?) with
    | some o => if o.fill = some fid then (o.addrs.head?.map (·.load o.loadSize)).toList else []
    | none => []) ++
  (match x.cWait with
    | some (.dtld _ left _ fill _) => if fill = some fid then left.head?.toList else []
    | _ => [])

namespace State

/-- A request ends. -/
def endReq (s : State) (rid : Nat) : State := { s with reqs := FMap.erase s.reqs rid }

/-- A load of the LD family or a CORE-scope LDA has its bytes by step 2 or 4 of R161 (R251). -/
def missCounted (s : State) (c vk n : Nat) (op : MemOp) : State :=
  if op.slice.isSome && (s.slotV c vk n).cont.isNone then s.countFor c vk 5 n 1 else s

/-- A slot's reply is still to come, and a switch would discard it: its word is watched, or a load's forces are outstanding (R168, R165,
R240). -/
def replyDue (x : Slot) : Bool := match x.cWait with
  | some (.watch _ _ _) => true
  | some (.acquire _ _ _ keep) => !keep && x.cont.isNone
  | _ => false

/-- The request of a slot of a VF is counted with its reply's tag: at the slice's step, or, where a switch would still discard the reply, when
that comes (R251, R263, assumption 84). -/
def countReply (s : State) (c vk n tag : Nat) : State :=
  if replyDue (s.slotV c vk n) then s.updSlotV c vk n fun x => { x with owed := some tag }
  else s.countTag c (vk - 1) n tag

/-- A reply that was held back has come: its request is counted (R251). -/
def countOwed (s : State) (c n : Nat) : State := match (s.slot c n).owed with
  | some tag => (s.updSlot c n fun x => { x with owed := none }).countTag c (s.vk c - 1) n tag
  | none => s

/-- A memory operation is performed at its home in one step (R163), and its slot waits for what it returns: none while a force
that R160 or R142 asks for is outstanding, or a SYS one finds no room for its flush (R152). Poison is consumed and traps (R155). A WAITWT whose first
test finds the word different after its deadline acquires as one that finds it so before (R169, assumption 66). -/
def performAt (s : State) (rid : Nat) (r : Req) (op : MemOp) : Option State :=
  let c := r.core
  let vk := r.vf + 1
  let s := s.ticked
  let done (t : State) : State := (if r.slice.isSome then t.countReply c vk r.slot r.tag else t).endReq rid
  if s.poisoned op.key op.size then some (done (s.setWait c vk r.slot (.trap 0x0B op.va)))
  else
    let v := s.home op.key op.size
    let ms := s.marksAt op.key
    let g := Wr.g op.d (op.result v)
    match op.kind with
    | .load => some (done ((s.setWait c vk r.slot (.done [g])).missCounted c vk r.slot op))
    | .home => some (done ((s.homeDirect c op.key op.size op.cached).finishAcquire c vk r.slot op.acq op.sys false ms [g]))
    | .waitw =>
      if v = op.cmp.toNat % 2 ^ (8 * op.size) then some (done (s.setWait c vk r.slot (.watch op none 0)))
      else some (done ((s.homeDirect c op.key op.size op.cached).finishAcquire c vk r.slot op.acq op.sys false ms [g]))
    | .waitwt pd until_ =>
      if v ≠ op.cmp.toNat % 2 ^ (8 * op.size) then
        some (done ((s.homeDirect c op.key op.size op.cached).finishAcquire c vk r.slot op.acq op.sys false ms [.p pd false]))
      else if until_ ≤ (s.core c).cyc.toNat then some (done (s.setWait c vk r.slot (.done [.p pd true])))
      else some (done (s.setWait c vk r.slot (.watch op (some until_) pd)))
    | .amo k =>
      match amoNew k op.size v op.arg.toNat op.cmp.toNat with
      | none =>
        some (done ((s.homeDirect c op.key op.size op.cached).finishAcquire c vk r.slot op.acq op.sys true ms [g]))
      | some x =>
        let flush := op.sys && op.cached && op.slice.isSome
        match (if flush && !s.flushRoom (op.slice.getD 0) then none
          else match op.mark with
            | some m => s.giveMark op.key m
            | none => some s) with
        | none => none
        | some t =>
          let t := (t.putHome op.key (leBytes op.size x)).recompare op.key
          let t := (t.homeDirect c op.key op.size op.cached)
          let t := if flush then t.flushLine (op.slice.getD 0) (op.key / 128)
            else if op.slice.isSome then
              (if op.cached then t.wroteLine (op.slice.getD 0) (op.key / 128)
                else (t.wroteMemory op.key op.size).publishLine (op.key / 128))
            else t
          some (done (t.finishAcquire c vk r.slot op.acq op.sys true ms [g]))
    | .store => some (done s)

/-- A memory operation is performed at its home; a slot that no longer waits for it gets nothing from it (R228). -/
def performMem (s : State) (rid : Nat) (r : Req) (op : MemOp) : Option State :=
  let x := s.slotV r.core (r.vf + 1) r.slot
  (s.performAt rid r op).map fun t =>
    if x.cWait = some (.request rid) then t else t.updSlotV r.core (r.vf + 1) r.slot fun _ => x

/-- What a fill reads at home: the sector's bytes, its poisoned words. -/
def sectorRead (s : State) (key : Nat) : List Byte × List Nat :=
  (s.mem.read key 32, ((List.range 8).filter fun i => s.poisoned (key + 4 * i) 4).map (key % 128 / 4 + ·))

/-- Words leave a line of an L1, and the line with its last. -/
def dropWords (l1 : FMap L1Line) (line : Nat) (keep : Nat × Half → Bool) : FMap L1Line :=
  (l1.map fun e => if e.1 = line then (e.1, { e.2 with words := e.2.words.filter keep }) else e).filter fun e => !e.2.words.isEmpty

/-- Words that home-direct operations left to a fill, in the newer values that the core has read since (R170), its own stores on top. -/
def newer (k : Core) (line : Nat) (ws : List (Nat × Half)) (m : FMap Half) : FMap Half := m.map fun p =>
  match FMap.find? ws p.1 with
  | some v => (p.1, k.pqWord (line * 128 + p.1 * 4) v)
  | none => p

/-- A core has read a sector at home: its fills of the sector that read home earlier and have not yet returned take the newer data, so
that no later read of the core gets an older value (R170; assumption 73). -/
def refreshFills (s : State) (c key : Nat) : State :=
  let d := s.sectorRead key
  s.updCore c fun k => { k with fills := k.fills.map fun f =>
    if f.2.line = key / 128 ∧ f.2.sector = key % 128 / 32 ∧ f.2.data.isSome then
      (f.1, { f.2 with data := some d.1, poison := d.2, patched := newer k f.2.line (s.wordsAt (key / 32 * 32) 32) f.2.patched })
    else f }

/-- A core has read words at home without a fill that installs them (R153): an older copy in its L view leaves, and what its fills still
give of these words is no older (R170; assumption 73). -/
def readHome (s : State) (c : Nat) (op : MemOp) : State :=
  let line := op.key / 128
  let ws := s.wordsAt op.key op.size
  (s.refreshFills c (op.key / 32 * 32)).updCore c fun k => { k with
    fills := k.fills.map fun f => if f.2.line = line then (f.1, { f.2 with patched := newer k line ws f.2.patched }) else f
    l1 := dropWords k.l1 line fun w => (FMap.find? ws w.1).all (k.pqWord (line * 128 + w.1 * 4) · = w.2) }

/-- A sector is read at home for a fill (R161 step 4); its request is counted when its reply is used (R251). -/
def performFill (s : State) (rid : Nat) (r : Req) (fid : Nat) : State :=
  ((s.updCore r.core fun k => match FMap.find? k.fills fid with
    | some f => { k with fills := FMap.insert k.fills fid { f with data := some [], vf := r.vf, slot := r.slot, tag := r.tag } }
    | none => k).refreshFills r.core r.key).endReq rid

/-! ### Requests at a slice (R152, R153) -/

/-- The slots of a core that wait for a fill with a load, whether their VF runs or not. -/
def fillWaiters (s : State) (c fid : Nat) : List (Nat × Nat × MemOp) := (s.core c).vfs.keys.flatMap fun vk =>
  (List.range 16).filterMap fun n => match (s.slotV c vk n).cWait with
    | some (.fill i op) => if i = fid then some (vk, n, op) else none
    | _ => none

/-- The loads of vector elements and images that wait for a fill of a core. -/
def elemWaiters (s : State) (c fid : Nat) : List MemOp :=
  (s.core c).vfs.flatMap fun v => v.2.slots.flatMap fun x => x.2.fillOps fid

/-- The request of a fill is counted, once, when a reply of it is used (R251). -/
def countFill (s : State) (c fid vf slot tag : Nat) : State := match FMap.find? (s.core c).fills fid with
  | some f =>
    if f.counted then s
    else (s.updCore c fun k => { k with fills := FMap.insert k.fills fid { f with counted := true } }).countTag c vf slot tag
  | none => s

/-- A load that waits for a fill has what it reads. -/
def answerLoad (s : State) (c : Nat) (w : Nat × Nat × MemOp) (r : Wait) : State := match r with
  | .done _ => (s.setWait c w.1 w.2.1 r).missCounted c w.1 w.2.1 w.2.2
  | _ => s.setWait c w.1 w.2.1 r

/-- What the bytes that writes have covered, by the mask `p`, give a load of a sector on its way (R153): its value at once where they are
all of its bytes. One that an own entry covers has its bytes no earlier than that is home (R161 step 2). -/
def early (s : State) (c : Nat) (p : BitVec 32) (op : MemOp) : Option Wait :=
  let m := sectorMask op.key op.size
  if p &&& m ≠ m || (s.core c).covered op.key op.size then none
  else some (if s.poisoned op.key op.size then .trap 0x0B op.va else .done [.g op.d (op.result (s.home op.key op.size))])

/-- Loads of a fill, elements and image words among them, whose bytes writes have covered while their sector is on its way: they have
them at once (R153). -/
def earlyLoads (s : State) (r : Req) (fid tag : Nat) (p : BitVec 32) : State := match FMap.find? (s.core r.core).fills fid with
  | none => s
  | some _ =>
    let ws := (s.fillWaiters r.core fid).filterMap fun w => (s.early r.core p w.2.2).map fun a => (w, a)
    let filled (x : Slot) : Slot := x.filled fid (s.early r.core p)
    let others := (s.elemWaiters r.core fid).filter fun op => (s.early r.core p op).isSome
    if ws.isEmpty && others.isEmpty then s
    else
      let t := (ws.map (·.1.2.2) ++ others).foldl (fun t op => t.readHome r.core op) (s.countFill r.core fid r.vf r.slot tag)
      let t := t.updCore r.core fun k =>
        { k with vfs := k.vfs.map fun v => (v.1, { v.2 with slots := v.2.slots.map fun x => (x.1, filled x.2) }) }
      ws.foldl (fun t w => t.answerLoad r.core w.1 w.2) t

/-- A load joins a fill of its core that waits in its slice's miss table: where writes have covered its bytes it has them at once
(R153). -/
def earlyAt (s : State) (c fid : Nat) (op : MemOp) : Option Wait × State :=
  match FMap.find? (s.core c).fills fid,
    List.find? (fun (q : Nat × Req) => q.2.core = c && q.2.kind = .fill fid && q.2.waiting) s.reqs with
  | some f, some (_, r) =>
    let p := ((s.slice (r.slice.getD 0 / 256)).entry? f.line).bind fun e => FMap.find? e.pend f.sector
    match p.bind fun p => s.early c p op with
    | some w => (some w, (s.countFill c fid r.vf r.slot r.tag).readHome c op)
    | none => (none, s)
  | _, _ => (none, s)

/-- A read, a fill or an operation is performed at its home and its reply tagged; none while a force is outstanding. -/
def serve (s : State) (rid : Nat) (r : Req) (tag : Nat) : Option State :=
  let r := { r with tag := tag }
  match r.kind with
  | .fill fid => some (s.performFill rid r fid)
  | .mem op => s.performMem rid r op
  | .queue _ => none

/-- A request is at the slice input again. -/
def setReq (s : State) (rid : Nat) (r : Req) : State := { s with reqs := FMap.insert s.reqs rid r }

/-- The request reads old values, or writes (R152, R153). -/
def reqMode (r : Req) : Bool × Bool := match r.kind with
  | .mem op => match op.kind with
    | .amo _ => (true, true)
    | _ => (true, false)
  | _ => (true, false)

/-- The requests at a slice's input that one for some bytes waits behind (R152, R160): each by the word it is due on, or none where its whole
line waits. -/
def blockers (s : State) (sl key n : Nat) : List (Option Nat) := (s.slice sl).stalled.filterMap fun q =>
  match FMap.find? s.reqs q with
  | some o => if o.key / 128 = key / 128 && o.due.all (fun w => overlap (8 * w) 8 key n) then some o.due else none
  | none => none

/-- A request for some bytes waits behind one at its slice's input (R152). -/
def stalledOn (s : State) (sl key n : Nat) : Bool := !(s.blockers sl key n).isEmpty

/-- A request waits at a slice's input, for its line or on a word that is due. -/
def stall (s : State) (rid : Nat) (r : Req) (sl tag : Nat) (due : Option Nat) : State :=
  (s.updSlice sl fun k => { k with stalled := k.stalled ++ [rid] }).setReq rid { r with waiting := true, tag := tag, due := due }

/-- A cached request meets its slice (R152): served, joined to a miss entry, sent past the array, or left waiting. One whose turn has come
while a force is outstanding, or its flush finds no room, keeps its turn at the slice's input (R160). -/
def arrive (s : State) (rid : Nat) (r : Req) (h : Nat) : State :=
  let line := r.key / 128
  let r := { r with due := none }
  let hold (t : State) (tag : Nat) : State := t.setReq rid { r with waiting := true, tag := tag }
  match s.blockers (h / 256) r.key r.size with
  | d :: ds => s.stall rid r (h / 256) r.tag (if (d :: ds).contains none then none else d)
  | [] =>
    let a := s.l2 h r.key r.size r.vf (reqMode r).1 (reqMode r).2
    let tag := if r.tag = 1 || !a.1.hit then 1 else 0
    match a.1.res with
    | .served => (a.2.serve rid r tag).getD (s.stall rid r (h / 256) tag (some (r.key / 8)))
    | .wait =>
      let t := hold (a.2.updSlice (h / 256) fun k => match k.entry? line with
        | some e => k.putEntry { e with waiters := e.waiters ++ [rid] }
        | none => k) tag
      match r.kind with
      | .fill fid => t.earlyLoads r fid tag (((a.1.slice.entry? line).bind fun e => FMap.find? e.pend (r.key % 128 / 32)).getD 0)
      | _ => t
    | .stall => s.stall rid r (h / 256) tag none
    | .bypass => (s.serve rid r 2).getD s
    | .filter => hold (s.updSlice (h / 256) fun k => { k with filterWait := k.filterWait ++ [rid] }) 2

/-- Requests waiting at a slice's input try again, oldest first (R152). -/
def retryStalled (s : State) (sl : Nat) : State :=
  let l := (s.slice sl).stalled
  l.foldl (fun t rid => match FMap.find? t.reqs rid with
    | some r => t.arrive rid { r with waiting := false } (r.slice.getD 0)
    | none => t) (s.updSlice sl fun k => { k with stalled := [] })

/-- The sector a request reads in its line. -/
def sectorOf (r : Req) : Nat := r.key % 128 / 32

/-- The requests of a miss entry whose sector is here, or whose mask covers it whole, are served (R153); one that a force or a flush keeps
waiting is due, and those behind it on its word wait with it (R160). -/
def serveWaiters (s : State) (sl line : Nat) : State := match (s.slice sl).entry? line with
  | none => s
  | some e => e.waiters.foldl (fun t rid => match FMap.find? t.reqs rid with
    | some r =>
      let p := FMap.find? e.pend (sectorOf r)
      if p.isNone || p = some (BitVec.allOnes 32) then
        let t := t.updSlice sl fun k => match k.entry? line with
          | some e => k.putEntry { e with waiters := e.waiters.filter (· ≠ rid) }
          | none => k
        match (t.blockers sl r.key r.size).find? (·.isSome) with
        | some d => t.stall rid r sl r.tag d
        | none => (t.serve rid r r.tag).getD (t.stall rid r sl r.tag (some (r.key / 8)))
      else t
    | none => t.updSlice sl fun k => match k.entry? line with
      | some e => k.putEntry { e with waiters := e.waiters.filter (· ≠ rid) }
      | none => k) s

/-- A read of one sector whose fill takes place within its step: an engine's, an instruction fetch's (R145, R172, R206; assumption
53). It takes a line as every read does (R150-R152), and a sector that others wait for is there for them too; an entry that this frees is
there for those that wait at the slice's input. -/
def readSector (s : State) (home key n vf : Nat) : State :=
  let line := key / 128
  let sl := home / 256
  let r := s.l2 home key n vf true false
  if r.1.res = .wait then
    (((r.2.fillSector sl line (key % 128 / 32)).serveWaiters sl line).freeEntry sl line).retryStalled sl
  else r.2

/-- Such a read of a range within one line. -/
def readThrough (s : State) (home key n vf : Nat) : State :=
  ((List.range 4).filter fun i => overlap key n (key / 128 * 128 + 32 * i) 32).foldl (fun t i =>
    t.readSector home (key / 128 * 128 + 32 * i) 32 vf) s

/-- The bytes of a sector of a line that a range covers. -/
def rangeMask (line sector key n : Nat) : BitVec 32 :=
  let base := 128 * line + 32 * sector
  let lo := Nat.max key base
  let hi := Nat.min (key + n) (base + 32)
  if lo < hi then sectorMask lo (hi - lo) else 0

/-- Bytes are written at home and to the memory behind it within one step, past any line array; a sector on its way to its slice takes them
as it takes a store's bytes (R153). -/
def memWrite (s : State) (key : Nat) (bs : List Byte) : State :=
  let t := s.engineWrite key bs
  if isSp key || 2 ^ 65 ≤ key then t
  else
    let meets (e : MissEntry) : Bool := overlap (128 * e.line) 128 key bs.length
    let masked (e : MissEntry) : MissEntry :=
      if meets e then { e with pend := e.pend.map fun p => (p.1, p.2 ||| rangeMask e.line p.1 key bs.length) } else e
    let u : State := { t with slices := t.slices.map fun k => (k.1, { k.2 with miss := k.2.miss.map masked }) }
    u.slices.foldl (fun v k => (k.2.miss.filter meets).foldl (fun v e => v.serveWaiters k.1 e.line) v) u

/-- Pin or unpin lines (R206); a line that is no longer pinned may be the victim of a request that waits (R151, R152). -/
def pinLines (s : State) (ls : List (Nat × Nat)) (up : Bool) : State :=
  let t := ls.foldl (fun t e => t.updSlice (e.1 / 256) fun k => match k.line? (e.1 % 256) e.2 with
    | some l => k.putLine (e.1 % 256) { l with pins := if up then l.pins + 1 else l.pins - 1 }
    | none => k) s
  if up then t else ((ls.map (·.1 / 256)).eraseDups).foldl retryStalled t

/-- Prefetched data is consumed or dropped: its lines are unpinned (R206). -/
def dropPrefetch (s : State) (cl : Nat) : State :=
  (s.updCluster cl fun k => { k with prefetched := none, pinned := [] }).pinLines (s.cluster cl).pinned false

/-! ### What a slice does on its own (R152, R153) -/

/-- Memory acknowledges a write of a slice (R152): its reserved entry and filter slot are free, the reads that waited for it bypass,
and requests that found no victim try again. -/
def ackWrite (s : State) (sl line : Nat) : State :=
  let mine := (s.slice sl).filterWait.filter fun rid => match FMap.find? s.reqs rid with
    | some r => r.key / 128 = line
    | none => true
  let s := s.updSlice sl fun k =>
    { k with wb := k.wb.erase line, filter := k.filter.erase line
             filterWait := k.filterWait.filter fun r => !mine.contains r }
  (mine.foldl (fun t rid => match FMap.find? t.reqs rid with
    | some r => (t.serve rid r 2).getD (t.setReq rid { r with waiting := false })
    | none => t) s).retryStalled sl

/-- Every write of a slice to memory is acknowledged. -/
def ackAll (s : State) (sl : Nat) : State := (s.slice sl).filter.foldl (fun t l => t.ackWrite sl l) s

/-- Every outstanding fill of a slice returns, and entries without readers are free (R152, R153). -/
def returnFills (s : State) (sl : Nat) : State :=
  let ls := (s.slice sl).miss
  let t := ls.foldl (fun t e => e.pend.keys.foldl (fun t q => (t.fillSector sl e.line q).serveWaiters sl e.line) t) s
  ls.foldl (fun t e => t.freeEntry sl e.line) t

/-- Within a step that must reach the line array (assumption 72), a slice does what it would do anyway: its fills return, its writes are
acknowledged, and the requests at its input take their turns, over and over, until none waits for an entry. -/
def settle (s : State) (sl : Nat) : Nat → State
  | 0 => s
  | n + 1 => (((s.returnFills sl).ackAll sl).retryStalled sl).settle sl n

/-- A slice settles, and then the prefetches that pin lines of it are dropped (R206), so that a new line finds a way. -/
def makeRoom (s : State) (sl : Nat) (unpin : Bool) : State :=
  let t := s.settle sl ((s.slice sl).stalled.length + 2)
  if unpin then
    let cs := t.clusters.keys.filter fun cl => (t.cluster cl).pinned.any fun e => e.1 / 256 = sl
    let u := cs.foldl dropPrefetch t
    u.settle sl ((u.slice sl).stalled.length + 2)
  else t

/-- Memory acknowledges a slice's writes until a reserved entry and a place in the filter are free. -/
def ackUntil (s : State) (home : Nat) : Nat → State
  | 0 => s
  | n + 1 => if s.flushRoom home then s else (s.ackAll (home / 256)).ackUntil home n

/-- A line is flushed within a step that must publish it, once its slice has room (assumption 72). -/
def flushNow (s : State) (home line : Nat) : State :=
  (s.ackUntil home ((s.slice (home / 256)).stalled.length + 2)).flushLine home line

/-- A slice makes room for a request within a step that must be served (assumption 72). -/
def roomAt (s : State) (home key n vf : Nat) (rd wr : Bool) : State :=
  let ok (t : State) : Bool := match (t.l2 home key n vf rd wr).1.res with
    | .served => true
    | .wait => true
    | _ => false
  let sl := home / 256
  if ok s then s else if ok (s.makeRoom sl false) then s.makeRoom sl false else s.makeRoom sl true

/-- Bytes of one sector are stored at their home within a step: through its slice, which takes a line as for any store (R151-R153), or past
it where none can be had. -/
def storeThrough (s : State) (home key vf : Nat) (bs : List Byte) : State :=
  let t := s.roomAt home key bs.length vf false true
  let r := t.l2 home key bs.length vf false true
  if r.1.res = .served then (r.2.writeHome key (bs.length / 8 + 2) bs).serveWaiters (home / 256) (key / 128) else t.memWrite key bs

/-! ### The publication queue drains (R159, R160) -/

/-- An entry may reach its home: no older entry of the core covers any of its bytes (R159). -/
def mayDrain (s : State) (c : Nat) (e : PqEntry) : Bool :=
  !((s.core c).pq.any fun o => o.seq < e.seq && overlap o.key o.bytes.length e.key e.bytes.length)

/-- A force of a mark of an entry's word asks for the entry (R165): what waits for that force does not hold it up (R160, assumption 77). -/
def entryForced (s : State) (c : Nat) (e : PqEntry) : Bool := (s.marksAt e.key).any fun m => m.core = c && e.seq ≤ m.seq

/-- A PQ entry goes to its home: none while it must wait (an older covering entry, a force that R142 asks for, the slice's
miss table or a request at its input: R152). A sector it completes serves its readers (R153). -/
def tryDrain (s : State) (c : Nat) (e : PqEntry) : Option State :=
  if !s.mayDrain c e then none
  else match (if e.mark.isSome then s.roomForEntry e.key else some s) with
  | none => none
  | some s =>
    match e.slice with
    | none => some (s.drainEntry c e)
    | some h =>
      if e.cached then
        if s.stalledOn (h / 256) e.key e.bytes.length && !s.entryForced c e then none
        else
        let r := s.l2 h e.key e.bytes.length e.vf false true
        if r.1.res = .served then
          some (((r.2.countTag c e.vf e.slot (if r.1.hit then 0 else 1)).drainEntry c e).serveWaiters (h / 256) (e.key / 128))
        else none
      else some ((s.countTag c e.vf e.slot 1).drainEntry c e)

/-- Every entry of a core up to a seq that can reach its home does, oldest first (R165); one whose scratchpad bank is another VF's
asks for the bank (R242). -/
def drainUpTo (s : State) (c seq : Nat) : State := (s.core c).pq.foldl (fun t e =>
  if seq < e.seq then t
  else if t.bankReady e.key e.vf then (t.tryDrain c e).getD t
  else t.askKeyBank e.key e.vf) s

/-- Every entry of a core up to a seq goes to its home within the step, and where `sys` is published. -/
def pushUpTo (push : State → Nat → PqEntry → State) (s : State) (m : Mark) : State :=
  let t := ((s.core m.core).pq.filter (·.seq ≤ m.seq)).foldl (fun t e => push t m.core e) s
  if m.sys then ((t.core m.core).unpub.filter (·.seq ≤ m.seq)).foldl (fun t e => t.flushNow (e.slice.getD 0) (e.key / 128)) t else t

/-- The forces that an entry's mark asks for, made within the step (R142): the reused entry of the mark table is empty then. -/
def pushVictim (push : State → Nat → PqEntry → State) (s : State) (e : PqEntry) : State :=
  match (if e.mark.isSome && isSp e.key && (s.marksAt e.key).isEmpty then s.markVictim (spCore e.key) else none) with
  | some v => (v.2.foldl (pushUpTo push) s).setMarks (v.1 * 8) []
  | none => s

/-- Within a step that must bring a core's entries home (R228), an entry goes home even where it would have to wait (assumption 72): its
scratchpad bank is exchanged, the forces its mark asks for are made, and its slice makes room, all at once. `fuel` bounds the
entries that forces bring home. -/
def pushEntry : Nat → State → Nat → PqEntry → State
  | 0, s, c, e => if (s.core c).pq.any (·.seq = e.seq) then s.drainEntry c e else s
  | fuel + 1, s, c, e =>
    if !(s.core c).pq.any (·.seq = e.seq) then s
    else
      let s := pushVictim (pushEntry fuel) (s.takeBank e.key e.vf) e
      let sl := e.slice.getD 0 / 256
      match s.tryDrain c e with
      | some t => t
      | none => match (s.makeRoom sl false).tryDrain c e with
        | some t => t
        | none =>
          let u := s.makeRoom sl true
          (u.tryDrain c e).getD (u.drainEntry c e)

/-- Drain a core's whole PQ, oldest first (R228). -/
def drainCore (s : State) (c : Nat) : State :=
  (s.core c).pq.foldl (fun t e => t.pushEntry (s.cores.foldl (fun n k => n + k.2.pq.length) 1) c e) s

/-- Publish every store of a core at SYS (R166, R228). -/
def publishCore (s : State) (c : Nat) : State :=
  (s.core c).unpub.foldl (fun t e => t.flushNow (e.slice.getD 0) (e.key / 128)) s

end State

end Sys2Proof.Machine
end

