-- ==== Sys2Proof/Machine/Ops.lean ====
section
/-! DEFINITION. The named operations over slots and populations: waits, the end of a population, the end of a bundle, taking a trap and
returning from one. -/

namespace Sys2Proof.Machine

/-- The code of the wait of R54 that a slot is parked on; of a submission see `State.waitCode`. -/
def Slot.waitCode (x : Slot) : Option Nat :=
  if x.mode ≠ .parked then none
  else match x.cWait with
  | some (.watch _ none _) => some 1
  | some (.qWait _) => some 2
  | some (.bar _ _ _) => some 3
  | some (.semp _) => some 4
  | some (.ibx _) => some 5
  | some .park => some 6
  | some (.asend _ _ _ _ _) => some 7
  | _ => none

/-- A slot's timer has fallen due (R30). -/
def Slot.timerDue (x : Slot) (cyc : Nat) : Bool := x.tcmp ≠ 0 && x.tcmp.toNat ≤ cyc && x.mode ≠ .free

/-- A timer that has fallen due is pending with the %TCMP value that fell due (R30, R223). -/
def Slot.timer (x : Slot) (cyc : Nat) : Slot :=
  if x.timerDue cyc then { x with pendTimer := some (x.pendTimer.getD x.tcmp) } else x

namespace State

/-! ### Populations -/

/-- The front end injects the launch packets it has yet to send, in their order (R36): a partition's stop at the first that its channel
does not admit. -/
def pump (s : State) : State :=
  let r := s.unsent.foldl (fun (a : List (Nat × Packet) × List (Nat × Packet)) q =>
    if s.chanFull.contains q.1 || a.2.any fun o => s.pidOf o.2.vf = s.pidOf q.2.vf then (a.1, a.2 ++ [q]) else (a.1 ++ [q], a.2))
    ([], [])
  { s with chan := s.chan ++ r.1, unsent := r.2 }

/-- A population moves: it is no longer hung, and its windows start again (R55, R56). -/
def moved (s : State) (p : Option Nat) : State := match p with
  | none => s
  | some q => match FMap.find? s.pops q with
    | some x => { s with pops := FMap.insert s.pops q { x with still := 0, hung := false } }
    | none => s

/-- A packet or token of a population is in flight: the window of Complete starts again too (R56). -/
def flew (s : State) (p : Option Nat) : State := match p with
  | none => s
  | some q => match FMap.find? s.pops q with
    | some x => { s with pops := FMap.insert s.pops q { x with quiet := 0 } }
    | none => s

/-- The wait code of an instruction whose request is on its way: WAITW and Q.WAIT are parked on their waits from then on (R54). -/
def requestCode : ReqKind → Option Nat
  | .mem op => if op.kind = .waitw then some 1 else none
  | .queue q => if q.form = 2 then some 2 else none
  | .fill _ => none

/-- The code of the wait of R54 that a slot of a core is parked on. A submission waits for the queue, with code 7, once its PQ drain
has finished (R196; that the drain before it has no code is assumption 67). -/
def waitCode (s : State) (c : Nat) (x : Slot) : Option Nat :=
  if x.mode ≠ .parked then none
  else match x.cWait with
  | some (.submit seq sys _ _) => if s.forced c seq sys then some 7 else none
  | some (.cover op) => requestCode (.mem op)
  | some (.request rid) => (FMap.find? s.reqs rid).bind fun r => requestCode r.kind
  | _ => x.waitCode

/-- The wait table of the core's cluster lists the populations whose slots on the core all wait or search for work (R55). -/
def reportWaits (s : State) (c : Nat) : State :=
  let xs := (s.cvf c).slots.vals
  let pops := (xs.filterMap (·.pop)).eraseDups
  let waiting := pops.filter fun p => (xs.filter fun x => x.pop = some p && x.mode ≠ .free).all fun x =>
    x.mode = .idleSteal || (s.waitCode c x).isSome
  s.updCluster (s.clusterOf c) fun k => { k with waits := k.waits.filter (·.1 ≠ c) ++ waiting.map fun p => (c, p) }

/-- A slot's claim ends: its groups are free (R217). -/
def dropClaim (s : State) (c n : Nat) : State := s.updSlot c n fun x => { x with claim := none }

end State

/-- A slot without a task (R27): only an overflow trap still pending stays (R253). -/
def Slot.freed (x : Slot) : Slot := { pendOvf := x.pendOvf }

namespace State

/-- A slot leaves every list that names it: semaphore waiters, pool requests and queue waiters. -/
def forget (s : State) (c n : Nat) : State :=
  let s := s.updCvf c fun x => { x with semWait := x.semWait.map fun e => (e.1, e.2.filter (· ≠ n)) }
  let s := s.updCluster (s.clusterOf c) fun k => { k with claims := k.claims.filter fun r => !(r.1 = c && r.2.1 = n) }
  { s with slices := s.slices.map fun e =>
      (e.1, { e.2 with queues := e.2.queues.map fun q =>
        (q.1, { q.2 with waiters := q.2.waiters.filter fun w => !(w.1 = c && w.2.1 = n) }) }) }

/-- A slot becomes FREE, its claim ending with it (R27, R217). -/
def freeSlot (s : State) (c n : Nat) : State := ((s.dropClaim c n).forget c n).updSlot c n (·.freed)

/-- End a population's work on the running slots of a core (R228 step 1). -/
def endPopCore (s : State) (p c : Nat) : State :=
  (List.range 16).foldl (fun t n => if (t.slot c n).pop = some p then t.freeSlot c n else t) s

/-- A VF's stored slots of a population become FREE where the VF does not run (R228 step 1). -/
def endPopStored (p : Nat) (x : CoreVf) : CoreVf :=
  let gone : FMap Slot := x.slots.filter fun e => e.2.pop = some p
  { x with
    slots := x.slots.map fun e => if e.2.pop = some p then (e.1, e.2.freed) else e
    semWait := x.semWait.map fun e => (e.1, e.2.filter fun n => !(FMap.keys gone).contains n)
    deque := if x.dqPop = some p then [] else x.deque
    ringCount := if x.dqPop = some p then 0 else x.ringCount
    dqPop := if x.dqPop = some p then none else x.dqPop
    kept := x.kept.filter (·.pop ≠ some p) }

/-- A cluster's engines at the end of a population (R228 step 3): its queued jobs are cancelled, and with them a prefetch of
theirs; so are an MX.ROT of it that waits for a block, with the block it has taken, and its blocks on the links. A rotation that
has both blocks runs to its end. The kept operand set stays (assumption 74). -/
def endPopJobs (s : State) (p cl : Nat) : State :=
  let k := s.cluster cl
  let both (v : Nat) : Bool := (FMap.find? k.gotA v).isSome && (FMap.find? k.gotB v).isSome
  let rot (j : Job) : Bool := j.pop = some p && j.kind = 3 && !both j.vf
  let mine (b : Block) : Bool := b.pop ≠ some p
  let got (l : FMap Block) : FMap Block := l.filter fun b => match k.running.find? fun j => j.kind = 3 && j.vf = b.1 with
    | some j => !rot j
    | none => mine b.2
  let dead := k.queue.filter fun j => j.pop = some p
  let s := match k.prefetched with
    | some f => if dead.any (·.id = f.1) then s.dropPrefetch cl else s
    | none => s
  s.updCluster cl fun k => { k with
    queue := k.queue.filter fun j => j.pop ≠ some p
    running := k.running.filter fun j => !rot j
    gotA := got k.gotA, gotB := got k.gotB
    linkA := k.linkA.filter mine, linkB := k.linkB.filter mine }

/-- The cores of a population (R228 step 4): those of its launch, and those where a slot of it runs or stands, or its stores do, which
a message or a migration has brought it to (R37, R50, R52). -/
def popCores (s : State) (p : Nat) : List Nat :=
  let mine (e : PqEntry) : Bool := e.pop = some p
  let on (k : Core) : Bool := (k.pq ++ k.unpub).any mine || k.vfs.any fun v => v.2.slots.any fun x => x.2.pop = some p
  (((FMap.find? s.pops p).map (·.cores)).getD [] ++ (s.cores.filter fun c => on c.2).map (·.1)).eraseDups

/-- The end of a population by a fatal trap or a VF reset (R228 steps 1-4, R249). -/
def endPop (s : State) (p : Nat) (st : PopStatus) : State :=
  let home := s.popCores p
  let cs := s.cores.keys
  let s := cs.foldl (fun t c => t.endPopCore p c) s
  let s := cs.foldl (fun t c => t.updCore c fun k =>
    { k with
      vfs := k.vfs.map fun e => (e.1, endPopStored p e.2)
      buf := k.buf.filter (·.pop ≠ some p)
      inbox := k.inbox.filter fun m => m.pop ≠ some p }) s
  let s := { s with
    chan := s.chan.filter fun q => q.2.pop ≠ some p
    unsent := s.unsent.filter fun q => q.2.pop ≠ some p
    migs := s.migs.filter fun m => m.image.pop ≠ some p }
  let s := s.clusters.keys.foldl (fun t cl => t.endPopJobs p cl) s
  match FMap.find? s.pops p with
  | some x =>
    let s := home.foldl (fun t c => (t.drainCore c).publishCore c) s
    { s with pops := FMap.insert s.pops p { x with status := st } }
  | none => s

/-- What word 1 of a fatal population's completion record reports (R228, R274): GTID and cause. -/
def fatalWord (s : State) (p : Nat) (gtid : BitVec 48) (cause : Nat) : State := match FMap.find? s.pops p with
  | some q =>
    let q := { q with report := gtid.zeroExtend 64 ||| (BitVec.ofNat 64 cause <<< 48) }
    { s with pops := FMap.insert s.pops p q }
  | none => s

/-- A fatal trap of a slot (R228): its population ends and is reported in place of completion. -/
def fatalTrap (s : State) (c n : Nat) (tpc : Word) (cause : Nat) (val : Word) : State :=
  let x := s.slot c n
  match x.pop with
  | none => s.freeSlot c n
  | some p =>
    let s := ((s.endPop p .fatal).report (.fatal p x.gtid cause tpc val)).fatalWord p x.gtid cause
    if (FMap.find? s.pops p).isSome then s else s.freeSlot c n

/-- A slot after its bundle: the pc moves on and what belonged to the bundle is forgotten, the members it has served (R292) and the
refusal of its migration (R52) among it. A slot that the bundle has freed or sent to IDLE-STEAL stays so. -/
def stepSlot (y : Slot) : Slot :=
  let claim : Option Claim := y.claim.map fun cl => { cl with queue := cl.queue.map fun o => { o with held := false } }
  let y := { y with
    cWait := none, aWait := none, cont := none, prior := none, tabs := none, dtld := none, owed := none, replay := none
    noMig := if y.noMig = some y.pc then none else y.noMig
    served := y.served.filter (·.1 ≠ y.pc)
    pc := y.nextPc, claim := claim }
  match y.mode with
  | .parked => { y with mode := .ready }
  | .halted => { y with haltFrom := .ready }
  | _ => y

/-- A bundle of a slot of one VF completes (R31, R62): it counts under BUNDLES and its population moves (R55, R251). -/
def bundleDoneV (s : State) (c vk n : Nat) (pop : Option Nat) : State :=
  ((s.updSlotV c vk n stepSlot).countFor c vk 2 n 1).moved pop

/-- A bundle of the running VF completes. -/
def bundleDone (s : State) (c n : Nat) (pop : Option Nat) : State := s.bundleDoneV c (s.vk c) n pop

/-- The A-word of a slot's bundle has its result (R62): it is written, and with no word waiting the bundle completes. -/
def finishA (s : State) (c vk n : Nat) (ws : List Wr) : State :=
  let s := s.updSlotV c vk n fun x => { x.wrs ws with aWait := none }
  let x := s.slotV c vk n
  if x.cWait.isNone then (s.bundleDoneV c vk n x.pop).updSlotV c vk n fun x =>
    { x with readyAt := (s.core c).cyc.toNat + 1 }
  else s.moved x.pop

/-- A slot is back before its bundle (R62, R240): the A-word's registers are restored and its queued vector operation is
dropped. The bundle keeps the decode tables it issued under (R90). -/
def undoSlot (x : Slot) : Slot :=
  let x := match x.prior with
    | none => x
    | some p => { x with g := p.g, p := p.p, fflags := p.fflags, rseed := p.rseed.getD x.rseed, tabs := p.tables }
  { x with
    cWait := none, aWait := none, cont := none, prior := none, owed := none
    claim := x.claim.map fun cl => { cl with queue := cl.queue.filter fun o => !o.held }
    mode := if x.mode = .parked then .ready else x.mode
    haltFrom := if x.mode = .halted then .ready else x.haltFrom }

/-- Halt a slot at its bundle boundary (R27, R257, R259). -/
def halt (s : State) (c n : Nat) : State := s.updSlot c n fun y =>
  { y with mode := .halted, haltFrom := y.mode, stop := false }

/-! ### Traps (R223-R228) -/

end State

/-- IN_TRAP (R29). -/
def Slot.inTrap (x : Slot) : Bool := x.tstat.getLsbD 0

/-- Trap entry (R224): %TPC, %TCAUSE and %TVAL are written, IN_TRAP is set, the pc becomes %TVEC; nothing else changes. -/
def Slot.enter (x : Slot) (tvec tpc : Word) (cause : Nat) (val : Word) : Slot :=
  { x with
    tpc := tpc, tcause := BitVec.ofNat 64 cause, tval := val, tstat := x.tstat ||| 1, pc := tvec
    mode := .ready, cWait := none, aWait := none, cont := none, prior := none, tabs := none, dtld := none, owed := none, fate := .trap cause val }

/-- A synchronous trap of the bundle at a slot's pc: only that bundle's record of served members stays (R292), and it has been performed
again after a refused migration (R52). -/
def Slot.trapped (x : Slot) : Slot :=
  { x with served := x.served.filter (·.1 = x.pc), noMig := if x.noMig = some x.pc then none else x.noMig }

namespace State

/-- A slot takes a trap (R224), unless it is fatal (R228): a synchronous cause in a handler, or any cause with %TVEC = 0. -/
def takeTrap (s : State) (c n : Nat) (sync : Bool) (cause : Nat) (val : Word) : State :=
  let x := s.slot c n
  let tvec := (s.cvf c).tvec
  if (sync && x.inTrap) || tvec = 0 then s.fatalTrap c n x.pc cause val
  else s.updSlot c n fun y => (if sync then y.trapped else y).enter tvec x.pc cause val

/-- The executing bundle traps with a synchronous cause (R225): no word of it has an effect. -/
def raise (s : State) (cause : Nat) (val : Word) : State :=
  (s.takeTrap s.cur.core s.cur.slot true cause val).updMe fun x => { x with fate := .trap cause val }

/-- %TVAL of causes 0x01 and 0x03 (R62): the offending word, bit 32 set for the A-word of a pair. -/
def wordTval (s : State) : Word := s.cur.word.zeroExtend 64 ||| (if s.cur.pairA then 0x100000000 else 0)

/-- The executing word is illegal: trap 0x01 (R71). -/
def illegal (s : State) : State := s.raise 0x01 s.wordTval

/-- The arrived marks of a slot that goes on at a pc (R298): a barrier at another is not executed again, so its mark goes with its release. -/
def marksFrom (pc : Word) (l : List BarMark) : List BarMark :=
  (l.filter fun m => m.pc = pc || !m.released).map fun m => if m.pc = pc then m else { m with again := false }

/-- Return from a trap (R227): the pc becomes %TPC, IN_TRAP clears, and the bundle at %TPC is executed again; one that the handler skips
is not (R298). -/
def returnTrap (s : State) : State := s.updMe fun x =>
  { x with nextPc := x.tpc, tstat := x.tstat &&& ~~~1#64, arrived := marksFrom x.tpc x.arrived }

end State

end Sys2Proof.Machine
end

