-- ==== Sys2Proof/Machine/Control.lean ====
section
/-! DEFINITION. Branches and jumps (R293, R315, R316), traps and returns (R227, R305), semaphores (R330), SETLIVE (R53). -/

namespace Sys2Proof.Machine

namespace State

/-- The sequential successor of the bundle (R59). -/
def successor (s : State) : Word := s.addr + (if s.cur.pair then 8 else 4)
/-- The bundle continues elsewhere: after both words (R60). -/
def goto (s : State) (t : Word) : State := s.updMe fun x => { x with nextPc := t }

end State

/-- BR (R293). -/
def execBr (p : BitVec 3) (o : BitVec 20) (s : State) : Host.Outcome State Fault Refusal :=
  .next (if s.rp p then s.goto (s.addr + brOffset o) else s)

/-- BRN (R293): taken when the predicate is 0. -/
def execBrn (p : BitVec 3) (o : BitVec 20) (s : State) : Host.Outcome State Fault Refusal :=
  .next (if s.rp p then s else s.goto (s.addr + brOffset o))

/-- JAL (R315). -/
def execJal (d : BitVec 6) (i : BitVec 18) (s : State) : Host.Outcome State Fault Refusal :=
  .next ((s.wg d s.successor).goto (s.addr + jalOffset i))

/-- JALR (R316): a target that is not 4-byte aligned takes trap 0x04. -/
def execJalr (d a : BitVec 6) (i : BitVec 12) (s : State) : Host.Outcome State Fault Refusal :=
  let t := s.rg a + imm12 i
  .next (if t &&& 3 ≠ 0 then s.raise 0x04 t else (s.wg d s.successor).goto t)

/-- TRAP (R227): trap 0x09 with the code. -/
def execTrap (i : BitVec 18) (s : State) : Host.Outcome State Fault Refusal := .next (s.raise 0x09 (i.zeroExtend 64))

/-- TRET (R227): return from a trap; outside a handler, trap 0x01. -/
def execTret (s : State) : Host.Outcome State Fault Refusal :=
  .next (if s.src.slot.inTrap then s.returnTrap else s.illegal)

/-- A debugger is attached to the partition of the executing slot (R257). -/
def State.attached (s : State) : Bool := match s.part (s.runPid s.cur.core) with
  | some p => p.debugger
  | none => false

/-- A slot halts at a DBRK whose bundle has completed, and its tag is reported (R257, R305). -/
def State.haltAt (s : State) (c n : Nat) (tag : Word) : State := (s.halt c n).report (.dbrk c n tag)

/-- DBRK (R305): with a debugger attached the bundle completes, its A-word too, and the slot halts after it; otherwise trap 0x0A. -/
def execDbrk (i : BitVec 18) (s : State) : Host.Outcome State Fault Refusal :=
  .next (if s.attached then
    (if s.me.aWait.isSome then (s.parkC (.partner 0)).updMe fun x => { x with cont := some (.halt (i.zeroExtend 64)) }
     else s.haltAt s.cur.core s.cur.slot (i.zeroExtend 64))
  else s.raise 0x0A (i.zeroExtend 64))

/-- SETLIVE (R53). -/
def execSetlive (a : BitVec 6) (s : State) : Host.Outcome State Fault Refusal :=
  .next (s.updMe fun x => { x with live := s.rg a })

/-- SEMP (R330): take a unit, or join the waiters and park. -/
def execSemp (n : BitVec 4) (s : State) : Host.Outcome State Fault Refusal :=
  let k := FMap.getD (s.cvf s.cur.core).sems n.toNat 0
  .next (if 0 < k then s.updCvf s.cur.core fun x => { x with sems := FMap.insert x.sems n.toNat (k - 1) }
  else (s.updCvf s.cur.core fun x =>
      { x with semWait := FMap.insert x.semWait n.toNat (FMap.getD x.semWait n.toNat [] ++ [s.cur.slot]) }).parkC
    (.semp n.toNat))

/-- SEMV (R330): the head of the waiters continues, or the count rises, at most to 65,535. -/
def execSemv (n : BitVec 4) (s : State) : Host.Outcome State Fault Refusal :=
  let x := s.cvf s.cur.core
  .next (match FMap.getD x.semWait n.toNat [] with
  | w :: r =>
    (s.updCvf s.cur.core fun y => { y with semWait := FMap.insert y.semWait n.toNat r }).updSlot s.cur.core w fun y =>
      { y with cWait := some (.done []) }
  | [] => s.updCvf s.cur.core fun y =>
      { y with sems := FMap.insert y.sems n.toNat (Nat.min (FMap.getD x.sems n.toNat 0 + 1) 65535) })

end Sys2Proof.Machine
end

