-- ==== Sys2Proof/Machine/Falu.lean ====
section
/-! DEFINITION. The scalar floating instructions: FALU, FMA, FCMP, FCVT (R303, R304, R308-R314). -/

namespace Sys2Proof.Machine

/-- The layout a D bit names (R304). -/
def layoutOf (x : BitVec 1) : FSpec := if x = 1 then fp64 else fp32

namespace State

/-- Identity mode of %AMODE (R108). -/
def identity (s : State) : Bool := s.src.slot.amode.getLsbD 0
/-- The rounding mode of %FRM (R303). -/
def rounding (s : State) : RMode := frmMode s.src.slot.frm
/-- A register's low bits as an operand of a layout (R303). -/
def fin (s : State) (f : FSpec) (a : BitVec 6) : Nat := (s.rg a).toNat % 2 ^ f.width
/-- Write a floating result with its flags (R303). -/
def fout (s : State) (d : BitVec 6) (r : FRes) : State := (s.wg d (BitVec.ofNat 64 r.bits)).orFlags r.flags

end State

/-- FADD (R308). -/
def execFadd (d a b : BitVec 6) (x : BitVec 1) (s : State) : Host.Outcome State Fault Refusal :=
  let f := layoutOf x
  .next (s.fout d (f.fadd s.identity s.rounding (s.fin f a) (s.fin f b)))

/-- FSUB (R308). -/
def execFsub (d a b : BitVec 6) (x : BitVec 1) (s : State) : Host.Outcome State Fault Refusal :=
  let f := layoutOf x
  .next (s.fout d (f.fsub s.identity s.rounding (s.fin f a) (s.fin f b)))

/-- FMUL (R308). -/
def execFmul (d a b : BitVec 6) (x : BitVec 1) (s : State) : Host.Outcome State Fault Refusal :=
  let f := layoutOf x
  .next (s.fout d (f.fmul s.identity s.rounding (s.fin f a) (s.fin f b)))

/-- FMIN (R313). -/
def execFmin (d a b : BitVec 6) (x : BitVec 1) (s : State) : Host.Outcome State Fault Refusal :=
  let f := layoutOf x
  .next (s.fout d (f.fminmax s.identity false (s.fin f a) (s.fin f b)))

/-- FMAX (R313). -/
def execFmax (d a b : BitVec 6) (x : BitVec 1) (s : State) : Host.Outcome State Fault Refusal :=
  let f := layoutOf x
  .next (s.fout d (f.fminmax s.identity true (s.fin f a) (s.fin f b)))

/-- FSGNJ (R314). -/
def execFsgnj (d a b : BitVec 6) (x : BitVec 1) (s : State) : Host.Outcome State Fault Refusal :=
  let f := layoutOf x
  .next (s.wg d (BitVec.ofNat 64 (f.fsgnj (fun _ y => y) (s.fin f a) (s.fin f b))))

/-- FSGNJN (R314). -/
def execFsgnjn (d a b : BitVec 6) (x : BitVec 1) (s : State) : Host.Outcome State Fault Refusal :=
  let f := layoutOf x
  .next (s.wg d (BitVec.ofNat 64 (f.fsgnj (fun _ y => !y) (s.fin f a) (s.fin f b))))

/-- FSGNJX (R314). -/
def execFsgnjx (d a b : BitVec 6) (x : BitVec 1) (s : State) : Host.Outcome State Fault Refusal :=
  let f := layoutOf x
  .next (s.wg d (BitVec.ofNat 64 (f.fsgnj (fun x y => x != y) (s.fin f a) (s.fin f b))))

/-- FCLASS (R309): exactly one class bit. -/
def execFclass (d a : BitVec 6) (x : BitVec 1) (s : State) : Host.Outcome State Fault Refusal :=
  let f := layoutOf x
  .next (s.wg d (BitVec.ofNat 64 (2 ^ f.fclass (s.fin f a))))

/-- FMA (R312). -/
def execFma (d a b c : BitVec 6) (s : State) : Host.Outcome State Fault Refusal :=
  .next (s.fout d (fp32.ffma s.identity s.rounding (s.fin fp32 a) (s.fin fp32 b) (s.fin fp32 c)))

/-- FMA.D (R312). -/
def execFmaD (d a b c : BitVec 6) (s : State) : Host.Outcome State Fault Refusal :=
  .next (s.fout d (fp64.ffma s.identity s.rounding (s.fin fp64 a) (s.fin fp64 b) (s.fin fp64 c)))

/-- FCMP (R310). -/
def execFcmp (p : BitVec 3) (c : BitVec 2) (a b : BitVec 6) (x : BitVec 1) (s : State) :
    Host.Outcome State Fault Refusal :=
  let f := layoutOf x
  let r := f.fcmp c.toNat (s.fin f a) (s.fin f b)
  .next ((s.wp p r.1).orFlags r.2)

/-- A 64-bit integer source to a layout: the absent pattern of a signed source maps to absent (R311). -/
def FSpec.ofWord (f : FSpec) (m : RMode) (v : Word) : FRes :=
  if v = 0x8000000000000000 then f.absentRes else f.ofInt m v.toInt

/-- FCVT.F32.I64 (R311). -/
def execFcvtF32I64 (d a : BitVec 6) (s : State) : Host.Outcome State Fault Refusal :=
  .next (s.fout d (fp32.ofWord s.rounding (s.rg a)))

/-- FCVT.F32.I64U (R311). -/
def execFcvtF32I64u (d a : BitVec 6) (s : State) : Host.Outcome State Fault Refusal :=
  .next (s.fout d (fp32.ofInt s.rounding (s.rg a).toNat))

/-- FCVT.I64.F32 (R311). -/
def execFcvtI64F32 (d a : BitVec 6) (s : State) : Host.Outcome State Fault Refusal :=
  let r := fp32.toI64 s.rounding (s.fin fp32 a)
  .next ((s.wg d r.1).orFlags r.2)

/-- FCVT.I64U.F32 (R311). -/
def execFcvtI64uF32 (d a : BitVec 6) (s : State) : Host.Outcome State Fault Refusal :=
  let r := fp32.toU64 s.rounding (s.fin fp32 a)
  .next ((s.wg d r.1).orFlags r.2)

/-- FCVT.F64.I64 (R311). -/
def execFcvtF64I64 (d a : BitVec 6) (s : State) : Host.Outcome State Fault Refusal :=
  .next (s.fout d (fp64.ofWord s.rounding (s.rg a)))

/-- FCVT.I64.F64 (R311). -/
def execFcvtI64F64 (d a : BitVec 6) (s : State) : Host.Outcome State Fault Refusal :=
  let r := fp64.toI64 s.rounding (s.fin fp64 a)
  .next ((s.wg d r.1).orFlags r.2)

/-- FCVT.F32.F64 (R311). -/
def execFcvtF32F64 (d a : BitVec 6) (s : State) : Host.Outcome State Fault Refusal :=
  .next (s.fout d (fp64.convert fp32 s.rounding (s.fin fp64 a)))

/-- FCVT.F64.F32 (R311). -/
def execFcvtF64F32 (d a : BitVec 6) (s : State) : Host.Outcome State Fault Refusal :=
  .next (s.fout d (fp32.convert fp64 s.rounding (s.fin fp32 a)))

end Sys2Proof.Machine
end

