-- ==== Sys2Proof/Machine/SpecialFn.lean ====
section
/-! DEFINITION. The special functions of R116, correctly rounded: exact cases first, square roots by an integer root with a
sticky bit, the transcendental ones from fixed-point enclosures that are refined until both ends round alike. -/

namespace Sys2Proof.Machine

/-- Integer square root of n < 4^bits, bit by bit. -/
def isqrt : Nat → Nat → Nat → Nat
  | 0, _, r => r
  | k + 1, n, r => isqrt k n (if (r + 2 ^ k) * (r + 2 ^ k) ≤ n then r + 2 ^ k else r)

/-- The square root of a positive rational, rounded once (R116). -/
def sqrtRound (n d : Nat) : FRes :=
  let v := n * 4 ^ 160 / d
  let r := isqrt 320 v 0
  let exact := r * r * d = n * 4 ^ 160
  fp32.finish .rne false (2 * r + if exact then 0 else 1) (2 * 2 ^ 160)

/-! ### Fixed-point series at w bits: every value below is off by less than 2^16 units of 2^-w -/

/-- Partial sums of t / k · z^… : atanh- or atan-like series Σ ±p/(2k+1), p the running power, divided by `q` each time. -/
def oddSeries (alt : Bool) (q : Nat) : Nat → Nat → Nat → Int → Int
  | 0, _, _, acc => acc
  | n + 1, k, p, acc =>
    let t : Int := (p / (2 * k + 1) : Nat)
    oddSeries alt q n (k + 1) (p / q) (if alt && k % 2 = 1 then acc - t else acc + t)

/-- ln 2 = 2 atanh(1/3) at w bits. -/
def fixLn2 (w : Nat) : Nat := 2 * (oddSeries false 9 w 0 (2 ^ w / 3) 0).toNat

/-- π = 16 atan(1/5) − 4 atan(1/239) at w bits. -/
def fixPi (w : Nat) : Nat :=
  (16 * oddSeries true 25 w 0 (2 ^ w / 5) 0 - 4 * oddSeries true 57121 w 0 (2 ^ w / 239) 0).toNat

/-- Σ y^k/k! at w bits from a running term. -/
def expSeries (w y : Nat) : Nat → Nat → Nat → Nat → Nat
  | 0, _, _, acc => acc
  | n + 1, k, t, acc =>
    let t' := t * y / 2 ^ w / (k + 1)
    expSeries w y n (k + 1) t' (acc + t')

/-- sin y = Σ ± y^(2k+1)/(2k+1)! at w bits from a running term. -/
def sinSeries (w y : Nat) : Nat → Nat → Nat → Int → Int
  | 0, _, _, acc => acc
  | n + 1, k, t, acc =>
    let t' := t * y / 2 ^ w * y / 2 ^ w / ((2 * k + 2) * (2 * k + 3))
    sinSeries w y n (k + 1) t' (if k % 2 = 0 then acc - t' else acc + t')

/-- 2^f for 0 ≤ f = n/d < 1, at w bits. -/
def fixExp2 (w n d : Nat) : Nat := expSeries w (n * 2 ^ w / d * fixLn2 w / 2 ^ w) (w / 4) 0 (2 ^ w) (2 ^ w)

/-- sin(π n/d) for 0 ≤ n/d ≤ 1/2, at w bits. -/
def fixSinPi (w n d : Nat) : Nat :=
  let y := n * 2 ^ w / d * fixPi w / 2 ^ w
  (sinSeries w y (w / 4) 0 y y).toNat

/-- Powers of z² times z over odd numbers: atanh z = Σ z^(2k+1)/(2k+1), z at w bits. -/
def atanhSeries (w z : Nat) : Nat → Nat → Nat → Nat → Nat
  | 0, _, _, acc => acc
  | n + 1, k, p, acc => atanhSeries w z n (k + 1) (p * z / 2 ^ w * z / 2 ^ w) (acc + p / (2 * k + 1))

/-- log2 m for 1 ≤ m = n/d < 2, at w bits. -/
def fixLog2 (w n d : Nat) : Nat :=
  let z := (n - d) * 2 ^ w / (n + d)
  2 * atanhSeries w z (w / 3) 0 z 0 * 2 ^ w / fixLn2 w

/-- Round an irrational positive value known as c ± 2^16 units of 1/d, refining while the two ends round apart: `at` gives
c and d for a precision. The result is inexact. -/
def roundEnclosed (neg : Bool) (at_ : Nat → Int × Nat) : Nat → Nat → FRes
  | 0, w => inexact (fp32.finish .rne neg (at_ w).1.natAbs (at_ w).2)
  | k + 1, w =>
    let c := at_ w
    let lo := fp32.finish .rne neg (c.1.natAbs - 2 ^ 16) c.2
    let hi := fp32.finish .rne neg (c.1.natAbs + 2 ^ 16) c.2
    if lo.bits = hi.bits then inexact hi else roundEnclosed neg at_ k (2 * w)
where
  /-- A result that is not exact: NX, and UF below the normal range. -/
  inexact (r : FRes) : FRes :=
    ⟨r.bits, r.flags ||| flagNX ||| (if r.bits % 2 ^ 31 < 2 ^ 23 then flagUF else 0)⟩

/-- The precision to begin with. -/
def sfuBits : Nat := 320

/-- 2^x for a finite x (R116): exact for an integer. -/
def exp2Fin (neg : Bool) (n d : Nat) : FRes :=
  let x := signedNum neg n
  let i := max (-1000) (min 1000 (x / d))
  let f := (x % d).toNat
  let up := i.toNat
  let dn := (-i).toNat
  if f = 0 ∨ 1000 ≤ i ∨ i ≤ -1000 then fp32.finish .rne false (2 ^ up) (2 ^ dn)
  else roundEnclosed false (fun w => ((fixExp2 w f d * 2 ^ up : Nat), 2 ^ w * 2 ^ dn)) 3 sfuBits

/-- log2 of a positive finite number (R116): exact for a power of two, +0 for 1. -/
def log2Fin (n d : Nat) : FRes :=
  let big := 2 ^ 12
  let l := ratLog2 n d big
  let e : Int := (l : Int) - big
  let up := (-e).toNat
  let dn := e.toNat
  if n * 2 ^ up = d * 2 ^ dn then fp32.ofInt .rne e
  else
    let at_ (w : Nat) : Int × Nat := (e * 2 ^ w + fixLog2 w (n * 2 ^ up) (d * 2 ^ dn), 2 ^ w)
    roundEnclosed (e < 0) at_ 3 sfuBits

/-- sin(π n/d) for n/d ≥ 0 with the sign of the argument (R116): exact at half integers. -/
def sinpiFin (neg : Bool) (n d : Nat) : FRes :=
  let r := n % (2 * d)
  let minus := d ≤ r
  let r := r % d
  let t := if 2 * r ≤ d then r else d - r
  if t = 0 then ⟨fp32.withSign neg 0, 0⟩
  else if 2 * t = d then ⟨fp32.withSign (neg != minus) 0x3F800000, 0⟩
  else roundEnclosed (neg != minus) (fun w => (fixSinPi w t d, 2 ^ w)) 3 sfuBits

/-- cos(π n/d) = sin(π(n/d + 1/2)) (R116): +0 at odd halves. -/
def cospiFin (n d : Nat) : FRes :=
  let r := sinpiFin false (2 * n + d) (2 * d)
  if r.bits % 2 ^ 31 = 0 ∧ r.flags = 0 then ⟨0, 0⟩ else r

/-- The seven functions of R116. -/
inductive SfuFn where
  | rcp | sqrt | rsqrt | exp2 | log2 | sinpi | cospi
  deriving DecidableEq, Repr

/-- A function of a number that is no NaN, in FP32, with its flags (R116). -/
def sfuNum (g : SfuFn) (x : Num) : FRes :=
  let pinf := fp32.inf
  let ninf := fp32.withSign true fp32.inf
  let bad : FRes := ⟨fp32.nan, flagNV⟩
  let one : Nat := 0x3F800000
  match g, x with
  | _, .nan s => fp32.nanRes s
  | .rcp, .inf s => ⟨fp32.withSign s 0, 0⟩
  | .rcp, .fin s n d => if n = 0 then ⟨if s then ninf else pinf, flagDZ⟩ else fp32.finish .rne s d n
  | .sqrt, .inf s => if s then bad else ⟨pinf, 0⟩
  | .sqrt, .fin s n d => if n = 0 then ⟨fp32.withSign s 0, 0⟩ else if s then bad else sqrtRound n d
  | .rsqrt, .inf s => if s then bad else ⟨0, 0⟩
  | .rsqrt, .fin s n d =>
    if n = 0 then ⟨if s then ninf else pinf, flagDZ⟩ else if s then bad else sqrtRound d n
  | .exp2, .inf s => ⟨if s then 0 else pinf, 0⟩
  | .exp2, .fin s n d => if n = 0 then ⟨one, 0⟩ else exp2Fin s n d
  | .log2, .inf s => if s then bad else ⟨pinf, 0⟩
  | .log2, .fin s n d => if n = 0 then ⟨ninf, flagDZ⟩ else if s then bad else log2Fin n d
  | .sinpi, .inf _ => bad
  | .sinpi, .fin s n d => sinpiFin s n d
  | .cospi, .inf _ => bad
  | .cospi, .fin _ n d => cospiFin n d

/-- A function of an FP32 pattern (R116): absent gives absent in both modes (R108). -/
def sfu32 (g : SfuFn) (x : Nat) : FRes :=
  if fp32.isAbsent x then fp32.absentRes else sfuNum g (fp32.unpack (x % 2 ^ 32))

/-- A function of an FP32 pattern in a lane layout: rounded once more by RNE for BF16 and FP16 (R116). -/
def sfuLane (g : SfuFn) (f : FSpec) (x : Nat) : Nat := (fp32.convert f .rne (sfu32 g x).bits).bits

end Sys2Proof.Machine
end

