-- ==== Sys2Proof/Machine/Translate.lean ====
section
/-! DEFINITION. Virtual addresses to places (R138-R149, R229-R233): canonical addresses, the scratchpad aperture, the TLBs,
the regions of the physical space, the interleave over channels, home slices, and fetching an instruction's words. -/

namespace Sys2Proof.Machine

/-- Where an access goes once translated (R140, R141): a scratchpad offset, a memory key (may it be cached, and its home,
256 · slice + set, R146), or an offset of a peer window. -/
inductive Place where
  | sp (core off : Nat)
  | mem (key : Nat) (cached : Bool) (home : Nat)
  | peer (win off : Nat)
  deriving DecidableEq, Repr

/-- What looking an address up gives: a place, a trap cause, or a walk request for a VPN (R229). -/
inductive Look where
  | at (p : Place)
  | trap (cause : Nat)
  | walk
  deriving DecidableEq, Repr

/-- The kinds of access of R234: 0 read, 1 write, 2 read-modify-write, 3 fetch. -/
abbrev Access := Nat

/-- Bits [63:57] all equal bit 56 (R138). -/
def canonical (va : Word) : Bool := va.toNat / 2 ^ 56 = 0 || va.toNat / 2 ^ 56 = 255

/-- The address lies in the scratchpad aperture (R141). -/
def inAperture (va : Word) : Bool := Config.spAlias ≤ va.toNat && va.toNat < Config.spEnd

/-- The key of a scratchpad byte: each VF has its own contents of a bank (R242). -/
def spKey (vkey core off : Nat) : Nat := 2 ^ 50 + vkey * 2 ^ 30 + core * 2 ^ 18 + off

/-- The key of a far-port byte (R140). -/
def farKey (port off : Nat) : Nat := 2 ^ 48 + port * 2 ^ 44 + off

/-- The key of a byte of host memory. -/
def hostKey (a : Nat) : Nat := 2 ^ 65 + a

/-- Channel `ci` of a partition's owned channels, ascending (R12, R147). -/
def Part.channel (p : Part) (ci : Nat) : Nat := 8 * (p.octets.getD (ci / 8) 0) + ci % 8

/-- The key of an HBM byte of a partition (R147). -/
def Part.hbmKey (p : Part) (pa : Nat) : Nat :=
  let u := pa / 256
  let q := u / p.channels
  let ci := (u % p.channels + (q % 2 ^ 16 ^^^ q / 2 ^ 16 % 2 ^ 16)) % p.channels
  p.channel ci * Config.channelBytes + q * 256 + pa % 256

/-- The index of the home slice in the partition for a physical address (R146). -/
def Part.homeIndex (p : Part) (pa : Nat) : Nat :=
  let la := pa / 128
  (la % 2 ^ 16 ^^^ la / 2 ^ 16 % 2 ^ 16 ^^^ la / 2 ^ 32 % 2 ^ 13) % p.slices

/-- The home of a physical address: 256 · slice + set (R146, R177). -/
def Part.homeOf (p : Part) (pa : Nat) : Nat := 256 * p.sliceAt (p.homeIndex pa) + pa / 128 % 256

namespace TlbEntry

/-- V, R, W, X, G, SIZE, VF, VPN (R230). -/
def valid (e : TlbEntry) : Bool := e.lo.getLsbD 0
/-- R: reads allowed. -/
def r (e : TlbEntry) : Bool := e.lo.getLsbD 1
/-- W: writes, AMOs and CAS allowed. -/
def w (e : TlbEntry) : Bool := e.lo.getLsbD 2
/-- X: fetch allowed. -/
def x (e : TlbEntry) : Bool := e.lo.getLsbD 3
/-- G: matches every VF of the partition. -/
def glob (e : TlbEntry) : Bool := e.lo.getLsbD 11
/-- SIZE. -/
def size (e : TlbEntry) : Nat := e.lo.toNat / 2 ^ 12 % 4
/-- Owning VF. -/
def vf (e : TlbEntry) : Nat := e.lo.toNat / 2 ^ 14 % 512
/-- VPN: VA[56:16]. -/
def vpn (e : TlbEntry) : Nat := e.lo.toNat / 2 ^ 23
/-- PPN: PA[51:16]. -/
def ppn (e : TlbEntry) : Nat := e.hi.toNat / 2 ^ 16 % 2 ^ 36
/-- C: cacheable. -/
def c (e : TlbEntry) : Bool := e.hi.getLsbD 2
/-- F: far. -/
def f (e : TlbEntry) : Bool := e.hi.getLsbD 1
/-- Log2 of the page size (R138). -/
def pageLog (e : TlbEntry) : Nat := match e.size with
  | 0 => 16
  | 1 => 21
  | _ => 30

/-- The entry maps the address for the VF (R229). -/
def hits (e : TlbEntry) (vf : Nat) (va : Word) : Bool :=
  e.valid && (va.toNat % 2 ^ 57) / 2 ^ e.pageLog = e.vpn * 2 ^ 16 / 2 ^ e.pageLog && (e.glob || e.vf = vf)

/-- The physical address of a virtual one under the entry. -/
def pa (e : TlbEntry) (va : Word) : Nat :=
  e.ppn * 2 ^ 16 / 2 ^ e.pageLog * 2 ^ e.pageLog + va.toNat % 2 ^ e.pageLog

/-- The entry grants the access (R230, R286). -/
def allows (e : TlbEntry) (k : Access) : Bool := match k with
  | 0 => e.r
  | 1 => e.w
  | 2 => e.r && e.w
  | _ => e.x

/-- A malformed entry (R231): SIZE 3, a reserved bit set, or low VPN or PPN bits set. -/
def malformed (e : TlbEntry) : Bool :=
  e.size = 3 || e.lo.toNat / 2 ^ 4 % 2 ^ 7 ≠ 0 || e.hi.toNat / 2 ^ 52 ≠ 0 || e.hi.toNat / 2 ^ 3 % 2 ^ 13 ≠ 0 ||
  e.hi.getLsbD 0 || e.vpn % 2 ^ (e.pageLog - 16) ≠ 0 || e.ppn % 2 ^ (e.pageLog - 16) ≠ 0

/-- The set of a cluster TLB an entry stands in (assumption 5). -/
def set (e : TlbEntry) : Nat := e.vpn * 2 ^ 16 / 2 ^ e.pageLog % Config.clusTlbSets

end TlbEntry

/-- The sets of a cluster TLB an address may be found in, one per page size (assumption 5). -/
def tlbSets (va : Word) : List Nat :=
  [16, 21, 30].map fun l => (va.toNat % 2 ^ 57) / 2 ^ l % Config.clusTlbSets

/-- The first entry that maps an address. -/
def tlbFind (l : List TlbEntry) (vf : Nat) (va : Word) : Option TlbEntry := l.find? (·.hits vf va)

namespace TlbEntry

/-- Same VPN, VF and SIZE (R231). -/
def same (a b : TlbEntry) : Bool := a.vpn = b.vpn && a.vf = b.vf && a.size = b.size

/-- Both map some address for some VF (R229). -/
def overlaps (a b : TlbEntry) : Bool :=
  let l := Nat.max a.pageLog b.pageLog
  a.valid && b.valid && a.vpn * 2 ^ 16 / 2 ^ l = b.vpn * 2 ^ 16 / 2 ^ l && (a.vf = b.vf || a.glob || b.glob)

/-- An entry that TLBW writes takes the place of another: one with its VPN, VF and SIZE (R231), or one that maps what it maps, so that
it is the one used (R341, assumption 76). -/
def displaces (e x : TlbEntry) : Bool := x.same e || x.overlaps e

end TlbEntry

/-- An entry is used in a set of a cluster TLB: the most recently used, dropping what no longer fits (LRU, R229). -/
def tlbTouch (l : List TlbEntry) (e : TlbEntry) (n : Nat) : List TlbEntry := (e :: l.filter (· ≠ e)).take n

/-- An entry that maps an address is used in a core's TLB, or copied or walked into it: the most recently used, but for entries that
map other addresses of its page, which stay in front of it (R229, R341). -/
def tlbFill (l : List TlbEntry) (e : TlbEntry) (vf : Nat) (va : Word) : List TlbEntry :=
  let l := l.filter (!·.same e)
  let ahead := l.filter fun x => x.overlaps e && !x.hits vf va
  (ahead ++ e :: l.filter (!ahead.contains ·)).take Config.coreTlb

/-- An entry is written into a list, and those for which `out` holds leave it (R231). -/
def tlbWrite (l : List TlbEntry) (e : TlbEntry) (out : TlbEntry → Bool) (n : Nat) : List TlbEntry :=
  (e :: l.filter (!out ·)).take n

/-- A walk writes an entry into a cluster TLB, replacing one with the same VPN, VF and SIZE (R231, R232). -/
def Cluster.tlbPut (k : Cluster) (e : TlbEntry) : Cluster :=
  { k with tlb := FMap.insert k.tlb e.set (tlbWrite (FMap.getD k.tlb e.set []) e (·.same e) Config.clusTlbWays) }

/-- The entry of a cluster TLB that maps an address (R229). -/
def Cluster.tlbGet (k : Cluster) (vf : Nat) (va : Word) : Option TlbEntry :=
  ((tlbSets va).findSome? fun i => tlbFind (FMap.getD k.tlb i []) vf va)

/-- A walk request: one for a VPN and VF being walked joins that walk (R232). -/
def Cluster.addWalk (k : Cluster) (w : Walk) : Cluster :=
  if k.walks.any fun x => x.vpn = w.vpn && x.vf = w.vf then k else { k with walks := k.walks ++ [w] }

/-- An entry of a cluster TLB is used: it is the most recently used of its set (LRU, R229, R231). -/
def Cluster.tlbUse (k : Cluster) (e : TlbEntry) : Cluster :=
  { k with tlb := FMap.insert k.tlb e.set (tlbTouch (FMap.getD k.tlb e.set []) e Config.clusTlbWays) }

namespace Window

/-- PVF: the peer's VF (R279). -/
def pvf (x : Window) : Nat := x.w1.toNat / 2 ^ 15 % 512
/-- The virtual address in the peer's VF that an offset reaches (R279): PBASE and the offset. -/
def addr (x : Window) (off : Nat) : Nat := (x.w3.toNat + off) % 2 ^ 64

end Window

namespace State

/-- Look an address up in the core TLB, then in the cluster TLB, whose hit is copied into the core TLB (R229). -/
def tlbLook (s : State) (c : Nat) (va : Word) : Option TlbEntry × State :=
  let vf := s.runVf c
  match tlbFind (s.core c).tlb vf va with
  | some e => (some e, s.updCore c fun k => { k with tlb := tlbFill k.tlb e vf va })
  | none => match (s.cluster (s.clusterOf c)).tlbGet vf va with
    | some e => (some e, (s.updCluster (s.clusterOf c) (·.tlbUse e)).updCore c fun k =>
        { k with tlb := tlbFill k.tlb e vf va })
    | none => (none, s)

/-- A peer window. -/
def window (s : State) (w : Nat) : Window := FMap.getD s.windows w { w1 := 0, w2 := 0, w3 := 0 }

/-- A window that serves accesses of a VF at an offset (R140, R279): programmed for the VF, in size, with a port up. -/
def windowOk (s : State) (vf w off : Nat) : Bool := match FMap.find? s.windows w with
  | none => false
  | some x => x.w2 ≠ 0 && off < x.w2.toNat && x.w1.toNat / 2 ^ 6 % 512 = vf &&
    ((List.range 24).any fun p => x.w1.getLsbD (40 + p) && (match FMap.find? s.uports p with
      | some u => u.st = 1 || u.st = 2
      | none => false))

/-- A far port serves a partition at an offset (R140, R280). -/
def farOk (s : State) (pid port off : Nat) : Bool := match FMap.find? s.farPorts port with
  | none => false
  | some p => p.width ≠ 0 && p.pid = some pid && off < p.cap * 2 ^ 16

/-- The place of a physical address for a VF (R140, R148): a cause where there is none. -/
def physical (s : State) (vf pa : Nat) (far cached peerOk : Bool) : Look :=
  let r := pa / 2 ^ 48 % 16
  if 12 ≤ r then
    if !peerOk then .trap 0x06
    else if s.windowOk vf (pa / 2 ^ 44 % 64) (pa % 2 ^ 44) && !far && !cached
    then .at (.peer (pa / 2 ^ 44 % 64) (pa % 2 ^ 44)) else .trap 0x05
  else if r = 0 then
    match s.part (s.pidOf vf) with
    | some p => if pa < p.channels * Config.channelBytes && !far then .at (.mem (p.hbmKey pa) cached (p.homeOf pa)) else .trap 0x05
    | none => .trap 0x05
  else if r = 1 then
    match s.part (s.pidOf vf) with
    | some p =>
      if s.farOk (s.pidOf vf) (pa / 2 ^ 44 % 16) (pa % 2 ^ 44) && far
      then .at (.mem (farKey (pa / 2 ^ 44 % 16) (pa % 2 ^ 44)) cached (p.homeOf pa)) else .trap 0x05
    | none => .trap 0x05
  else .trap 0x05

/-- The scratchpad place of an aperture address, as the core's VF may use it (R18, R141). -/
def aperture (s : State) (c : Nat) (va : Word) : Look :=
  if va.toNat < Config.spAlias + Config.spBytes then .at (.sp c (va.toNat - Config.spAlias))
  else if Config.spWindow ≤ va.toNat then
    let n := (va.toNat - Config.spWindow) / Config.spBytes
    if s.coreIn (s.runPid c) n then .at (.sp n ((va.toNat - Config.spWindow) % Config.spBytes)) else .trap 0x05
  else .trap 0x05

/-- Look up a scalar access of `n` bytes: the checks of R286 and R317 in their order, 1-7. A TLB entry that lacks the
permission is walked for, and the walk posts the fault (R232). -/
def resolve (s : State) (c : Nat) (k : Access) (va : Word) (n : Nat) (peerOk : Bool) : Look × State :=
  if !canonical va then (.trap 0x05, s)
  else if va.toNat % n ≠ 0 then (.trap 0x04, s)
  else if inAperture va then (s.aperture c va, s)
  else match s.tlbLook c va with
    | (none, t) => (.walk, t)
    | (some e, t) => if e.allows k then (s.physical (s.runVf c) (e.pa va) e.f e.c peerOk, t) else (.walk, t)

/-- Ask the CSC for a walk of an address (R229): a walk of the same VPN and VF is joined (R232). -/
def askWalk (s : State) (c : Nat) (va : Word) : State :=
  s.updCluster (s.clusterOf c) (·.addWalk { vpn := va.toNat % 2 ^ 57 / 2 ^ 16, vf := s.runVf c, pid := s.runPid c })

/-- The executing bundle parks for a walk and is executed again after it (R229, R234). -/
def parkWalk (s : State) (c : Nat) (k : Access) (va : Word) : State :=
  (s.askWalk c va).replay (.walk (va.toNat % 2 ^ 64) k)

/-! ### Fetch (R59, R61-R63, R143, R145) -/

end State

/-- What fetching one word gives: the word, a trap with its value, or a walk. -/
inductive Fetched where
  | word (w : Nat) (s : State)
  | trap (cause : Nat)
  | walk (s : State)
  /-- A request for its line waits at the home slice's input, and the fetch behind it (R152). -/
  | wait (s : State)
  deriving DecidableEq, Repr

namespace State

/-- The instruction line of a key: from the L1 instruction cache, or filled from home, with the poison of its words (R145, R154). The
cache is fully associative, least recently used, and holds lines mapped non-cacheable too (assumption 53: R145 gives its size and its
lines). -/
def fetchLine (s : State) (c key : Nat) (cached : Bool) (home : Nat) : ILine × State :=
  let line := key / 128
  match (s.core c).l1i.find? (·.line = line) with
  | some e => (e, s.updCore c fun k => { k with l1i := e :: k.l1i.filter (·.line ≠ line) })
  | none =>
    let t := if cached then s.readThrough home (line * 128) 128 (s.runVf c) else s
    let e : ILine := { line := line, bytes := t.mem.read (line * 128) 128
                       poison := ((List.range 16).map (16 * line + ·)).filter t.wordPoisoned }
    (e, t.updCore c fun k => { k with l1i := (e :: k.l1i).take 256 })

/-- Fetch the word at an address (R63 item 1): non-canonical 0x05, misaligned 0x04 (assumption 6), scratchpad or peer
window 0x06 and a window of no core 0x05 (R18), outside memory 0x05, a word whose copy is poisoned 0x0B (R155). -/
def fetchWord (s : State) (c : Nat) (va : Word) : Fetched :=
  if !canonical va then .trap 0x05
  else if va.toNat % 4 ≠ 0 then .trap 0x04
  else if inAperture va then match s.aperture c va with
    | .trap q => .trap q
    | _ => .trap 0x06
  else match s.tlbLook c va with
    | (none, t) => .walk t
    | (some e, t) =>
      if !e.allows 3 then .walk t
      else match t.physical (t.runVf c) (e.pa va) e.f e.c false with
        | .trap q => .trap q
        | .walk => .walk t
        | .at (.mem key cached home) =>
          if cached && !((t.core c).l1i.any (·.line = key / 128)) && t.stalledOn (home / 256) key 4 then .wait t
          else
          let r := t.fetchLine c key cached home
          if r.1.poison.contains (key / 8) then .trap 0x0B
          else .word (leVal ((r.1.bytes.drop (key % 128)).take 4)) r.2
        | .at _ => .trap 0x06

end State

end Sys2Proof.Machine
end

