-- ==== Sys2Proof/WellFormed.lean ====
section
/-! DEFINITION. What an instruction is beside its operands' values: which operands R71 and R72 allow (the rest is trap
0x01), which words are privileged (trap 0x03, R28, R66), which class a word has (R58) and which registers it writes (R61). -/

namespace Sys2Proof

/-- A format code an instruction may name: all but 15 (R70, R84). -/
def fmtOk (f : BitVec 4) : Bool := f ≠ 15

/-- The width in bits of a format's codes (R84). -/
def fmtWidth (f : BitVec 4) : Nat :=
  if f = 0 ∨ f = 3 then 32
  else if f = 1 ∨ f = 2 ∨ f = 4 then 16
  else if 10 ≤ f.toNat ∧ f.toNat ≤ 14 then 4
  else 8

/-- The elements of one lane of a vector type: two for the pairwise types BF16, F16, I16 (R65). -/
def tyElems (t : BitVec 3) : Nat := if t = 3 ∨ t = 4 ∨ t = 5 then 2 else 1

/-- A vector type VR and VRS words may name: all but 6 and 7 (R71). -/
def tyOk (t : BitVec 3) : Bool := t.toNat ≤ 5

/-- A floating vector type (R65). -/
def tyFloat (t : BitVec 3) : Bool := t = 2 ∨ t = 3 ∨ t = 4

/-- A scope code an instruction may name (R65). -/
def scopeOk (s : BitVec 2) : Bool := s ≠ 3

/-- The selectors R28 lists for program level. -/
def selListed (s : BitVec 12) : Bool :=
  s.toNat ≤ 0x007 ∨ s = 0x010 ∨ s = 0x011 ∨ (0x020 ≤ s.toNat ∧ s.toNat ≤ 0x025) ∨
  (0x030 ≤ s.toNat ∧ s.toNat ≤ 0x03B) ∨ s = 0x040 ∨ (0x100 ≤ s.toNat ∧ s.toNat ≤ 0x107) ∨
  (0x110 ≤ s.toNat ∧ s.toNat ≤ 0x117) ∨ (0x120 ≤ s.toNat ∧ s.toNat ≤ 0x122)

/-- The selectors of the firmware level (R28). -/
def selFirmware (s : BitVec 12) : Bool := 0x800 ≤ s.toNat

/-- The selectors whose SWR is an instruction of its own (the rows TCMP_WRITE .. PMOVF_WRITE of the opcode table). -/
def selOwnRow (s : BitVec 12) : Bool :=
  s = 0x011 ∨ s = 0x030 ∨ s = 0x040 ∨ (0x035 ≤ s ∧ s ≤ 0x038) ∨ (0x100 ≤ s ∧ s ≤ 0x107) ∨
  (0x110 ≤ s ∧ s ≤ 0x117) ∨ s = 0x120 ∨ s = 0x121

namespace Instr

/-- The operands are ones the instruction admits (R28, R50, R71, R72); a word whose operands are not takes trap 0x01. -/
def wellFormed : Instr → Bool
  | .br _ _ => true
  | .brn _ _ => true
  | .jal _ _ => true
  | .jalr _ _ _ => true
  | .exit => true
  | .trap _ => true
  | .tret => true
  | .dbrk _ => true
  | .ldb _ _ _ => true
  | .ldbu _ _ _ => true
  | .ldh _ _ _ => true
  | .ldhu _ _ _ => true
  | .ldw _ _ _ => true
  | .ldwu _ _ _ => true
  | .ldd _ _ _ => true
  | .lda _ _ e z s _ => scopeOk s && !(z == 3 && e == 1)
  | .stb _ _ _ => true
  | .sth _ _ _ => true
  | .stw _ _ _ => true
  | .std _ _ _ => true
  | .str _ _ _ s _ => scopeOk s
  | .amoadd _ _ _ s _ _ => scopeOk s
  | .amoand _ _ _ s _ _ => scopeOk s
  | .amoor _ _ _ s _ _ => scopeOk s
  | .amoxor _ _ _ s _ _ => scopeOk s
  | .amomin _ _ _ s _ _ => scopeOk s
  | .amomax _ _ _ s _ _ => scopeOk s
  | .amominu _ _ _ s _ _ => scopeOk s
  | .amomaxu _ _ _ s _ _ => scopeOk s
  | .amoswap _ _ _ s _ _ => scopeOk s
  | .amofadd _ _ _ s _ => scopeOk s
  | .cas _ _ _ s _ _ => scopeOk s
  | .fence s o => scopeOk s && o != 0
  | .waitw _ _ _ s _ _ => scopeOk s
  | .waitwt _ _ _ _ => true
  | .semp _ => true
  | .semv _ => true
  | .cntInc _ _ => true
  | .cntDec _ _ => true
  | .cntCan _ _ _ => true
  | .cntSprd _ _ b => b.toNat ≤ 62
  | .cntBar _ => true
  | .cntRdq _ _ => true
  | .cntCfg _ b => b.toNat ≤ 62
  | .qEnq _ _ _ => true
  | .qDeq _ _ => true
  | .qWait _ => true
  | .qMake _ _ b => b.toNat ≤ 62
  | .qFree _ => true
  | .qStat _ _ => true
  | .spawn _ _ => true
  | .sync => true
  | .tend => true
  | .asend s _ _ n => n.toNat ≤ 8 && s.toNat + n.toNat ≤ 64 && (n != 0 || s == 0)
  | .asendG s _ _ n => n.toNat ≤ 8 && s.toNat + n.toNat ≤ 64 && (n != 0 || s == 0)
  | .ibx d => d.toNat ≤ 60
  | .ibxTry d => d.toNat ≤ 60
  | .setlive _ => true
  | .cpy _ a => a.toNat ≤ 58
  | .cpyCvt _ a => a.toNat ≤ 58
  | .cpyGather _ a => a.toNat ≤ 58
  | .cpyPeer _ a => a.toNat ≤ 58
  | .cpyFill _ a => a.toNat ≤ 58
  | .mxMul _ a => a.toNat + 8 ≤ 64
  | .mxRot _ a => a.toNat + 2 ≤ 64
  | .mxDrain _ a => a.toNat + 3 ≤ 64
  | .mxZero _ a => a.toNat + 1 ≤ 64
  | .mxLoad _ a => a.toNat + 3 ≤ 64
  | .jpoll _ _ => true
  | .dtld _ _ => true
  | .vclaim _ _ _ => true
  | .vrels => true
  | .vreneg _ => true
  | .vfence => true
  | .vld _ _ _ _ z => z.toNat ≤ 2
  | .vst _ _ _ _ z => z.toNat ≤ 2
  | .vgth _ _ _ _ z => z.toNat ≤ 2
  | .vsct _ _ _ _ z => z.toNat ≤ 2
  | .srd _ s => selListed s || selFirmware s
  | .swr _ s => (selListed s || selFirmware s) && !selOwnRow s
  | .park => true
  | .tlbwCore _ _ => true
  | .tlbwClus _ _ => true
  | .tlbiPage _ _ => true
  | .tlbiVf _ => true
  | .tlbiAll => true
  | .frepRetry _ => true
  | .frepKill _ => true
  | .add _ _ _ _ => true
  | .sub _ _ _ _ => true
  | .and _ _ _ _ => true
  | .or _ _ _ _ => true
  | .xor _ _ _ _ => true
  | .andn _ _ _ _ => true
  | .sll _ _ _ _ => true
  | .srl _ _ _ _ => true
  | .sra _ _ _ _ => true
  | .min _ _ _ _ => true
  | .max _ _ _ _ => true
  | .minu _ _ _ _ => true
  | .maxu _ _ _ _ => true
  | .mul _ _ _ _ => true
  | .mulh _ _ _ _ => true
  | .mulhu _ _ _ _ => true
  | .div _ _ _ _ => true
  | .divu _ _ _ _ => true
  | .rem _ _ _ _ => true
  | .remu _ _ _ _ => true
  | .clz _ _ _ => true
  | .ctz _ _ _ => true
  | .popc _ _ _ => true
  | .bswap _ _ _ => true
  | .addi _ _ _ => true
  | .andi _ _ _ => true
  | .ori _ _ _ => true
  | .xori _ _ _ => true
  | .slli _ _ _ _ => true
  | .srli _ _ _ _ => true
  | .srai _ _ _ _ => true
  | .lui _ _ => true
  | .addpc _ _ => true
  | .cmp _ c _ _ _ => c.toNat ≤ 5
  | .cmpi _ c _ _ => c.toNat ≤ 5
  | .pand _ _ _ _ _ => true
  | .por _ _ _ _ _ => true
  | .pxor _ _ _ _ _ => true
  | .pandn _ _ _ _ _ => true
  | .sel _ _ _ _ => true
  | .movpG _ => true
  | .movpP _ => true
  | .fadd _ _ _ _ => true
  | .fsub _ _ _ _ => true
  | .fmul _ _ _ _ => true
  | .fmin _ _ _ _ => true
  | .fmax _ _ _ _ => true
  | .fsgnj _ _ _ _ => true
  | .fsgnjn _ _ _ _ => true
  | .fsgnjx _ _ _ _ => true
  | .fclass _ _ _ => true
  | .fma _ _ _ _ => true
  | .fmaD _ _ _ _ => true
  | .fcmp _ _ _ _ _ => true
  | .fcvtF32I64 _ _ => true
  | .fcvtF32I64u _ _ => true
  | .fcvtI64F32 _ _ => true
  | .fcvtI64uF32 _ _ => true
  | .fcvtF64I64 _ _ => true
  | .fcvtI64F64 _ _ => true
  | .fcvtF32F64 _ _ => true
  | .fcvtF64F32 _ _ => true
  | .abtAbs _ _ f => fmtOk f
  | .abtPrs _ _ f => fmtOk f
  | .abm _ _ _ f => fmtOk f
  | .cvtd _ _ f => fmtOk f
  | .cvte _ _ r f => fmtOk f && r != 3
  | .rand _ => true
  | .sfuRcp _ _ => true
  | .sfuSqrt _ _ => true
  | .sfuRsqrt _ _ => true
  | .sfuExp2 _ _ => true
  | .sfuLog2 _ _ => true
  | .sfuSinpi _ _ => true
  | .sfuCospi _ _ => true
  | .vadd _ _ _ _ t => tyOk t
  | .vsub _ _ _ _ t => tyOk t
  | .vmul _ _ _ _ t => tyOk t
  | .vmin _ _ _ _ t => tyOk t
  | .vmax _ _ _ _ t => tyOk t
  | .vand _ _ _ _ t => tyOk t
  | .vor _ _ _ _ t => tyOk t
  | .vxor _ _ _ _ t => tyOk t
  | .vshl _ _ _ _ t => t == 0 || t == 1 || t == 5
  | .vshr _ _ _ _ t => t == 0 || t == 1 || t == 5
  | .vsra _ _ _ _ t => t == 0 || t == 1 || t == 5
  | .vfma _ _ _ _ t _ => tyFloat t
  | .vcmp _ _ _ t _ => tyOk t
  | .vsel _ _ _ t => tyOk t
  | .vcvtDec _ _ _ t f => tyFloat t && fmtOk f && fmtWidth f * tyElems t ≤ 32
  | .vcvtEnc _ _ _ t f => tyFloat t && fmtOk f && fmtWidth f * tyElems t ≤ 32
  | .vredAdd _ d _ t => tyOk t && d.toNat ≤ 62
  | .vredMin _ d _ t => tyOk t && d.toNat ≤ 62
  | .vredMax _ d _ t => tyOk t && d.toNat ≤ 62
  | .vbc _ _ _ t => tyOk t
  | .vext _ _ _ t => tyOk t
  | .vperm _ _ _ _ t => tyOk t
  | .vsfuRcp _ _ _ t => tyFloat t
  | .vsfuSqrt _ _ _ t => tyFloat t
  | .vsfuRsqrt _ _ _ t => tyFloat t
  | .vsfuExp2 _ _ _ t => tyFloat t
  | .vsfuLog2 _ _ _ t => tyFloat t
  | .vsfuSinpi _ _ _ t => tyFloat t
  | .vsfuCospi _ _ _ t => tyFloat t
  | .vaccFrom _ _ _ => true
  | .vaccTo _ _ _ => true
  | .vabt _ _ f => fmtOk f
  | .vabm _ _ f => fmtOk f
  | .viota _ _ _ => true
  | .tcmpWrite _ => true
  | .fmtdWrite _ => true
  | .dqbaseWrite _ => true
  | .rseedWrite _ _ => true
  | .pmcWrite _ _ => true
  | .pmselWrite _ _ => true
  | .pmctlWrite _ => true
  | .pmovfWrite _ => true
  | .issueCycle _ => true
  | .bankExchangeDone _ _ _ => true
  | .timerExpiry _ _ => true
  | .parkReply _ _ _ => true
  | .activationPacket _ _ => true
  | .activationBufferDispatch _ => true
  | .asendInject _ _ => true
  | .stealRequest _ _ => true
  | .stealAnswer _ _ => true
  | .stealReply _ _ => true
  | .stealBackoffExpiry _ _ => true
  | .migrationArrival _ _ => true
  | .migrationAck _ _ => true
  | .migrationRefusal _ _ => true
  | .populationComplete _ => true
  | .populationHung _ => true
  | .completionReport _ => true
  | .storePqEntry _ _ => true
  | .pqDrain _ _ => true
  | .forceRequest _ _ _ => true
  | .forceAck _ _ _ => true
  | .sysPublish _ _ => true
  | .l1Fill _ _ => true
  | .sliceRequest _ => true
  | .l2FillReturn _ _ _ => true
  | .missEntryFree _ _ => true
  | .writebackAck _ _ => true
  | .balancerToken _ => true
  | .balancerAntitoken _ => true
  | .exitToken _ => true
  | .exitAntitoken _ => true
  | .snapshot _ _ => true
  | .barrierRelease _ _ => true
  | .spreadRecord _ => true
  | .cntCfgApply _ _ => true
  | .queueReservationDone _ _ => true
  | .jobAdmit _ => true
  | .jobStart _ => true
  | .mxePrefetch _ => true
  | .cpxPiece _ _ => true
  | .mxeKblock _ => true
  | .rotBlockArrival _ _ => true
  | .jobComplete _ _ => true
  | .vclaimGrant _ => true
  | .vectorOpPerform _ _ => true
  | .sfuService _ _ => true
  | .sfuResult _ _ => true
  | .dtldComplete _ _ => true
  | .walkDone _ _ => true
  | .tlbShootdownAck _ _ _ => true
  | .quantumExpiry _ => true
  | .worldSwitchExchange _ => true
  | .debugResume _ _ => true
  | .debugRegisterAccess _ _ _ _ _ => true
  | .peerRequest _ _ _ _ => true
  | .peerOpHeld _ _ _ _ => true
  | .queueOpen _ _ => true
  | .tailDoorbell _ _ => true
  | .acceptanceRecord _ => true
  | .releaseDoorbell _ => true
  | .packetComplete _ _ => true
  | .launch _ => true
  | .pcreate _ => true
  | .pdestroy _ => true
  | .vcreate _ => true
  | .vreset _ => true
  | .vdestroy _ => true
  | .group _ => true
  | .cidcfg _ => true
  | .occlim _ => true
  | .window _ => true
  | .farport _ => true
  | .pcap _ => true
  | .debug _ => true
  | .trace _ => true
  | .pause _ => true
  | .resume _ => true
  | .ochreMismatch => true
  | .powerOnReset _ _ _ => true
  | .spdmGetVersion _ => true
  | .spdmGetCapabilities _ => true
  | .spdmNegotiateAlgorithms _ => true
  | .spdmGetDigests _ => true
  | .spdmGetCertificate _ => true
  | .spdmChallenge _ => true
  | .spdmGetMeasurements _ => true
  | .ubhamLinkTrain _ _ _ => true
  | .ubhamLaneLoss _ => true
  | .ubhamFlitRetry _ => true
  | .farportTrain _ _ _ _ => true
  | .temperatureInput _ _ => true
  | .thermalTrip _ => true
  | .pcapWindow _ => true
  | .waitwtTimeout _ _ => true
  | .packetBreakResume _ => true
  | .debuggerAttach _ _ => true
  | .softError _ _ _ _ => true
  | .peerMovedReply _ _ => true

/-- The instruction runs only at firmware level; at program level it takes trap 0x03 (R28, R66, R71). -/
def privileged : Instr → Bool
  | .br _ _ => false
  | .brn _ _ => false
  | .jal _ _ => false
  | .jalr _ _ _ => false
  | .exit => false
  | .trap _ => false
  | .tret => false
  | .dbrk _ => false
  | .ldb _ _ _ => false
  | .ldbu _ _ _ => false
  | .ldh _ _ _ => false
  | .ldhu _ _ _ => false
  | .ldw _ _ _ => false
  | .ldwu _ _ _ => false
  | .ldd _ _ _ => false
  | .lda _ _ _ _ _ _ => false
  | .stb _ _ _ => false
  | .sth _ _ _ => false
  | .stw _ _ _ => false
  | .std _ _ _ => false
  | .str _ _ _ _ _ => false
  | .amoadd _ _ _ _ _ _ => false
  | .amoand _ _ _ _ _ _ => false
  | .amoor _ _ _ _ _ _ => false
  | .amoxor _ _ _ _ _ _ => false
  | .amomin _ _ _ _ _ _ => false
  | .amomax _ _ _ _ _ _ => false
  | .amominu _ _ _ _ _ _ => false
  | .amomaxu _ _ _ _ _ _ => false
  | .amoswap _ _ _ _ _ _ => false
  | .amofadd _ _ _ _ _ => false
  | .cas _ _ _ _ _ _ => false
  | .fence _ _ => false
  | .waitw _ _ _ _ _ _ => false
  | .waitwt _ _ _ _ => true
  | .semp _ => false
  | .semv _ => false
  | .cntInc _ _ => false
  | .cntDec _ _ => false
  | .cntCan _ _ _ => false
  | .cntSprd _ _ _ => false
  | .cntBar _ => false
  | .cntRdq _ _ => false
  | .cntCfg _ _ => true
  | .qEnq _ _ _ => false
  | .qDeq _ _ => false
  | .qWait _ => false
  | .qMake _ _ _ => false
  | .qFree _ => false
  | .qStat _ _ => false
  | .spawn _ _ => false
  | .sync => false
  | .tend => false
  | .asend _ _ _ _ => false
  | .asendG _ _ _ _ => false
  | .ibx _ => false
  | .ibxTry _ => false
  | .setlive _ => false
  | .cpy _ _ => false
  | .cpyCvt _ _ => false
  | .cpyGather _ _ => false
  | .cpyPeer _ _ => false
  | .cpyFill _ _ => false
  | .mxMul _ _ => false
  | .mxRot _ _ => false
  | .mxDrain _ _ => false
  | .mxZero _ _ => false
  | .mxLoad _ _ => false
  | .jpoll _ _ => false
  | .dtld _ _ => false
  | .vclaim _ _ _ => false
  | .vrels => false
  | .vreneg _ => false
  | .vfence => false
  | .vld _ _ _ _ _ => false
  | .vst _ _ _ _ _ => false
  | .vgth _ _ _ _ _ => false
  | .vsct _ _ _ _ _ => false
  | .srd _ s => selFirmware s
  | .swr _ s => selFirmware s
  | .park => false
  | .tlbwCore _ _ => true
  | .tlbwClus _ _ => true
  | .tlbiPage _ _ => true
  | .tlbiVf _ => true
  | .tlbiAll => true
  | .frepRetry _ => true
  | .frepKill _ => true
  | .add _ _ _ _ => false
  | .sub _ _ _ _ => false
  | .and _ _ _ _ => false
  | .or _ _ _ _ => false
  | .xor _ _ _ _ => false
  | .andn _ _ _ _ => false
  | .sll _ _ _ _ => false
  | .srl _ _ _ _ => false
  | .sra _ _ _ _ => false
  | .min _ _ _ _ => false
  | .max _ _ _ _ => false
  | .minu _ _ _ _ => false
  | .maxu _ _ _ _ => false
  | .mul _ _ _ _ => false
  | .mulh _ _ _ _ => false
  | .mulhu _ _ _ _ => false
  | .div _ _ _ _ => false
  | .divu _ _ _ _ => false
  | .rem _ _ _ _ => false
  | .remu _ _ _ _ => false
  | .clz _ _ _ => false
  | .ctz _ _ _ => false
  | .popc _ _ _ => false
  | .bswap _ _ _ => false
  | .addi _ _ _ => false
  | .andi _ _ _ => false
  | .ori _ _ _ => false
  | .xori _ _ _ => false
  | .slli _ _ _ _ => false
  | .srli _ _ _ _ => false
  | .srai _ _ _ _ => false
  | .lui _ _ => false
  | .addpc _ _ => false
  | .cmp _ _ _ _ _ => false
  | .cmpi _ _ _ _ => false
  | .pand _ _ _ _ _ => false
  | .por _ _ _ _ _ => false
  | .pxor _ _ _ _ _ => false
  | .pandn _ _ _ _ _ => false
  | .sel _ _ _ _ => false
  | .movpG _ => false
  | .movpP _ => false
  | .fadd _ _ _ _ => false
  | .fsub _ _ _ _ => false
  | .fmul _ _ _ _ => false
  | .fmin _ _ _ _ => false
  | .fmax _ _ _ _ => false
  | .fsgnj _ _ _ _ => false
  | .fsgnjn _ _ _ _ => false
  | .fsgnjx _ _ _ _ => false
  | .fclass _ _ _ => false
  | .fma _ _ _ _ => false
  | .fmaD _ _ _ _ => false
  | .fcmp _ _ _ _ _ => false
  | .fcvtF32I64 _ _ => false
  | .fcvtF32I64u _ _ => false
  | .fcvtI64F32 _ _ => false
  | .fcvtI64uF32 _ _ => false
  | .fcvtF64I64 _ _ => false
  | .fcvtI64F64 _ _ => false
  | .fcvtF32F64 _ _ => false
  | .fcvtF64F32 _ _ => false
  | .abtAbs _ _ _ => false
  | .abtPrs _ _ _ => false
  | .abm _ _ _ _ => false
  | .cvtd _ _ _ => false
  | .cvte _ _ _ _ => false
  | .rand _ => false
  | .sfuRcp _ _ => false
  | .sfuSqrt _ _ => false
  | .sfuRsqrt _ _ => false
  | .sfuExp2 _ _ => false
  | .sfuLog2 _ _ => false
  | .sfuSinpi _ _ => false
  | .sfuCospi _ _ => false
  | .vadd _ _ _ _ _ => false
  | .vsub _ _ _ _ _ => false
  | .vmul _ _ _ _ _ => false
  | .vmin _ _ _ _ _ => false
  | .vmax _ _ _ _ _ => false
  | .vand _ _ _ _ _ => false
  | .vor _ _ _ _ _ => false
  | .vxor _ _ _ _ _ => false
  | .vshl _ _ _ _ _ => false
  | .vshr _ _ _ _ _ => false
  | .vsra _ _ _ _ _ => false
  | .vfma _ _ _ _ _ _ => false
  | .vcmp _ _ _ _ _ => false
  | .vsel _ _ _ _ => false
  | .vcvtDec _ _ _ _ _ => false
  | .vcvtEnc _ _ _ _ _ => false
  | .vredAdd _ _ _ _ => false
  | .vredMin _ _ _ _ => false
  | .vredMax _ _ _ _ => false
  | .vbc _ _ _ _ => false
  | .vext _ _ _ _ => false
  | .vperm _ _ _ _ _ => false
  | .vsfuRcp _ _ _ _ => false
  | .vsfuSqrt _ _ _ _ => false
  | .vsfuRsqrt _ _ _ _ => false
  | .vsfuExp2 _ _ _ _ => false
  | .vsfuLog2 _ _ _ _ => false
  | .vsfuSinpi _ _ _ _ => false
  | .vsfuCospi _ _ _ _ => false
  | .vaccFrom _ _ _ => false
  | .vaccTo _ _ _ => false
  | .vabt _ _ _ => false
  | .vabm _ _ _ => false
  | .viota _ _ _ => false
  | .tcmpWrite _ => false
  | .fmtdWrite _ => false
  | .dqbaseWrite _ => false
  | .rseedWrite _ _ => false
  | .pmcWrite _ _ => false
  | .pmselWrite _ _ => false
  | .pmctlWrite _ => false
  | .pmovfWrite _ => false
  | .issueCycle _ => false
  | .bankExchangeDone _ _ _ => false
  | .timerExpiry _ _ => false
  | .parkReply _ _ _ => false
  | .activationPacket _ _ => false
  | .activationBufferDispatch _ => false
  | .asendInject _ _ => false
  | .stealRequest _ _ => false
  | .stealAnswer _ _ => false
  | .stealReply _ _ => false
  | .stealBackoffExpiry _ _ => false
  | .migrationArrival _ _ => false
  | .migrationAck _ _ => false
  | .migrationRefusal _ _ => false
  | .populationComplete _ => false
  | .populationHung _ => false
  | .completionReport _ => false
  | .storePqEntry _ _ => false
  | .pqDrain _ _ => false
  | .forceRequest _ _ _ => false
  | .forceAck _ _ _ => false
  | .sysPublish _ _ => false
  | .l1Fill _ _ => false
  | .sliceRequest _ => false
  | .l2FillReturn _ _ _ => false
  | .missEntryFree _ _ => false
  | .writebackAck _ _ => false
  | .balancerToken _ => false
  | .balancerAntitoken _ => false
  | .exitToken _ => false
  | .exitAntitoken _ => false
  | .snapshot _ _ => false
  | .barrierRelease _ _ => false
  | .spreadRecord _ => false
  | .cntCfgApply _ _ => false
  | .queueReservationDone _ _ => false
  | .jobAdmit _ => false
  | .jobStart _ => false
  | .mxePrefetch _ => false
  | .cpxPiece _ _ => false
  | .mxeKblock _ => false
  | .rotBlockArrival _ _ => false
  | .jobComplete _ _ => false
  | .vclaimGrant _ => false
  | .vectorOpPerform _ _ => false
  | .sfuService _ _ => false
  | .sfuResult _ _ => false
  | .dtldComplete _ _ => false
  | .walkDone _ _ => false
  | .tlbShootdownAck _ _ _ => false
  | .quantumExpiry _ => false
  | .worldSwitchExchange _ => false
  | .debugResume _ _ => false
  | .debugRegisterAccess _ _ _ _ _ => false
  | .peerRequest _ _ _ _ => false
  | .peerOpHeld _ _ _ _ => false
  | .queueOpen _ _ => false
  | .tailDoorbell _ _ => false
  | .acceptanceRecord _ => false
  | .releaseDoorbell _ => false
  | .packetComplete _ _ => false
  | .launch _ => false
  | .pcreate _ => false
  | .pdestroy _ => false
  | .vcreate _ => false
  | .vreset _ => false
  | .vdestroy _ => false
  | .group _ => false
  | .cidcfg _ => false
  | .occlim _ => false
  | .window _ => false
  | .farport _ => false
  | .pcap _ => false
  | .debug _ => false
  | .trace _ => false
  | .pause _ => false
  | .resume _ => false
  | .ochreMismatch => false
  | .powerOnReset _ _ _ => false
  | .spdmGetVersion _ => false
  | .spdmGetCapabilities _ => false
  | .spdmNegotiateAlgorithms _ => false
  | .spdmGetDigests _ => false
  | .spdmGetCertificate _ => false
  | .spdmChallenge _ => false
  | .spdmGetMeasurements _ => false
  | .ubhamLinkTrain _ _ _ => false
  | .ubhamLaneLoss _ => false
  | .ubhamFlitRetry _ => false
  | .farportTrain _ _ _ _ => false
  | .temperatureInput _ _ => false
  | .thermalTrip _ => false
  | .pcapWindow _ => false
  | .waitwtTimeout _ _ => false
  | .packetBreakResume _ => false
  | .debuggerAttach _ _ => false
  | .softError _ _ _ _ => false
  | .peerMovedReply _ _ => false

/-- The row is an instruction word; the others are events of the machine (spec/opcode_table.json). -/
def isWord : Instr → Bool
  | .br _ _ => true
  | .brn _ _ => true
  | .jal _ _ => true
  | .jalr _ _ _ => true
  | .exit => true
  | .trap _ => true
  | .tret => true
  | .dbrk _ => true
  | .ldb _ _ _ => true
  | .ldbu _ _ _ => true
  | .ldh _ _ _ => true
  | .ldhu _ _ _ => true
  | .ldw _ _ _ => true
  | .ldwu _ _ _ => true
  | .ldd _ _ _ => true
  | .lda _ _ _ _ _ _ => true
  | .stb _ _ _ => true
  | .sth _ _ _ => true
  | .stw _ _ _ => true
  | .std _ _ _ => true
  | .str _ _ _ _ _ => true
  | .amoadd _ _ _ _ _ _ => true
  | .amoand _ _ _ _ _ _ => true
  | .amoor _ _ _ _ _ _ => true
  | .amoxor _ _ _ _ _ _ => true
  | .amomin _ _ _ _ _ _ => true
  | .amomax _ _ _ _ _ _ => true
  | .amominu _ _ _ _ _ _ => true
  | .amomaxu _ _ _ _ _ _ => true
  | .amoswap _ _ _ _ _ _ => true
  | .amofadd _ _ _ _ _ => true
  | .cas _ _ _ _ _ _ => true
  | .fence _ _ => true
  | .waitw _ _ _ _ _ _ => true
  | .waitwt _ _ _ _ => true
  | .semp _ => true
  | .semv _ => true
  | .cntInc _ _ => true
  | .cntDec _ _ => true
  | .cntCan _ _ _ => true
  | .cntSprd _ _ _ => true
  | .cntBar _ => true
  | .cntRdq _ _ => true
  | .cntCfg _ _ => true
  | .qEnq _ _ _ => true
  | .qDeq _ _ => true
  | .qWait _ => true
  | .qMake _ _ _ => true
  | .qFree _ => true
  | .qStat _ _ => true
  | .spawn _ _ => true
  | .sync => true
  | .tend => true
  | .asend _ _ _ _ => true
  | .asendG _ _ _ _ => true
  | .ibx _ => true
  | .ibxTry _ => true
  | .setlive _ => true
  | .cpy _ _ => true
  | .cpyCvt _ _ => true
  | .cpyGather _ _ => true
  | .cpyPeer _ _ => true
  | .cpyFill _ _ => true
  | .mxMul _ _ => true
  | .mxRot _ _ => true
  | .mxDrain _ _ => true
  | .mxZero _ _ => true
  | .mxLoad _ _ => true
  | .jpoll _ _ => true
  | .dtld _ _ => true
  | .vclaim _ _ _ => true
  | .vrels => true
  | .vreneg _ => true
  | .vfence => true
  | .vld _ _ _ _ _ => true
  | .vst _ _ _ _ _ => true
  | .vgth _ _ _ _ _ => true
  | .vsct _ _ _ _ _ => true
  | .srd _ _ => true
  | .swr _ _ => true
  | .park => true
  | .tlbwCore _ _ => true
  | .tlbwClus _ _ => true
  | .tlbiPage _ _ => true
  | .tlbiVf _ => true
  | .tlbiAll => true
  | .frepRetry _ => true
  | .frepKill _ => true
  | .add _ _ _ _ => true
  | .sub _ _ _ _ => true
  | .and _ _ _ _ => true
  | .or _ _ _ _ => true
  | .xor _ _ _ _ => true
  | .andn _ _ _ _ => true
  | .sll _ _ _ _ => true
  | .srl _ _ _ _ => true
  | .sra _ _ _ _ => true
  | .min _ _ _ _ => true
  | .max _ _ _ _ => true
  | .minu _ _ _ _ => true
  | .maxu _ _ _ _ => true
  | .mul _ _ _ _ => true
  | .mulh _ _ _ _ => true
  | .mulhu _ _ _ _ => true
  | .div _ _ _ _ => true
  | .divu _ _ _ _ => true
  | .rem _ _ _ _ => true
  | .remu _ _ _ _ => true
  | .clz _ _ _ => true
  | .ctz _ _ _ => true
  | .popc _ _ _ => true
  | .bswap _ _ _ => true
  | .addi _ _ _ => true
  | .andi _ _ _ => true
  | .ori _ _ _ => true
  | .xori _ _ _ => true
  | .slli _ _ _ _ => true
  | .srli _ _ _ _ => true
  | .srai _ _ _ _ => true
  | .lui _ _ => true
  | .addpc _ _ => true
  | .cmp _ _ _ _ _ => true
  | .cmpi _ _ _ _ => true
  | .pand _ _ _ _ _ => true
  | .por _ _ _ _ _ => true
  | .pxor _ _ _ _ _ => true
  | .pandn _ _ _ _ _ => true
  | .sel _ _ _ _ => true
  | .movpG _ => true
  | .movpP _ => true
  | .fadd _ _ _ _ => true
  | .fsub _ _ _ _ => true
  | .fmul _ _ _ _ => true
  | .fmin _ _ _ _ => true
  | .fmax _ _ _ _ => true
  | .fsgnj _ _ _ _ => true
  | .fsgnjn _ _ _ _ => true
  | .fsgnjx _ _ _ _ => true
  | .fclass _ _ _ => true
  | .fma _ _ _ _ => true
  | .fmaD _ _ _ _ => true
  | .fcmp _ _ _ _ _ => true
  | .fcvtF32I64 _ _ => true
  | .fcvtF32I64u _ _ => true
  | .fcvtI64F32 _ _ => true
  | .fcvtI64uF32 _ _ => true
  | .fcvtF64I64 _ _ => true
  | .fcvtI64F64 _ _ => true
  | .fcvtF32F64 _ _ => true
  | .fcvtF64F32 _ _ => true
  | .abtAbs _ _ _ => true
  | .abtPrs _ _ _ => true
  | .abm _ _ _ _ => true
  | .cvtd _ _ _ => true
  | .cvte _ _ _ _ => true
  | .rand _ => true
  | .sfuRcp _ _ => true
  | .sfuSqrt _ _ => true
  | .sfuRsqrt _ _ => true
  | .sfuExp2 _ _ => true
  | .sfuLog2 _ _ => true
  | .sfuSinpi _ _ => true
  | .sfuCospi _ _ => true
  | .vadd _ _ _ _ _ => true
  | .vsub _ _ _ _ _ => true
  | .vmul _ _ _ _ _ => true
  | .vmin _ _ _ _ _ => true
  | .vmax _ _ _ _ _ => true
  | .vand _ _ _ _ _ => true
  | .vor _ _ _ _ _ => true
  | .vxor _ _ _ _ _ => true
  | .vshl _ _ _ _ _ => true
  | .vshr _ _ _ _ _ => true
  | .vsra _ _ _ _ _ => true
  | .vfma _ _ _ _ _ _ => true
  | .vcmp _ _ _ _ _ => true
  | .vsel _ _ _ _ => true
  | .vcvtDec _ _ _ _ _ => true
  | .vcvtEnc _ _ _ _ _ => true
  | .vredAdd _ _ _ _ => true
  | .vredMin _ _ _ _ => true
  | .vredMax _ _ _ _ => true
  | .vbc _ _ _ _ => true
  | .vext _ _ _ _ => true
  | .vperm _ _ _ _ _ => true
  | .vsfuRcp _ _ _ _ => true
  | .vsfuSqrt _ _ _ _ => true
  | .vsfuRsqrt _ _ _ _ => true
  | .vsfuExp2 _ _ _ _ => true
  | .vsfuLog2 _ _ _ _ => true
  | .vsfuSinpi _ _ _ _ => true
  | .vsfuCospi _ _ _ _ => true
  | .vaccFrom _ _ _ => true
  | .vaccTo _ _ _ => true
  | .vabt _ _ _ => true
  | .vabm _ _ _ => true
  | .viota _ _ _ => true
  | .tcmpWrite _ => true
  | .fmtdWrite _ => true
  | .dqbaseWrite _ => true
  | .rseedWrite _ _ => true
  | .pmcWrite _ _ => true
  | .pmselWrite _ _ => true
  | .pmctlWrite _ => true
  | .pmovfWrite _ => true
  | .issueCycle _ => false
  | .bankExchangeDone _ _ _ => false
  | .timerExpiry _ _ => false
  | .parkReply _ _ _ => false
  | .activationPacket _ _ => false
  | .activationBufferDispatch _ => false
  | .asendInject _ _ => false
  | .stealRequest _ _ => false
  | .stealAnswer _ _ => false
  | .stealReply _ _ => false
  | .stealBackoffExpiry _ _ => false
  | .migrationArrival _ _ => false
  | .migrationAck _ _ => false
  | .migrationRefusal _ _ => false
  | .populationComplete _ => false
  | .populationHung _ => false
  | .completionReport _ => false
  | .storePqEntry _ _ => false
  | .pqDrain _ _ => false
  | .forceRequest _ _ _ => false
  | .forceAck _ _ _ => false
  | .sysPublish _ _ => false
  | .l1Fill _ _ => false
  | .sliceRequest _ => false
  | .l2FillReturn _ _ _ => false
  | .missEntryFree _ _ => false
  | .writebackAck _ _ => false
  | .balancerToken _ => false
  | .balancerAntitoken _ => false
  | .exitToken _ => false
  | .exitAntitoken _ => false
  | .snapshot _ _ => false
  | .barrierRelease _ _ => false
  | .spreadRecord _ => false
  | .cntCfgApply _ _ => false
  | .queueReservationDone _ _ => false
  | .jobAdmit _ => false
  | .jobStart _ => false
  | .mxePrefetch _ => false
  | .cpxPiece _ _ => false
  | .mxeKblock _ => false
  | .rotBlockArrival _ _ => false
  | .jobComplete _ _ => false
  | .vclaimGrant _ => false
  | .vectorOpPerform _ _ => false
  | .sfuService _ _ => false
  | .sfuResult _ _ => false
  | .dtldComplete _ _ => false
  | .walkDone _ _ => false
  | .tlbShootdownAck _ _ _ => false
  | .quantumExpiry _ => false
  | .worldSwitchExchange _ => false
  | .debugResume _ _ => false
  | .debugRegisterAccess _ _ _ _ _ => false
  | .peerRequest _ _ _ _ => false
  | .peerOpHeld _ _ _ _ => false
  | .queueOpen _ _ => false
  | .tailDoorbell _ _ => false
  | .acceptanceRecord _ => false
  | .releaseDoorbell _ => false
  | .packetComplete _ _ => false
  | .launch _ => false
  | .pcreate _ => false
  | .pdestroy _ => false
  | .vcreate _ => false
  | .vreset _ => false
  | .vdestroy _ => false
  | .group _ => false
  | .cidcfg _ => false
  | .occlim _ => false
  | .window _ => false
  | .farport _ => false
  | .pcap _ => false
  | .debug _ => false
  | .trace _ => false
  | .pause _ => false
  | .resume _ => false
  | .ochreMismatch => false
  | .powerOnReset _ _ _ => false
  | .spdmGetVersion _ => false
  | .spdmGetCapabilities _ => false
  | .spdmNegotiateAlgorithms _ => false
  | .spdmGetDigests _ => false
  | .spdmGetCertificate _ => false
  | .spdmChallenge _ => false
  | .spdmGetMeasurements _ => false
  | .ubhamLinkTrain _ _ _ => false
  | .ubhamLaneLoss _ => false
  | .ubhamFlitRetry _ => false
  | .farportTrain _ _ _ _ => false
  | .temperatureInput _ _ => false
  | .thermalTrip _ => false
  | .pcapWindow _ => false
  | .waitwtTimeout _ _ => false
  | .packetBreakResume _ => false
  | .debuggerAttach _ _ => false
  | .softError _ _ _ _ => false
  | .peerMovedReply _ _ => false

/-- The word is an A-word: arithmetic, format and vector (R58). -/
def isAWord : Instr → Bool
  | .br _ _ => false
  | .brn _ _ => false
  | .jal _ _ => false
  | .jalr _ _ _ => false
  | .exit => false
  | .trap _ => false
  | .tret => false
  | .dbrk _ => false
  | .ldb _ _ _ => false
  | .ldbu _ _ _ => false
  | .ldh _ _ _ => false
  | .ldhu _ _ _ => false
  | .ldw _ _ _ => false
  | .ldwu _ _ _ => false
  | .ldd _ _ _ => false
  | .lda _ _ _ _ _ _ => false
  | .stb _ _ _ => false
  | .sth _ _ _ => false
  | .stw _ _ _ => false
  | .std _ _ _ => false
  | .str _ _ _ _ _ => false
  | .amoadd _ _ _ _ _ _ => false
  | .amoand _ _ _ _ _ _ => false
  | .amoor _ _ _ _ _ _ => false
  | .amoxor _ _ _ _ _ _ => false
  | .amomin _ _ _ _ _ _ => false
  | .amomax _ _ _ _ _ _ => false
  | .amominu _ _ _ _ _ _ => false
  | .amomaxu _ _ _ _ _ _ => false
  | .amoswap _ _ _ _ _ _ => false
  | .amofadd _ _ _ _ _ => false
  | .cas _ _ _ _ _ _ => false
  | .fence _ _ => false
  | .waitw _ _ _ _ _ _ => false
  | .waitwt _ _ _ _ => false
  | .semp _ => false
  | .semv _ => false
  | .cntInc _ _ => false
  | .cntDec _ _ => false
  | .cntCan _ _ _ => false
  | .cntSprd _ _ _ => false
  | .cntBar _ => false
  | .cntRdq _ _ => false
  | .cntCfg _ _ => false
  | .qEnq _ _ _ => false
  | .qDeq _ _ => false
  | .qWait _ => false
  | .qMake _ _ _ => false
  | .qFree _ => false
  | .qStat _ _ => false
  | .spawn _ _ => false
  | .sync => false
  | .tend => false
  | .asend _ _ _ _ => false
  | .asendG _ _ _ _ => false
  | .ibx _ => false
  | .ibxTry _ => false
  | .setlive _ => false
  | .cpy _ _ => false
  | .cpyCvt _ _ => false
  | .cpyGather _ _ => false
  | .cpyPeer _ _ => false
  | .cpyFill _ _ => false
  | .mxMul _ _ => false
  | .mxRot _ _ => false
  | .mxDrain _ _ => false
  | .mxZero _ _ => false
  | .mxLoad _ _ => false
  | .jpoll _ _ => false
  | .dtld _ _ => false
  | .vclaim _ _ _ => false
  | .vrels => false
  | .vreneg _ => false
  | .vfence => false
  | .vld _ _ _ _ _ => false
  | .vst _ _ _ _ _ => false
  | .vgth _ _ _ _ _ => false
  | .vsct _ _ _ _ _ => false
  | .srd _ _ => false
  | .swr _ _ => false
  | .park => false
  | .tlbwCore _ _ => false
  | .tlbwClus _ _ => false
  | .tlbiPage _ _ => false
  | .tlbiVf _ => false
  | .tlbiAll => false
  | .frepRetry _ => false
  | .frepKill _ => false
  | .add _ _ _ _ => true
  | .sub _ _ _ _ => true
  | .and _ _ _ _ => true
  | .or _ _ _ _ => true
  | .xor _ _ _ _ => true
  | .andn _ _ _ _ => true
  | .sll _ _ _ _ => true
  | .srl _ _ _ _ => true
  | .sra _ _ _ _ => true
  | .min _ _ _ _ => true
  | .max _ _ _ _ => true
  | .minu _ _ _ _ => true
  | .maxu _ _ _ _ => true
  | .mul _ _ _ _ => true
  | .mulh _ _ _ _ => true
  | .mulhu _ _ _ _ => true
  | .div _ _ _ _ => true
  | .divu _ _ _ _ => true
  | .rem _ _ _ _ => true
  | .remu _ _ _ _ => true
  | .clz _ _ _ => true
  | .ctz _ _ _ => true
  | .popc _ _ _ => true
  | .bswap _ _ _ => true
  | .addi _ _ _ => true
  | .andi _ _ _ => true
  | .ori _ _ _ => true
  | .xori _ _ _ => true
  | .slli _ _ _ _ => true
  | .srli _ _ _ _ => true
  | .srai _ _ _ _ => true
  | .lui _ _ => true
  | .addpc _ _ => true
  | .cmp _ _ _ _ _ => true
  | .cmpi _ _ _ _ => true
  | .pand _ _ _ _ _ => true
  | .por _ _ _ _ _ => true
  | .pxor _ _ _ _ _ => true
  | .pandn _ _ _ _ _ => true
  | .sel _ _ _ _ => true
  | .movpG _ => true
  | .movpP _ => true
  | .fadd _ _ _ _ => true
  | .fsub _ _ _ _ => true
  | .fmul _ _ _ _ => true
  | .fmin _ _ _ _ => true
  | .fmax _ _ _ _ => true
  | .fsgnj _ _ _ _ => true
  | .fsgnjn _ _ _ _ => true
  | .fsgnjx _ _ _ _ => true
  | .fclass _ _ _ => true
  | .fma _ _ _ _ => true
  | .fmaD _ _ _ _ => true
  | .fcmp _ _ _ _ _ => true
  | .fcvtF32I64 _ _ => true
  | .fcvtF32I64u _ _ => true
  | .fcvtI64F32 _ _ => true
  | .fcvtI64uF32 _ _ => true
  | .fcvtF64I64 _ _ => true
  | .fcvtI64F64 _ _ => true
  | .fcvtF32F64 _ _ => true
  | .fcvtF64F32 _ _ => true
  | .abtAbs _ _ _ => true
  | .abtPrs _ _ _ => true
  | .abm _ _ _ _ => true
  | .cvtd _ _ _ => true
  | .cvte _ _ _ _ => true
  | .rand _ => true
  | .sfuRcp _ _ => true
  | .sfuSqrt _ _ => true
  | .sfuRsqrt _ _ => true
  | .sfuExp2 _ _ => true
  | .sfuLog2 _ _ => true
  | .sfuSinpi _ _ => true
  | .sfuCospi _ _ => true
  | .vadd _ _ _ _ _ => true
  | .vsub _ _ _ _ _ => true
  | .vmul _ _ _ _ _ => true
  | .vmin _ _ _ _ _ => true
  | .vmax _ _ _ _ _ => true
  | .vand _ _ _ _ _ => true
  | .vor _ _ _ _ _ => true
  | .vxor _ _ _ _ _ => true
  | .vshl _ _ _ _ _ => true
  | .vshr _ _ _ _ _ => true
  | .vsra _ _ _ _ _ => true
  | .vfma _ _ _ _ _ _ => true
  | .vcmp _ _ _ _ _ => true
  | .vsel _ _ _ _ => true
  | .vcvtDec _ _ _ _ _ => true
  | .vcvtEnc _ _ _ _ _ => true
  | .vredAdd _ _ _ _ => true
  | .vredMin _ _ _ _ => true
  | .vredMax _ _ _ _ => true
  | .vbc _ _ _ _ => true
  | .vext _ _ _ _ => true
  | .vperm _ _ _ _ _ => true
  | .vsfuRcp _ _ _ _ => true
  | .vsfuSqrt _ _ _ _ => true
  | .vsfuRsqrt _ _ _ _ => true
  | .vsfuExp2 _ _ _ _ => true
  | .vsfuLog2 _ _ _ _ => true
  | .vsfuSinpi _ _ _ _ => true
  | .vsfuCospi _ _ _ _ => true
  | .vaccFrom _ _ _ => true
  | .vaccTo _ _ _ => true
  | .vabt _ _ _ => true
  | .vabm _ _ _ => true
  | .viota _ _ _ => true
  | .tcmpWrite _ => false
  | .fmtdWrite _ => false
  | .dqbaseWrite _ => false
  | .rseedWrite _ _ => false
  | .pmcWrite _ _ => false
  | .pmselWrite _ _ => false
  | .pmctlWrite _ => false
  | .pmovfWrite _ => false
  | .issueCycle _ => false
  | .bankExchangeDone _ _ _ => false
  | .timerExpiry _ _ => false
  | .parkReply _ _ _ => false
  | .activationPacket _ _ => false
  | .activationBufferDispatch _ => false
  | .asendInject _ _ => false
  | .stealRequest _ _ => false
  | .stealAnswer _ _ => false
  | .stealReply _ _ => false
  | .stealBackoffExpiry _ _ => false
  | .migrationArrival _ _ => false
  | .migrationAck _ _ => false
  | .migrationRefusal _ _ => false
  | .populationComplete _ => false
  | .populationHung _ => false
  | .completionReport _ => false
  | .storePqEntry _ _ => false
  | .pqDrain _ _ => false
  | .forceRequest _ _ _ => false
  | .forceAck _ _ _ => false
  | .sysPublish _ _ => false
  | .l1Fill _ _ => false
  | .sliceRequest _ => false
  | .l2FillReturn _ _ _ => false
  | .missEntryFree _ _ => false
  | .writebackAck _ _ => false
  | .balancerToken _ => false
  | .balancerAntitoken _ => false
  | .exitToken _ => false
  | .exitAntitoken _ => false
  | .snapshot _ _ => false
  | .barrierRelease _ _ => false
  | .spreadRecord _ => false
  | .cntCfgApply _ _ => false
  | .queueReservationDone _ _ => false
  | .jobAdmit _ => false
  | .jobStart _ => false
  | .mxePrefetch _ => false
  | .cpxPiece _ _ => false
  | .mxeKblock _ => false
  | .rotBlockArrival _ _ => false
  | .jobComplete _ _ => false
  | .vclaimGrant _ => false
  | .vectorOpPerform _ _ => false
  | .sfuService _ _ => false
  | .sfuResult _ _ => false
  | .dtldComplete _ _ => false
  | .walkDone _ _ => false
  | .tlbShootdownAck _ _ _ => false
  | .quantumExpiry _ => false
  | .worldSwitchExchange _ => false
  | .debugResume _ _ => false
  | .debugRegisterAccess _ _ _ _ _ => false
  | .peerRequest _ _ _ _ => false
  | .peerOpHeld _ _ _ _ => false
  | .queueOpen _ _ => false
  | .tailDoorbell _ _ => false
  | .acceptanceRecord _ => false
  | .releaseDoorbell _ => false
  | .packetComplete _ _ => false
  | .launch _ => false
  | .pcreate _ => false
  | .pdestroy _ => false
  | .vcreate _ => false
  | .vreset _ => false
  | .vdestroy _ => false
  | .group _ => false
  | .cidcfg _ => false
  | .occlim _ => false
  | .window _ => false
  | .farport _ => false
  | .pcap _ => false
  | .debug _ => false
  | .trace _ => false
  | .pause _ => false
  | .resume _ => false
  | .ochreMismatch => false
  | .powerOnReset _ _ _ => false
  | .spdmGetVersion _ => false
  | .spdmGetCapabilities _ => false
  | .spdmNegotiateAlgorithms _ => false
  | .spdmGetDigests _ => false
  | .spdmGetCertificate _ => false
  | .spdmChallenge _ => false
  | .spdmGetMeasurements _ => false
  | .ubhamLinkTrain _ _ _ => false
  | .ubhamLaneLoss _ => false
  | .ubhamFlitRetry _ => false
  | .farportTrain _ _ _ _ => false
  | .temperatureInput _ _ => false
  | .thermalTrip _ => false
  | .pcapWindow _ => false
  | .waitwtTimeout _ _ => false
  | .packetBreakResume _ => false
  | .debuggerAttach _ _ => false
  | .softError _ _ _ _ => false
  | .peerMovedReply _ _ => false

/-- The general registers a word writes, groups included (R61, R72); a Q.DEQ counts `g[d]` to `g[min(d+9,63)]` (R326) and a SPAWN `g3` (R331). -/
def gDests : Instr → List Nat
  | .br _ _ => []
  | .brn _ _ => []
  | .jal d _ => [d.toNat]
  | .jalr d _ _ => [d.toNat]
  | .exit => []
  | .trap _ => []
  | .tret => []
  | .dbrk _ => []
  | .ldb t _ _ => [t.toNat]
  | .ldbu t _ _ => [t.toNat]
  | .ldh t _ _ => [t.toNat]
  | .ldhu t _ _ => [t.toNat]
  | .ldw t _ _ => [t.toNat]
  | .ldwu t _ _ => [t.toNat]
  | .ldd t _ _ => [t.toNat]
  | .lda d _ _ _ _ _ => [d.toNat]
  | .stb _ _ _ => []
  | .sth _ _ _ => []
  | .stw _ _ _ => []
  | .std _ _ _ => []
  | .str _ _ _ _ _ => []
  | .amoadd d _ _ _ _ _ => [d.toNat]
  | .amoand d _ _ _ _ _ => [d.toNat]
  | .amoor d _ _ _ _ _ => [d.toNat]
  | .amoxor d _ _ _ _ _ => [d.toNat]
  | .amomin d _ _ _ _ _ => [d.toNat]
  | .amomax d _ _ _ _ _ => [d.toNat]
  | .amominu d _ _ _ _ _ => [d.toNat]
  | .amomaxu d _ _ _ _ _ => [d.toNat]
  | .amoswap d _ _ _ _ _ => [d.toNat]
  | .amofadd d _ _ _ _ => [d.toNat]
  | .cas d _ _ _ _ _ => [d.toNat]
  | .fence _ _ => []
  | .waitw d _ _ _ _ _ => [d.toNat]
  | .waitwt _ _ _ _ => []
  | .semp _ => []
  | .semv _ => []
  | .cntInc d _ => [d.toNat]
  | .cntDec d _ => [d.toNat]
  | .cntCan d _ _ => [d.toNat]
  | .cntSprd d _ _ => [d.toNat]
  | .cntBar _ => []
  | .cntRdq d _ => [d.toNat]
  | .cntCfg _ _ => []
  | .qEnq d _ _ => [d.toNat]
  | .qDeq d _ => (List.range (Nat.min 10 (64 - d.toNat))).map (d.toNat + ·)
  | .qWait _ => []
  | .qMake d _ _ => [d.toNat]
  | .qFree _ => []
  | .qStat d _ => [d.toNat]
  | .spawn _ _ => [3]
  | .sync => []
  | .tend => []
  | .asend _ _ _ _ => []
  | .asendG _ _ _ _ => []
  | .ibx d => (List.range 4).map (d.toNat + ·)
  | .ibxTry d => (List.range 4).map (d.toNat + ·)
  | .setlive _ => []
  | .cpy d _ => [d.toNat]
  | .cpyCvt d _ => [d.toNat]
  | .cpyGather d _ => [d.toNat]
  | .cpyPeer d _ => [d.toNat]
  | .cpyFill d _ => [d.toNat]
  | .mxMul d _ => [d.toNat]
  | .mxRot d _ => [d.toNat]
  | .mxDrain d _ => [d.toNat]
  | .mxZero d _ => [d.toNat]
  | .mxLoad d _ => [d.toNat]
  | .jpoll d _ => [d.toNat]
  | .dtld _ _ => []
  | .vclaim d _ _ => [d.toNat]
  | .vrels => []
  | .vreneg d => [d.toNat]
  | .vfence => []
  | .vld _ _ _ _ _ => []
  | .vst _ _ _ _ _ => []
  | .vgth _ _ _ _ _ => []
  | .vsct _ _ _ _ _ => []
  | .srd d _ => [d.toNat]
  | .swr _ _ => []
  | .park => []
  | .tlbwCore _ _ => []
  | .tlbwClus _ _ => []
  | .tlbiPage _ _ => []
  | .tlbiVf _ => []
  | .tlbiAll => []
  | .frepRetry _ => []
  | .frepKill _ => []
  | .add d _ _ _ => [d.toNat]
  | .sub d _ _ _ => [d.toNat]
  | .and d _ _ _ => [d.toNat]
  | .or d _ _ _ => [d.toNat]
  | .xor d _ _ _ => [d.toNat]
  | .andn d _ _ _ => [d.toNat]
  | .sll d _ _ _ => [d.toNat]
  | .srl d _ _ _ => [d.toNat]
  | .sra d _ _ _ => [d.toNat]
  | .min d _ _ _ => [d.toNat]
  | .max d _ _ _ => [d.toNat]
  | .minu d _ _ _ => [d.toNat]
  | .maxu d _ _ _ => [d.toNat]
  | .mul d _ _ _ => [d.toNat]
  | .mulh d _ _ _ => [d.toNat]
  | .mulhu d _ _ _ => [d.toNat]
  | .div d _ _ _ => [d.toNat]
  | .divu d _ _ _ => [d.toNat]
  | .rem d _ _ _ => [d.toNat]
  | .remu d _ _ _ => [d.toNat]
  | .clz d _ _ => [d.toNat]
  | .ctz d _ _ => [d.toNat]
  | .popc d _ _ => [d.toNat]
  | .bswap d _ _ => [d.toNat]
  | .addi d _ _ => [d.toNat]
  | .andi d _ _ => [d.toNat]
  | .ori d _ _ => [d.toNat]
  | .xori d _ _ => [d.toNat]
  | .slli d _ _ _ => [d.toNat]
  | .srli d _ _ _ => [d.toNat]
  | .srai d _ _ _ => [d.toNat]
  | .lui d _ => [d.toNat]
  | .addpc d _ => [d.toNat]
  | .cmp _ _ _ _ _ => []
  | .cmpi _ _ _ _ => []
  | .pand _ _ _ _ _ => []
  | .por _ _ _ _ _ => []
  | .pxor _ _ _ _ _ => []
  | .pandn _ _ _ _ _ => []
  | .sel d _ _ _ => [d.toNat]
  | .movpG d => [d.toNat]
  | .movpP _ => []
  | .fadd d _ _ _ => [d.toNat]
  | .fsub d _ _ _ => [d.toNat]
  | .fmul d _ _ _ => [d.toNat]
  | .fmin d _ _ _ => [d.toNat]
  | .fmax d _ _ _ => [d.toNat]
  | .fsgnj d _ _ _ => [d.toNat]
  | .fsgnjn d _ _ _ => [d.toNat]
  | .fsgnjx d _ _ _ => [d.toNat]
  | .fclass d _ _ => [d.toNat]
  | .fma d _ _ _ => [d.toNat]
  | .fmaD d _ _ _ => [d.toNat]
  | .fcmp _ _ _ _ _ => []
  | .fcvtF32I64 d _ => [d.toNat]
  | .fcvtF32I64u d _ => [d.toNat]
  | .fcvtI64F32 d _ => [d.toNat]
  | .fcvtI64uF32 d _ => [d.toNat]
  | .fcvtF64I64 d _ => [d.toNat]
  | .fcvtI64F64 d _ => [d.toNat]
  | .fcvtF32F64 d _ => [d.toNat]
  | .fcvtF64F32 d _ => [d.toNat]
  | .abtAbs _ _ _ => []
  | .abtPrs _ _ _ => []
  | .abm d _ _ _ => [d.toNat]
  | .cvtd d _ _ => [d.toNat]
  | .cvte d _ _ _ => [d.toNat]
  | .rand d => [d.toNat]
  | .sfuRcp d _ => [d.toNat]
  | .sfuSqrt d _ => [d.toNat]
  | .sfuRsqrt d _ => [d.toNat]
  | .sfuExp2 d _ => [d.toNat]
  | .sfuLog2 d _ => [d.toNat]
  | .sfuSinpi d _ => [d.toNat]
  | .sfuCospi d _ => [d.toNat]
  | .vadd _ _ _ _ _ => []
  | .vsub _ _ _ _ _ => []
  | .vmul _ _ _ _ _ => []
  | .vmin _ _ _ _ _ => []
  | .vmax _ _ _ _ _ => []
  | .vand _ _ _ _ _ => []
  | .vor _ _ _ _ _ => []
  | .vxor _ _ _ _ _ => []
  | .vshl _ _ _ _ _ => []
  | .vshr _ _ _ _ _ => []
  | .vsra _ _ _ _ _ => []
  | .vfma _ _ _ _ _ _ => []
  | .vcmp _ _ _ _ _ => []
  | .vsel _ _ _ _ => []
  | .vcvtDec _ _ _ _ _ => []
  | .vcvtEnc _ _ _ _ _ => []
  | .vredAdd _ d _ _ => [d.toNat, d.toNat + 1]
  | .vredMin _ d _ _ => [d.toNat, d.toNat + 1]
  | .vredMax _ d _ _ => [d.toNat, d.toNat + 1]
  | .vbc _ _ _ _ => []
  | .vext d _ _ _ => [d.toNat]
  | .vperm _ _ _ _ _ => []
  | .vsfuRcp _ _ _ _ => []
  | .vsfuSqrt _ _ _ _ => []
  | .vsfuRsqrt _ _ _ _ => []
  | .vsfuExp2 _ _ _ _ => []
  | .vsfuLog2 _ _ _ _ => []
  | .vsfuSinpi _ _ _ _ => []
  | .vsfuCospi _ _ _ _ => []
  | .vaccFrom _ _ _ => []
  | .vaccTo _ _ _ => []
  | .vabt _ _ _ => []
  | .vabm _ _ _ => []
  | .viota _ _ _ => []
  | .tcmpWrite _ => []
  | .fmtdWrite _ => []
  | .dqbaseWrite _ => []
  | .rseedWrite _ _ => []
  | .pmcWrite _ _ => []
  | .pmselWrite _ _ => []
  | .pmctlWrite _ => []
  | .pmovfWrite _ => []
  | .issueCycle _ => []
  | .bankExchangeDone _ _ _ => []
  | .timerExpiry _ _ => []
  | .parkReply _ _ _ => []
  | .activationPacket _ _ => []
  | .activationBufferDispatch _ => []
  | .asendInject _ _ => []
  | .stealRequest _ _ => []
  | .stealAnswer _ _ => []
  | .stealReply _ _ => []
  | .stealBackoffExpiry _ _ => []
  | .migrationArrival _ _ => []
  | .migrationAck _ _ => []
  | .migrationRefusal _ _ => []
  | .populationComplete _ => []
  | .populationHung _ => []
  | .completionReport _ => []
  | .storePqEntry _ _ => []
  | .pqDrain _ _ => []
  | .forceRequest _ _ _ => []
  | .forceAck _ _ _ => []
  | .sysPublish _ _ => []
  | .l1Fill _ _ => []
  | .sliceRequest _ => []
  | .l2FillReturn _ _ _ => []
  | .missEntryFree _ _ => []
  | .writebackAck _ _ => []
  | .balancerToken _ => []
  | .balancerAntitoken _ => []
  | .exitToken _ => []
  | .exitAntitoken _ => []
  | .snapshot _ _ => []
  | .barrierRelease _ _ => []
  | .spreadRecord _ => []
  | .cntCfgApply _ _ => []
  | .queueReservationDone _ _ => []
  | .jobAdmit _ => []
  | .jobStart _ => []
  | .mxePrefetch _ => []
  | .cpxPiece _ _ => []
  | .mxeKblock _ => []
  | .rotBlockArrival _ _ => []
  | .jobComplete _ _ => []
  | .vclaimGrant _ => []
  | .vectorOpPerform _ _ => []
  | .sfuService _ _ => []
  | .sfuResult _ _ => []
  | .dtldComplete _ _ => []
  | .walkDone _ _ => []
  | .tlbShootdownAck _ _ _ => []
  | .quantumExpiry _ => []
  | .worldSwitchExchange _ => []
  | .debugResume _ _ => []
  | .debugRegisterAccess _ _ _ _ _ => []
  | .peerRequest _ _ _ _ => []
  | .peerOpHeld _ _ _ _ => []
  | .queueOpen _ _ => []
  | .tailDoorbell _ _ => []
  | .acceptanceRecord _ => []
  | .releaseDoorbell _ => []
  | .packetComplete _ _ => []
  | .launch _ => []
  | .pcreate _ => []
  | .pdestroy _ => []
  | .vcreate _ => []
  | .vreset _ => []
  | .vdestroy _ => []
  | .group _ => []
  | .cidcfg _ => []
  | .occlim _ => []
  | .window _ => []
  | .farport _ => []
  | .pcap _ => []
  | .debug _ => []
  | .trace _ => []
  | .pause _ => []
  | .resume _ => []
  | .ochreMismatch => []
  | .powerOnReset _ _ _ => []
  | .spdmGetVersion _ => []
  | .spdmGetCapabilities _ => []
  | .spdmNegotiateAlgorithms _ => []
  | .spdmGetDigests _ => []
  | .spdmGetCertificate _ => []
  | .spdmChallenge _ => []
  | .spdmGetMeasurements _ => []
  | .ubhamLinkTrain _ _ _ => []
  | .ubhamLaneLoss _ => []
  | .ubhamFlitRetry _ => []
  | .farportTrain _ _ _ _ => []
  | .temperatureInput _ _ => []
  | .thermalTrip _ => []
  | .pcapWindow _ => []
  | .waitwtTimeout _ _ => []
  | .packetBreakResume _ => []
  | .debuggerAttach _ _ => []
  | .softError _ _ _ _ => []
  | .peerMovedReply _ _ => []

/-- The predicates a word writes (R61); MOVP.P writes `p1` to `p7`. -/
def pDests : Instr → List Nat
  | .br _ _ => []
  | .brn _ _ => []
  | .jal _ _ => []
  | .jalr _ _ _ => []
  | .exit => []
  | .trap _ => []
  | .tret => []
  | .dbrk _ => []
  | .ldb _ _ _ => []
  | .ldbu _ _ _ => []
  | .ldh _ _ _ => []
  | .ldhu _ _ _ => []
  | .ldw _ _ _ => []
  | .ldwu _ _ _ => []
  | .ldd _ _ _ => []
  | .lda _ _ _ _ _ _ => []
  | .stb _ _ _ => []
  | .sth _ _ _ => []
  | .stw _ _ _ => []
  | .std _ _ _ => []
  | .str _ _ _ _ _ => []
  | .amoadd _ _ _ _ _ _ => []
  | .amoand _ _ _ _ _ _ => []
  | .amoor _ _ _ _ _ _ => []
  | .amoxor _ _ _ _ _ _ => []
  | .amomin _ _ _ _ _ _ => []
  | .amomax _ _ _ _ _ _ => []
  | .amominu _ _ _ _ _ _ => []
  | .amomaxu _ _ _ _ _ _ => []
  | .amoswap _ _ _ _ _ _ => []
  | .amofadd _ _ _ _ _ => []
  | .cas _ _ _ _ _ _ => []
  | .fence _ _ => []
  | .waitw _ _ _ _ _ _ => []
  | .waitwt p _ _ _ => [p.toNat]
  | .semp _ => []
  | .semv _ => []
  | .cntInc _ _ => []
  | .cntDec _ _ => []
  | .cntCan _ _ _ => []
  | .cntSprd _ _ _ => []
  | .cntBar _ => []
  | .cntRdq _ _ => []
  | .cntCfg _ _ => []
  | .qEnq _ _ _ => []
  | .qDeq _ _ => []
  | .qWait _ => []
  | .qMake _ _ _ => []
  | .qFree _ => []
  | .qStat _ _ => []
  | .spawn _ _ => []
  | .sync => []
  | .tend => []
  | .asend _ _ _ _ => []
  | .asendG _ _ _ _ => []
  | .ibx _ => []
  | .ibxTry _ => []
  | .setlive _ => []
  | .cpy _ _ => []
  | .cpyCvt _ _ => []
  | .cpyGather _ _ => []
  | .cpyPeer _ _ => []
  | .cpyFill _ _ => []
  | .mxMul _ _ => []
  | .mxRot _ _ => []
  | .mxDrain _ _ => []
  | .mxZero _ _ => []
  | .mxLoad _ _ => []
  | .jpoll _ _ => []
  | .dtld _ _ => []
  | .vclaim _ _ _ => []
  | .vrels => []
  | .vreneg _ => []
  | .vfence => []
  | .vld _ _ _ _ _ => []
  | .vst _ _ _ _ _ => []
  | .vgth _ _ _ _ _ => []
  | .vsct _ _ _ _ _ => []
  | .srd _ _ => []
  | .swr _ _ => []
  | .park => []
  | .tlbwCore _ _ => []
  | .tlbwClus _ _ => []
  | .tlbiPage _ _ => []
  | .tlbiVf _ => []
  | .tlbiAll => []
  | .frepRetry _ => []
  | .frepKill _ => []
  | .add _ _ _ _ => []
  | .sub _ _ _ _ => []
  | .and _ _ _ _ => []
  | .or _ _ _ _ => []
  | .xor _ _ _ _ => []
  | .andn _ _ _ _ => []
  | .sll _ _ _ _ => []
  | .srl _ _ _ _ => []
  | .sra _ _ _ _ => []
  | .min _ _ _ _ => []
  | .max _ _ _ _ => []
  | .minu _ _ _ _ => []
  | .maxu _ _ _ _ => []
  | .mul _ _ _ _ => []
  | .mulh _ _ _ _ => []
  | .mulhu _ _ _ _ => []
  | .div _ _ _ _ => []
  | .divu _ _ _ _ => []
  | .rem _ _ _ _ => []
  | .remu _ _ _ _ => []
  | .clz _ _ _ => []
  | .ctz _ _ _ => []
  | .popc _ _ _ => []
  | .bswap _ _ _ => []
  | .addi _ _ _ => []
  | .andi _ _ _ => []
  | .ori _ _ _ => []
  | .xori _ _ _ => []
  | .slli _ _ _ _ => []
  | .srli _ _ _ _ => []
  | .srai _ _ _ _ => []
  | .lui _ _ => []
  | .addpc _ _ => []
  | .cmp p _ _ _ _ => [p.toNat]
  | .cmpi p _ _ _ => [p.toNat]
  | .pand d _ _ _ _ => [d.toNat]
  | .por d _ _ _ _ => [d.toNat]
  | .pxor d _ _ _ _ => [d.toNat]
  | .pandn d _ _ _ _ => [d.toNat]
  | .sel _ _ _ _ => []
  | .movpG _ => []
  | .movpP _ => [1, 2, 3, 4, 5, 6, 7]
  | .fadd _ _ _ _ => []
  | .fsub _ _ _ _ => []
  | .fmul _ _ _ _ => []
  | .fmin _ _ _ _ => []
  | .fmax _ _ _ _ => []
  | .fsgnj _ _ _ _ => []
  | .fsgnjn _ _ _ _ => []
  | .fsgnjx _ _ _ _ => []
  | .fclass _ _ _ => []
  | .fma _ _ _ _ => []
  | .fmaD _ _ _ _ => []
  | .fcmp p _ _ _ _ => [p.toNat]
  | .fcvtF32I64 _ _ => []
  | .fcvtF32I64u _ _ => []
  | .fcvtI64F32 _ _ => []
  | .fcvtI64uF32 _ _ => []
  | .fcvtF64I64 _ _ => []
  | .fcvtI64F64 _ _ => []
  | .fcvtF32F64 _ _ => []
  | .fcvtF64F32 _ _ => []
  | .abtAbs p _ _ => [p.toNat]
  | .abtPrs p _ _ => [p.toNat]
  | .abm _ _ _ _ => []
  | .cvtd _ _ _ => []
  | .cvte _ _ _ _ => []
  | .rand _ => []
  | .sfuRcp _ _ => []
  | .sfuSqrt _ _ => []
  | .sfuRsqrt _ _ => []
  | .sfuExp2 _ _ => []
  | .sfuLog2 _ _ => []
  | .sfuSinpi _ _ => []
  | .sfuCospi _ _ => []
  | .vadd _ _ _ _ _ => []
  | .vsub _ _ _ _ _ => []
  | .vmul _ _ _ _ _ => []
  | .vmin _ _ _ _ _ => []
  | .vmax _ _ _ _ _ => []
  | .vand _ _ _ _ _ => []
  | .vor _ _ _ _ _ => []
  | .vxor _ _ _ _ _ => []
  | .vshl _ _ _ _ _ => []
  | .vshr _ _ _ _ _ => []
  | .vsra _ _ _ _ _ => []
  | .vfma _ _ _ _ _ _ => []
  | .vcmp _ _ _ _ _ => []
  | .vsel _ _ _ _ => []
  | .vcvtDec _ _ _ _ _ => []
  | .vcvtEnc _ _ _ _ _ => []
  | .vredAdd _ _ _ _ => []
  | .vredMin _ _ _ _ => []
  | .vredMax _ _ _ _ => []
  | .vbc _ _ _ _ => []
  | .vext _ _ _ _ => []
  | .vperm _ _ _ _ _ => []
  | .vsfuRcp _ _ _ _ => []
  | .vsfuSqrt _ _ _ _ => []
  | .vsfuRsqrt _ _ _ _ => []
  | .vsfuExp2 _ _ _ _ => []
  | .vsfuLog2 _ _ _ _ => []
  | .vsfuSinpi _ _ _ _ => []
  | .vsfuCospi _ _ _ _ => []
  | .vaccFrom _ _ _ => []
  | .vaccTo _ _ _ => []
  | .vabt _ _ _ => []
  | .vabm _ _ _ => []
  | .viota _ _ _ => []
  | .tcmpWrite _ => []
  | .fmtdWrite _ => []
  | .dqbaseWrite _ => []
  | .rseedWrite _ _ => []
  | .pmcWrite _ _ => []
  | .pmselWrite _ _ => []
  | .pmctlWrite _ => []
  | .pmovfWrite _ => []
  | .issueCycle _ => []
  | .bankExchangeDone _ _ _ => []
  | .timerExpiry _ _ => []
  | .parkReply _ _ _ => []
  | .activationPacket _ _ => []
  | .activationBufferDispatch _ => []
  | .asendInject _ _ => []
  | .stealRequest _ _ => []
  | .stealAnswer _ _ => []
  | .stealReply _ _ => []
  | .stealBackoffExpiry _ _ => []
  | .migrationArrival _ _ => []
  | .migrationAck _ _ => []
  | .migrationRefusal _ _ => []
  | .populationComplete _ => []
  | .populationHung _ => []
  | .completionReport _ => []
  | .storePqEntry _ _ => []
  | .pqDrain _ _ => []
  | .forceRequest _ _ _ => []
  | .forceAck _ _ _ => []
  | .sysPublish _ _ => []
  | .l1Fill _ _ => []
  | .sliceRequest _ => []
  | .l2FillReturn _ _ _ => []
  | .missEntryFree _ _ => []
  | .writebackAck _ _ => []
  | .balancerToken _ => []
  | .balancerAntitoken _ => []
  | .exitToken _ => []
  | .exitAntitoken _ => []
  | .snapshot _ _ => []
  | .barrierRelease _ _ => []
  | .spreadRecord _ => []
  | .cntCfgApply _ _ => []
  | .queueReservationDone _ _ => []
  | .jobAdmit _ => []
  | .jobStart _ => []
  | .mxePrefetch _ => []
  | .cpxPiece _ _ => []
  | .mxeKblock _ => []
  | .rotBlockArrival _ _ => []
  | .jobComplete _ _ => []
  | .vclaimGrant _ => []
  | .vectorOpPerform _ _ => []
  | .sfuService _ _ => []
  | .sfuResult _ _ => []
  | .dtldComplete _ _ => []
  | .walkDone _ _ => []
  | .tlbShootdownAck _ _ _ => []
  | .quantumExpiry _ => []
  | .worldSwitchExchange _ => []
  | .debugResume _ _ => []
  | .debugRegisterAccess _ _ _ _ _ => []
  | .peerRequest _ _ _ _ => []
  | .peerOpHeld _ _ _ _ => []
  | .queueOpen _ _ => []
  | .tailDoorbell _ _ => []
  | .acceptanceRecord _ => []
  | .releaseDoorbell _ => []
  | .packetComplete _ _ => []
  | .launch _ => []
  | .pcreate _ => []
  | .pdestroy _ => []
  | .vcreate _ => []
  | .vreset _ => []
  | .vdestroy _ => []
  | .group _ => []
  | .cidcfg _ => []
  | .occlim _ => []
  | .window _ => []
  | .farport _ => []
  | .pcap _ => []
  | .debug _ => []
  | .trace _ => []
  | .pause _ => []
  | .resume _ => []
  | .ochreMismatch => []
  | .powerOnReset _ _ _ => []
  | .spdmGetVersion _ => []
  | .spdmGetCapabilities _ => []
  | .spdmNegotiateAlgorithms _ => []
  | .spdmGetDigests _ => []
  | .spdmGetCertificate _ => []
  | .spdmChallenge _ => []
  | .spdmGetMeasurements _ => []
  | .ubhamLinkTrain _ _ _ => []
  | .ubhamLaneLoss _ => []
  | .ubhamFlitRetry _ => []
  | .farportTrain _ _ _ _ => []
  | .temperatureInput _ _ => []
  | .thermalTrip _ => []
  | .pcapWindow _ => []
  | .waitwtTimeout _ _ => []
  | .packetBreakResume _ => []
  | .debuggerAttach _ _ => []
  | .softError _ _ _ _ => []
  | .peerMovedReply _ _ => []

/-- A register two words of one pair both write; `g0` and `p0` do not count (R61). -/
def sameDest (c a : Instr) : Bool :=
  (c.gDests.any fun n => n ≠ 0 && a.gDests.contains n) || (c.pDests.any fun n => n ≠ 0 && a.pDests.contains n)

end Instr

end Sys2Proof
end

