-- ==== Sys2Proof/Machine/Formats.lean ====
section
/-! DEFINITION. Number formats (R84-R101): codes and their values, decode tables, decoding, encoding with its rounding modes
and flags, the random generator, and the instructions ABT, ABM, CVTD, CVTE and RAND over them. -/

namespace Sys2Proof.Machine

/-! ### Codes and tables -/

/-- The layout of a decode-table entry's bits [18:0] (R87, R88). -/
def e8m10 : FSpec := ⟨8, 10⟩

/-- The ABS bit of an entry (R87). -/
def entryAbs (e : Half) : Bool := e.getLsbD 19
/-- The value of a present entry (R88). -/
def entryNum (e : Half) : Num := e8m10.unpack (e.toNat % 2 ^ 19)

/-- An 8-bit table format (R84). -/
def isTab8 (f : BitVec 4) : Bool := 6 ≤ f.toNat && f.toNat ≤ 9
/-- A 4-bit table format (R84). -/
def isTab4 (f : BitVec 4) : Bool := 10 ≤ f.toNat && f.toNat ≤ 13
/-- A table format. -/
def isTab (f : BitVec 4) : Bool := isTab8 f || isTab4 f
/-- The slot a table format names (R84). -/
def tabSlot (f : BitVec 4) : Nat := (f.toNat - 6) % 4
/-- The entries a table format reads (R84). -/
def tabLimit (f : BitVec 4) : Nat := if isTab4 f then 16 else 256
/-- The layout of a floating format (R84). -/
def fmtFloat (f : BitVec 4) : Option FSpec := match f.toNat with
  | 0 => some fp32
  | 1 => some bf16
  | 2 => some fp16
  | _ => none

/-- The number of the ABS entry of a table. -/
def absEntry (t : List Half) : Nat := t.findIdx entryAbs

/-- The absent code of a format (R84). -/
def absCode (f : BitVec 4) (t : List Half) : Nat :=
  if isTab f then absEntry t
  else match fmtFloat f with
    | some g => g.absent
    | none => 2 ^ (fmtWidth f - 1)

/-- The exact scale of encodings: numbers as multiples of 2^-280, which holds every FP32 value times 2^128 .. 2^-127 and
every entry of a table. -/
def fixLog : Nat := 280

/-- A finite number as a multiple of 2^-280 (its denominator is a power of two below 2^280). -/
def fixOf (neg : Bool) (n d : Nat) : Int := signedNum neg (n * (2 ^ fixLog / d))

/-- The finite present entries a format reads: value and code, ascending codes. -/
def candidates (f : BitVec 4) (t : List Half) : List (Int × Nat) :=
  ((t.take (tabLimit f)).zipIdx).filterMap fun e => if entryAbs e.1 then none else match entryNum e.1 with
    | .fin s n d => some (fixOf s n d, e.2)
    | _ => none

/-- The trap value of an unusable table slot (R91), if its use traps: the slot is empty, its ABS entry is out of reach, or
an encode finds no candidate. -/
def tableFault (f : BitVec 4) (t : List Half) (enc : Bool) : Option Word :=
  if !isTab f then none
  else
    let v := BitVec.ofNat 64 (tabSlot f + if isTab4 f then 4 else 0)
    if t.isEmpty ∨ (isTab4 f ∧ 16 ≤ absEntry t) then some v
    else if enc ∧ (candidates f t).isEmpty then some (v ||| 8)
    else none

/-- A code is the absent code of its format; only its low bits count (R84, R288). -/
def isAbsentCode (f : BitVec 4) (t : List Half) (c : Nat) : Bool :=
  let c := c % 2 ^ fmtWidth f
  if isTab f then entryAbs (t.getD c 0) else c = absCode f t

/-- The value of a present code (R84, R88). -/
def codeNum (f : BitVec 4) (t : List Half) (c : Nat) : Num :=
  let w := fmtWidth f
  let c := c % 2 ^ w
  if isTab f then entryNum (t.getD c 0)
  else match fmtFloat f with
    | some g => g.unpack c
    | none =>
      let v := signedOf w c
      .fin (v < 0) v.natAbs 1

/-- 2 to a signed 8-bit exponent as a fraction (R104). -/
def pow2 (e : BitVec 8) : Nat × Nat := if e.toInt < 0 then (1, 2 ^ e.toInt.natAbs) else (2 ^ e.toInt.natAbs, 1)

/-! ### Decoding (R93) -/

/-- Decode a code into FP32 under a decode exponent, with the flags CVTD sets (R93, R300). -/
def decodeFmt (f : BitVec 4) (t : List Half) (dexp : BitVec 8) (c : Nat) : FRes :=
  if isAbsentCode f t c then fp32.absentRes
  else match codeNum f t c with
    | .nan _ => ⟨fp32.nan, 0⟩
    | .inf s => ⟨fp32.withSign s fp32.inf, 0⟩
    | .fin s n d =>
      if n = 0 then ⟨fp32.withSign s 0, 0⟩
      else
        let r := fp32.finish .rne s n d
        match fp32.unpack r.bits with
        | .fin s n d =>
          let q := fp32.finish .rne s (n * (pow2 dexp).1) (d * (pow2 dexp).2)
          ⟨q.bits, r.flags ||| q.flags⟩
        | _ => r

/-! ### Encoding (R94-R99) -/

/-- The choice between two neighbouring candidates lo < x < hi, each value and code (R95). -/
def chooseCode (m : RMode) (neg : Bool) (x : Int) (lo hi : Int × Nat) : Nat :=
  let byBit (other : Nat) : Nat :=
    if lo.2 % 2 ≠ hi.2 % 2 then (if lo.2 % 2 = 0 then lo.2 else hi.2) else other
  let smaller (other : Nat) : Nat :=
    if lo.1.natAbs < hi.1.natAbs then lo.2 else if hi.1.natAbs < lo.1.natAbs then hi.2 else other
  let bySign : Nat := if neg then lo.2 else hi.2
  match m with
  | .sr r => if (r : Int) < (x - lo.1) * 2 ^ 16 / (hi.1 - lo.1) then hi.2 else lo.2
  | .rtz => smaller (byBit bySign)
  | _ =>
    if x - lo.1 < hi.1 - x then lo.2
    else if hi.1 - x < x - lo.1 then hi.2
    else byBit (smaller bySign)

/-- The candidate of greatest value not above x, lowest code first. -/
def below (x : Int) (l : List (Int × Nat)) : Option (Int × Nat) :=
  l.foldl (fun b e => if e.1 ≤ x then match b with
      | none => some e
      | some q => if q.1 < e.1 then some e else b
    else b) none

/-- The candidate of least value not below x, lowest code first. -/
def above (x : Int) (l : List (Int × Nat)) : Option (Int × Nat) :=
  l.foldl (fun b e => if x ≤ e.1 then match b with
      | none => some e
      | some q => if e.1 < q.1 then some e else b
    else b) none

/-- The candidate of largest or of smallest value (R96). -/
def extreme (neg : Bool) (l : List (Int × Nat)) : Option (Int × Nat) :=
  l.foldl (fun b e => match b with
    | none => some e
    | some q => if (if neg then e.1 < q.1 else q.1 < e.1) then some e else b) none

/-- The code an out-of-range value of a sign takes (R96): the infinity of its sign unless it saturates, else the extreme candidate on
its side, the smallest where `low`. -/
def rangeCode (f : BitVec 4) (t : List Half) (sat low neg : Bool) : Nat :=
  let e := ((extreme low (candidates f t)).map (·.2)).getD 0
  if sat then e
  else match (t.take (tabLimit f)).findIdx? fun w => !entryAbs w && entryNum w = .inf neg with
    | some i => i
    | none => e

/-- A code of a table stands for the value 0. -/
def zeroCode (t : List Half) (c : Nat) : Bool := match entryNum (t.getD c 0) with
  | .fin _ n _ => n = 0
  | _ => false

/-- Encode into a table format (R94-R96) with the flags of R101; a NaN that becomes a number sets NV and no NX (assumption 79). -/
def encodeTab (f : BitVec 4) (t : List Half) (m : RMode) (sat : Bool) (x : Num) (eexp : BitVec 8) : FRes :=
  match x with
  | .nan _ =>
    match (t.take (tabLimit f)).findIdx? fun w => !entryAbs w && (entryNum w).isNan with
    | some i => ⟨i, 0⟩
    | none => ⟨((extreme false (candidates f t)).map (·.2)).getD 0, flagNV⟩
  | .inf s => ⟨rangeCode f t sat s s, 0⟩
  | .fin s n d =>
    let x := fixOf s (n * (pow2 eexp).2) (d * (pow2 eexp).1)
    let l := candidates f t
    let uf (c : Nat) : BitVec 5 := if zeroCode t c && decide (x ≠ 0) then flagUF else 0
    match below x l, above x l with
    | some lo, some hi =>
      if lo.1 = x then ⟨lo.2, 0⟩
      else
        let c := chooseCode m s x lo hi
        ⟨c, flagNX ||| uf c⟩
    | none, _ =>
      let c := rangeCode f t sat true s
      ⟨c, flagOF ||| flagNX ||| uf c⟩
    | _, none =>
      let c := rangeCode f t sat false s
      ⟨c, flagOF ||| flagNX ||| uf c⟩

/-- Encode into FP32, BF16 or FP16 (R97, R99) with the flags of R101. -/
def encodeFloat (g : FSpec) (m : RMode) (sat : Bool) (x : Num) (eexp : BitVec 8) : FRes :=
  let top : Nat := if sat || m = .rtz then g.maxFin else g.inf
  match x with
  | .nan _ => ⟨g.nan, 0⟩
  | .inf s => ⟨g.withSign s top, 0⟩
  | .fin s n d =>
    let r := g.roundMag m s (n * (pow2 eexp).2) (d * (pow2 eexp).1)
    if g.inf ≤ r.1 then ⟨g.withSign s top, flagOF ||| flagNX⟩
    else ⟨g.withSign s r.1, (if r.2 then flagNX else 0) ||| (if r.2 && r.1 < 2 ^ g.mw then flagUF else 0)⟩

/-- Encode into an integer format of w bits (R98, R99) with the flags of R101; an infinite value sets none (assumption 11), and a NaN
NV and no NX (assumption 79). -/
def encodeInt (w : Nat) (m : RMode) (x : Num) (eexp : BitVec 8) : FRes :=
  let bound := 2 ^ (w - 1) - 1
  match x with
  | .nan _ => ⟨0, flagNV⟩
  | .inf s => ⟨patternOf w (signedNum s bound), 0⟩
  | .fin s n d =>
    let r := roundInt m s (n * (pow2 eexp).2) (d * (pow2 eexp).1)
    if bound < r.1 then ⟨patternOf w (signedNum s bound), flagNV ||| flagNX⟩
    else ⟨patternOf w (signedNum s r.1), if r.2 then flagNX else 0⟩

/-- Encode a present number into a format. -/
def encodeNum (f : BitVec 4) (t : List Half) (m : RMode) (sat : Bool) (x : Num) (eexp : BitVec 8) : FRes :=
  if isTab f then encodeTab f t m sat x eexp
  else match fmtFloat f with
    | some g => encodeFloat g m sat x eexp
    | none => encodeInt (fmtWidth f) m x eexp

/-! ### The generator (R100) -/

/-- One output of xoshiro128** and the state after it (R100). -/
def xoshiro (v : Vector (BitVec 32) 4) : Half × Vector (BitVec 32) 4 :=
  let out := (v[1] * 5).rotateLeft 7 * 9
  let t := v[1] <<< 9
  let s2 := v[2] ^^^ v[0]
  let s3 := v[3] ^^^ v[1]
  let s1 := v[1] ^^^ s2
  let s0 := v[0] ^^^ s3
  (out, #v[s0, s1, s2 ^^^ t, s3.rotateLeft 11])

/-- The rounding mode a two-bit code names, drawing for stochastic rounding (R99, R102, R103). -/
def encMode (rnd : Nat) (rng : Vector (BitVec 32) 4) : RMode × Vector (BitVec 32) 4 := match rnd with
  | 0 => (.rne, rng)
  | 1 => (.rtz, rng)
  | _ =>
    let r := xoshiro rng
    (.sr (r.1.toNat / 2 ^ 16), r.2)

/-- Encode an FP32 pattern (R94-R99): an absent source gives the absent code, and neither it nor a NaN draws (R100). -/
def encodeFmt (f : BitVec 4) (t : List Half) (rnd : Nat) (sat : Bool) (eexp : BitVec 8) (rng : Vector (BitVec 32) 4)
    (x : Nat) : FRes × Vector (BitVec 32) 4 :=
  if fp32.isAbsent x then (⟨absCode f t, 0⟩, rng)
  else
    let v := fp32.unpack (x % 2 ^ 32)
    if v.isNan then (encodeNum f t .rne sat v eexp, rng)
    else
      let m := encMode rnd rng
      (encodeNum f t m.1 sat v eexp, m.2)

/-! ### Format and scale registers (R103, R104) -/

/-- SAT of %FMTD. -/
def fmtdSat (v : Word) : Bool := v.getLsbD 17
/-- NORM of %FMTD. -/
def fmtdNorm (v : Word) : Bool := v.getLsbD 16
/-- RND of %FMTD. -/
def fmtdRnd (v : Word) : Nat := v.toNat / 2 ^ 14 % 4
/-- SMODE of %FMTD. -/
def fmtdSmode (v : Word) : Nat := v.toNat / 2 ^ 12 % 4
/-- OF of %FMTD. -/
def fmtdOF (v : Word) : BitVec 4 := v.extractLsb' 8 4
/-- BF of %FMTD. -/
def fmtdBF (v : Word) : BitVec 4 := v.extractLsb' 4 4
/-- AF of %FMTD. -/
def fmtdAF (v : Word) : BitVec 4 := v.extractLsb' 0 4
/-- A value %FMTD refuses (R105). -/
def fmtdBad (v : Word) : Bool :=
  fmtdRnd v = 3 || 2 ≤ fmtdSmode v || fmtdAF v = 15 || fmtdBF v = 15 || fmtdOF v = 15
/-- DEXP of %SCALE. -/
def scaleDexp (v : Word) : BitVec 8 := v.extractLsb' 0 8
/-- EEXP of %SCALE. -/
def scaleEexp (v : Word) : BitVec 8 := v.extractLsb' 8 8

namespace State

/-- The decode table of a slot number, as the executing core's VF holds it, or held it when the bundle first issued (R90); empty where
no bank holds it (R91). -/
def table (s : State) (n : Nat) : List Half := FMap.getD (s.src.slot.tabs.getD (s.cvf s.cur.core).tables) n []

/-- The table a format names. -/
def fmtTable (s : State) (f : BitVec 4) : List Half := if isTab f then s.table (tabSlot f) else []

/-- A table format whose bank belongs to another VF (R242). -/
def tabAbsent (s : State) (f : BitVec 4) : Bool :=
  isTab f && s.cur.core < Config.cscBase && FMap.find? s.here.tabTag (tabSlot f) ≠ some (s.runVf s.cur.core)

/-- The executing bundle parks for the exchange of the table bank a format names and is executed again (R242). -/
def parkTable (s : State) (f : BitVec 4) : State :=
  (s.askBank 2 s.cur.core (tabSlot f) (s.runVf s.cur.core)).replay (.bank 2 s.cur.core (tabSlot f))

/-- What an instruction that names a format does with its table: a bank exchange first (R242), trap 0x11 where the slot is
unusable (R91), else the instruction's own effect. -/
def withFmt (s : State) (f : BitVec 4) (enc : Bool) (k : List Half → State) : State :=
  if s.tabAbsent f then s.parkTable f
  else match tableFault f (s.fmtTable f) enc with
    | some v => s.raise 0x11 v
    | none => k (s.fmtTable f)

end State

/-- The vector queue holds a conversion under SR, which has not yet drawn (R100). -/
def Slot.drawing (x : Slot) : Bool := match x.claim with
  | some c => c.queue.any fun o => fmtdRnd o.fmtd = 2 && (match o.op with
    | .vcvtEnc _ _ _ _ _ => true
    | .vcvtDec _ _ _ t _ => decide (t ≠ 2)
    | _ => false)
  | none => false

namespace State

/-- Some vector conversion under SR of the executing slot has not yet drawn (R100). -/
def drawsPending (s : State) : Bool := s.src.slot.drawing

/-- Park until earlier vector conversions under SR have drawn, then execute the bundle again (R100). -/
def afterDraws (s : State) (k : State) : State := if s.drawsPending then s.replay .draws else k

end State

/-! ### ABT, ABM, CVTD, CVTE, RAND -/

/-- ABT.ABS (R288). -/
def execAbtAbs (p : BitVec 3) (a : BitVec 6) (f : BitVec 4) (s : State) : Host.Outcome State Fault Refusal :=
  .next (s.withFmt f false fun t => s.wp p (isAbsentCode f t (s.rg a).toNat))

/-- ABT.PRS (R288). -/
def execAbtPrs (p : BitVec 3) (a : BitVec 6) (f : BitVec 4) (s : State) : Host.Outcome State Fault Refusal :=
  .next (s.withFmt f false fun t => s.wp p !(isAbsentCode f t (s.rg a).toNat))

/-- ABM (R287): the table check is made whatever the predicate holds. -/
def execAbm (d a : BitVec 6) (p : BitVec 3) (f : BitVec 4) (s : State) : Host.Outcome State Fault Refusal :=
  .next (s.withFmt f false fun t => s.wg d (if s.rp p then BitVec.ofNat 64 (absCode f t) else s.rg a))

/-- CVTD (R102, R300). -/
def execCvtd (d a : BitVec 6) (f : BitVec 4) (s : State) : Host.Outcome State Fault Refusal :=
  .next (s.withFmt f false fun t => s.fout d (decodeFmt f t (scaleDexp s.src.slot.scale) (s.rg a).toNat))

/-- CVTE (R102, R300): under SR it writes the generator's state with its result. -/
def execCvte (d a : BitVec 6) (r : BitVec 2) (f : BitVec 4) (s : State) : Host.Outcome State Fault Refusal :=
  .next (s.withFmt f true fun t =>
    let e := encodeFmt f t r.toNat (fmtdSat s.src.slot.fmtd) (scaleEexp s.src.slot.scale) s.src.slot.rseed (s.rg a).toNat
    let go := s.fout d e.1
    if r = 2 then s.afterDraws (go.updMe fun x => { x with rseed := e.2 }) else go)

/-- RAND (R328). -/
def execRand (d : BitVec 6) (s : State) : Host.Outcome State Fault Refusal :=
  let r := xoshiro s.src.slot.rseed
  .next (s.afterDraws ((s.wg d (r.1.zeroExtend 64)).updMe fun x => { x with rseed := r.2 }))

end Sys2Proof.Machine
end

