-- ==== Sys2Proof/Machine/Mem.lean ====
section
/-! DEFINITION. Memory instructions at issue: loads (R161, R162, R317, R318), stores and the publication queue (R157, R164,
R334, R335), atomics (R286-R294), fences (R167), waits on a word (R168, R169), and the departure of a migration (R52). -/

namespace Sys2Proof.Machine

namespace State

/-- A memory operation goes to its home (R158, R163). -/
def sendMem (s : State) (c vk n : Nat) (op : MemOp) : State :=
  (s.setWait c vk n (.request s.nextReq)).newReq
    { kind := .mem op, core := c, slot := n, vf := vk - 1, key := op.key, size := op.size, slice := op.slice
      cached := op.cached, waiting := false, tag := 0 }

/-- The fill that brings a load its sector: an outstanding one that no self-invalidation has overtaken, or a new one (R162). -/
def askFill (s : State) (c vk n : Nat) (op : MemOp) : Nat × State :=
  let line := op.key / 128
  let sector := op.key % 128 / 32
  match List.find? (fun (f : Nat × Fill) => f.2.line = line && f.2.sector = sector && !f.2.stale) (s.core c).fills with
  | some f => (f.1, s)
  | none =>
    let fid := (s.core c).nextFill
    let own := ((List.range 8).map (sector * 8 + ·)).filter fun w => (s.core c).owned (line * 128 + w * 4)
    let s := s.updCore c fun k => { k with
      nextFill := fid + 1
      fills := FMap.insert k.fills fid
        { line := line, sector := sector, set := (op.slice.getD 0) % 64, blocked := own, patched := [], stored := [], stale := false
          data := none, poison := [] } }
    (fid, s.newReq
      { kind := .fill fid, core := c, slot := n, vf := vk - 1, key := line * 128 + sector * 32, size := 32
        slice := op.slice, cached := true, waiting := false, tag := 0 })

/-- A load waits for its sector's fill, unless writes have covered its bytes (R153). -/
def sendFill (s : State) (c vk n : Nat) (op : MemOp) : State :=
  let r := s.askFill c vk n op
  match r.2.earlyAt c r.1 op with
  | (some w, t) => t.answerLoad c (vk, n, op) w
  | (none, t) => t.setWait c vk n (.fill r.1 op)

end State

/-- What a plain load finds (R161). -/
inductive Found where
  | value (v : Nat)
  | poison
  | cover
  | fill
  | request
  deriving DecidableEq, Repr

/-- The words of an L1 line that hold a range, if all are valid (R161 step 3). -/
def L1Line.read (l : L1Line) (key n : Nat) : Option Nat :=
  let ws := (List.range ((key % 4 + n + 3) / 4)).map fun i => key % 128 / 4 + i
  (ws.mapM fun w => FMap.find? l.words w).map fun vs =>
    (vs.zipIdx.foldl (fun a v => a + v.1.toNat * 2 ^ (32 * v.2)) 0) / 2 ^ (8 * (key % 4)) % 2 ^ (8 * n)

namespace State

/-- Where a plain load of a core takes its bytes (R142, R161): the own PQ, the own scratchpad, the L view, or home. -/
def loadLook (s : State) (c : Nat) (op : MemOp) : Found :=
  let k := s.core c
  match k.pqBytes op.key op.size with
  | some bs => .value (leVal bs)
  | none =>
    if k.covered op.key op.size then .cover
    else if op.slice = none then
      if spCore op.key = c then (if s.poisoned op.key op.size then .poison else .value (s.home op.key op.size)) else .request
    else if op.cached then
      match FMap.find? k.l1 (op.key / 128) with
      | some l => match l.read op.key op.size with
        | some v =>
          if l.poison.any fun w => overlap (op.key % 128) op.size (w * 4) 4 then .poison else .value v
        | none => .fill
      | none => .fill
    else .request

/-- A load that takes its bytes from the L view uses its line (R144: least recently used). -/
def touch (s : State) (c : Nat) (op : MemOp) : State :=
  if op.cached && ((s.core c).pqBytes op.key op.size).isNone then s.updCore c (·.useLine (op.key / 128)) else s

/-! ### Access: translation, spaces, banks, migration -/

/-- The slot leaves for the owner of a scratchpad window (R52): the bundle has no effect here, and the packet leaves once
the PQ has drained. -/
def depart (s : State) (owner : Nat) : State :=
  let c := s.cur.core
  let x := s.me
  let m : Mig := { core := c, slot := s.cur.slot, owner := owner, image := x, vf := s.runVf c, seq := s.here.seq.toNat
                   tleft := if x.tcmp = 0 then none else some (x.tcmp.toNat - s.here.cyc.toNat), reply := none }
  ({ s with migs := s.migs ++ [m] } : State).replay .migrate

/-- A scratchpad bank of the executing core must be its VF's (R242): park for the exchange, then execute the bundle again. -/
def parkBank (s : State) (core off : Nat) : State :=
  (s.askBank 1 core (off / 2048) (s.runVf s.cur.core)).replay (.bank 1 core (off / 2048))

/-- A scalar access of the executing slot: the checks of R286, R317 and R334 in their order, the bank exchange of a local
scratchpad access, the migration of a remote one, and then `go` at the place. -/
def access (s : State) (k : Access) (va : Word) (n : Nat) (peerOk mig : Bool) (go : Place → State → State) : State :=
  let c := s.cur.core
  match s.resolve c k va n peerOk with
  | (.trap q, t) => t.raise q va
  | (.walk, t) => t.parkWalk c k va
  | (.at (.sp o off), t) =>
    if o = c then (if t.spOwned c (t.runVf c) off then go (.sp o off) t else t.parkBank c off)
    else if mig && t.me.tstat.getLsbD 1 && t.me.claim.isNone && t.me.noMig ≠ some t.me.pc then t.depart o
    else go (.sp o off) t
  | (.at p, t) => go p t

/-- The memory operation of a place, or none for a peer window. -/
def opAt (s : State) (p : Place) (op : MemOp) : Option MemOp := match p with
  | .sp o off => some { op with key := spKey (s.vk s.cur.core) o off, cached := false, slice := none }
  | .mem key cached home => some { op with key := key, cached := cached, slice := some home }
  | .peer _ _ => none

/-! ### Loads -/

/-- A load through the PQ, the L view and home (R161). Served by step 1 or 3 it counts under L1HIT unless it reads a scratchpad; one
that waits counts under L1MISS once it has its bytes (R251). -/
def plainLoad (s : State) (op : MemOp) : State :=
  let c := s.cur.core
  let n := s.cur.slot
  match s.loadLook c op with
  | .value v =>
    let t := s.touch c op
    (if op.slice.isSome then t.count c 4 n 1 else t).wg (BitVec.ofNat 6 op.d) (op.result v)
  | .poison => s.raise 0x0B op.va
  | .cover => s.parkC (.cover op)
  | .fill => (s.parkC (.cover op)).sendFill c (s.vk c) n op
  | .request => (s.parkC (.cover op)).sendMem c (s.vk c) n op

/-- A load of n bytes (R317). -/
def load (s : State) (t a : BitVec 6) (i : BitVec 12) (n : Nat) (sext : Bool) : State :=
  let va := s.rg a + imm12 i
  s.access 0 va n false true fun p u => match u.opAt p (baseOp va n t sext) with
    | some op => u.plainLoad op
    | none => u

/-- An operation at home waits until no own entry covers its bytes, and goes there (R163). -/
def homeOp (s : State) (op : MemOp) : State :=
  let c := s.cur.core
  if (s.core c).covered op.key op.size then s.parkC (.cover op)
  else (s.parkC (.cover op)).sendMem c (s.vk c) s.cur.slot op

/-! ### Stores -/

/-- A store entry of the executing slot. -/
def entryOf (s : State) (op : MemOp) : PqEntry :=
  { seq := 0, key := op.key, bytes := leBytes op.size op.arg.toNat, mark := op.mark, slot := s.cur.slot, pop := s.me.pop
    vf := s.runVf s.cur.core, va := op.va, cached := op.cached, slice := op.slice }

/-- A store enters the PQ, parks while it is full, and on the fetch path parks until its arrival at the owner (R157,
R334). -/
def plainStore (s : State) (op : MemOp) : State :=
  let c := s.cur.core
  let e := s.entryOf op
  if s.pqIsFull c then s.parkC (.pqFull [e] [] [])
  else
    let s := s.enterPq c e
    if remoteKey c op.key then s.parkC (.landed [(s.core c).seq.toNat]) else s

/-- A store of the low n bytes of a register (R334, R335); a release at DEV or SYS carries the mark of R164. -/
def store (s : State) (va : Word) (n : Nat) (v : Word) (rel sys : Bool) : State :=
  s.access 1 va n false true fun p u =>
    let m := if rel then u.releaseMark u.cur.core sys else none
    match u.opAt p { baseOp va n 0 false with kind := .store, arg := v, sys := sys, mark := m } with
    | some op => u.plainStore op
    | none => u

/-! ### Atomics -/

/-- A peer operation is on its way (R149). -/
def sendPeer (s : State) (c vk n : Nat) (op : PeerOp) : State :=
  { s.setWait c vk n (.peer s.nextPeer) with
    peerOps := FMap.insert s.peerOps s.nextPeer op, nextPeer := s.nextPeer + 1 }

/-- An atomic operation of the executing slot (R286): at home, or at a peer's home, which a releasing one reaches only after
the whole PQ has been published at SYS (R166). -/
def atomic (s : State) (k : AmoKind) (d a : BitVec 6) (arg cmp : Word) (scope order : BitVec 2) (n : Nat) (sext : Bool) :
    State :=
  let va := s.rg a
  let dev : Bool := scope ≠ 0
  let acq := dev && order.getLsbD 0
  let rel := dev && order.getLsbD 1
  let sys : Bool := scope = 2
  s.access 2 va n sys true fun p u =>
    let c := u.cur.core
    let m := if rel then u.releaseMark c sys else none
    match u.opAt p { baseOp va n d sext with
        kind := .amo k, arg := arg, cmp := cmp, acq := acq, rel := rel, sys := sys, mark := m } with
    | some op => u.homeOp op
    | none => match p with
      | .peer w off =>
        let x := u.window w
        let op : PeerOp := { win := w, op := 2, amo := k, addr := x.addr off, size := n, value := arg, cmp := cmp, core := c
                             slot := u.cur.slot, vf := u.runVf c, d := d.toNat, acq := acq, pop := u.me.pop, pvf := x.pvf }
        if rel then u.parkC (.peerDrain u.here.seq.toNat op)
        else (u.parkC .vempty).sendPeer c (u.vk c) u.cur.slot op
      | _ => u

/-- An AMO with a general operand (R290). -/
def amo (s : State) (k : AmoKind) (d a b : BitVec 6) (scope order : BitVec 2) (w : BitVec 1) : State :=
  s.atomic k d a (s.rg b) 0 scope order (bytesM w) true

end State

/-! ### The instructions -/

/-- LDB (R317). -/
def execLdb (t a : BitVec 6) (i : BitVec 12) (s : State) : Host.Outcome State Fault Refusal := .next (s.load t a i 1 true)
/-- LDBU (R317). -/
def execLdbu (t a : BitVec 6) (i : BitVec 12) (s : State) : Host.Outcome State Fault Refusal := .next (s.load t a i 1 false)
/-- LDH (R317). -/
def execLdh (t a : BitVec 6) (i : BitVec 12) (s : State) : Host.Outcome State Fault Refusal := .next (s.load t a i 2 true)
/-- LDHU (R317). -/
def execLdhu (t a : BitVec 6) (i : BitVec 12) (s : State) : Host.Outcome State Fault Refusal := .next (s.load t a i 2 false)
/-- LDW (R317). -/
def execLdw (t a : BitVec 6) (i : BitVec 12) (s : State) : Host.Outcome State Fault Refusal := .next (s.load t a i 4 true)
/-- LDWU (R317). -/
def execLdwu (t a : BitVec 6) (i : BitVec 12) (s : State) : Host.Outcome State Fault Refusal := .next (s.load t a i 4 false)
/-- LDD (R317). -/
def execLdd (t a : BitVec 6) (i : BitVec 12) (s : State) : Host.Outcome State Fault Refusal := .next (s.load t a i 8 false)

/-- LDA (R318): at CORE scope a plain load, at DEV or SYS at home, acquiring where its order says so. -/
def execLda (d a : BitVec 6) (e : BitVec 1) (z y : BitVec 2) (o : BitVec 1) (s : State) :
    Host.Outcome State Fault Refusal :=
  let va := s.rg a
  let n := 2 ^ z.toNat
  .next (s.access 0 va n false true fun p u =>
    match u.opAt p { baseOp va n d (e = 1) with
        kind := if y = 0 then .load else .home, acq := y ≠ 0 && o = 1, sys := y = 2 } with
    | some op => if y = 0 then u.plainLoad op else u.homeOp op
    | none => u)

/-- STB (R334). -/
def execStb (t a : BitVec 6) (i : BitVec 12) (s : State) : Host.Outcome State Fault Refusal :=
  .next (s.store (s.rg a + imm12 i) 1 (s.rg t) false false)
/-- STH (R334). -/
def execSth (t a : BitVec 6) (i : BitVec 12) (s : State) : Host.Outcome State Fault Refusal :=
  .next (s.store (s.rg a + imm12 i) 2 (s.rg t) false false)
/-- STW (R334). -/
def execStw (t a : BitVec 6) (i : BitVec 12) (s : State) : Host.Outcome State Fault Refusal :=
  .next (s.store (s.rg a + imm12 i) 4 (s.rg t) false false)
/-- STD (R334). -/
def execStd (t a : BitVec 6) (i : BitVec 12) (s : State) : Host.Outcome State Fault Refusal :=
  .next (s.store (s.rg a + imm12 i) 8 (s.rg t) false false)

/-- STR (R335). -/
def execStr (d a : BitVec 6) (z y : BitVec 2) (o : BitVec 1) (s : State) : Host.Outcome State Fault Refusal :=
  .next (s.store (s.rg a) (2 ^ z.toNat) (s.rg d) (o = 1 && y ≠ 0) (y = 2))

/-- AMOADD (R290). -/
def execAmoadd (d a b : BitVec 6) (y o : BitVec 2) (w : BitVec 1) (s : State) : Host.Outcome State Fault Refusal :=
  .next (s.amo .add d a b y o w)
/-- AMOAND (R290). -/
def execAmoand (d a b : BitVec 6) (y o : BitVec 2) (w : BitVec 1) (s : State) : Host.Outcome State Fault Refusal :=
  .next (s.amo .and d a b y o w)
/-- AMOOR (R290). -/
def execAmoor (d a b : BitVec 6) (y o : BitVec 2) (w : BitVec 1) (s : State) : Host.Outcome State Fault Refusal :=
  .next (s.amo .or d a b y o w)
/-- AMOXOR (R290). -/
def execAmoxor (d a b : BitVec 6) (y o : BitVec 2) (w : BitVec 1) (s : State) : Host.Outcome State Fault Refusal :=
  .next (s.amo .xor d a b y o w)
/-- AMOMIN (R290). -/
def execAmomin (d a b : BitVec 6) (y o : BitVec 2) (w : BitVec 1) (s : State) : Host.Outcome State Fault Refusal :=
  .next (s.amo .min d a b y o w)
/-- AMOMAX (R290). -/
def execAmomax (d a b : BitVec 6) (y o : BitVec 2) (w : BitVec 1) (s : State) : Host.Outcome State Fault Refusal :=
  .next (s.amo .max d a b y o w)
/-- AMOMINU (R290). -/
def execAmominu (d a b : BitVec 6) (y o : BitVec 2) (w : BitVec 1) (s : State) : Host.Outcome State Fault Refusal :=
  .next (s.amo .minu d a b y o w)
/-- AMOMAXU (R290). -/
def execAmomaxu (d a b : BitVec 6) (y o : BitVec 2) (w : BitVec 1) (s : State) : Host.Outcome State Fault Refusal :=
  .next (s.amo .maxu d a b y o w)
/-- AMOSWAP (R290). -/
def execAmoswap (d a b : BitVec 6) (y o : BitVec 2) (w : BitVec 1) (s : State) : Host.Outcome State Fault Refusal :=
  .next (s.amo .swap d a b y o w)
/-- AMOFADD (R291): 4 bytes, the old value zero-extended. -/
def execAmofadd (d a b : BitVec 6) (y o : BitVec 2) (s : State) : Host.Outcome State Fault Refusal :=
  .next (s.atomic .fadd d a (s.rg b) 0 y o 4 false)
/-- CAS (R294): `g[d]` holds the expected value. -/
def execCas (d a b : BitVec 6) (y o : BitVec 2) (w : BitVec 1) (s : State) : Host.Outcome State Fault Refusal :=
  .next (s.atomic .cas d a (s.rg b) (s.rg d) y o (bytesM w) true)

/-- FENCE (R167): at CORE scope nothing; REL and FULL wait for the drain, ACQ and FULL self-invalidate. A release whose
entries are already home (and published, at SYS: assumption 12) completes at once. -/
def execFence (y o : BitVec 2) (s : State) : Host.Outcome State Fault Refusal :=
  let c := s.cur.core
  let sys : Bool := y = 2
  .next (if y = 0 then s
  else if o = 1 then s.updCore c (·.selfInvalidate)
  else if s.forced c s.here.seq.toNat sys then (if o = 3 then s.updCore c (·.selfInvalidate) else s)
  else s.parkC (.drain s.here.seq.toNat sys (o = 3)))

/-- WAITW (R168, R361): compares at home at every scope. -/
def execWaitw (d a b : BitVec 6) (y : BitVec 2) (o w : BitVec 1) (s : State) : Host.Outcome State Fault Refusal :=
  let va := s.rg a
  let n := bytesM w
  .next (s.access 0 va n false false fun p u =>
    match u.opAt p { baseOp va n d false with
        kind := .waitw, cmp := s.rg b, acq := y ≠ 0 && o = 1, sys := y = 2 } with
    | some op => u.homeOp op
    | none => u)

/-- WAITWT (R169): 8 bytes, ACQ at DEV, with the time-out in cycles of the core's %CYC in `arg` and the predicate in `d`. -/
def execWaitwt (p : BitVec 3) (a b f : BitVec 6) (s : State) : Host.Outcome State Fault Refusal :=
  let va := s.rg a
  .next (s.access 0 va 8 false false fun q u =>
    match u.opAt q { baseOp va 8 0 false with
        kind := .waitwt p.toNat (s.here.cyc.toNat + (s.rg f).toNat), cmp := s.rg b, acq := true } with
    | some op => u.homeOp op
    | none => u)

end Sys2Proof.Machine
end

