-- ==== Sys2Proof/Machine/Home.lean ====
section
/-! DEFINITION. Events of the publication queue and the L view (R157, R162, R165, R166, R169). -/

namespace Sys2Proof.Machine

namespace State

/-- A word of a line as a fill of its sector brings it. -/
def fillWord (bs : List Byte) (w : Nat) : Half := BitVec.ofNat 32 (leVal ((bs.drop ((w % 8) * 4)).take 4))

/-- Loads take words of a returning fill (R161 step 4): a copy of such a word in L that differs leaves, so that no later read gets an older
value (R170, assumption 73); one that a home-direct operation left stays. -/
def fillTaken (k : Core) (f : Fill) (bs : List Byte) (ops : List MemOp) : Core :=
  let ws := ((ops.filter fun op => !f.stored.any fun q => overlap q.1 q.2 op.key op.size).flatMap fun op =>
    lineWords op.key op.size).filter fun w => (FMap.find? f.patched w).isNone
  { k with l1 := dropWords k.l1 f.line fun w => !ws.contains w.1 || (w.2 = fillWord bs w.1 && !f.poison.contains w.1) }

/-- The first of a core's fills whose data has returned installs its words (R162). -/
def installFill (k : Core) (f : Fill) (bs : List Byte) : Core :=
  let ws := (List.range 8).map (f.sector * 8 + ·)
  let old (w : Nat) : Bool := match FMap.find? k.l1 f.line with
    | some l => (FMap.find? l.words w).isSome
    | none => false
  let ok := if f.stale then [] else ws.filter fun w =>
    !old w && !f.blocked.contains w && (FMap.find? f.patched w).isNone
  if ok.isEmpty then k
  else l1Put k f.line f.set fun l => { l with
    words := ok.foldl (fun m w => FMap.insert m w (fillWord bs w)) l.words
    poison := l.poison.filter (fun w => !ok.contains w) ++ ok.filter f.poison.contains }

end State

/-- What a load that waited for a fill gets (R161 step 4, R162): home's bytes as the fill brought them, but a word that a home-direct
operation left from the line, or as it was left where the line has gone. A load whose bytes the core has stored to since is looked up
again. `k` is the core after the installation. -/
def Fill.answer (f : Fill) (k : Core) (bs : List Byte) (op : MemOp) : Wait :=
  let ws := lineWords op.key op.size
  let copy (w : Nat) : Option (Half × Bool) := (FMap.find? k.l1 f.line).bind fun l =>
    (FMap.find? l.words w).map fun v => (v, l.poison.contains w)
  let word (w : Nat) : Half × Bool := match FMap.find? f.patched w with
    | some v => (copy w).getD (v, f.poison.contains w)
    | none => (State.fillWord bs w, f.poison.contains w)
  if f.stored.any fun q => overlap q.1 q.2 op.key op.size then .cover op
  else if ws.any fun w => (word w).2 then .trap 0x0B op.va
  else
    let v := ws.zipIdx.foldl (fun a w => a + (word w.1).1.toNat * 2 ^ (32 * w.2)) 0
    .done [.g op.d (op.result (v / 2 ^ (8 * (op.key % 4)) % 2 ^ (8 * op.size)))]

/-! ### Events -/

/-- STORE_PQ_ENTRY (R157): a store parked on a full PQ enters an entry once one has left; what went on the fetch path is then waited for
(R331, R334). Those of a SPAWN or SYNC run to their end while the VF is switched out (R240). -/
def execStorePqEntry (core slot : Nat) (s : State) : Host.Outcome State Fault Refusal :=
  let vk := s.waitVk core slot fun
    | .pqFull _ _ _ => true
    | _ => false
  .next (match (s.slotV core vk slot).cWait with
  | some (.pqFull (e :: es) ws sent) =>
    if s.pqIsFull core then s
    else
      let t := s.enterPq core e
      let sent := if State.remoteKey core e.key then sent ++ [(t.core core).seq.toNat] else sent
      t.updSlotV core vk slot fun x => { x with cWait := some (
        if !es.isEmpty then .pqFull es ws sent else if sent.isEmpty then .done ws else .landed sent) }
  | _ => s)

/-- SYS_PUBLISH (R166, R152): the home writes the line of a store that has reached it to the memory behind it; the flush
takes a reserved entry and a place in the filter. -/
def execSysPublish (core seq : Nat) (s : State) : Host.Outcome State Fault Refusal :=
  .next (match (s.core core).unpub.find? (·.seq = seq) with
  | none => s
  | some e => if s.flushRoom (e.slice.getD 0) then s.flushLine (e.slice.getD 0) (e.key / 128) else s)

/-- FORCE_REQUEST (R165 step 1): the home's request reaches the mark's core, which drains its entries up to the seq. -/
def execForceRequest (core slot idx : Nat) (s : State) : Host.Outcome State Fault Refusal :=
  let vk := s.waitVk core slot fun
    | .acquire _ _ _ _ => true
    | _ => false
  .next (match (s.slotV core vk slot).cWait with
  | some (.acquire fs sys ws keep) =>
    match fs[idx]? with
    | some f =>
      let t := s.drainUpTo f.mark.core f.mark.seq
      t.updSlotV core vk slot fun x => { x with cWait := some (.acquire (fs.set idx { f with asked := true }) sys ws keep) }
    | none => s
  | _ => s)

/-- FORCE_ACK (R165 steps 1, 2): a core acknowledges once its entries are home (and published where SYS asks); with the last
acknowledgement the acquirer's L view is self-invalidated. -/
def execForceAck (core slot idx : Nat) (s : State) : Host.Outcome State Fault Refusal :=
  let vk := s.waitVk core slot fun
    | .acquire _ _ _ _ => true
    | _ => false
  .next (match (s.slotV core vk slot).cWait with
  | some (.acquire fs sys ws keep) =>
    match fs[idx]? with
    | some f =>
      if !f.asked || !s.markForced f.mark sys then s
      else
        let fs := fs.set idx { f with acked := true }
        if fs.all (·.acked) then
          (s.updCore core (·.selfInvalidate)).updSlotV core vk slot fun x => { x with cWait := some (.done ws) }
        else s.updSlotV core vk slot fun x => { x with cWait := some (.acquire fs sys ws keep) }
    | none => s
  | _ => s)

/-- L1_FILL (R162): a sector returns, writes the words that are still eligible, and serves the loads that waited. Its request is
counted where one of them still waits (R251). -/
def execL1Fill (core fid : Nat) (s : State) : Host.Outcome State Fault Refusal :=
  .next (match FMap.find? (s.core core).fills fid with
  | none => s
  | some f => match f.data with
    | none => s
    | some bs =>
      let ws := s.fillWaiters core fid
      let others := s.elemWaiters core fid
      let s := if ws.isEmpty && others.isEmpty then s else s.countFill core fid f.vf f.slot f.tag
      let s := s.updCore core fun k =>
        let k := State.installFill (State.fillTaken k f bs (ws.map (·.2.2) ++ others)) f bs
        { k with
          fills := FMap.erase k.fills fid
          vfs := k.vfs.map fun v => (v.1, { v.2 with slots := v.2.slots.map fun x => (x.1, x.2.filled fid fun op => some (f.answer k bs op)) }) }
      ws.foldl (fun t w => t.answerLoad core w (f.answer (s.core core) bs w.2.2)) s)

/-- WAITWT_TIMEOUT (R169): the time-out runs out before the word differs: pd becomes 1 and nothing is acquired. -/
def execWaitwtTimeout (core slot : Nat) (s : State) : Host.Outcome State Fault Refusal :=
  .next (match (s.slot core slot).cWait with
  | some (.watch _ (some u) pd) =>
    if u ≤ (s.core core).cyc.toNat then s.updSlot core slot fun x => { x with cWait := some (.done [.p pd true]) } else s
  | _ => s)

end Sys2Proof.Machine
end

