-- ==== Sys2Proof/Machine/Tasks.lean ====
section
/-! DEFINITION. Tasks (R35-R51, R307, R331, R336, R340): trace records, the deque, dispatch, activation packets, SPAWN, SYNC,
TEND, EXIT, ASEND, and stealing. -/

namespace Sys2Proof.Machine

/-- The little-endian bytes of 64-bit words. -/
def wordBytes (ws : List Word) : List Byte := ws.flatMap fun w => leBytes 8 w.toNat

namespace State

/-- The key of a physical address of a partition: its HBM or its far memory (R140, R147). -/
def physKey (s : State) (pid pa : Nat) : Option Nat := match s.part pid with
  | none => none
  | some p =>
    let r := pa / 2 ^ 48 % 16
    if r = 0 then (if pa < p.channels * Config.channelBytes then some (p.hbmKey pa) else none)
    else if r = 1 ∧ s.farOk pid (pa / 2 ^ 44 % 16) (pa % 2 ^ 44) then some (farKey (pa / 2 ^ 44 % 16) (pa % 2 ^ 44))
    else none

/-! ### Trace records (R260) -/

/-- A trace record's bytes arrive at their home (R260): in its slice where that has their line, else in memory. -/
def traceStore (s : State) (vf key : Nat) (bs : List Byte) : State := match s.holder (key / 128) with
  | some h => s.storeThrough h key vf bs
  | none => s.memWrite key bs

/-- A core writes a trace record of a kind for a VF directly to home, in the ring of the VF's partition (R260). -/
def traceFor (s : State) (c vf kind : Nat) (gtid : BitVec 48) (stolen : Bool) (arg : Nat) (cyc : Nat) : State :=
  let pid := s.pidOf vf
  match s.part pid with
  | none => s
  | some p =>
    let size := p.trace1.toNat % 2 ^ 32
    if size = 0 || !p.trace0.getLsbD (kind - 1) then s
    else
      let w0 := BitVec.ofNat 64 (kind * 2 ^ 56) ||| gtid.zeroExtend 64
      let w2 := BitVec.ofNat 64 (c % 2 ^ 16 * 2 ^ 16 + vf * 2 ^ 7 + if stolen then 1 else 0)
      let s := match s.physKey pid (p.trace0.toNat % 2 ^ 52 / 2 ^ 12 * 2 ^ 12 + 32 * (p.traceHead % size)) with
        | some key => s.traceStore vf key (wordBytes [w0, BitVec.ofNat 64 cyc, w2, BitVec.ofNat 64 (arg % 2 ^ 32)])
        | none => s
      s.updPart pid fun p => { p with traceHead := p.traceHead + 1 }

/-- A trace record of the running VF. -/
def traceAt (s : State) (c kind : Nat) (gtid : BitVec 48) (stolen : Bool) (arg : Nat) (cyc : Nat) : State :=
  s.traceFor c (s.runVf c) kind gtid stolen arg cyc

/-- A trace record with the core's present cycle. -/
def trace (s : State) (c kind : Nat) (gtid : BitVec 48) (stolen : Bool) (arg : Nat) : State :=
  s.traceAt c kind gtid stolen arg (s.core c).cyc.toNat

/-! ### The deque (R40, R43, R44, R49) -/

end State

/-- The eight words of a task record (R40). -/
def TaskRec.words (r : TaskRec) : List Word :=
  [r.pc, r.fp, r.g4, r.g5, r.g6, r.fmtd, r.scale, r.gtid.zeroExtend 64 ||| (if r.stolen then 1 <<< 48 else 0)]

/-- A 64-bit word of some bytes. -/
def wordOf (bs : List Byte) (i : Nat) : Word := BitVec.ofNat 64 (leVal ((bs.drop (8 * i)).take 8))

/-- The task record 64 bytes hold (R40). -/
def TaskRec.ofBytes (bs : List Byte) : TaskRec :=
  { pc := wordOf bs 0, fp := wordOf bs 1, g4 := wordOf bs 2, g5 := wordOf bs 3, g6 := wordOf bs 4, fmtd := wordOf bs 5
    scale := wordOf bs 6, gtid := (wordOf bs 7).setWidth 48, stolen := (wordOf bs 7).getLsbD 48 }

namespace CoreVf

/-- SCAP and SOFF of %DQBASE (R43). -/
def scap (x : CoreVf) : Nat := x.dqbase.toNat / 2 ^ 18 % 2 ^ 12
/-- Ring start in own SP, in units of 64 B. -/
def soff (x : CoreVf) : Nat := x.dqbase.toNat / 2 ^ 6 % 2 ^ 12
/-- The deque holds a record, in hardware or in the ring. -/
def hasRecords (x : CoreVf) : Bool := !x.deque.isEmpty || x.ringCount ≠ 0
/-- The hardware deque and the ring are both full (R44). -/
def dequeFull (x : CoreVf) : Bool := Config.dequeSize ≤ x.deque.length && x.scap ≤ x.ringCount
/-- The deque holds a record of a population (R44). -/
def holdsFor (x : CoreVf) (p : Option Nat) : Bool := x.hasRecords && x.dqPop = p
/-- With no record left the deque belongs to no population (R44). -/
def released (x : CoreVf) : CoreVf := if x.hasRecords then x else { x with dqPop := none }

end CoreVf

namespace State

/-- The offset of ring place `i` of a core's deque in its own scratchpad (R43). -/
def ringOff (s : State) (c i : Nat) : Nat :=
  let x := s.cvf c
  64 * (x.soff + i % (if x.scap = 0 then 1 else x.scap))

/-- The key of a ring place. -/
def ringKey (s : State) (c i : Nat) : Nat := spKey (s.vk c) c (s.ringOff c i)

/-- The offset of a ring place that is about to be read or written, where its bank belongs to another VF (R242). -/
def ringMissing (s : State) (c i : Nat) : Option Nat :=
  if s.spOwned c (s.runVf c) (s.ringOff c i) then none else some (s.ringOff c i)

/-- The bank that a push needs: a full hardware deque moves its oldest record to the ring. -/
def pushBank (s : State) (c : Nat) : Option Nat :=
  let x := s.cvf c
  if Config.dequeSize ≤ x.deque.length then s.ringMissing c (x.ringHead + x.ringCount) else none

/-- The bank that taking the bottom record needs. -/
def bottomBank (s : State) (c : Nat) : Option Nat :=
  let x := s.cvf c
  if x.deque.isEmpty && x.ringCount ≠ 0 then s.ringMissing c (x.ringHead + x.ringCount - 1) else none

/-- The bank that taking the top record needs. -/
def topBank (s : State) (c : Nat) : Option Nat :=
  let x := s.cvf c
  if x.ringCount ≠ 0 then s.ringMissing c x.ringHead else none

/-- Push a record at the bottom; a full hardware deque moves its oldest record to the ring (R43). -/
def push (s : State) (c : Nat) (r : TaskRec) (p : Option Nat) : State :=
  let x := s.cvf c
  let s := s.updCvf c fun x => { x with dqPop := p }
  match x.deque with
  | o :: rest =>
    if Config.dequeSize ≤ x.deque.length then
      (s.engineWrite (s.ringKey c (x.ringHead + x.ringCount)) (wordBytes o.words)).updCvf c fun x =>
        { x with deque := rest ++ [r], ringCount := x.ringCount + 1 }
    else s.updCvf c fun x => { x with deque := x.deque ++ [r] }
  | [] => s.updCvf c fun x => { x with deque := [r] }

/-- Take the bottom (youngest) record (R46). -/
def popBottom (s : State) (c : Nat) : Option (TaskRec × State) :=
  let x := s.cvf c
  match x.deque.getLast? with
  | some r => some (r, s.updCvf c fun x => CoreVf.released { x with deque := x.deque.dropLast })
  | none =>
    if x.ringCount = 0 then none
    else some (TaskRec.ofBytes (s.mem.read (s.ringKey c (x.ringHead + x.ringCount - 1)) 64),
      s.updCvf c fun x => CoreVf.released { x with ringCount := x.ringCount - 1 })

/-- Take the top (oldest) record (R43, R48). -/
def popTop (s : State) (c : Nat) : Option (TaskRec × State) :=
  let x := s.cvf c
  if x.ringCount ≠ 0 then
    some (TaskRec.ofBytes (s.mem.read (s.ringKey c x.ringHead) 64), s.updCvf c fun x =>
      CoreVf.released { x with
        ringCount := x.ringCount - 1, ringHead := (x.ringHead + 1) % (if x.scap = 0 then 1 else x.scap) })
  else match x.deque with
    | r :: rest => some (r, s.updCvf c fun x => CoreVf.released { x with deque := rest })
    | [] => none

/-- The next GTID of a core (R51). -/
def newGtid (s : State) (c : Nat) : BitVec 48 × State :=
  (BitVec.ofNat 48 (c % 2 ^ 16 * 2 ^ 32 + (s.cvf c).taskSeq.toNat), s.updCvf c fun x => { x with taskSeq := x.taskSeq + 1 })

end State

/-! ### Starting a task in a slot -/

/-- The generator's state at activation (R34). -/
def seedOf (gtid : BitVec 48) : Vector (BitVec 32) 4 :=
  #v[gtid.setWidth 32, (gtid.extractLsb' 32 16).zeroExtend 32, 0x9E3779B9, 0x7F4A7C15]

/-- A slot with a task's pc, registers, formats and GTID and every other per-slot register at its activation value (R28, R34,
R35, R41). What belongs to the slot and not to the task (its population, claim, pending causes, turns) stays. -/
def Slot.begun (x : Slot) (pc : Word) (g : Vector Word 64) (fmtd scale : Word) (gtid : BitVec 48) : Slot :=
  { (({} : Slot)) with
    mode := .ready, pc := pc, nextPc := pc, g := g, fmtd := fmtd &&& 0x3FFFF, scale := scale &&& 0xFFFF, gtid := gtid
    rseed := seedOf gtid, pop := x.pop, fw := x.fw, lastIssue := x.lastIssue, readyAt := x.readyAt, stop := x.stop
    pendVpoison := x.pendVpoison, pendHang := x.pendHang, pendEngine := x.pendEngine, pendOvf := x.pendOvf
    pendTimer := x.pendTimer, claim := x.claim, raised := x.raised }

/-- The registers of a dispatched continuation (R41): `g2` keeps the slot's value. -/
def contRegs (g2 fp g4 g5 g6 : Word) : Vector Word 64 :=
  ((((Vector.replicate 64 (0 : Word)).set 2 g2).set 3 fp).set 4 g4).set 5 g5 |>.set 6 g6

namespace State

/-- Dispatch a record in a slot (R41). -/
def dispatchRec (s : State) (c n : Nat) (r : TaskRec) : State :=
  (s.updSlot c n fun x => x.begun r.pc (contRegs x.g[2] r.fp r.g4 r.g5 r.g6) r.fmtd r.scale r.gtid).trace c 4 r.gtid
    r.stolen 0

/-- Dispatch the continuation in a frame (R39, R41): its words are read at home. -/
def dispatchFrame (s : State) (c n : Nat) (pf : Word) (key : Nat) : State :=
  let w (i : Nat) : Word := BitVec.ofNat 64 (s.home (key + 8 * i) 8)
  let gtid := (w 7).setWidth 48
  (s.updSlot c n fun x => x.begun (w 2) (contRegs x.g[2] pf (w 3) (w 4) 0) (w 5) (w 6) gtid).trace c 4 gtid
    ((w 7).getLsbD 48) 0

/-- A slot waits for something, with what its C-word does afterwards. -/
def await (s : State) (c n : Nat) (w : Wait) (k : Option Cont) : State := s.updSlot c n fun x =>
  { x with mode := if x.mode = .halted then .halted else .parked, cWait := some w, cont := k }

/-- A C-word traps after its bundle's issue (R62): the A-word's registers are restored before trap entry. -/
def trapAt (s : State) (c n : Nat) (cause : Nat) (val : Word) : State :=
  ((s.updSlot c n undoSlot).takeTrap c n true cause val).updSlot c n fun x => { x with fate := .trap cause val }

/-- A C-word needs a walk after its bundle's issue: the bundle is undone and executed again (R235). -/
def walkAt (s : State) (c n : Nat) (k : Access) (va : Word) : State :=
  ((s.askWalk c va).updSlot c n undoSlot).updSlot c n fun x =>
    { x with mode := .parked, cWait := some (.walk va.toNat k), fate := .replay }

/-- Queued vector operations that a parked C-word held may go on. -/
def unhold (s : State) (c n : Nat) : State := s.updSlot c n fun x =>
  { x with claim := x.claim.map fun cl => { cl with queue := cl.queue.map fun o => { o with held := false } } }

/-- A slot's vector queue holds operations. -/
def vbusy (s : State) (c n : Nat) : Bool := match (s.slot c n).claim with
  | some cl => !cl.queue.isEmpty
  | none => false

/-- A C-word's next step touches a scratchpad bank, of a deque ring place or a frame, that belongs to another VF: the exchange is asked
for, and the C-word goes on after it (R242). -/
def awaitRing (s : State) (c n owner off : Nat) (k : Cont) : State :=
  (s.askBank 1 owner (off / 2048) (s.runVf c)).await c n (.ring owner off) (some k)

/-- PopOrSteal (R46), or EXIT's end (R307): the bottom record of the slot's population, or else IDLE-STEAL (FREE for EXIT and
for a slot without population), once the vector queue is empty (R217). Entering IDLE-STEAL disarms %TCMP (assumption 78). -/
def popOrSteal (s : State) (c n : Nat) (exit : Bool) : State :=
  let x := s.slot c n
  let quit (s : State) : State :=
    if s.vbusy c n then (s.unhold c n).await c n .vempty (some (if exit then .exit else .popOrSteal))
    else if exit || x.pop.isNone then s.freeSlot c n
    else (s.dropClaim c n).updSlot c n fun x => { x with
      mode := .idleSteal, cWait := none, cont := none, tcmp := 0
      steal := some { pos := 0, failed := 0, since := (s.core c).cyc.toNat, backoff := none, asked := none, answer := none } }
  if (s.cvf c).holdsFor x.pop then match s.bottomBank c with
  | some off => s.awaitRing c n c off (if exit then .exit else .popOrSteal)
  | none => match s.popBottom c with
    | some (r, t) => (((t.trace c 2 r.gtid r.stolen 0).dispatchRec c n r).updSlot c n fun x =>
        { x with cWait := none, cont := none })
    | none => quit s
  else quit s

/-- A word that ends the task acts after both words of its bundle: while the A-word's result is outstanding it waits for it (R62, R307,
R340). -/
def afterPartner (s : State) (c n : Nat) (v : Word) (k : Cont) (go : State → State) : State :=
  if (s.slot c n).aWait.isSome then (s.unhold c n).await c n (.partner v) (some k) else go s

/-- A task ends (R46, R260): an END record, its STOLEN bit 0 (assumption 57: a slot keeps no STOLEN bit), then PopOrSteal. EXIT discards
the causes 0x0E, 0x0F, 0x10 of the slot, disarms its timer and clears IN_TRAP (R307). -/
def endTask (s : State) (c n : Nat) (exit : Bool) : State := s.afterPartner c n 0 (.ended exit) fun s =>
  let s := if exit then s.updSlot c n fun x => { x with
    pendEngine := [], pendTimer := none, tcmp := 0, pendHang := none, tstat := x.tstat &&& ~~~1#64 } else s
  (s.trace c 5 (s.slot c n).gtid false 0).popOrSteal c n exit

/-! ### Frames (R39, R45-R47) -/

/-- Translate several words in turn, before any of them is accessed (R331): places, a trap, or a walk. -/
def resolveAll (s : State) (c : Nat) : List (Access × Word) → (Look × Word × Access × List Place) × State
  | [] => ((.at (.sp 0 0), 0, 0, []), s)
  | (k, va) :: r => match s.resolve c k va 8 false with
    | (.at p, t) => match t.resolveAll c r with
      | ((.at q, w, j, ps), u) => ((.at q, w, j, p :: ps), u)
      | x => x
    | (l, t) => ((l, va, k, []), t)

/-- A frame word's operation at a place (a peer window never passes translation here). -/
def frameOp (s : State) (c : Nat) (p : Place) (va : Word) : MemOp :=
  let op := baseOp va 8 0 false
  match p with
  | .sp o off => { op with key := spKey (s.vk c) o off }
  | .mem key cached home => { op with key := key, cached := cached, slice := some home }
  | .peer _ _ => op

/-- The own scratchpad bank of a place belongs to another VF (R242). -/
def bankMissing (s : State) (c : Nat) : Place → Option Nat
  | .sp o off => if o = c && !s.spOwned c (s.runVf c) off then some off else none
  | _ => none

/-- A store entry for a frame word. -/
def frameEntry (s : State) (c n : Nat) (op : MemOp) (v : Word) (i : Nat) : PqEntry :=
  { seq := 0, key := op.key + 8 * i, bytes := leBytes 8 v.toNat, mark := none, slot := n, pop := (s.slot c n).pop
    vf := s.runVf c, va := op.va + BitVec.ofNat 64 (8 * i), cached := op.cached, slice := op.slice }

/-- Store entries enter the PQ: at once where there is room for all, else one by one (R157); then the C-word goes on. Every
remote entry is waited for (R331, R334). -/
def storeAll (s : State) (c n : Nat) (es : List PqEntry) (k : Cont) (go : State → State) : State :=
  if es.isEmpty then go s
  else if Config.pqSize < (s.core c).pq.length + es.length then s.await c n (.pqFull es [] []) (some k)
  else
    let t := es.foldl (fun t e => t.enterPq c e) s
    let sent := (es.zipIdx.filter fun e => remoteKey c e.1.key).map fun e => (s.core c).seq.toNat + 1 + e.2
    if sent.isEmpty then go t else t.await c n (.landed sent) (some k)

/-- SPAWN's last step (R45): the record is pushed and the child runs in the slot. -/
def spawnEnd (s : State) (c n : Nat) (r : TaskRec) (pc fp : Word) : State := match s.pushBank c with
  | some off => s.awaitRing c n c off (.spawn r pc fp [])
  | none =>
    let s := (s.push c r (s.slot c n).pop).trace c 1 r.gtid false 0
    let g := s.newGtid c
    g.2.updSlot c n fun x => { x with
      gtid := g.1, g := x.g.set 3 fp, nextPc := pc, cWait := none, cont := none }

/-- An operation of a frame goes home from a slot, parked or not (R163). -/
def frameHome (s : State) (c n : Nat) (op : MemOp) (k : Cont) : State :=
  if (s.core c).covered op.key op.size then s.await c n (.cover op) (some k)
  else (s.await c n (.cover op) (some k)).sendMem c (s.vk c) n op

/-- TEND with the PARENT word (R46, R340). -/
def tendParent (s : State) (c n : Nat) (pf : Word) : State :=
  if pf = 0 then (s.updSlot c n fun x => { x with cWait := none, cont := none }).endTask c n false
  else match s.resolve c 2 pf 8 false with
  | (.trap q, t) => t.trapAt c n q pf
  | (.walk, t) => t.walkAt c n 2 pf
  | (.at p, t) =>
    let op := { t.frameOp c p pf with
      kind := .amo .tend, acq := true, rel := true, mark := t.releaseMark c false }
    t.frameHome c n op (.tendJoin pf op.key)

/-- TEND's last child dispatches the frame at a key (R46), whose bank is its VF's first (R242). -/
def enterFrame (s : State) (c n : Nat) (pf : Word) (key : Nat) : State :=
  if s.bankReady key (s.runVf c) then (s.trace c 5 (s.slot c n).gtid false 0).dispatchFrame c n pf key
  else s.awaitRing c n (spCore key) (key % Config.spBytes) (.frame pf key)

/-- SYNC's CAS goes home once its frame words have reached the frame (R47). -/
def syncCas (s : State) (c n : Nat) (op : MemOp) (w : Word) (es : List PqEntry) : State :=
  if es.any fun e => (s.core c).covered e.key 8 then
    s.await c n (.drain (s.core c).seq.toNat false false) (some (.syncStore op w es))
  else s.frameHome c n { op with
    kind := .amo .cas, cmp := w, arg := w ||| 0x8000000000000000, acq := false, rel := true
    mark := s.releaseMark c false } (.syncCas op w es)

/-- What a C-word does once what it waited for is there (R45-R47, R307); `v` is the value that came. -/
def runTask (s : State) (c n : Nat) (v : Word) : Cont → State
  | .spawn r pc fp es => s.storeAll c n es (.spawn r pc fp []) fun t => t.spawnEnd c n r pc fp
  | .tendParent => s.tendParent c n v
  | .tendJoin pf key => s.afterPartner c n v (.tendJoin pf key) fun s =>
    let s := s.updSlot c n fun x => { x with cWait := none, cont := none }
    if v = 0x8000000000000001 then s.enterFrame c n pf key else s.endTask c n false
  | .frame pf key => (s.updSlot c n fun x => { x with cWait := none, cont := none }).enterFrame c n pf key
  | .syncRead op es =>
    if v &&& 0x7FFFFFFFFFFFFFFF = 0 then s.updSlot c n fun x => { x with cWait := none, cont := none }
    else if v.getLsbD 63 then s.trapAt c n 0x13 3
    else s.storeAll c n es (.syncStore op v es) fun t => t.syncCas c n op v es
  | .syncStore op w es => s.syncCas c n op w es
  | .syncCas op w es =>
    if v = w then (s.updSlot c n fun x => { x with cWait := none, cont := none }).endTask c n false
    else s.frameHome c n { op with kind := .home, acq := true } (.syncRead op es)
  | .popOrSteal => (s.updSlot c n fun x => { x with cWait := none, cont := none }).popOrSteal c n false
  | .exit => (s.updSlot c n fun x => { x with cWait := none, cont := none }).popOrSteal c n true
  | .ended exit => (s.updSlot c n fun x => { x with cWait := none, cont := none }).endTask c n exit
  | _ => s

/-- The first misaligned address of some addresses and their alignments. -/
def misaligned : List (Word × Nat) → Option Word
  | [] => none
  | (v, n) :: r => if v.toNat % n ≠ 0 then some v else misaligned r

/-- Other slots of the core whose SPAWN is not yet pushed. -/
def spawning (s : State) (c n : Nat) : List Slot :=
  ((List.range 16).filter (· ≠ n)).filterMap fun i => match (s.slot c i).cont with
    | some (.spawn _ _ _ _) => some (s.slot c i)
    | _ => none

end State

/-! ### SPAWN, SYNC, TEND, EXIT -/

/-- SPAWN (R45, R331). While another SPAWN of the core is still on its way the deque's room and owner are not settled, and the
bundle is executed again. -/
def execSpawn (a b : BitVec 6) (s : State) : Host.Outcome State Fault Refusal :=
  let c := s.cur.core
  let n := s.cur.slot
  let g3 := s.rg 3
  let fp := s.rg b
  let pc := s.rg a
  let x := s.src.slot
  let v := s.cvf c
  let others := s.spawning c n
  .next (match State.misaligned [(fp, 64), (g3, 64), (pc, 4)] with
  | some va => s.raise 0x04 va
  | none =>
    if v.hasRecords && v.dqPop ≠ x.pop then s.raise 0x13 1
    else if v.dequeFull then s.raise 0x13 2
    else if others.any (·.pop ≠ x.pop) ∨ (others ≠ [] ∧
        Config.dequeSize + v.scap ≤ v.deque.length + v.ringCount + others.length) then s.replay .redo
    else match s.resolveAll c ((if g3 = 0 then [] else [(2, g3)]) ++ [(1, fp), (1, fp + 8)]) with
    | ((.trap q, va, _, _), t) => t.raise q va
    | ((.walk, va, k, _), t) => t.parkWalk c k va
    | ((.at _, _, _, ps), t) =>
      match ps.findSome? (t.bankMissing c) with
      | some off => t.parkBank c off
      | none =>
        let r : TaskRec := { pc := s.successor, fp := g3, g4 := s.rg 4, g5 := s.rg 5, g6 := s.rg 6, fmtd := x.fmtd
                             scale := x.scale, gtid := x.gtid, stolen := false }
        let child := t.frameOp c (ps.getD (if g3 = 0 then 0 else 1) (.peer 0 0)) fp
        let es := [t.frameEntry c n child 0 0, t.frameEntry c n child g3 1]
        if g3 = 0 then t.runTask c n 0 (.spawn r pc fp es)
        else t.frameHome c n { t.frameOp c (ps.getD 0 (.peer 0 0)) g3 with kind := .amo .add, arg := 1 }
          (.spawn r pc fp es))

/-- TEND (R46, R340). -/
def execTend (s : State) : Host.Outcome State Fault Refusal :=
  let c := s.cur.core
  let n := s.cur.slot
  let g3 := s.rg 3
  .next (if g3 = 0 then s.endTask c n false
  else if g3.toNat % 64 ≠ 0 then s.raise 0x04 g3
  else s.access 0 (g3 + 8) 8 false false fun p t =>
    let op := t.frameOp c p (g3 + 8)
    match t.loadLook c op with
    | .value v => (t.touch c op).tendParent c n (BitVec.ofNat 64 v)
    | .poison => t.raise 0x0B op.va
    | .cover => t.await c n (.cover op) (some .tendParent)
    | .fill => (t.await c n (.cover op) (some .tendParent)).sendFill c (t.vk c) n op
    | .request => (t.await c n (.cover op) (some .tendParent)).sendMem c (t.vk c) n op)

/-- SYNC (R47, R336). -/
def execSync (s : State) : Host.Outcome State Fault Refusal :=
  let c := s.cur.core
  let n := s.cur.slot
  let g3 := s.rg 3
  let x := s.src.slot
  .next (if g3 = 0 then s
  else if g3.toNat % 64 ≠ 0 then s.raise 0x04 g3
  else s.access 2 g3 8 false false fun p t =>
    let op := { t.frameOp c p g3 with kind := .home, acq := true }
    let es := ([s.successor, s.rg 4, s.rg 5, x.fmtd, x.scale, x.gtid.zeroExtend 64].zipIdx).map fun e =>
      t.frameEntry c n op e.1 (e.2 + 2)
    t.frameHome c n op (.syncRead op es))

/-- EXIT (R307). -/
def execExit (s : State) : Host.Outcome State Fault Refusal :=
  let c := s.cur.core
  let n := s.cur.slot
  .next (s.endTask c n true)

/-! ### Activation packets (R35-R38, R50, R292) -/

namespace State

/-- The lowest FREE slot of the running VF on a core. -/
def freeSlot? (s : State) (c : Nat) : Option Nat := (List.range 16).find? fun n => (s.slot c n).mode = .free

/-- A packet starts its task in a slot (R35): the L view is self-invalidated (R50, R173), and a launch packet invalidates the
instruction cache (R145). -/
def activate (s : State) (c n : Nat) (p : Packet) : State :=
  let pay := p.payload.zipIdx.foldl (fun (g : Vector Word 64) e => g.setIfInBounds (4 + e.2) e.1) (.replicate 64 0)
  let s := s.updCore c fun k => { k.selfInvalidate with l1i := if p.sender.isNone then [] else k.l1i }
  let s := s.updSlot c n fun x =>
    let y : Slot := ({ pop := p.pop, pendOvf := x.pendOvf } : Slot).begun p.pc ((pay.set 12 p.g12).set 13 p.g13) p.fmtd
      p.scale p.gtid
    { y with readyAt := (s.core c).cyc.toNat + 1, fw := p.pop.isNone && Config.cscBase ≤ c }
  ((s.trace c 4 p.gtid false 0).moved p.pop).flew p.pop

/-- A launch packet gets its index among those of its population at the core, its `g12` and its GTID (R37, R51). -/
def numbered (s : State) (c : Nat) (p : Packet) : Packet × State := match p.sender, p.pop with
  | none, some q => match FMap.find? s.pops q with
    | some x =>
      let k := FMap.getD x.seen c 0
      let i := x.cores.findIdx (· = c)
      ({ p with g12 := BitVec.ofNat 64 (x.quota * i + k), g13 := BitVec.ofNat 64 (x.quota * x.cores.length)
                gtid := (p.gtid.extractLsb' 32 16 ++ (p.gtid.setWidth 32 + BitVec.ofNat 32 k)) },
        { s with pops := FMap.insert s.pops q { x with seen := FMap.insert x.seen c (k + 1) } })
    | none => (p, s)
  | _, _ => (p, s)

/-- The members an ASEND has yet to serve (R26, R292). -/
def unserved (x : Slot) (ts : List Nat) : List Nat :=
  ts.filter fun t => !x.served.contains (x.pc, t)

/-- The packet of an ASEND of a slot enters the activation channel (R50, R51). -/
def inject (s : State) (c n t : Nat) (pc : Word) (payload : List Word) : State :=
  let g := s.newGtid c
  let x := s.slot c n
  let s := g.2
  let s : State := { s with chan := s.chan ++ [(t,
    { pc := pc, payload := payload, g12 := BitVec.ofNat 64 c, g13 := 0, fmtd := x.fmtd, scale := x.scale, gtid := g.1
      vf := s.runVf c, pop := x.pop, sender := some c })] }
  (s.updSlot c n fun x => { x with served := x.served ++ [(x.pc, t)] }).flew x.pop

/-- An ASEND injects to every target the channel admits, in order, once its PQ has drained up to `seq` (R50, R292): what is
left to serve. -/
def injectAll (s : State) (c n : Nat) (pc : Word) (payload : List Word) : List Nat → State × List Nat
  | [] => (s, [])
  | t :: r => if s.chanFull.contains t then (s, t :: r) else (s.inject c n t pc payload).injectAll c n pc payload r

/-- The targets of an ASEND whose drain is over: the one it names, or the group's members at that moment (R26, R292). -/
def asendTargets (s : State) (c : Nat) (ts : List Nat) : Option Nat → List Nat
  | none => ts
  | some g => (s.group (s.runPid c) g).getD []

/-- ASEND to a core or a group (R50, R292): a DEV release, then one packet to each. -/
def sendAll (s : State) (pc : Word) (payload : List Word) (ts : List Nat) (g : Option Nat) : State :=
  let c := s.cur.core
  let n := s.cur.slot
  let seq := s.here.seq.toNat
  if s.forced c seq false then
    let r := s.injectAll c n pc payload (unserved s.me (s.asendTargets c ts g))
    if r.2.isEmpty then r.1 else r.1.parkC (.asend seq pc payload r.2 none)
  else s.parkC (.asend seq pc payload ts g)

/-- The payload registers `gs` … `gs+n-1`. -/
def payload (s : State) (y : BitVec 6) (n : Nat) : List Word := (List.range n).map fun i => s.rgn (y.toNat + i)

end State

/-- ASEND (R50, R292): to one core. -/
def execAsend (y a b : BitVec 6) (n : BitVec 4) (s : State) : Host.Outcome State Fault Refusal :=
  let t := s.rg b
  let pc := s.rg a
  .next (if 2 ^ 16 ≤ t.toNat then s.illegal
  else if pc.toNat % 4 ≠ 0 then s.raise 0x04 pc
  else if !s.coreIn (s.runPid s.cur.core) t.toNat then s.raise 0x05 t
  else s.sendAll pc (s.payload y n.toNat) [t.toNat] none)

/-- ASEND.G (R50, R292): to each member of a group, in ascending logical number. -/
def execAsendG (y a b : BitVec 6) (n : BitVec 4) (s : State) : Host.Outcome State Fault Refusal :=
  let t := s.rg b
  let pc := s.rg a
  .next (if 2 ^ 8 ≤ t.toNat then s.illegal
  else if pc.toNat % 4 ≠ 0 then s.raise 0x04 pc
  else match s.group (s.runPid s.cur.core) t.toNat with
    | some (_ :: _) => s.sendAll pc (s.payload y n.toNat) [] (some t.toNat)
    | _ => s.raise 0x14 t)

/-- ASEND_INJECT (R292): once the sender's PQ has drained, a parked ASEND injects to the next target that admits a packet. A group
that has turned invalid or empty by then starts nothing: trap 0x14 (R26). -/
def execAsendInject (core slot : Nat) (s : State) : Host.Outcome State Fault Refusal :=
  .next (match (s.slot core slot).cWait with
  | some (.asend seq pc payload ts g) =>
    if !s.forced core seq false then s
    else
      let wait (s : State) (w : Wait) : State := s.updSlot core slot fun x => { x with cWait := some w }
      let all := s.asendTargets core ts g
      match State.unserved (s.slot core slot) all with
      | [] => wait s (if all.isEmpty ∧ g.isSome then .trap 0x14 (BitVec.ofNat 64 (g.getD 0)) else .done [])
      | t :: r =>
        if s.chanFull.contains t then wait s (.asend seq pc payload (t :: r) none)
        else wait (s.inject core slot t pc payload) (if r.isEmpty then .done [] else .asend seq pc payload r none)
  | _ => s)

/-- ACTIVATION_PACKET (R35, R36, R239): the idx-th packet on its way to a core arrives, unless an older one of the same sender
is still on its way: it starts in the lowest FREE slot, waits in the buffer, or is kept for a VF that does not run. With the
buffer full it stays in the channel. -/
def execActivationPacket (core idx : Nat) (s : State) : Host.Outcome State Fault Refusal :=
  let mine := s.chan.filter (·.1 = core)
  .next (match mine[idx]? with
  | none => s
  | some q =>
    if (mine.take idx).any fun o => o.2.sender = q.2.sender && o.2.pop = q.2.pop then s
    else
      let k := s.core core
      let gone : State := { s with chan := s.chan.erase q }
      let r := gone.numbered core q.2
      if k.vf ≠ some q.2.vf ∨ k.switchTo.isSome then
        let vk := q.2.vf + 1
        (r.2.updCore core fun k =>
          let x : CoreVf := FMap.getD k.vfs vk {}
          { k with vfs := FMap.insert k.vfs vk { x with kept := x.kept ++ [r.1] } }).flew q.2.pop
      else match s.freeSlot? core with
      | some n =>
        if k.buf.isEmpty then r.2.activate core n r.1
        else if k.buf.length < Config.actBuf then (r.2.updCore core fun k => { k with buf := k.buf ++ [r.1] }).flew q.2.pop
        else s
      | none =>
        if k.buf.length < Config.actBuf then (r.2.updCore core fun k => { k with buf := k.buf ++ [r.1] }).flew q.2.pop
        else s)

/-- ACTIVATION_BUFFER_DISPATCH (R36, R239): the oldest packet of the buffer starts in a FREE slot, and the oldest of those kept
while the VF did not run enters the buffer. -/
def execActivationBufferDispatch (core : Nat) (s : State) : Host.Outcome State Fault Refusal :=
  .next (match (s.core core).buf, s.freeSlot? core with
  | p :: r, some n =>
    if (s.core core).vf = some p.vf ∧ (s.core core).switchTo.isNone then
      (s.updCore core fun k =>
        let x := k.cvf
        { k.setCvf { x with kept := x.kept.drop 1 } with buf := r ++ x.kept.take 1 }).activate core n p
    else s
  | _, _ => s)

/-- TIMER_EXPIRY (R30): the trap becomes pending; %TCMP becomes 0 when it is taken. -/
def execTimerExpiry (core slot : Nat) (s : State) : Host.Outcome State Fault Refusal :=
  let now := (s.core core).cyc.toNat
  .next (if (s.slot core slot).timerDue now then s.updSlot core slot (·.timer now) else s)

/-! ### Stealing (R48, R49) -/

namespace State

/-- Manhattan distance of two cores in physical coordinates (R48). -/
def distance (s : State) (a b : Nat) : Nat :=
  let p := s.physOf a
  let q := s.physOf b
  let d (x y : Nat) : Nat := (x - y) + (y - x)
  d (p % 32) (q % 32) + d (p / 32) (q / 32)

/-- Insert a core into the search order: nearer first, then lower number. -/
def byDistance (s : State) (c v : Nat) : List Nat → List Nat
  | [] => [v]
  | w :: r => if s.distance c v < s.distance c w ∨ (s.distance c v = s.distance c w ∧ v ≤ w) then v :: w :: r
    else w :: s.byDistance c v r

/-- The search order of a thief: the other cores of its population's set by distance (R48). -/
def victims (s : State) (c : Nat) (p : Option Nat) : List Nat := match p.bind (FMap.find? s.pops ·) with
  | some x => (x.cores.filter (· ≠ c)).foldr (fun v l => s.byDistance c v l) []
  | none => []

/-- A slot's search, while it is in IDLE-STEAL. -/
def stealOf (s : State) (c n : Nat) : Option Steal :=
  if (s.slot c n).mode = .idleSteal then (s.slot c n).steal else none

/-- Change a slot's search. -/
def setSteal (s : State) (c n : Nat) (x : Steal) : State := s.updSlot c n fun y => { y with steal := some x }

end State

/-- STEAL_REQUEST (R48): ask the next victim of the search order; with none left the slot waits 1,024 cycles. -/
def execStealRequest (core slot : Nat) (s : State) : Host.Outcome State Fault Refusal :=
  .next (match s.stealOf core slot with
  | some st =>
    if st.asked.isSome ∨ st.backoff.isSome then s
    else match (s.victims core (s.slot core slot).pop)[st.pos]? with
    | some v => s.setSteal core slot { st with asked := some v, answer := none }
    | none => s.setSteal core slot { st with backoff := some ((s.core core).cyc.toNat + Config.stealBackoff) }
  | none => s)

/-- STEAL_REPLY (R48): a record is dispatched with STOLEN set after the thief's L view is self-invalidated; a FAIL moves the
search to the next victim, and after a full pass to the back-off. -/
def execStealReply (core slot : Nat) (s : State) : Host.Outcome State Fault Refusal :=
  .next (match s.stealOf core slot with
  | some st => match st.answer with
    | some (some r) =>
      let pop := (s.slot core slot).pop
      let s := ((s.updCore core (·.selfInvalidate)).updSlot core slot fun x => { x with steal := none })
      let s := (s.traceAt core 6 r.gtid true st.failed st.since).dispatchRec core slot { r with stolen := true }
      (((s.updSlot core slot fun x => { x with readyAt := (s.core core).cyc.toNat + 1 }).count core 0x40 slot 1)).moved pop
    | some none =>
      let pos := st.pos + 1
      let last : Bool := (s.victims core (s.slot core slot).pop).length ≤ pos
      (s.setSteal core slot { st with
        pos := pos, failed := st.failed + 1, asked := none, answer := none
        backoff := if last then some ((s.core core).cyc.toNat + Config.stealBackoff) else none }).count core 0x41 slot 1
    | none => s
  | none => s)

/-- STEAL_BACKOFF_EXPIRY (R48): a new pass starts at distance 1. -/
def execStealBackoffExpiry (core slot : Nat) (s : State) : Host.Outcome State Fault Refusal :=
  .next (match s.stealOf core slot with
  | some st => match st.backoff with
    | some t => if t ≤ (s.core core).cyc.toNat then s.setSteal core slot { st with pos := 0, backoff := none } else s
    | none => s
  | none => s)

end Sys2Proof.Machine
end

