-- ==== Sys2Proof/Machine/Populations.lean ====
section
/-! DEFINITION. A victim's answer to a thief (R48, R49), migration (R52, R53), and the judgement of populations: complete, hung,
reported (R55, R56, R174). -/

namespace Sys2Proof.Machine

/-- STEAL_ANSWER (R48, R49): the victim asked drains its PQ and then gives its top record where its deque belongs to the
thief's population, and FAIL otherwise. A record in a ring place whose bank another VF holds waits for the bank (R242). -/
def execStealAnswer (core slot : Nat) (s : State) : Host.Outcome State Fault Refusal :=
  .next (match s.stealOf core slot with
  | some st => match st.asked, st.answer with
    | some v, none =>
      let pop := (s.slot core slot).pop
      let fail := s.setSteal core slot { st with answer := some none }
      if (s.core v).vf ≠ (s.core core).vf ∨ !(s.cvf v).holdsFor pop then fail
      else
        let t := s.drainUpTo v (s.core v).seq.toNat
        if !t.forced v (t.core v).seq.toNat false then t
        else match t.topBank v with
          | some off => t.askBank 1 v (off / 2048) (t.runVf v)
          | none => match t.popTop v with
            | some (r, u) => (u.trace v 3 r.gtid r.stolen core).setSteal core slot { st with answer := some (some r) }
            | none => fail
    | _, _ => s
  | none => s)

/-! ### Migration (R52, R53) -/

/-- A register image with the registers that %LIVE does not name at 0 (R53). -/
def liveRegs (g : Vector Word 64) (live : Word) : Vector Word 64 := Vector.ofFn fun i => if live.getLsbD i then g[i] else 0

namespace State

/-- The migration of a slot that is under way. -/
def migOf (s : State) (c n : Nat) : Option Mig := s.migs.find? fun m => m.core = c && m.slot = n

/-- The owner answers a migration packet. -/
def replyMig (s : State) (m : Mig) (ok : Bool) : State :=
  { s with migs := s.migs.map fun q => if q = m then { m with reply := some ok } else q }

/-- A migration packet at its departure (R52): the origin slot as it then stands, with its pending causes, its stop (R259) and the
cycles left to %TCMP. -/
def departing (s : State) (m : Mig) : Mig :=
  let x := s.slotV m.core (m.vf + 1) m.slot
  { m with image := x, tleft := if x.tcmp = 0 then none else some (x.tcmp.toNat - (s.core m.core).cyc.toNat) }

/-- The slot as the owner loads it (R35, R52): the task's state carried, its clock turned to the owner's, its pending causes but
0x12. -/
def landed (s : State) (m : Mig) (old : Slot) : Slot :=
  let now := (s.core m.owner).cyc.toNat
  let x := m.image
  { x with
    mode := .ready, g := liveRegs x.g x.live, readyAt := now + 1, lastIssue := none, pendOvf := old.pendOvf
    cWait := none, aWait := none, cont := none, prior := none, tabs := none, dtld := none, owed := none, claim := none, steal := none, fate := .ok, arrived := [], noMig := none
    tcmp := match m.tleft with
      | some t => if t = 0 then 0 else BitVec.ofNat 64 (now + t)
      | none => 0
    pendTimer := match m.tleft with
      | some 0 => some (x.pendTimer.getD x.tcmp)
      | _ => x.pendTimer }

end State

/-- MIGRATION_ARRIVAL (R52): once the origin's stores are home the packet departs, with an END record of the migrating VF (R260), and is
at the owner, which accepts it into its lowest FREE slot when it runs the VF, and refuses it otherwise. -/
def execMigrationArrival (core slot : Nat) (s : State) : Host.Outcome State Fault Refusal :=
  .next (match s.migOf core slot with
  | none => s
  | some m =>
    if m.reply.isSome then s
    else
      let s := s.drainUpTo core m.seq
      if !s.forced core m.seq false then s
      else
        let p := s.departing m
        let s := s.traceFor core m.vf 5 p.image.gtid false 0 (s.core core).cyc.toNat
        match (if (s.core m.owner).vf = some m.vf ∧ (s.core m.owner).switchTo.isNone then s.freeSlot? m.owner else none) with
        | none => s.replyMig m false
        | some n =>
          let s := (s.updCore m.owner (·.selfInvalidate)).updSlot m.owner n fun old => s.landed p old
          (((s.trace m.owner 4 p.image.gtid false 0).replyMig m true).moved p.image.pop).flew p.image.pop)

/-- MIGRATION_ACK (R52): the origin slot becomes FREE. -/
def execMigrationAck (core slot : Nat) (s : State) : Host.Outcome State Fault Refusal :=
  .next (match s.migOf core slot with
  | some m =>
    if m.reply = some true then
      { s with migs := s.migs.erase m }.updSlotV core (m.vf + 1) slot (·.freed)
    else s
  | none => s)

/-- MIGRATION_REFUSAL (R52): the origin slot executes the bundle again, its access as a remote fetch. -/
def execMigrationRefusal (core slot : Nat) (s : State) : Host.Outcome State Fault Refusal :=
  .next (match s.migOf core slot with
  | some m =>
    if m.reply = some false then
      (({ s with migs := s.migs.erase m } : State).updSlotV core (m.vf + 1) slot fun x =>
        { State.undoSlot x with noMig := some x.pc, readyAt := (s.core core).cyc.toNat + 1 }).flew m.image.pop
    else s
  | none => s)

/-! ### Populations (R55, R56, R174) -/

namespace State

/-- Every slot of a population, over all cores and VFs: core, VF key, slot number, slot. -/
def popSlots (s : State) (p : Nat) : List (Nat × Nat × Nat × Slot) := s.cores.flatMap fun c => c.2.vfs.flatMap fun v =>
  (v.2.slots.filter fun x => x.2.pop = some p && x.2.mode ≠ .free).map fun x => (c.1, v.1, x.1, x.2)

/-- A thief has been given a record and has not yet dispatched it (R48). -/
def stolen (x : Slot) : Bool := match x.steal with
  | some t => match t.answer with
    | some (some _) => true
    | _ => false
  | none => false

/-- A slot that keeps its population from being judged (R27, R48, R234, R257): SAVED, HALTED, blocked by a page fault, or about to
dispatch a stolen record. -/
def unjudged (s : State) (e : Nat × Nat × Nat × Slot) : Bool :=
  e.2.1 ≠ s.vk e.1 || e.2.2.2.mode = .halted || e.2.2.2.cWait = some .fault || stolen e.2.2.2

/-- No deque holds a record of a population (R56). -/
def noRecords (s : State) (p : Nat) : Bool := s.cores.all fun c => c.2.vfs.all fun v => !v.2.holdsFor (some p)

/-- The arrived mark of a barrier wait that is abandoned (R298). -/
def markBar (x : Slot) : Slot := match x.cWait with
  | some (.bar cid _ (some t)) => { x with arrived := x.arrived ++ [{ cid := cid, pc := x.pc, tok := t, released := false, again := true }] }
  | _ => x

/-- The request a slot waits for. -/
def requestOf (x : Slot) : Option Nat := match x.cWait with
  | some (.request rid) => some rid
  | _ => none

/-- A slot leaves its wait before its bundle, which is then issued anew (R56, R201, R240): its place in every list is gone, and so is
its request, whose reply would be discarded. -/
def abandon (s : State) (c n : Nat) : State :=
  let s := match requestOf (s.slot c n) with
    | some rid => s.endReq rid
    | none => s
  (s.forget c n).updSlot c n fun x => { undoSlot (markBar x) with tabs := none, dtld := none }

/-- A waiting slot takes the hang trap where it asks for it; in a handler the trap stays pending (R56). -/
def hangSlot (s : State) (c n : Nat) : State :=
  let x := s.slot c n
  match s.waitCode c x with
  | some code =>
    if x.tstat.getLsbD 3 then
      let s := s.updSlot c n fun x => { x with pendHang := some (BitVec.ofNat 64 code) }
      if x.inTrap then s else s.abandon c n
    else s
  | none => s

end State

/-- POPULATION_COMPLETE (R56, R198): every slot FREE or searching, no record, and nothing in flight for 65,536 cycles: its slots
become FREE and its messages are discarded. -/
def execPopulationComplete (pop : Nat) (s : State) : Host.Outcome State Fault Refusal :=
  .next (match FMap.find? s.pops pop with
  | none => s
  | some p =>
    let xs := s.popSlots pop
    if p.status = .running ∧ Config.window ≤ p.quiet ∧ s.noRecords pop ∧
       xs.all fun e => !s.unjudged e && e.2.2.2.mode = .idleSteal then
      let s := xs.foldl (fun t e => t.freeSlot e.1 e.2.2.1) s
      { s with
        cores := s.cores.map fun c => (c.1, { c.2 with inbox := c.2.inbox.filter (·.pop ≠ some pop) })
        pops := FMap.insert s.pops pop { p with status := .complete } }
    else s)

/-- POPULATION_HUNG (R56): a slot waits and nothing has moved for 65,536 cycles: the host is told, and waiting slots with
HANGTRAP take trap 0x10. -/
def execPopulationHung (pop : Nat) (s : State) : Host.Outcome State Fault Refusal :=
  .next (match FMap.find? s.pops pop with
  | none => s
  | some p =>
    let xs := s.popSlots pop
    if p.status = .running ∧ Config.window ≤ p.still ∧ (xs.any fun e => (s.waitCode e.1 e.2.2.2).isSome) ∧
       xs.all fun e => !s.unjudged e then
      let s := ({ s with pops := FMap.insert s.pops pop { p with hung := true, still := 0 } } : State).report (.hung pop)
      xs.foldl (fun t e => t.hangSlot e.1 e.2.2.1) s
    else s)

/-- COMPLETION_REPORT (R174): a complete population is reported once its jobs have completed, its stores are published at SYS,
and its remote operations and Ubham sends are acknowledged. -/
def execCompletionReport (pop : Nat) (s : State) : Host.Outcome State Fault Refusal :=
  .next (match FMap.find? s.pops pop with
  | none => s
  | some p =>
    if p.status = .complete ∧
       (s.clusters.all fun k => (k.2.queue ++ k.2.running).all fun j => j.pop ≠ some pop) ∧
       (s.cores.all fun c => (c.2.pq ++ c.2.unpub).all fun e => e.pop ≠ some pop) ∧
       (s.peerOps.all fun o => o.2.pop ≠ some pop) then
      { s with pops := FMap.insert s.pops pop { p with status := .reported } }
    else s)

end Sys2Proof.Machine
end

