-- ==== Sys2Proof/Machine/Engines.lean ====
section
/-! DEFINITION. Engine access to memory, the cluster job queue (R196-R201), the inbox (R199, R327), the copy unit (R202-R205,
R299), and loading of decode tables (R89-R91, R306). -/

namespace Sys2Proof.Machine

/-! ### Engine access (R143, R172, R201) -/

/-- Which spaces an engine may reach (R143): MX operands, CPY, CPY in peer mode. -/
inductive Spaces where
  | mx | cpy | peer
  deriving DecidableEq, Repr

/-- What an engine's look-up of an address gives: a place, a fault REASON, or a wait for a walk or a bank. -/
inductive EngLook where
  | at (p : Place) (s : State)
  | fault (reason : Nat)
  | wait (walk : Bool) (s : State)
  deriving DecidableEq, Repr

namespace State

/-- Ask a cluster's CSC for a walk for a VF (R232). -/
def askWalkFor (s : State) (cl vf : Nat) (va : Word) : State :=
  s.updCluster cl (·.addWalk { vpn := va.toNat % 2 ^ 57 / 2 ^ 16, vf := vf, pid := s.pidOf vf })

/-- An engine's look-up of an address of a job (R140, R141, R143, R201): the cluster TLB, walks, and banks of scratchpads. -/
def engLook (s : State) (cl : Nat) (j : Job) (sp : Spaces) (k : Access) (va : Word) : EngLook :=
  if !canonical va then .fault 2
  else if inAperture va then
    if sp = .mx then .fault 2
    else
      let own : Bool := va.toNat < Config.spAlias + Config.spBytes
      let n := if own then j.core else (va.toNat - Config.spWindow) / Config.spBytes
      let off := (if own then va.toNat - Config.spAlias else va.toNat - Config.spWindow) % Config.spBytes
      if !own && (va.toNat < Config.spWindow || !s.coreIn (s.pidOf j.vf) n) then .fault 2
      else if s.spOwned n j.vf off then .at (.sp n off) s
      else .wait false (s.askBank 1 n (off / 2048) j.vf)
  else match (s.cluster cl).tlbGet j.vf va with
    | none => .wait true (s.askWalkFor cl j.vf va)
    | some e =>
      if !e.allows k then .wait true (s.askWalkFor cl j.vf va)
      else match s.physical j.vf (e.pa va) e.f e.c (sp = .peer) with
        | .at p => .at p (s.updCluster cl (·.tlbUse e))
        | _ => .fault 2

/-- The key of a place in the VF's contents. -/
def placeKey (vf : Nat) : Place → Nat
  | .sp o off => spKey (vf + 1) o off
  | .mem key _ _ => key
  | .peer _ _ => 0

end State

/-- Cut n bytes at an address into pieces that lie within 8-byte words: addresses and lengths. -/
def wordPieces (va : Word) : Nat → Nat → List (Word × Nat)
  | 0, _ => []
  | fuel + 1, n =>
    if n = 0 then []
    else
      let m := Nat.min n (8 - va.toNat % 8)
      (va, m) :: wordPieces (va + BitVec.ofNat 64 m) fuel (n - m)

/-- What an engine read gives. -/
inductive EngRead where
  | bytes (bs : List Byte) (s : State)
  | fault (reason : Nat) (va : Word)
  | wait (walk : Option Word) (s : State)
  deriving DecidableEq, Repr

namespace State

/-- Free bytes: what a peer returns (R149). -/
def drawBytes (s : State) (n : Nat) : List Byte × State := (leBytes n s.draw.1.toNat, s.draw.2)

/-- A cached read of an engine goes through its home slice, where it takes a line as every read does (R151, R152, R206; assumption
53). -/
def engTake (s : State) (vf n : Nat) : Place → State
  | .mem key true home => s.readThrough home key n vf
  | _ => s

/-- An engine's read finds a request for its line at the input of the home slice, and waits behind it (R152). -/
def behindStalled (s : State) (n : Nat) : Place → Bool
  | .mem key true home => s.stalledOn (home / 256) key n
  | _ => false

/-- An engine reads pieces at home at this moment (R172); poison stops it (R155). -/
def engReadPieces (s : State) (cl : Nat) (j : Job) (sp : Spaces) : List (Word × Nat) → EngRead
  | [] => .bytes [] s
  | (va, n) :: r => match s.engLook cl j sp 0 va with
    | .fault q => .fault q va
    | .wait w t => .wait (if w then some va else none) t
    | .at (.peer _ _) t => match (t.drawBytes n).2.engReadPieces cl j sp r with
      | .bytes bs u => .bytes ((t.drawBytes n).1 ++ bs) u
      | x => x
    | .at p t =>
      if t.behindStalled n p then .wait none t
      else
      let key := placeKey j.vf p
      let t := t.engTake j.vf n p
      if t.poisoned key n then .fault 3 va
      else match t.engReadPieces cl j sp r with
        | .bytes bs u => .bytes (t.mem.read key n ++ bs) u
        | x => x

/-- An engine reads n bytes. -/
def engRead (s : State) (cl : Nat) (j : Job) (sp : Spaces) (va : Word) (n : Nat) : EngRead :=
  s.engReadPieces cl j sp (wordPieces va (n / 8 + 2) n)

/-- Engine bytes arrive at their home as an ordinary store (R160, R172). A line that its slice holds takes them there, and a sector
they complete serves its readers (R153); an absent one is allocated where `alloc` says so, and otherwise the memory behind takes
them (R202). None while the slice makes it wait. -/
def engStore (s : State) (j : Job) (alloc : Bool) (p : Place) (bs : List Byte) : Option State := match p with
  | .sp _ _ => some (s.storeHome (placeKey j.vf p) bs)
  | .peer w off => some (s.report (.peerWrite w (s.window w).pvf ((s.window w).addr off) bs))
  | .mem key cached home =>
    let held := ((s.slice (home / 256)).line? (home % 256) (key / 128)).isSome
    if cached && (held || alloc) then
      let a := s.l2 home key bs.length j.vf false true
      if s.stalledOn (home / 256) key bs.length || a.1.res ≠ .served then none
      else
        let t := (a.2.storeHome key bs).serveWaiters (home / 256) (key / 128)
        some (if 2 ^ 48 ≤ key then t.publishLine (key / 128) else t)
    else
      let t := s.storeHome key bs
      some { t with behind := t.behind.write key bs }

/-- An engine writes pieces, as far as it gets: the bytes left, how it stopped, the state. -/
def engWritePieces (s : State) (cl : Nat) (j : Job) (sp : Spaces) (alloc : Bool) :
    List (Word × Nat) → List Byte → List Byte × Option (Option Nat × Option Word × Word) × State
  | [], bs => (bs, none, s)
  | (va, n) :: r, bs => match s.engLook cl j sp 1 va with
    | .fault q => (bs, some (some q, none, va), s)
    | .wait w t => (bs, some (none, if w then some va else none, va), t)
    | .at p t => match t.engStore j alloc p (bs.take n) with
      | some u => u.engWritePieces cl j sp alloc r (bs.drop n)
      | none => (bs, some (none, none, va), t)

/-! ### Jobs of a cluster -/

/-- The running job of a cluster with an id. -/
def jobAt (s : State) (cl id : Nat) : Option Job := (s.cluster cl).running.find? (·.id.toNat = id)
/-- Replace a running job. -/
def setJob (s : State) (cl : Nat) (j : Job) : State :=
  s.updCluster cl fun k => { k with running := k.running.map fun x => if x.id = j.id then j else x }
/-- A job no longer needs what was prefetched for it (R206). -/
def unprefetch (s : State) (cl : Nat) (id : BitVec 16) : State := match (s.cluster cl).prefetched with
  | some f => if f.1 = id then s.dropPrefetch cl else s
  | none => s
/-- A job stops with a fault (R201). -/
def failJob (s : State) (cl : Nat) (j : Job) (reason : Nat) (place : Word) : State :=
  (s.unprefetch cl j.id).setJob cl { j with status := .faulted reason place, buf := [] }
/-- A job has written everything. -/
def endJob (s : State) (cl : Nat) (j : Job) : State := s.setJob cl { j with status := .finished, buf := [] }

/-- A job that reads: it goes on with the bytes, faults, or waits. -/
def withRead (cl : Nat) (j : Job) (r : EngRead) (go : List Byte → State → State) (s : State) : State := match r with
  | .bytes bs t => go bs t
  | .fault q va => s.failJob cl j q va
  | .wait w t => t.setJob cl { j with walking := w.map fun va => (va, 0) }

end State

/-! ### Submission (R196, R197, R299, R321) -/

/-- Four outputs of a generator, which become the state of a job's own, and the state left (R100). The first output is s0 and the
fourth s3 (assumption 58: R100 does not say which becomes which). -/
def drawFour (v : Vector (BitVec 32) 4) : Vector (BitVec 32) 4 × Vector (BitVec 32) 4 :=
  let a := xoshiro v
  let b := xoshiro a.2
  let c := xoshiro b.2
  let d := xoshiro c.2
  (#v[a.1, b.1, c.1, d.1], d.2)

namespace State

/-- Jobs of a core from submission until their completion is taken or discarded (R196). -/
def outstanding (s : State) (c : Nat) : Nat :=
  let k := s.cluster (s.clusterOf c)
  ((k.queue ++ k.running).filter (·.core = c)).length + (s.core c).inbox.length

/-- The queue and a core's budget admit a job (R196). -/
def admits (s : State) (c : Nat) : Bool :=
  (s.cluster (s.clusterOf c)).queue.length < Config.jobs && s.outstanding c < Config.jobs

/-- The next job id of a cluster: 16 bits, skipping 0 (R196). -/
def newJob (s : State) (cl : Nat) (j : Job) : BitVec 16 × State :=
  let id := (s.cluster cl).nextJob
  (id, s.updCluster cl fun k => { k with
    nextJob := if id + 1 = 0 then 1 else id + 1, queue := k.queue ++ [{ j with id := id }] })

/-- Parked submissions of a cluster: core, VF key, slot, what it waits for. -/
def submissions (s : State) (cl : Nat) : List (Nat × Nat × Nat × Bool × Nat × Job) :=
  s.cores.flatMap fun c =>
    if s.clusterOf c.1 ≠ cl then []
    else (FMap.getD c.2.vfs c.2.vkey {}).slots.filterMap fun x => match x.2.cWait with
      | some (.submit seq sys d j) => some (c.1, x.1, seq, sys, d, j)
      | _ => none

/-- The parked submission whose drain has finished and that the queue admits, oldest issue first (R196). -/
def nextSubmission (s : State) (cl : Nat) : Option (Nat × Nat × Nat × Job) :=
  (s.submissions cl).foldl (fun b e => match e with
    | (c, n, seq, sys, d, j) =>
      if !s.forced c seq sys then b
      else match b with
        | none => some (c, n, d, j)
        | some x => if j.age < x.2.2.2.age then some (c, n, d, j) else some x) none

/-- The oldest parked submission whose drain has finished enters the queue, where the queue and its core's budget admit it, and its
slot gets the id (R196). -/
def admitNext (s : State) (cl : Nat) : Option State := match s.nextSubmission cl with
  | some (c, n, d, j) =>
    if s.admits c then
      let r := s.newJob cl j
      some (r.2.updSlot c n fun x => { x with cWait := some (.done [.g d (r.1.zeroExtend 64)]) })
    else none
  | none => none

/-- Every parked submission that can enter the queue does, in its order (R196). -/
def admitAll (s : State) (cl : Nat) : Nat → State
  | 0 => s
  | n + 1 => match s.admitNext cl with
    | some t => t.admitAll cl n
    | none => s

/-- A submission of the executing slot (R172, R196): those parked before it that can enter the queue have entered it; it follows at
once where its PQ is home and the queue and its core's budget admit it, and parks otherwise. -/
def submit (s : State) (d : BitVec 6) (sys : Bool) (j : Job) : State :=
  let c := s.cur.core
  let cl := s.clusterOf c
  let s := s.ticked.admitAll cl Config.jobs
  if s.forced c s.here.seq.toNat sys && s.admits c then
    let r := s.newJob cl j
    r.2.wg d (r.1.zeroExtend 64)
  else s.parkC (.submit s.here.seq.toNat sys d.toNat j)

/-- The job an instruction describes, its registers, formats and tables captured (R197). -/
def jobOf (s : State) (kind mode : Nat) (a : BitVec 6) (n : Nat) (tables : FMap (List Half))
    (rng : Vector (BitVec 32) 4) : Job :=
  let x := s.src.slot
  { id := 0, kind := kind, mode := mode, core := s.cur.core, slot := s.cur.slot, pop := x.pop, vf := s.runVf s.cur.core
    regs := (List.range n).map fun i => s.rgn (a.toNat + i)
    fmtd := x.fmtd, scale := x.scale, tables := tables, rng := rng, eftrap := x.tstat.getLsbD 2, age := s.tick }

/-- The tables a job captures. -/
def tableOf (f : BitVec 4) (t : List Half) : FMap (List Half) := if isTab f then [(tabSlot f, t)] else []

/-- Two tables, by slot. -/
def tables2 (f g : BitVec 4) (t u : List Half) : FMap (List Half) :=
  (tableOf f t).foldl (fun m e => FMap.insert m e.1 e.2) (tableOf g u)

/-- A submission that draws four outputs (R100): after earlier draws, and undone with the bundle when it is withdrawn. It goes on from the
state that a draw of its pair's A-word has left (assumption 68). -/
def submitDrawing (s : State) (d : BitVec 6) (sr sys : Bool) (mk : Vector (BitVec 32) 4 → Job) : State :=
  if sr then
    let old := s.me
    let r := drawFour old.rseed
    s.afterDraws ((s.updMe fun x => { x with
      rseed := r.2
      prior := if s.cur.pair then x.prior else some { g := old.g, p := old.p, fflags := old.fflags, rseed := old.rseed }
      }).submit d sys (mk r.1))
  else s.submit d sys (mk #v[0, 0, 0, 0])

/-- CPY in one of its modes (R299). -/
def cpy (s : State) (mode : Nat) (d a : BitVec 6) : State :=
  s.submit d (mode = 3) (s.jobOf 1 mode a 6 [] #v[0, 0, 0, 0])

end State

/-- CPY (R203). -/
def execCpy (d a : BitVec 6) (s : State) : Host.Outcome State Fault Refusal := .next (s.cpy 0 d a)
/-- CPY.CVT (R203): the tables of AF and OF are captured, and under SR four outputs drawn. -/
def execCpyCvt (d a : BitVec 6) (s : State) : Host.Outcome State Fault Refusal :=
  let f := s.src.slot.fmtd
  .next (s.withFmt (fmtdAF f) false fun t => s.withFmt (fmtdOF f) true fun u =>
    s.submitDrawing d (fmtdRnd f = 2) false fun r => s.jobOf 1 1 a 6 (State.tables2 (fmtdAF f) (fmtdOF f) t u) r)
/-- CPY.GATHER (R203). -/
def execCpyGather (d a : BitVec 6) (s : State) : Host.Outcome State Fault Refusal := .next (s.cpy 2 d a)
/-- CPY.PEER (R203): the core's PQ is published at SYS first. -/
def execCpyPeer (d a : BitVec 6) (s : State) : Host.Outcome State Fault Refusal := .next (s.cpy 3 d a)
/-- CPY.FILL (R203). -/
def execCpyFill (d a : BitVec 6) (s : State) : Host.Outcome State Fault Refusal := .next (s.cpy 4 d a)

/-! ### Inbox (R198-R200, R327) -/

namespace State

/-- The oldest message of a slot and population (R199). -/
def message (s : State) (c n : Nat) (vf : Nat) (pop : Option Nat) : Option Msg :=
  (s.core c).inbox.find? fun m => m.slot = n && m.pop = pop && m.vf = vf

/-- The registers a message gives. -/
def msgRegs (d : Nat) (m : Msg) : List Wr := [.g d m.w0, .g (d + 1) m.w1, .g (d + 2) m.w2, .g (d + 3) m.w3]

/-- A message is taken: the core's L view is self-invalidated (R172). -/
def takeMsg (s : State) (c : Nat) (m : Msg) : State :=
  (s.updCore c fun k => { k with inbox := k.inbox.erase m }).updCore c (·.selfInvalidate)

end State

/-- IBX (R199). -/
def execIbx (d : BitVec 6) (s : State) : Host.Outcome State Fault Refusal :=
  let c := s.cur.core
  .next (match s.message c s.cur.slot (s.runVf c) s.me.pop with
  | some m => (s.takeMsg c m).updMe (·.wrs (State.msgRegs d.toNat m))
  | none => s.parkC (.ibx d.toNat))

/-- IBX.TRY (R199). -/
def execIbxTry (d : BitVec 6) (s : State) : Host.Outcome State Fault Refusal :=
  let c := s.cur.core
  .next (match s.message c s.cur.slot (s.runVf c) s.me.pop with
  | some m => (s.takeMsg c m).updMe (·.wrs (State.msgRegs d.toNat m))
  | none => s.wg d 0)

/-- PARK (R327). -/
def execPark (s : State) : Host.Outcome State Fault Refusal :=
  let c := s.cur.core
  .next (match s.message c s.cur.slot (s.runVf c) s.me.pop with
  | some _ => s
  | none => s.parkC .park)

/-- JPOLL (R200). -/
def execJpoll (d a : BitVec 6) (s : State) : Host.Outcome State Fault Refusal :=
  let v := (s.rg a).toNat
  let cl := s.clusterOf s.cur.core
  let k := s.cluster cl
  let msgs := s.cores.flatMap fun e => e.2.inbox.filter fun m => m.cluster = cl && m.w0.toNat / 2 ^ 16 % 2 ^ 16 = v
  .next (s.wg d (
    if v = 0 ∨ 2 ^ 16 ≤ v then 3
    else if (k.queue ++ k.running).any (·.id.toNat = v) then 0
    else match msgs with
      | m :: _ => if m.w0.toNat % 256 = 0 then 1 else 2
      | [] => 3))

/-- JOB_ADMIT (R196): the oldest parked submission whose drain has finished enters the queue and its slot gets the id. -/
def execJobAdmit (cluster : Nat) (s : State) : Host.Outcome State Fault Refusal :=
  .next ((s.admitNext cluster).getD s)

/-- JOB_COMPLETE's message (R198). -/
def Job.msg (j : Job) (cl : Nat) : Msg :=
  let head (st : Nat) : Word := BitVec.ofNat 64 (j.kind * 2 ^ 32 + j.id.toNat * 2 ^ 16 + st)
  let m : Msg := { slot := j.slot, pop := j.pop, vf := j.vf, cluster := cl, w0 := head 0, w1 := 0, w2 := 0, w3 := 0 }
  match j.status with
  | .faulted q va => { m with
      w0 := head 2, w1 := BitVec.ofNat 64 q, w2 := va
      w3 := BitVec.ofNat 64 (if j.kind = 1 then j.done else if j.kind = 2 then j.row else 0) }
  | _ => { m with w1 := if j.csat then 1 else 0, w3 := BitVec.ofNat 64 (if j.kind = 1 then j.done else 0) }

namespace State

/-- A completed job's message enters the inbox unless its population has ended (R198, R228); a fault makes trap 0x0E pending where
EFTRAP asked for it, and wakes a slot that waits (R201). -/
def completeJob (s : State) (cl : Nat) (j : Job) : State :=
  let s := s.updCluster cl fun k => { k with running := k.running.filter (·.id ≠ j.id) }
  let s := if j.kind ≠ 1 then s.countFor j.core (j.vf + 1) 0x21 j.slot 1 else s
  let gone : Bool := match j.pop.bind (FMap.find? s.pops ·) with
    | some p => decide (p.status ≠ PopStatus.running)
    | none => j.pop.isSome
  if gone then s
  else
    let s := (s.updCore j.core fun k => { k with inbox := k.inbox ++ [j.msg cl] }).moved j.pop
    let faulted : Bool := match j.status with
      | .faulted _ _ => true
      | _ => false
    let x := s.slotV j.core (j.vf + 1) j.slot
    if faulted && j.eftrap && x.pop = j.pop && x.mode != SlotMode.free && x.mode != SlotMode.idleSteal then
      let s := s.updSlotV j.core (j.vf + 1) j.slot fun x =>
        { x with pendEngine := x.pendEngine ++ [BitVec.ofNat 64 (j.kind * 2 ^ 32 + j.id.toNat)] }
      if (s.waitCode j.core x).isSome && !x.inTrap && s.vk j.core = j.vf + 1 then s.abandon j.core j.slot else s
    else s

end State

/-! ### The copy unit (R203-R205) -/

namespace Job

/-- A captured table. -/
def table (j : Job) (f : BitVec 4) : List Half := if isTab f then FMap.getD j.tables (tabSlot f) [] else []
/-- A descriptor register. -/
def reg (j : Job) (n : Nat) : Word := j.regs.getD n 0
/-- ROWS and RB of a copy. -/
def rows (j : Job) : Nat := (j.reg 2).toNat / 2 ^ 32
/-- Source bytes per row. -/
def rb (j : Job) : Nat := (j.reg 2).toNat % 2 ^ 32
/-- Bits of a source and of a destination element of a converting copy; a plain copy moves bytes. -/
def wIn (j : Job) : Nat := if j.mode = 1 then fmtWidth (fmtdAF j.fmtd) else 8
/-- Bits of a destination element. -/
def wOut (j : Job) : Nat := if j.mode = 1 then fmtWidth (fmtdOF j.fmtd) else 8
/-- Destination bytes per row (R203). -/
def drb (j : Job) : Nat := 8 * j.rb / j.wIn * j.wOut / 8
/-- Destination bytes of a whole piece (R205). -/
def pieceOut (j : Job) : Nat := 128 * j.wOut / j.wIn

/-- A copy whose descriptor is refused (R204). -/
def cpyBad (j : Job) : Bool :=
  j.rows = 0 || j.rb = 0 || (j.reg 5).toNat / 2 ≠ 0 || ((j.mode = 2 || j.mode = 4) && j.reg 3 ≠ 0) ||
  (j.mode = 1 && (fmtdAF j.fmtd = 15 || fmtdOF j.fmtd = 15 || 8 * j.rb % j.wIn ≠ 0 ||
    (j.wOut = 4 && 8 * j.rb / j.wIn % 2 ≠ 0)))

end Job

/-- Element i of packed bytes, 4-bit elements low nibble first (R203, R208). -/
def element (w : Nat) (bs : List Byte) (i : Nat) : Nat :=
  if w = 4 then (bs.getD (i / 2) 0).toNat / 16 ^ (i % 2) % 16 else leVal ((bs.drop (i * w / 8)).take (w / 8))

/-- Pack elements of a width, 4-bit elements low nibble first. -/
def packElements (w : Nat) : List Nat → List Byte
  | [] => []
  | [x] => leBytes ((w + 7) / 8) x
  | x :: y :: r =>
    if w = 4 then BitVec.ofNat 8 (x % 16 + 16 * (y % 16)) :: packElements w r
    else leBytes (w / 8) x ++ packElements w (y :: r)

/-- Encode FP32 patterns under a job's output format in order, drawing from its state (R100, R203, R211). -/
def Job.encode (j : Job) (f : BitVec 4) (xs : List Nat) : List Nat × Vector (BitVec 32) 4 :=
  let t := j.table f
  xs.foldl (fun (a : List Nat × Vector (BitVec 32) 4) x =>
    let e := encodeFmt f t (fmtdRnd j.fmtd) (fmtdSat j.fmtd) (scaleEexp j.scale) a.2 x
    (a.1 ++ [e.1.bits], e.2)) ([], j.rng)

namespace State

/-- The spaces of a copy (R143). -/
def cpySpaces (j : Job) : Spaces := if j.mode = 3 then .peer else .cpy

/-- Write what a copy job has read, from its destination position on. -/
def cpyWrite (s : State) (cl : Nat) (j : Job) : State :=
  let row := j.done / j.drb
  let va := j.reg 1 + BitVec.ofNat 64 row * j.reg 4 + BitVec.ofNat 64 (j.done % j.drb)
  let r := s.engWritePieces cl j (cpySpaces j) ((j.reg 5).getLsbD 0) (wordPieces va (j.buf.length / 8 + 2) j.buf.length) j.buf
  let j := { j with done := j.done + (j.buf.length - r.1.length), buf := r.1, walking := none }
  match r.2.1 with
  | none => if j.done = j.rows * j.drb then r.2.2.endJob cl j else r.2.2.setJob cl j
  | some (some q, _, va) => r.2.2.failJob cl j q va
  | some (none, w, _) => r.2.2.setJob cl { j with walking := w.map fun va => (va, 1) }

/-- The bytes a piece gives its destination (R203). -/
def cpyPiece (j : Job) (off : Nat) (bs : List Byte) : List Byte × Vector (BitVec 32) 4 :=
  if j.mode = 1 then
    let f := fmtdAF j.fmtd
    let xs := (List.range (8 * bs.length / j.wIn)).map fun i =>
      (decodeFmt f (j.table f) (scaleDexp j.scale) (element j.wIn bs i)).bits
    let e := j.encode (fmtdOF j.fmtd) xs
    (packElements j.wOut e.1, e.2)
  else if j.mode = 4 then (bs.mapIdx fun i _ => BitVec.ofNat 8 ((j.reg 0).toNat / 256 ^ ((off + i) % 8)), j.rng)
  else (bs, j.rng)

/-- The source and destination address ranges of the row a converting copy is at overlap (R205). -/
def rowOverlaps (j : Job) : Bool :=
  let row := BitVec.ofNat 64 (j.done / j.drb)
  let src := j.reg 0 + row * j.reg 3
  let dst := j.reg 1 + row * j.reg 4
  j.mode = 1 && ((dst - src).toNat < j.rb || (src - dst).toNat < j.drb)

/-- Bytes the spec does not promise: one free value each. -/
def freeRow (s : State) (n : Nat) : List Byte × State :=
  ((List.range n).map fun i => (Config.freeValue (s.free + i)).setWidth 8, { s with free := s.free + n })

/-- A copy job's next piece: read whole, then written (R205); what a converting row that overlaps itself writes is free. -/
def cpyStep (s : State) (cl : Nat) (j : Job) : State :=
  if !j.buf.isEmpty then s.cpyWrite cl j
  else
    let row := j.done / j.drb
    let off := j.done % j.drb / j.pieceOut * 128
    let n := Nat.min 128 (j.rb - off)
    let put (bs : List Byte) (j : Job) (t : State) : State :=
      let r := cpyPiece j off bs
      if rowOverlaps j then
        let f := t.freeRow r.1.length
        f.2.cpyWrite cl { j with buf := f.1, rng := r.2 }
      else t.cpyWrite cl { j with buf := r.1, rng := r.2 }
    if j.mode = 4 then put (List.replicate n 0) j s
    else
      let read (j : Job) (src : Word) (t : State) : State :=
        withRead cl j (t.engRead cl j (cpySpaces j) (src + BitVec.ofNat 64 off) n) (fun bs u => put bs j u) t
      if j.mode = 2 then
        if off = 0 then
          withRead cl j (s.engRead cl j (cpySpaces j) (j.reg 0 + BitVec.ofNat 64 (8 * row)) 8)
            (fun bs t => let v := BitVec.ofNat 64 (leVal bs); read { j with src := v } v t) s
        else read j j.src s
      else read j (j.reg 0 + BitVec.ofNat 64 row * j.reg 3) s

end State

/-- CPX_PIECE (R205). -/
def execCpxPiece (cluster job : Nat) (s : State) : Host.Outcome State Fault Refusal :=
  .next (match s.jobAt cluster job with
  | some j => if j.kind = 1 ∧ j.status = .running then s.cpyStep cluster j else s
  | none => s)

/-! ### Decode tables (R89-R91, R306) -/

namespace State

/-- The operations of the eight lines of a table image whose first line has one: its page is translated, and each line has its own
home (R146, R147). -/
def imageLines (s : State) (va : Word) (op : MemOp) : List MemOp := (List.range 8).map fun i =>
  let a := va + BitVec.ofNat 64 (128 * i)
  match (s.resolve s.cur.core 0 a 4 false).1 with
  | .at p => (s.opAt p (baseOp a 4 0 false)).getD op
  | _ => op

/-- The 256 words of an image's lines. -/
def imageOps (ops : List MemOp) : List MemOp := ops.flatMap fun op => (List.range 32).map fun i =>
  { op with key := op.key + 4 * i, va := op.va + BitVec.ofNat 64 (4 * i) }

end State

/-- The table load of the executing bundle takes its place in the order of issue, which it has already where the bundle is executed
again (R90). -/
def State.issuesDtld (s : State) (y : Nat) : State :=
  s.ticked.updMe fun x => { x with dtld := some (y, (x.dtld.map (·.2)).getD s.tick) }

/-- DTLD (R306): its address is checked and translated as the loads of R317 are; the table slot's bank is the VF's first (R242). -/
def execDtld (a : BitVec 6) (y : BitVec 2) (s : State) : Host.Outcome State Fault Refusal :=
  let va := s.rg a
  let f := BitVec.ofNat 4 (6 + y.toNat)
  .next (if va.toNat % 1024 ≠ 0 then s.raise 0x04 va
  else (s.issuesDtld y.toNat).access 0 va 4 false true fun p t =>
    if t.tabAbsent f then t.parkTable f
    else match t.opAt p (baseOp va 4 0 false) with
    | some op => t.parkC (.dtld y.toNat (State.imageOps (t.imageLines va op)) [] none none)
    | none => t)

namespace State

/-- The loads of a table image go on, each an ordinary load (R89, R161), until one waits: the loads left, the words loaded, the fill
the first of those left waits for, the address of a poisoned word. `ans` is what its fill has given the first. -/
def imageLoads (s : State) (c n : Nat) : List MemOp → List Half → Option (Option Half) →
    (List MemOp × List Half × Option Nat × Option Word) × State
  | [], got, _ => (([], got, none, none), s)
  | _ :: ops, got, some (some v) => s.imageLoads c n ops (got ++ [v]) none
  | op :: ops, got, some none => ((op :: ops, got, none, some op.va), s)
  | op :: ops, got, none => if !s.bankReady op.key (s.runVf c) then ((op :: ops, got, none, none), s.askKeyBank op.key (s.runVf c))
    else match s.loadLook c op with
    | .value v => (s.touch c op).imageLoads c n ops (got ++ [BitVec.ofNat 32 v]) none
    | .poison => ((op :: ops, got, none, some op.va), s)
    | .cover => ((op :: ops, got, none, none), s)
    | .fill =>
      let r := s.askFill c (s.vk c) n op
      match r.2.earlyAt c r.1 op with
      | (some w, t) => match fillGives w with
        | some (some v) => t.imageLoads c n ops (got ++ [v]) none
        | _ => ((op :: ops, got, none, some op.va), t)
      | (none, t) => ((op :: ops, got, some r.1, none), t)
    | .request =>
      let t := if op.slice.isSome then s.countTag c (s.runVf c) n 1 else s
      if t.poisoned op.key 4 then ((op :: ops, got, none, some op.va), t)
      else t.imageLoads c n ops (got ++ [BitVec.ofNat 32 (t.home op.key 4)]) none

/-- An earlier DTLD on the table of a slot's DTLD, of another slot of its VF, is not yet complete (R90). -/
def dtldBefore (s : State) (c n : Nat) : Bool := match (s.slot c n).dtld with
  | some (y, age) => (s.cvf c).slots.any fun x => x.2.dtld.any fun d => d.1 = y && d.2 < age
  | none => false

/-- An image that R89 accepts. -/
def imageOk (t : List Half) : Bool :=
  t.all (fun w => w.toNat / 2 ^ 20 = 0 && (!w.getLsbD 19 || w.toNat % 2 ^ 19 = 0)) && (t.filter entryAbs).length = 1

end State

/-- DTLD_COMPLETE (R89, R90): the loads go on, one after the other; with all of them returned the image is checked as a whole and
replaces the slot's table in one step, or trap 0x11 is taken; of two on one slot the one issued first completes first. -/
def execDtldComplete (core slot : Nat) (s : State) : Host.Outcome State Fault Refusal :=
  .next (match (s.slot core slot).cWait with
  | some (.dtld y left got none ans) =>
    let wait (t : State) (w : Wait) : State := t.updSlot core slot fun x => { x with cWait := some w }
    let ends (t : State) (w : Wait) : State := t.updSlot core slot fun x => { x with cWait := some w, dtld := none }
    match s.imageLoads core slot left got ans with
    | ((_, _, _, some va), t) => ends t (.trap 0x0B va)
    | ((op :: ops, got, fill, none), t) => wait t (.dtld y (op :: ops) got fill none)
    | (([], got, _, none), t) =>
      if t.dtldBefore core slot then wait t (.dtld y [] got none none)
      else if State.imageOk got then
        ends (t.updCvf core fun x => { x with tables := FMap.insert x.tables y got }) (.done [])
      else ends t (.trap 0x11 (BitVec.ofNat 64 y))
  | _ => s)

end Sys2Proof.Machine
end

