-- ==== Sys2Proof/Machine/Indigo.lean ====
section
/-! DEFINITION. Indigo, the counting fabric (R117-R134, R297, R298): the network, the counter table, the counter
instructions, and the events of balancers, exits, snapshots and barriers. -/

namespace Sys2Proof.Machine

/-! ### The network (R119, R120) -/

/-- A balancer: layer, top position, bottom position. -/
structure Bal where
  layer : Nat
  top : Nat
  bottom : Nat
  deriving DecidableEq, Repr

/-- The elements at even places. -/
def evens : List Nat → List Nat
  | [] => []
  | [x] => [x]
  | x :: _ :: r => x :: evens r

/-- The elements at odd places. -/
def odds : List Nat → List Nat
  | [] => []
  | [_] => []
  | _ :: y :: r => y :: odds r

/-- D(m) = m(m+1)/2. -/
def depth (m : Nat) : Nat := m * (m + 1) / 2

/-- Merge of 2^(m+1) positions from a layer on (R119): its balancers and its output list. -/
def mergeNet : Nat → List Nat → Nat → List Bal × List Nat
  | 0, l, lay => ([⟨lay, l.getD 0 0, l.getD 1 0⟩], l)
  | m + 1, l, lay =>
    let k := 2 ^ (m + 1)
    let a := mergeNet m (evens (l.take k) ++ odds (l.drop k)) lay
    let b := mergeNet m (odds (l.take k) ++ evens (l.drop k)) lay
    let z := a.2.zip b.2
    (a.1 ++ b.1 ++ z.map (fun p => ⟨lay + m + 1, p.1, p.2⟩), z.flatMap fun p => [p.1, p.2])

/-- Bitonic of 2^m positions from a layer on (R119). -/
def bitonicNet : Nat → List Nat → Nat → List Bal × List Nat
  | 0, l, _ => ([], l)
  | m + 1, l, lay =>
    let t := bitonicNet m (l.take (2 ^ m)) lay
    let u := bitonicNet m (l.drop (2 ^ m)) lay
    let r := mergeNet m (t.2 ++ u.2) (lay + depth m)
    (t.1 ++ u.1 ++ r.1, r.2)

/-- The network of the block [s, s + 2^w): its balancers and Out(s, w) (R120). -/
def blockNet (s w : Nat) : List Bal × List Nat := bitonicNet w ((List.range (2 ^ w)).map (s + ·)) 0

/-- The lower position of a balancer. -/
def Bal.low (b : Bal) : Nat := Nat.min b.top b.bottom

/-- The node (x, y) of a balancer of a block, as a physical position 32y + x (R120). -/
def balNode (bs : List Bal) (s : Nat) (b : Bal) : Nat :=
  32 * b.layer + s / 2 + (bs.filter fun c => c.layer = b.layer && c.low < b.low).length

/-! ### The counter table (R121) -/

namespace CidEntry

/-- VALID. -/
def valid (e : CidEntry) : Bool := e.e0.getLsbD 0
/-- BASE. -/
def base (e : CidEntry) : Nat := e.e0.toNat / 2 ^ 32
/-- SB: first position of the block. -/
def sb (e : CidEntry) : Nat := e.e0.toNat / 2 ^ 26 % 64
/-- W: log2 of the width. -/
def w (e : CidEntry) : Nat := e.e0.toNat / 2 ^ 23 % 8
/-- MODE: 0 count, 1 barrier, 2 spread. -/
def mode (e : CidEntry) : Nat := e.e0.toNat / 2 ^ 21 % 4
/-- Owning VF; 0x1FF any. -/
def vf (e : CidEntry) : Nat := e.e0.toNat / 2 ^ 12 % 512
/-- Owning partition. -/
def part (e : CidEntry) : Nat := e.e0.toNat / 2 ^ 8 % 16
/-- SPB: slice index of output 0's queue. -/
def spb (e : CidEntry) : Nat := e.e1.toNat / 2 ^ 36 % 1024
/-- SQIX: index of the spread queue. -/
def sqix (e : CidEntry) : Nat := e.e1.toNat / 2 ^ 32 % 16
/-- N: participants per phase. -/
def n (e : CidEntry) : Nat := e.e1.toNat % 2 ^ 32
/-- The counter's network. -/
def net (e : CidEntry) : List Bal × List Nat := blockNet e.sb e.w
/-- The exit position of output j. -/
def exitOf (e : CidEntry) (j : Nat) : Nat := e.net.2.getD j 0
/-- The quota of output j in a phase (R130). -/
def quota (e : CidEntry) (j : Nat) : Nat := (e.n - j + 2 ^ e.w - 1) / 2 ^ e.w
/-- val of output j at count c (R124). -/
def val (e : CidEntry) (j : Nat) (c : BitVec 32) : BitVec 32 :=
  BitVec.ofNat 32 (e.base + j) + BitVec.ofNat 32 (2 ^ e.w) * c

end CidEntry

/-- %TVAL of trap 0x0D (R126). -/
def cidTval (reason cid : Nat) : Word := BitVec.ofNat 64 (reason * 2 ^ 12 + cid % 2 ^ 12)

namespace State

/-- The entry of a CID, missing: all zero. -/
def cid (s : State) (c : Nat) : CidEntry := FMap.getD s.cids c { e0 := 0, e1 := 0, broken := false, reconf := false }
/-- Change the entry of a CID. -/
def updCid (s : State) (c : Nat) (f : CidEntry → CidEntry) : State := { s with cids := FMap.insert s.cids c (f (s.cid c)) }
/-- The key of a balancer's toggle. -/
def togKey (c : Nat) (b : Bal) : Nat := c * 2048 + b.layer * 64 + b.low
/-- The count at an exit position. -/
def countAt (s : State) (c p : Nat) : BitVec 32 := FMap.getD s.counts (c * 64 + p) 0
/-- Set the count at an exit position. -/
def setCount (s : State) (c p : Nat) (v : BitVec 32) : State := { s with counts := FMap.insert s.counts (c * 64 + p) v }
/-- Every toggle and count of a CID is 0 (R122, R130). -/
def clearCid (s : State) (c : Nat) : State :=
  { s with
    toggles := s.toggles.filter fun e => e.1 / 2048 ≠ c
    counts := s.counts.filter fun e => e.1 / 64 ≠ c
    badParity := s.badParity.filter fun k => (if k % 2 = 0 then k / 2 / 2048 else k / 2 / 64) ≠ c }

/-- A cell of a node served a token, antitoken or snapshot: INDIGOTOK, for a running VF with FAB = 1 and never with SLOTF = 1
(R133, R251). -/
def indigoTok (s : State) (pos : Nat) : State := match s.logicalOf pos with
  | some c => if s.fab c then s.count c 0x31 16 1 else s
  | none => s

/-- The reason with which a counter operation is turned away at issue (R126): none when it passes. -/
def cidReason (s : State) (v : Word) (mode : Option Nat) : Option Nat :=
  let e := s.cid (v.toNat % 4096)
  if 4096 ≤ v.toNat ∨ !e.valid then some 1
  else if e.part ≠ s.runPid s.cur.core ∨ (e.vf ≠ 0x1FF ∧ e.vf ≠ s.runVf s.cur.core) then some 2
  else if mode.isSome ∧ mode ≠ some e.mode then some 3
  else if e.broken then some 4
  else if e.reconf then some 5
  else none

/-- A token, antitoken or snapshot leaves a slot (R123): entry position SB + ((16n + s) mod 2^W), with the core's number n; a service
core, which has no logical number, enters by its core number 2,048 + k (assumption 51). -/
def addTok (s : State) (kind : TokKind) (cid core slot vf : Nat) (pop : Option Nat) (d : Nat) : State :=
  let e := s.cid cid
  let t : Token := { kind := kind, cid := cid, core := core, slot := slot, vf := vf, pop := pop, d := d, layer := 0
                     pos := e.sb + (16 * core + slot) % 2 ^ e.w, out := none, arrived := false }
  ({ s with tokens := FMap.insert s.tokens s.nextTok t, nextTok := s.nextTok + 1 } : State).flew pop

/-- A counter instruction with a result: checks, then its token; the slot parks (R126, R297). -/
def counterOp (s : State) (a : BitVec 6) (mode : Option Nat) (kind : TokKind) (d : BitVec 6) : State :=
  let v := s.rg a
  match s.cidReason v mode with
  | some r => s.raise 0x0D (cidTval r v.toNat)
  | none =>
    let c := s.cur.core
    (s.parkC (.counter s.nextTok)).addTok kind v.toNat c s.cur.slot (s.runVf c) s.me.pop d.toNat

/-- Take a token away. -/
def dropTok (s : State) (t : Nat) : State := { s with tokens := FMap.erase s.tokens t }

/-- The result or fault of a counter operation reaches its slot, if it still waits for it (R33, R132). -/
def answerTok (s : State) (t : Nat) (k : Token) (w : Wait) : State :=
  s.updSlotV k.core (k.vf + 1) k.slot fun x => match x.cWait with
    | some (.counter u) => if u = t then { x with cWait := some w } else x
    | some (.bar _ _ (some u)) => if u = t then { x with cWait := some w } else x
    | _ => x

/-- Change every slot of every VF on every core. -/
def mapSlots (s : State) (f : Slot → Slot) : State :=
  { s with cores := s.cores.map fun e => (e.1, { e.2 with vfs := e.2.vfs.map fun v =>
      (v.1, { v.2 with slots := v.2.slots.map fun x => (x.1, f x.2) }) }) }

/-- Every slot parked on a barrier of a CID takes a fault, unless its token is still in flight and is left its way (R122, R130,
R134); the arrived tokens of the CID are gone. -/
def faultBars (s : State) (cid reason : Nat) (all : Bool) : State :=
  let flying (t : Option Nat) : Bool := match t.bind (FMap.find? s.tokens ·) with
    | some k => !k.arrived
    | none => false
  let s' := s.mapSlots fun x => match x.cWait with
    | some (.bar c _ t) => if c = cid ∧ (all ∨ !flying t) then { x with cWait := some (.trap 0x0D (cidTval reason cid)) } else x
    | _ => x
  { s' with tokens := s'.tokens.filter fun e => !(e.2.cid = cid && e.2.kind = .bar && (all || e.2.arrived)) }

/-- A parity error in a CID's state (R134): broken everywhere, the Ochre pair told, its operations in flight and its barrier's
slots faulted with reason 4. -/
def breakCid (s : State) (cid : Nat) : State :=
  let s := (s.updCid cid fun e => { e with broken := true }).report (.parity cid)
  let s := s.faultBars cid 4 true
  let s := s.tokens.foldl (fun t k => if k.2.cid = cid then
      t.answerTok k.1 k.2 (.trap 0x0D (cidTval 4 cid)) else t) s
  { s with tokens := s.tokens.filter fun e => e.2.cid ≠ cid }

/-! ### CNT.CFG (R122) -/

/-- An entry write that R122 refuses. -/
def cfgRefused (s : State) (cid : Nat) (e0 e1 : Word) : Bool :=
  let e : CidEntry := { e0 := e0, e1 := e1, broken := false, reconf := false }
  e.valid &&
  (e.w = 7 || e.mode = 3 || e.sb % 2 ^ e.w ≠ 0 ||
   (match s.part e.part with
    | none => true
    | some p =>
      e.sb < p.spanBase || p.spanBase + 2 ^ p.spanLog < e.sb + 2 ^ e.w ||
      cid < p.cidBase || p.cidBase + p.cidCount ≤ cid ||
      (e.mode = 2 && p.slices ≤ e.spb)) ||
   (e.vf ≠ 0x1FF && !((s.vfRec e.vf).isSome && s.pidOf e.vf = e.part)) ||
   decide (e.mode = 1) != decide (e.n ≠ 0) ||
   (e.mode ≠ 2 && (e.spb ≠ 0 || e.sqix ≠ 0)) ||
   e0.toNat / 2 % 128 ≠ 0 || e1.toNat / 2 ^ 46 ≠ 0)

/-- Word 0 of a counter entry under another partition. -/
def entryUnder (pid : Nat) (e0 : Word) : Word := (e0 &&& ~~~0xF00#64) ||| BitVec.ofNat 64 (pid * 256)

/-- The arrived marks of a CID go (R122 step 2). -/
def dropMarks (s : State) (cid : Nat) : State := s.mapSlots fun x => { x with arrived := x.arrived.filter (·.cid ≠ cid) }

/-- Steps 1 and 2 of an accepted write: reconfiguring; barrier slots fault with reason 5; arrived marks go; the write takes its place
behind the earlier ones of the CID. -/
def cfgBegin (s : State) (w : CfgWrite) : State :=
  let t := ((s.updCid w.cid fun e => { e with reconf := true }).faultBars w.cid 5 false).dropMarks w.cid
  { t with cfgs := t.cfgs ++ [w] }

/-- Step 3: the write is the earliest of its CID, and every earlier operation on the CID has been delivered. -/
def cfgReady (s : State) (w : CfgWrite) : Bool :=
  s.cfgs.find? (·.cid = w.cid) = some w && !(s.tokens.any fun e => e.2.cid = w.cid)

/-- A write of a CID no longer waits; with none left the CID is reconfiguring no more. -/
def cfgEnd (s : State) (w : CfgWrite) : State :=
  let l := s.cfgs.erase w
  ({ s with cfgs := l } : State).updCid w.cid fun e => { e with reconf := l.any (·.cid = w.cid) }

/-- Steps 4 and 5: toggles, counts and the broken mark clear, with the marks of barriers abandoned since, and the entry is written.
The CID stays reconfiguring while another write of it waits. -/
def cfgWrite (s : State) (w : CfgWrite) : State :=
  (((s.clearCid w.cid).dropMarks w.cid).updCid w.cid fun _ =>
    { e0 := w.e0, e1 := w.e1, broken := false, reconf := true }).cfgEnd w

end State

/-! ### The instructions (R125, R127, R297) -/

/-- CNT.INC. -/
def execCntInc (d a : BitVec 6) (s : State) : Host.Outcome State Fault Refusal := .next (s.counterOp a (some 0) .inc d)
/-- CNT.DEC. -/
def execCntDec (d a : BitVec 6) (s : State) : Host.Outcome State Fault Refusal := .next (s.counterOp a (some 0) .dec d)
/-- CNT.CAN: the index held is `g[b]`[31:0]. -/
def execCntCan (d a b : BitVec 6) (s : State) : Host.Outcome State Fault Refusal :=
  .next (s.counterOp a (some 0) (.can ((s.rg b).setWidth 32)) d)
/-- CNT.SPRD: payload `g[b]` and `g[b+1]`. -/
def execCntSprd (d a b : BitVec 6) (s : State) : Host.Outcome State Fault Refusal :=
  let x := s.rg b
  let y := s.rgn (b.toNat + 1)
  .next (s.counterOp a (some 2) (.sprd [x.setWidth 32, (x >>> 32).setWidth 32, y.setWidth 32, (y >>> 32).setWidth 32]) d)
/-- CNT.RDQ. -/
def execCntRdq (d a : BitVec 6) (s : State) : Host.Outcome State Fault Refusal := .next (s.counterOp a none (.rdq []) d)

namespace State

/-- A barrier token leaves a slot that waits on the barrier (R130). -/
def sendBar (s : State) (c vk n cid seq : Nat) (vf : Nat) : State :=
  (s.setWait c vk n (.bar cid seq (some s.nextTok))).addTok .bar cid c n vf (s.slotV c vk n).pop 0

end State

/-- CNT.BAR (R130, R131, R298): the PQ drains, then a token leaves and the slot parks until the phase's release. A re-executed
one whose token has arrived sends none: it continues when the release has come, after its acquire, and else parks again. -/
def execCntBar (a : BitVec 6) (s : State) : Host.Outcome State Fault Refusal :=
  let v := s.rg a
  let c := s.cur.core
  .next (match s.cidReason v (some 1) with
  | some r => s.raise 0x0D (cidTval r v.toNat)
  | none => match s.me.arrived.find? fun m => m.cid = v.toNat && m.pc = s.addr && m.again with
    | some m =>
      if m.released then
        (s.updCore c (·.selfInvalidate)).updMe fun x => { x with arrived := x.arrived.filter (· ≠ m) }
      else (s.updMe fun x => { x with arrived := x.arrived.filter (· ≠ m) }).parkC (.bar v.toNat s.here.seq.toNat (some m.tok))
    | none =>
      let t := s.parkC (.bar v.toNat s.here.seq.toNat none)
      if s.forced c s.here.seq.toNat false then t.sendBar c (t.vk c) s.cur.slot v.toNat s.here.seq.toNat (s.runVf c) else t)

/-- CNT.CFG (R122, R297). Of the checks of R126 those that a write can meet come first: bits of `g[a]` above the CID, reason 1, and a
CID that is reconfiguring, reason 5 (assumption 55). -/
def execCntCfg (a b : BitVec 6) (s : State) : Host.Outcome State Fault Refusal :=
  let v := (s.rg a).toNat
  let e0 := s.rg b
  let e1 := s.rgn (b.toNat + 1)
  .next (if 4096 ≤ v then s.raise 0x0D (cidTval 1 v)
  else if (s.cid v).reconf then s.raise 0x0D (cidTval 5 v)
  else if s.cfgRefused v e0 e1 then s.raise 0x0D (cidTval 6 v)
  else (s.parkC (.cntCfg v e0 e1)).cfgBegin
    { cid := v, by_ := .slot s.cur.core (s.vk s.cur.core) s.cur.slot, e0 := e0, e1 := e1 })

/-! ### Events -/

namespace State

/-- The balancer a token stands before, in its counter's network (R119, R123). -/
def balOf (s : State) (k : Token) : Option Bal :=
  (s.cid k.cid).net.1.find? fun b => b.layer = k.layer && (b.top = k.pos || b.bottom = k.pos)

/-- A token or antitoken passes a balancer (R117); a cell that finds a parity error breaks the CID (R134). -/
def balance (s : State) (t : Nat) (anti : Bool) : State := match FMap.find? s.tokens t with
  | none => s
  | some k =>
    let isAnti : Bool := match k.kind with
      | .dec => true
      | .can _ => true
      | _ => false
    let isRdq : Bool := match k.kind with
      | .rdq _ => true
      | _ => false
    if isAnti ≠ anti ∨ isRdq ∨ k.out.isSome ∨ k.arrived then s
    else match s.balOf k with
    | none => s
    | some b =>
      let key := togKey k.cid b
      let s := s.indigoTok (balNode (s.cid k.cid).net.1 (s.cid k.cid).sb b)
      if s.badParity.contains (2 * key) then s.breakCid k.cid
      else
        let old := FMap.getD s.toggles key false
        let side := if anti then !old else old
        ({ s with
          toggles := FMap.insert s.toggles key (!old)
          tokens := FMap.insert s.tokens t { k with layer := k.layer + 1, pos := if side then b.bottom else b.top } } : State).flew
          k.pop

/-- The output of a counter whose exit cell a position is. -/
def outputAt (s : State) (k : Token) : Nat := (s.cid k.cid).net.2.findIdx (· = k.pos)

/-- The token stands at its exit cell: past layer D(W) − 1 (R123). -/
def atExit (s : State) (k : Token) : Bool := k.layer = depth (s.cid k.cid).w && k.out.isNone && !k.arrived

/-- A phase has ended (R130 steps 1, 3): toggles and counts are 0 and the arrived tokens wait for the release. -/
def endPhase (s : State) (cid : Nat) : State :=
  let s := s.clearCid cid
  { s with tokens := s.tokens.map fun e =>
      if e.2.cid = cid ∧ e.2.kind = .bar ∧ e.2.arrived then (e.1, { e.2 with out := some (0, 0) }) else e }

/-- A barrier token reaches its exit (R122, R130). -/
def exitBar (s : State) (t : Nat) (k : Token) : State :=
  let e := s.cid k.cid
  let j := s.outputAt k
  if e.reconf then (s.answerTok t k (.trap 0x0D (cidTval 5 k.cid))).dropTok t
  else if e.quota j ≤ (s.countAt k.cid k.pos).toNat then
    let s := (s.answerTok t k (.trap 0x0D (cidTval 7 k.cid))).dropTok t
    (s.updCid k.cid fun e => { e with broken := true }).faultBars k.cid 4 true
  else
    let s := s.setCount k.cid k.pos (s.countAt k.cid k.pos + 1)
    let s : State := { s with tokens := FMap.insert s.tokens t { k with arrived := true } }
    if (List.range (2 ^ e.w)).all fun i => decide (e.quota i ≤ (s.countAt k.cid (e.exitOf i)).toNat) then s.endPhase k.cid
    else s

end State

/-- BALANCER_TOKEN (R117). -/
def execBalancerToken (tok : Nat) (s : State) : Host.Outcome State Fault Refusal := .next (s.balance tok false)

/-- BALANCER_ANTITOKEN (R117). -/
def execBalancerAntitoken (tok : Nat) (s : State) : Host.Outcome State Fault Refusal := .next (s.balance tok true)

/-- EXIT_TOKEN (R124, R127, R130). -/
def execExitToken (tok : Nat) (s : State) : Host.Outcome State Fault Refusal :=
  .next (match FMap.find? s.tokens tok with
  | none => s
  | some k =>
    if !s.atExit k then s
    else
      let e := s.cid k.cid
      let j := s.outputAt k
      let c := s.countAt k.cid k.pos
      let v := e.val j c
      let s' := s.indigoTok (exitNode k.pos)
      let bad := s.badParity.contains (2 * (k.cid * 64 + k.pos) + 1)
      match k.kind with
      | .inc =>
        if bad then s'.breakCid k.cid
        else ((s'.setCount k.cid k.pos (c + 1)).answerTok tok k (.done [.g k.d (v.zeroExtend 64)])).dropTok tok
      | .sprd _ =>
        if bad then s'.breakCid k.cid
        else
          let u := s'.setCount k.cid k.pos (c + 1)
          { u with tokens := FMap.insert u.tokens tok { k with out := some (j, v) } }
      | .bar => if bad then s'.breakCid k.cid else s'.exitBar tok k
      | _ => s)

/-- EXIT_ANTITOKEN (R124, R127): CNT.CAN sets REFILL when the freed value is not the caller's. -/
def execExitAntitoken (tok : Nat) (s : State) : Host.Outcome State Fault Refusal :=
  .next (match FMap.find? s.tokens tok with
  | none => s
  | some k =>
    if !s.atExit k then s
    else
      let e := s.cid k.cid
      let c := s.countAt k.cid k.pos - 1
      let v := e.val (s.outputAt k) c
      let u : Word := if c.msb then 0x8000000000000000 else 0
      let s' := s.indigoTok (exitNode k.pos)
      let bad := s.badParity.contains (2 * (k.cid * 64 + k.pos) + 1)
      let ends (r : Word) : State :=
        if bad then s'.breakCid k.cid
        else ((s'.setCount k.cid k.pos c).answerTok tok k (.done [.g k.d (u ||| r ||| v.zeroExtend 64)])).dropTok tok
      match k.kind with
      | .dec => ends 0
      | .can h => ends (if v ≠ h then 0x4000000000000000 else 0)
      | _ => s)

/-- SNAPSHOT (R127): the wave of a CNT.RDQ reads an output's count once; with the last one the signed sum returns. The snapshot is
served, and counts under INDIGOTOK, at exit cells: R127 sends it to the exits, and that balancer cells serve it too (R133, R251 name
both kinds of cell) is not stated (assumption 56). -/
def execSnapshot (tok out : Nat) (s : State) : Host.Outcome State Fault Refusal :=
  .next (match FMap.find? s.tokens tok with
  | none => s
  | some k => match k.kind with
    | .rdq got =>
      let e := s.cid k.cid
      if 2 ^ e.w ≤ out ∨ (FMap.find? got out).isSome then s
      else
        let p := e.exitOf out
        let s := s.indigoTok (exitNode p)
        if s.badParity.contains (2 * (k.cid * 64 + p) + 1) then s.breakCid k.cid
        else
          let got := FMap.insert got out (s.countAt k.cid p).toInt
          if got.length = 2 ^ e.w then
            (s.answerTok tok k (.done [.g k.d (BitVec.ofInt 64 (got.foldl (fun a v => a + v.2) 0))])).dropTok tok
          else ({ s with tokens := FMap.insert s.tokens tok { k with kind := .rdq got } } : State).flew k.pop
    | _ => s)

/-- BARRIER_RELEASE (R130 step 3, R131, R298): the release of a phase reaches a core: its L view is self-invalidated and its
slots that took part continue; an abandoned one's mark goes, but for a bundle still to be executed again it says so. -/
def execBarrierRelease (cid core : Nat) (s : State) : Host.Outcome State Fault Refusal :=
  let mine := s.tokens.filter fun e => e.2.cid = cid && e.2.core = core && e.2.kind = .bar && e.2.arrived && e.2.out.isSome
  .next (if mine.isEmpty then s
  else
    let s := s.updCore core (·.selfInvalidate)
    mine.foldl (fun t e =>
      let t := (t.answerTok e.1 e.2 (.done [])).dropTok e.1
      t.updSlotV core (e.2.vf + 1) e.2.slot fun x =>
        { x with arrived := (x.arrived.filter fun m => m.tok ≠ e.1 || m.again).map fun m =>
            if m.tok = e.1 then { m with released := true } else m }) s)

/-- CNT_CFG_APPLY (R122 steps 3-5): a write that a slot has made, and that is ready, is applied; the slot goes on if it still waits for
it. -/
def execCntCfgApply (core slot : Nat) (s : State) : Host.Outcome State Fault Refusal :=
  let mine (w : CfgWrite) : Option Nat := match w.by_ with
    | .slot c vk n => if c = core ∧ n = slot then some vk else none
    | .packet _ _ => none
  .next (match s.cfgs.find? fun w => (mine w).isSome && s.cfgReady w with
  | some w =>
    (s.cfgWrite w).updSlotV core ((mine w).getD 0) slot fun x =>
      if x.cWait = some (.cntCfg w.cid w.e0 w.e1) then { x with cWait := some (.done []) } else x
  | none => s)

end Sys2Proof.Machine
end

