-- ==== Sys2Proof/Machine/Saffron.lean ====
section
/-! DEFINITION. Saffron slice queues (R177-R193, R326): the queue instructions, records and operators, what a queue operation
does on its arrival at the slice, the reservation of ways, and spread records. -/

namespace Sys2Proof.Machine

/-! ### Operators (R185) -/

/-- The absent code of an operator. -/
def qAbsent (op : Nat) : Half := if op = 2 ∨ op = 4 ∨ op = 5 then 0x80000000 else 0xFFFFFFFF

/-- A float operator. -/
def qFloat (op : Nat) : Bool := op = 3 || op = 6 || op = 7

/-- Canon: a NaN under a float operator is stored as 0x7FC0_0000 (R186). -/
def qCanon (op : Nat) (x : Half) : Half := if qFloat op && (fp32.unpack x.toNat).isNan then 0x7FC00000 else x

/-- Fold of a present word into a stored one: the new word, SAT, OVF (R185). -/
def qFold (op : Nat) (y x : Half) : Half × Bool × Bool :=
  let ny := fp32.unpack y.toNat
  let nx := fp32.unpack x.toNat
  let nan := ny.isNan || nx.isNan
  match op with
  | 0 => (x, false, false)
  | 1 => (y, false, false)
  | 2 =>
    let t := y.toInt + x.toInt
    if 2147483647 < t then (0x7FFFFFFF, true, false)
    else if t < -2147483647 then (0x80000001, true, false)
    else (BitVec.ofInt 32 t, false, false)
  | 3 =>
    if nan then (0x7FC00000, false, false)
    else
      let r := fp32.addNum .rne ny nx
      let inf (b : Nat) : Bool := b % 2 ^ 31 = fp32.inf
      (BitVec.ofNat 32 r.bits, false, inf r.bits && !inf y.toNat && !inf x.toNat)
  | 4 => (if y.toInt < x.toInt then x else y, false, false)
  | 5 => (if x.toInt < y.toInt then x else y, false, false)
  | 6 => (if nan then 0x7FC00000 else if numLt true ny nx then x else y, false, false)
  | 7 => (if nan then 0x7FC00000 else if numLt true nx ny then x else y, false, false)
  | 8 => (y ||| x, false, false)
  | _ => (y &&& x, false, false)

/-! ### Descriptors and queues (R177, R180, R181) -/

/-- A descriptor that the core refuses (R181). -/
def qBadDescriptor (vf : Nat) (e0 e1 : Word) : Bool :=
  let nw := e0.toNat % 16
  let nib (i : Nat) : Nat := e1.toNat / 16 ^ i % 16
  nw = 0 || 8 < nw || e0.toNat / 2 ^ 32 % 256 = 0 ||
  (e0.toNat / 2 ^ 23 % 512 ≠ 0x1FF && e0.toNat / 2 ^ 23 % 512 ≠ vf) ||
  (e0.getLsbD 20 && e0.toNat / 2 ^ 16 % 16 ≠ 0) ||
  ((List.range 8).any fun i => 10 ≤ nib i || (nw ≤ i && nib i ≠ 0)) ||
  (!e0.getLsbD 4 && e1.toNat % 2 ^ 32 ≠ 0) ||
  e0.toNat / 2 ^ 40 ≠ 0 || e0.toNat / 2 ^ 21 % 4 ≠ 0 || e0.toNat / 2 ^ 11 % 32 ≠ 0 || e0.toNat / 2 ^ 5 % 8 ≠ 0 ||
  e1.toNat / 2 ^ 32 ≠ 0

/-- The new queue of a descriptor. -/
def qNew (e0 e1 : Word) : Queue where
  ownVf := e0.toNat / 2 ^ 23 % 512
  keyed := e0.getLsbD 4
  nw := e0.toNat % 16
  ops := e1.setWidth 32
  cap := 64 * (e0.toNat / 2 ^ 8 % 8 + 1)
  wlim := e0.toNat / 2 ^ 32 % 256
  recs := []
  waiters := []

/-- The operator of a payload word; FIFO words use operator 0. -/
def Queue.op (q : Queue) (i : Nat) : Nat := if q.keyed then q.ops.toNat / 16 ^ i % 16 else 0

namespace Slice

/-- The ways that queues of some capacities need (R177): a record takes 128 bytes, a way holds 32 KiB. -/
def waysFor (caps : List Nat) : Nat := (caps.foldl (fun a c => a + 128 * c) 0 + 32767) / 32768

/-- The capacities of the live queues and of those whose ways are being made ready. -/
def caps (k : Slice) : List Nat := k.queues.vals.map (·.cap) ++ k.making.map (·.queue.cap)

/-- The reservation is kept at what the queues need (R177). -/
def reserve (k : Slice) : Slice := { k with resv := waysFor k.caps }

/-- An index is in use: by a live queue, or by one that is being made. -/
def taken (k : Slice) (i : Nat) : Bool := (FMap.find? k.queues i).isSome || k.making.any (·.idx = i)

/-- The index a descriptor asks for, or none where it is in use (R181). -/
def newIndex (k : Slice) (e0 : Word) : Option Nat :=
  if e0.getLsbD 20 then (List.range 16).find? fun i => !k.taken i
  else
    let i := e0.toNat / 2 ^ 16 % 16
    if !k.taken i then some i else none

/-- The refusal code of a Q.MAKE, if the slice refuses it (R181). -/
def refusal (k : Slice) (e0 e1 : Word) : Option Nat := match k.newIndex e0 with
  | none => some 1
  | some _ => if 8 < waysFor ((qNew e0 e1).cap :: k.caps) then some 2 else none

/-- The lines that stand in reserved ways. -/
def reservedLines (k : Slice) : List (Nat × L2Line) :=
  k.sets.flatMap fun e => (e.2.filter fun l => 16 - k.resv ≤ l.way).map fun l => (e.1, l)

end Slice

namespace State

/-- A queue by its QID (R177). -/
def queue? (s : State) (qid : Nat) : Option Queue := FMap.find? (s.slice (qid / 16)).queues (qid % 16)
/-- Replace a queue. -/
def setQueue (s : State) (qid : Nat) (q : Queue) : State :=
  s.updSlice (qid / 16) fun k => { k with queues := FMap.insert k.queues (qid % 16) q }

/-- %TVAL of trap 0x0C (R179). -/
def qTval (reason qid : Nat) : Word := BitVec.ofNat 64 (reason * 2 ^ 16 + qid % 2 ^ 14)

/-- A queue operation leaves the core after its checks (R179), or traps. -/
def queueOp (s : State) (form : Nat) (a : BitVec 6) (d b : Nat) (regs : List Word) (mark : Option Mark) : State :=
  let c := s.cur.core
  let v := (s.rg a).toNat
  let make : Bool := form = 3
  let sl := if make then v % 1024 else v % 2 ^ 14 / 16
  let bad (reason : Nat) : State := s.raise 0x0C (qTval reason (if make then v % 1024 else v % 2 ^ 14))
  if (if make then 2 ^ 10 else 2 ^ 14) ≤ v then bad 1
  else if !((s.part (s.runPid c)).any (·.hasPos sl)) then bad 2
  else if make && qBadDescriptor (s.runVf c) (regs.getD 0 0) (regs.getD 1 0) then bad 4
  else
    let q : QOp := { form := form, qid := if make then 16 * sl else v, d := d, b := b, regs := regs, mark := mark }
    (s.parkC (.request s.nextReq)).newReq
      { kind := .queue q, core := c, slot := s.cur.slot, vf := s.runVf c, key := 0, size := 0, slice := some (256 * sl)
        cached := false, waiting := false, tag := 0 }

/-! ### What an operation does on its arrival (R186-R190) -/

/-- The head of a queue's waiters continues (R190). -/
def wakeOne (s : State) (qid : Nat) (q : Queue) : Queue × State := match q.waiters with
  | [] => (q, s)
  | w :: r => ({ q with waiters := r }, s.updSlotV w.1 (w.2.2 + 1) w.2.1 fun x =>
      if x.cWait = some (.qWait qid) then { x with cWait := some (.done []) } else x)

end State

/-- A record that folds an ENQ's words (R186). -/
def QRec.fold1 (r : QRec) (q : Queue) (x : List Half) : QRec :=
  let r := (List.range q.nw).foldl (fun (r : QRec) i =>
    let xi := x.getD i 0
    let op := q.op i
    let w := r.words.getD i (0, 0)
    if xi = qAbsent op then r
    else if w.1 = 0 then { r with words := r.words.set i (1, qCanon op xi) }
    else
      let f := qFold op w.2 xi
      { r with words := r.words.set i (w.1 + 1, f.1), sat := r.sat || f.2.1, ovf := r.ovf || f.2.2 }) r
  let r := { r with fold := r.fold + 1 }
  { r with sealed := r.sealed || r.fold = 65535 || r.words.any (·.1 = 65535) }

/-- A new record (R186): absent words have count 0. -/
def QRec.new (q : Queue) (key : Half) (x : List Half) (m : Option Mark) : QRec where
  key := key
  words := (List.range q.nw).map fun i =>
    let xi := x.getD i 0
    if xi = qAbsent (q.op i) then (0, if q.keyed then qAbsent (q.op i) else xi) else (1, qCanon (q.op i) xi)
  fold := 0
  sealed := false
  sat := false
  ovf := false
  marks := m.toList
  poison := false

namespace State

/-- Add a mark to a record (R160): none while the force of a fifth mark's oldest predecessor is outstanding. -/
def recMark (s : State) (ms : List Mark) : Option Mark → Option (List Mark)
  | none => some ms
  | some m =>
    if ms.any (·.core = m.core) then some (addMark ms m)
    else match ms with
      | o :: _ :: _ :: _ :: _ => if s.markForced o false then some (addMark (ms.drop 1) m) else none
      | _ => some (addMark ms m)

/-- Enqueue into a queue (R186): the status and the state; none while a force is outstanding. A fold tells the caller. -/
def enqueue (s : State) (qid : Nat) (q : Queue) (key : Half) (x : List Half) (m : Option Mark) : Option (Nat × State) :=
  let fresh : Option (Nat × State) :=
    if q.cap ≤ q.recs.length then some (2, s)
    else
      let w := s.wakeOne qid { q with recs := q.recs ++ [QRec.new q key x m] }
      some (0, w.2.setQueue qid w.1)
  if !q.keyed then fresh
  else match q.recs.findIdx? fun r => r.key = key && !r.sealed with
    | none => fresh
    | some i => match q.recs[i]? with
      | none => fresh
      | some r => match s.recMark r.marks m with
        | none => none
        | some ms =>
          let r := { r.fold1 q x with marks := ms }
          some (if r.sealed then 3 else 1, s.setQueue qid { q with recs := q.recs.set i r })

/-- The registers a Q.DEQ writes (R189). -/
def deqRegs (d : Nat) (r : QRec) : List Wr :=
  let bit (b : Bool) (n : Nat) : Nat := if b then 2 ^ n else 0
  Wr.g d (BitVec.ofNat 64 (2 ^ 63 + bit r.sealed 62 + bit r.sat 61 + bit r.ovf 60 + r.fold)) ::
  Wr.g (d + 1) (r.key.zeroExtend 64) ::
  r.words.mapIdx fun i w => Wr.g (d + 2 + i) (BitVec.ofNat 64 (w.1 * 2 ^ 32 + w.2.toNat))

/-- Q.STAT's word (R183). -/
def statWord (q : Queue) : Word :=
  BitVec.ofNat 64 (2 ^ 63 + (if q.keyed then 2 ^ 62 else 0) + q.nw * 2 ^ 58 + q.waiters.length * 2 ^ 50 + q.cap * 2 ^ 32 +
    q.recs.length)

/-- Remove a queue (R182): its waiters fault, the reservation shrinks, and a request that found no way may find one now (R152). Lines that
a Q.MAKE under way has not yet emptied from a way that this releases stay there (assumption 38). -/
def freeQueue (s : State) (qid : Nat) (q : Queue) : State :=
  let s := q.waiters.foldl (fun t w => t.updSlotV w.1 (w.2.2 + 1) w.2.1 fun x =>
    if x.cWait = some (.qWait qid) then { x with cWait := some (.trap 0x0C (qTval 6 qid)) } else x) s
  (s.updSlice (qid / 16) fun k => Slice.reserve { k with queues := FMap.erase k.queues (qid % 16) }).retryStalled (qid / 16)

/-- A queue operation arrives at its slice and is performed in one step (R188): what its slot waits for next; none while a
force is outstanding. -/
def performQueue (s : State) (r : Req) (q : QOp) : Option (Wait × State) :=
  let fault (reason : Nat) : Option (Wait × State) := some (.trap 0x0C (qTval reason q.qid), s)
  if q.form = 3 then
    let e0 := q.regs.getD 0 0
    let e1 := q.regs.getD 1 0
    let sl := q.qid / 16
    match (s.slice sl).refusal e0 e1 with
    | some code => some (.done [.g q.d (BitVec.ofNat 64 (2 ^ 63 + code))], s)
    | none =>
      let i := ((s.slice sl).newIndex e0).getD 0
      let m : Making := { idx := i, core := r.core, slot := r.slot, vf := r.vf, d := q.d, queue := qNew e0 e1 }
      some (.qMake sl i, s.updSlice sl fun k => Slice.reserve { k with making := k.making ++ [m] })
  else match s.queue? q.qid with
  | none => if q.form = 5 then some (.done [.g q.d 0], s) else fault 1
  | some k =>
    if k.ownVf ≠ 0x1FF ∧ k.ownVf ≠ r.vf then fault 2
    else if (q.form = 0 ∧ 63 < q.b + k.nw) ∨ (q.form = 1 ∧ 63 < q.d + 1 + k.nw) then fault 3
    else match q.form with
    | 0 =>
      let words := q.regs.map fun w => w.setWidth 32
      let key : Half := if k.keyed then words.getD 0 0 else 0
      match s.enqueue q.qid k key (if k.keyed then words.drop 1 else words) q.mark with
      | none => none
      | some (st, t) =>
        some (.done [.g q.d (BitVec.ofNat 64 st)], if st = 1 ∨ st = 3 then t.countFor r.core (r.vf + 1) 0x50 r.slot 1 else t)
    | 1 => match k.recs with
      | [] => some (.done [.g q.d 0], s)
      | e :: es =>
        let t := s.setQueue q.qid { k with recs := es }
        if e.poison then some (.trap 0x0B (BitVec.ofNat 64 q.qid), t)
        else some (.acquire (forcesOf e.marks) false (deqRegs q.d e) true, t)
    | 2 =>
      if !k.recs.isEmpty then some (.done [], s)
      else if k.wlim ≤ k.waiters.length then fault 5
      else some (.qWait q.qid, s.setQueue q.qid { k with waiters := k.waiters ++ [(r.core, r.slot, r.vf)] })
    | 4 => some (.done [], s.freeQueue q.qid k)
    | _ => some (.done [.g q.d (statWord k)], s)

/-- A queue request is served at its slice; with no mark to force a Q.DEQ's acquire takes place at once (R189). A Q.WAIT whose slot
has been freed or withdrawn meanwhile joins no list (R190, R228). -/
def serveQueue (s : State) (rid : Nat) (r : Req) (q : QOp) : State :=
  if q.form = 2 ∧ (s.slotV r.core (r.vf + 1) r.slot).cWait ≠ some (.request rid) then s.endReq rid
  else match s.ticked.performQueue r q with
  | none => s
  | some (w, t) =>
    let t := t.endReq rid
    if (t.slotV r.core (r.vf + 1) r.slot).cWait ≠ some (.request rid) then t
    else match w with
      | .acquire [] _ ws _ => (t.updCore r.core (·.selfInvalidate)).setWait r.core (r.vf + 1) r.slot (.done ws)
      | _ => t.setWait r.core (r.vf + 1) r.slot w

end State

/-! ### The instructions (R178, R326) -/

/-- Q.ENQ (R186): its record carries the mark of R164 at DEV (R173). -/
def execQEnq (d a b : BitVec 6) (s : State) : Host.Outcome State Fault Refusal :=
  .next (s.queueOp 0 a d.toNat b.toNat ((List.range 9).map fun i => s.rgn (b.toNat + i)) (s.releaseMark s.cur.core false))
/-- Q.DEQ (R189). -/
def execQDeq (d a : BitVec 6) (s : State) : Host.Outcome State Fault Refusal := .next (s.queueOp 1 a d.toNat 0 [] none)
/-- Q.WAIT (R190). -/
def execQWait (a : BitVec 6) (s : State) : Host.Outcome State Fault Refusal := .next (s.queueOp 2 a 0 0 [] none)
/-- Q.MAKE (R181). -/
def execQMake (d a b : BitVec 6) (s : State) : Host.Outcome State Fault Refusal :=
  .next (s.queueOp 3 a d.toNat b.toNat [s.rg b, s.rgn (b.toNat + 1)] none)
/-- Q.FREE (R182). -/
def execQFree (a : BitVec 6) (s : State) : Host.Outcome State Fault Refusal := .next (s.queueOp 4 a 0 0 [] none)
/-- Q.STAT (R183). -/
def execQStat (d a : BitVec 6) (s : State) : Host.Outcome State Fault Refusal := .next (s.queueOp 5 a d.toNat 0 [] none)

/-! ### Events -/

namespace State

/-- A slice writes the dirty lines of its reserved ways back, as far as its reserved entries and its filter go (R152, R181). -/
def flushReserved (s : State) (sl : Nat) : State :=
  (s.slice sl).reservedLines.foldl (fun t e =>
    let k := t.slice sl
    if e.2.dirty && k.wb.length < Config.wbEntries && k.filter.length < Config.filterSize then
      (t.updSlice sl fun k => { (k.putLine e.1 { e.2 with dirty := false }) with
        wb := k.wb ++ [e.2.line], filter := k.filter ++ [e.2.line] }).publishLine e.2.line
    else t) s

end State

/-- The queue that a slot's Q.MAKE is having made, the oldest one, with its slice (R181). -/
def State.makingOf (s : State) (core slot : Nat) : Option (Nat × Making) := s.slices.findSome? fun k =>
  (k.2.making.find? fun m => m.core = core && m.slot = slot).map fun m => (k.1, m)

/-- QUEUE_RESERVATION_DONE (R181): the new ways' dirty lines are written back and the MXE's pins and misses waited for; then
the ways are empty, the queue exists, and the slot gets its QID, if it still waits for it. -/
def execQueueReservationDone (core slot : Nat) (s : State) : Host.Outcome State Fault Refusal :=
  .next (match s.makingOf core slot with
  | none => s
  | some (sl, m) =>
    let s := s.flushReserved sl
    let ls := (s.slice sl).reservedLines
    if ls.any fun e => e.2.dirty || e.2.pins ≠ 0 || ((s.slice sl).entry? e.2.line).isSome then s
    else
      let t := ls.foldl (fun t e => (t.updSlice sl fun k => k.dropLine e.1 e.2.line).leaveClean e.2.line) s
      let t := t.updSlice sl fun k => { k with making := k.making.erase m, queues := FMap.insert k.queues m.idx m.queue }
      t.updSlotV core (m.vf + 1) slot fun x =>
        if x.cWait = some (.qMake sl m.idx) then
          { x with cWait := some (.done [.g m.d (BitVec.ofNat 64 (16 * sl + m.idx))]) }
        else x)

/-- SPREAD_RECORD (R127, R193): the record of a spread token reaches its queue: enqueued, or dropped with DROP set. With
its partition gone there is no queue (assumption 61). -/
def execSpreadRecord (tok : Nat) (s : State) : Host.Outcome State Fault Refusal :=
  .next (match FMap.find? s.tokens tok with
  | none => s
  | some k => match k.kind, k.out, s.part (s.cid k.cid).part with
    | .sprd words, some (j, val), some p =>
      let e := s.cid k.cid
      let qid := 16 * p.sliceAt ((e.spb + j) % p.slices) + e.sqix
      let r : Option (Nat × State) := match s.queue? qid with
        | some q =>
          if (q.ownVf ≠ 0x1FF ∧ q.ownVf ≠ k.vf) ∨ q.keyed ∨ q.nw ≠ 5 then none else s.enqueue qid q 0 (val :: words) none
        | none => none
      let (drop, t) := match r with
        | some (0, t) => (0, t)
        | _ => (1, s)
      ((t.answerTok tok k (.done [.g k.d (BitVec.ofNat 64 (drop * 2 ^ 62 + qid * 2 ^ 48 + val.toNat))])).dropTok tok).flew k.pop
    | .sprd _, some (_, val), none => ((s.answerTok tok k (.done [.g k.d (BitVec.ofNat 64 (2 ^ 62 + val.toNat))])).dropTok tok).flew k.pop
    | _, _, _ => s)

end Sys2Proof.Machine
end

