-- ==== Sys2Proof/Machine/Paging.lean ====
section
/-! DEFINITION. Page walks and page faults (R232-R236), and the firmware's TLB instructions: TLBW, TLBI with its shoot-downs, and
FREP (R231, R235, R237, R238, R341). -/

namespace Sys2Proof.Machine

/-! ### Table entries (R233) -/

/-- What one table entry is at a level. -/
inductive Pte where
  | none
  | error
  /-- A pointer to the next table. -/
  | table (addr : Nat)
  /-- A page: its base, SIZE, and the bits [6:0]. -/
  | page (base size bits : Nat)
  deriving DecidableEq, Repr

/-- Log2 of the bytes of a page of a SIZE. -/
def sizeLog (z : Nat) : Nat := if z = 0 then 16 else if z = 1 then 21 else 30

/-- Read a table entry at a level (R233): every combination not listed is a walk error. -/
def pteOf (level e : Nat) : Pte :=
  let addr := e / 2 ^ 12 % 2 ^ 40 * 2 ^ 12
  let z := e / 2 ^ 7 % 4
  let align := if level = 1 then 17 else 12
  if e % 2 = 0 then .none
  else if e / 2 ^ 10 % 4 ≠ 0 then .error
  else if e / 2 ^ 9 % 2 = 1 then (if level = 0 ∨ addr % 2 ^ align ≠ 0 then .error else .table addr)
  else if (level = 1 ∧ z = 2) ∨ (level = 0 ∧ z ≤ 1) then
    (if addr % 2 ^ sizeLog z = 0 then .page addr z (e % 2 ^ 7) else .error)
  else .error

/-- The index of an address in the table of a level. -/
def pteIndex (level a : Nat) : Nat :=
  if level = 3 then a / 2 ^ 48 % 512 else if level = 2 then a / 2 ^ 39 % 512 else if level = 1 then a / 2 ^ 30 % 512
  else a / 2 ^ 16 % 2 ^ 14

/-- A walk's result: the physical (or guest physical) address of the byte asked for, SIZE and the bits [6:0], or the CAUSE of
R234. -/
inductive Walked where
  | ok (addr size bits : Nat)
  | fail (cause : Nat)
  deriving DecidableEq, Repr

namespace State

/-- A table entry of a partition, read at its home. -/
def readPte (s : State) (pid pa : Nat) : Option Nat := match s.physKey pid pa with
  | some key => if s.poisoned key 8 then none else some (s.home key 8)
  | none => none

/-- The stage-2 walk from a table of a level downwards (R233). -/
def walk2 (s : State) (pid gpa : Nat) : Nat → Nat → Nat → Walked
  | 0, _, _ => .fail 5
  | fuel + 1, level, table => match s.readPte pid (table + 8 * pteIndex level gpa) with
    | none => .fail 5
    | some e => match pteOf level e with
      | .none => .fail 1
      | .error => .fail 5
      | .table t => s.walk2 pid gpa fuel (level - 1) t
      | .page base z bits => .ok (base + gpa % 2 ^ sizeLog z) z bits

/-- Stage 2 of a guest physical address: the root holds 16 entries (GPA[51:48]). -/
def stage2 (s : State) (pid s2root gpa : Nat) : Walked := s.walk2 pid (gpa % 2 ^ 52) 4 3 s2root

/-- The stage-1 walk: every pointer is itself translated by stage 2 (R233). -/
def walk1 (s : State) (pid s2root va : Nat) : Nat → Nat → Nat → Walked
  | 0, _, _ => .fail 5
  | fuel + 1, level, table => match s.stage2 pid s2root (table + 8 * pteIndex level va) with
    | .fail q => .fail q
    | .ok pa _ _ => match s.readPte pid pa with
      | none => .fail 5
      | some e => match pteOf level e with
        | .none => .fail 1
        | .error => .fail 5
        | .table t => s.walk1 pid s2root va fuel (level - 1) t
        | .page base z bits => .ok (base + va % 2 ^ sizeLog z) z bits

end State

/-- The TLB entry of a two-stage mapping: the smaller page, the permissions of both stages, G of stage 1, F of stage 2, C of both
(assumption 15). -/
def entryFor (vf va pa z1 b1 z2 b2 : Nat) : TlbEntry :=
  let z := Nat.min z1 z2
  let l := sizeLog z
  let bit (b i : Nat) : Nat := b / 2 ^ i % 2
  let both (i : Nat) : Nat := bit b1 i * bit b2 i
  { lo := BitVec.ofNat 64 (va % 2 ^ 57 / 2 ^ l * 2 ^ l / 2 ^ 16 * 2 ^ 23 + vf % 512 * 2 ^ 14 + z * 2 ^ 12 + bit b1 6 * 2 ^ 11 +
      both 3 * 8 + both 2 * 4 + both 1 * 2 + 1)
    hi := BitVec.ofNat 64 (pa / 2 ^ l * 2 ^ l / 2 ^ 16 * 2 ^ 16 + both 4 * 4 + bit b2 5 * 2) }


/-- S1ROOT: the guest physical address of the VF's level-3 stage-1 table (R246). -/
def Vf.s1root (v : Vf) : Nat := v.w1.toNat / 2 ^ 12 % 2 ^ 40 * 2 ^ 12
/-- S2ROOT: the physical address of the partition's level-3 stage-2 table (R246). -/
def Vf.s2root (v : Vf) : Nat := v.w2.toNat / 2 ^ 12 % 2 ^ 40 * 2 ^ 12

namespace State

/-- A walk of the CSC (R232, R233): the entry, or the CAUSE. -/
def walkEntry (s : State) (w : Walk) : TlbEntry ⊕ Nat := match s.vfRec w.vf with
  | none => .inr 1
  | some v =>
    let va := w.vpn * 2 ^ 16
    match s.walk1 w.pid v.s2root va 4 3 v.s1root with
    | .fail q => .inr q
    | .ok gpa z1 b1 => match s.stage2 w.pid v.s2root gpa with
      | .fail q => .inr q
      | .ok pa z2 b2 => .inl (entryFor w.vf va pa z1 b1 z2 b2)

/-! ### Page faults (R234-R236) -/

/-- The place of a core in its cluster, y-major: FID [6:4] (R234). -/
def placeInCluster (s : State) (c : Nat) : Nat := let p := s.physOf c; p / 32 % 4 * 2 + p % 2

/-- A VF turns fatal (R228, R236): each of its populations ends and is reported with the faulting slot's data. -/
def fatalVf (s : State) (vf : Nat) (gtid : BitVec 48) (tpc va : Word) : State :=
  let s := (s.pops.filter fun p => p.2.vf = vf && p.2.status = .running).foldl (fun t p =>
    ((t.endPop p.1 .fatal).report (.fatal p.1 gtid 0x05 tpc va)).fatalWord p.1 gtid 0x05) s
  match s.vfRec vf with
  | some v => { s with vfs := FMap.insert s.vfs vf { v with fatal := true } }
  | none => s

end State

/-- The number of a cluster's TLB among the TLBs a shoot-down waits for or a walk leaves; a core's TLB has the core's number. -/
def clusterTlb (cl : Nat) : Nat := 2 * Config.cscBase + cl

/-- The CAUSE of a missing permission (R234). -/
def TlbEntry.missing (e : TlbEntry) (k : Access) : Nat :=
  if k = 3 then 4 else if (k = 0 ∨ k = 2) ∧ !e.r then 2 else 3

namespace State

/-- A page fault is posted and the slot is blocked on its mailbox (R234); a fifth fault on one VA and cause that follows replays is
fatal to the VF (R236). -/
def postFault (s : State) (c vk n : Nat) (va : Word) (k : Access) (cause : Nat) : State :=
  let x := s.slotV c vk n
  let count := match x.replay with
    | some (v, q, m) => if v = va ∧ q = cause then m + 1 else 0
    | none => 0
  if 4 ≤ count then s.fatalVf (vk - 1) x.gtid x.pc va
  else
    let w2 := (vk - 1) * 2 ^ 23 + count * 2 ^ 20 + k * 2 ^ 18 + cause * 2 ^ 12 + s.placeInCluster c * 16 + n
    (s.updSlotV c vk n fun x => { x with cWait := some .fault, replay := some (va, cause, count) }).updCluster (s.clusterOf c) fun q =>
      { q with mailbox := q.mailbox ++ [{ w0 := va, w1 := x.gtid.zeroExtend 64, w2 := BitVec.ofNat 64 w2 }] }

/-- A slot goes on with its bundle, executed again. -/
def retry (s : State) (c vk n : Nat) : State := s.updSlotV c vk n fun x =>
  { undoSlot x with readyAt := (s.core c).cyc.toNat + 1 }

/-- A walk ends for a slot of its VF that waits for it (R232), whether the VF runs or not: TEND's frame accesses run to their end
while it is switched out (R240). -/
def walkSlot (s : State) (c n : Nat) (w : Walk) (r : TlbEntry ⊕ Nat) : State :=
  let vk := w.vf + 1
  match (s.slotV c vk n).cWait with
  | some (.walk va k) =>
    if va % 2 ^ 57 / 2 ^ 16 = w.vpn then match r with
      | .inl e =>
        if e.allows k then
          (if w.keep.contains c then s
           else s.updCore c fun q => { q with tlb := tlbFill q.tlb e w.vf (BitVec.ofNat 64 va) }).retry c vk n
        else s.postFault c vk n (BitVec.ofNat 64 va) k (e.missing k)
      | .inr q => s.postFault c vk n (BitVec.ofNat 64 va) k q
    else s
  | _ => s

/-- A walk ends for an engine job that waits for it: where it fails, the job faults with REASON 1 and nothing is posted (R201). -/
def walkJob (s : State) (cl : Nat) (w : Walk) (r : TlbEntry ⊕ Nat) (j : Job) : State := match j.walking with
  | some (va, k) =>
    if va.toNat % 2 ^ 57 / 2 ^ 16 = w.vpn ∧ j.vf = w.vf then
      let ok : Bool := match r with
        | .inl e => e.allows k
        | .inr _ => false
      let j := { j with walking := none }
      if ok then s.setJob cl j else s.failJob cl j 1 va
    else s
  | none => s

end State

/-- WALK_DONE (R232): one of the CSC's first 16 walks ends. A valid mapping is written to the cluster TLB and releases the
accesses that wait and have its permission; the others are posted as page faults. -/
def execWalkDone (cluster idx : Nat) (s : State) : Host.Outcome State Fault Refusal :=
  .next (match (s.cluster cluster).walks[idx]? with
  | none => s
  | some w =>
    if Config.walks ≤ idx then s
    else
      let r := s.walkEntry w
      let s := s.updCluster cluster fun k =>
        let k := { k with walks := k.walks.eraseIdx idx }
        match r with
        | .inl e => if w.keep.contains (clusterTlb cluster) then k else k.tlbPut e
        | .inr _ => k
      let s := (s.coresOf cluster).foldl (fun t c => (List.range 16).foldl (fun t n => t.walkSlot c n w r) t) s
      (s.cluster cluster).running.foldl (fun t j => t.walkJob cluster w r j) s)

/-! ### TLBW, TLBI, FREP -/

/-- The walks of a cluster that a written entry maps do not write some of its TLBs (R341). -/
def Cluster.keepFrom (k : Cluster) (e : TlbEntry) (tlbs : List Nat) : Cluster :=
  { k with walks := k.walks.map fun w =>
      if e.hits w.vf (BitVec.ofNat 64 (w.vpn * 2 ^ 16)) then { w with keep := tlbs ++ w.keep } else w }

/-- An entry is written into a cluster TLB by TLBW (R231, R341). -/
def Cluster.tlbSet (k : Cluster) (e : TlbEntry) : Cluster :=
  let t := k.tlb.map fun i => (i.1, i.2.filter (!e.displaces ·))
  { k with tlb := FMap.insert t e.set (tlbWrite (FMap.getD t e.set []) e e.displaces Config.clusTlbWays) }

/-- TLBW.CORE (R231, R341): the issuing core's TLB; a malformed entry takes trap 0x01. -/
def execTlbwCore (a b : BitVec 6) (s : State) : Host.Outcome State Fault Refusal :=
  let e : TlbEntry := { lo := s.rg a, hi := s.rg b }
  let c := s.cur.core
  .next (if e.malformed then s.illegal
  else (s.updCore c fun k => { k with tlb := tlbWrite k.tlb e e.displaces Config.coreTlb }).updCluster (s.clusterOf c)
    (·.keepFrom e [c]))

/-- TLBW.CLUS (R231, R341): the issuing cluster's TLB; no core of the cluster keeps an entry that it displaces. -/
def execTlbwClus (a b : BitVec 6) (s : State) : Host.Outcome State Fault Refusal :=
  let e : TlbEntry := { lo := s.rg a, hi := s.rg b }
  let cl := s.clusterOf s.cur.core
  .next (if e.malformed then s.illegal
  else ((s.coresOf cl).foldl (fun t c => t.updCore c fun k => { k with tlb := k.tlb.filter (!e.displaces ·) }) s).updCluster cl
    fun k => (k.tlbSet e).keepFrom e (clusterTlb cl :: s.coresOf cl))

/-- An entry that a shoot-down invalidates (R237): form 0 PAGE, 1 VF, 2 ALL. -/
def TlbEntry.shot (e : TlbEntry) (form : Nat) (va : Word) (vf : Nat) : Bool := match form with
  | 0 => (va.toNat % 2 ^ 57) / 2 ^ e.pageLog = e.vpn * 2 ^ 16 / 2 ^ e.pageLog && (e.vf = vf || e.glob)
  | 1 => e.vf = vf && !e.glob
  | _ => true

namespace State

/-- The partition whose cluster a core stands in: that of the running VF, or for a service core the one that holds the cluster. -/
def pidAt (s : State) (c : Nat) : Nat :=
  if Config.cscBase ≤ c then match List.find? (fun (p : Nat × Part) => p.2.hasCluster (c - Config.cscBase)) s.parts with
    | some p => p.1
    | none => 0
  else s.runPid c

/-- Every TLB of a partition (R237): its clusters', their cores' and service cores'. -/
def tlbsOf (s : State) (pid : Nat) : List Nat := match s.part pid with
  | none => []
  | some p => ((List.range Config.clusters).filter p.hasCluster).flatMap fun cl => clusterTlb cl :: s.coresOf cl

/-- TLBI parks its slot until every TLB of the partition has acknowledged (R237, R341). -/
def tlbi (s : State) (form : Nat) (va : Word) (vf : Nat) : State :=
  s.parkC (.shoot form va vf (s.tlbsOf (s.pidAt s.cur.core)))

/-- A PQ entry was translated through an entry that a shoot-down invalidates (R238). -/
def shotEntry (l : List TlbEntry) (form : Nat) (va : Word) (vf : Nat) (q : PqEntry) : Bool :=
  (match form with
    | 0 => q.va.toNat % 2 ^ 57 / 2 ^ 16 = va.toNat % 2 ^ 57 / 2 ^ 16 && q.vf = vf
    | 1 => q.vf = vf
    | _ => true) || l.any fun e => e.shot form va vf && e.hits q.vf q.va

/-- Invalidate a TLB's matching entries; with those of a core's the ones of its cluster's go, from which the core would take them again
(R229, R238). -/
def shootTlb (s : State) (tlb form : Nat) (va : Word) (vf : Nat) : State :=
  let shared (t : State) (cl : Nat) : State := t.updCluster cl fun k =>
    { k with tlb := k.tlb.map fun e => (e.1, e.2.filter fun x => !x.shot form va vf) }
  if 2 * Config.cscBase ≤ tlb then shared s (tlb - 2 * Config.cscBase)
  else shared (s.updCore tlb fun k => { k with tlb := k.tlb.filter fun x => !x.shot form va vf }) (s.clusterOf tlb)

end State

/-- TLBI.PAGE (R237). -/
def execTlbiPage (a b : BitVec 6) (s : State) : Host.Outcome State Fault Refusal :=
  .next (s.tlbi 0 (s.rg a) ((s.rg b).toNat % 512))
/-- TLBI.VF (R237). -/
def execTlbiVf (b : BitVec 6) (s : State) : Host.Outcome State Fault Refusal := .next (s.tlbi 1 0 ((s.rg b).toNat % 512))
/-- TLBI.ALL (R237). -/
def execTlbiAll (s : State) : Host.Outcome State Fault Refusal := .next (s.tlbi 2 0 0)

/-- TLB_SHOOTDOWN_ACK (R238): a TLB sends home the PQ entries translated through what it is to lose; with those home, a scratchpad
bank of another VF being exchanged first (R242), it invalidates its entries and acknowledges. -/
def execTlbShootdownAck (core slot tlb : Nat) (s : State) : Host.Outcome State Fault Refusal :=
  .next (match (s.slot core slot).cWait with
  | some (.shoot form va vf left) =>
    if !left.contains tlb then s
    else
      let l := (s.core tlb).tlb
      let hit (t : State) : List PqEntry := (t.core tlb).pq.filter (State.shotEntry l form va vf)
      let s := (hit s).foldl (fun t e => if t.bankReady e.key e.vf then (t.tryDrain tlb e).getD t else t.askKeyBank e.key e.vf) s
      if tlb < 2 * Config.cscBase && !(hit s).isEmpty then s
      else
        let left := left.filter (· ≠ tlb)
        (s.shootTlb tlb form va vf).updSlot core slot fun x =>
          { x with cWait := some (if left.isEmpty then .done [] else .shoot form va vf left) }
  | _ => s)

namespace State

/-- The blocked slot a fault id names in the issuing cluster: its core, its VF's key, its number (R234, R235). Of two VFs of one core with a
fault in that slot the running one's is named (assumption 81). -/
def faulted (s : State) (g : Word) : Option (Nat × Nat × Nat) :=
  if 2 ^ 7 ≤ g.toNat then none
  else
    let cl := s.clusterOf s.cur.core
    let i := g.toNat / 16
    let n := g.toNat % 16
    match s.logicalOf (32 * (4 * (cl / 16) + i / 2) + 2 * (cl % 16) + i % 2) with
    | none => none
    | some c =>
      let vk := s.waitVk c n (· = .fault)
      if (s.slotV c vk n).cWait = some .fault then some (c, vk, n) else none

/-- A fault's record leaves the mailbox, with every other of its FID (assumption 81). -/
def clearFault (s : State) (g : Word) : State := s.updCluster (s.clusterOf s.cur.core) fun k =>
  { k with mailbox := k.mailbox.filter fun r => r.w2.toNat % 128 ≠ g.toNat }

end State

/-- FREP.RETRY (R235): the core copies the cluster TLB's entry and the slot executes its bundle again. -/
def execFrepRetry (a : BitVec 6) (s : State) : Host.Outcome State Fault Refusal :=
  let g := s.rg a
  .next (match s.faulted g with
  | none => s
  | some (c, vk, n) =>
    let va := ((s.slotV c vk n).replay.getD (0, 0, 0)).1
    let s := match (s.cluster (s.clusterOf c)).tlbGet (vk - 1) va with
      | some e => (s.updCluster (s.clusterOf c) (·.tlbUse e)).updCore c fun k =>
          { k with tlb := tlbFill k.tlb e (vk - 1) va }
      | none => s
    (s.retry c vk n).clearFault g)

/-- FREP.KILL (R235): the slot takes trap 0x05 with the VA; one whose VF does not run takes it when its VF runs again (R240). -/
def execFrepKill (a : BitVec 6) (s : State) : Host.Outcome State Fault Refusal :=
  let g := s.rg a
  .next (match s.faulted g with
  | none => s
  | some (c, vk, n) =>
    let va := ((s.slotV c vk n).replay.getD (0, 0, 0)).1
    let s := s.updSlotV c vk n fun x => { x with replay := none }
    let s := if vk = s.vk c && (s.slot c n).mode != SlotMode.halted then
        (s.takeTrap c n true 0x05 va).updSlot c n fun x => { x with fate := .ok, readyAt := (s.core c).cyc.toNat + 1 }
      else s.updSlotV c vk n fun x => { x with cWait := some (.trap 0x05 va) }
    s.clearFault g)

end Sys2Proof.Machine
end

