-- ==== Sys2Proof/Machine/Mxe.lean ====
section
/-! DEFINITION. The matrix engine (R106, R111-R114, R206-R213, R321, R322): MX instructions, the start of jobs, k-blocks, drains,
loads, the torus, and completion. -/

namespace Sys2Proof.Machine

/-! ### The instructions -/

/-- MX.MUL: AF's and BF's tables are captured (R321). -/
def execMxMul (d a : BitVec 6) (s : State) : Host.Outcome State Fault Refusal :=
  let f := s.src.slot.fmtd
  .next (s.withFmt (fmtdAF f) false fun t => s.withFmt (fmtdBF f) false fun u =>
    s.submit d false (s.jobOf 2 0 a 8 (State.tables2 (fmtdAF f) (fmtdBF f) t u) #v[0, 0, 0, 0]))
/-- MX.ROT. -/
def execMxRot (d a : BitVec 6) (s : State) : Host.Outcome State Fault Refusal :=
  .next (s.submit d false (s.jobOf 3 0 a 2 [] #v[0, 0, 0, 0]))
/-- MX.DRAIN: OF's table is captured, and under SR four outputs are drawn (R100). -/
def execMxDrain (d a : BitVec 6) (s : State) : Host.Outcome State Fault Refusal :=
  let f := s.src.slot.fmtd
  .next (s.withFmt (fmtdOF f) true fun t =>
    s.submitDrawing d (fmtdRnd f = 2) false fun r => s.jobOf 4 0 a 3 (State.tableOf (fmtdOF f) t) r)
/-- MX.ZERO. -/
def execMxZero (d a : BitVec 6) (s : State) : Host.Outcome State Fault Refusal :=
  .next (s.submit d false (s.jobOf 5 0 a 1 [] #v[0, 0, 0, 0]))
/-- MX.LOAD: AF's table is captured. -/
def execMxLoad (d a : BitVec 6) (s : State) : Host.Outcome State Fault Refusal :=
  let f := s.src.slot.fmtd
  .next (s.withFmt (fmtdAF f) false fun t =>
    s.submit d false (s.jobOf 6 0 a 3 (State.tableOf (fmtdAF f) t) #v[0, 0, 0, 0]))

/-! ### Descriptors (R207, R208, R210-R212) -/

namespace Job

/-- The tile an MX job names. -/
def tile (j : Job) : Nat :=
  (match j.kind with
  | 2 => j.reg 5
  | 4 => j.reg 2
  | 6 => j.reg 2
  | _ => j.reg 0).toNat % 64
/-- KEEP, or CLEAR of a drain. -/
def keep (j : Job) : Bool := (match j.kind with
  | 2 => j.reg 5
  | 4 => j.reg 2
  | _ => j.reg 0).getLsbD 8
/-- K of a multiply. -/
def mulK (j : Job) : Nat := (j.reg 4).toNat % 2 ^ 13
/-- Bits other than [8] and [5:0] are set. -/
def reserved (v : Word) : Bool := v &&& ~~~0x13F#64 ≠ 0
/-- A format that MX.MUL does not take. -/
def mulFmtBad (f : BitVec 4) : Bool := f = 0 || f = 3 || f = 4 || f = 15
/-- A value that is no multiple of 16 (R207). -/
def off16 (v : Word) : Bool := v.toNat % 16 ≠ 0

/-- K of a rotation (R210): the reserved bits above it are ignored (R7). -/
def rotK (j : Job) : Nat := (j.reg 1).toNat % 256

/-- An MX job whose descriptor is refused, REASON 4. Of MX.ROT only a K outside its list is refused (assumption 36: R201 lists R210
under REASON 4, and R210 states no refusal of its own, so R7 ignores its reserved bits). -/
def mxBad (j : Job) : Bool := match j.kind with
  | 2 =>
    mulFmtBad (fmtdAF j.fmtd) || mulFmtBad (fmtdBF j.fmtd) || j.mulK < 32 || 4096 < j.mulK || j.mulK % 32 ≠ 0 ||
    (j.keep && 128 < j.mulK) || (j.reg 4).toNat / 2 ^ 13 ≠ 0 || reserved (j.reg 5) ||
    (fmtdSmode j.fmtd = 0 && (j.reg 6 ≠ 0 || j.reg 7 ≠ 0)) ||
    [0, 1, 2, 3, 6, 7].any fun i => off16 (j.reg i)
  | 3 => !([32, 64, 96, 128].contains j.rotK)
  | 4 => reserved (j.reg 2) || fmtdOF j.fmtd = 15 || off16 (j.reg 0) || off16 (j.reg 1)
  | 5 => 64 ≤ (j.reg 0).toNat
  | _ => 64 ≤ (j.reg 2).toNat || fmtdAF j.fmtd = 15 || off16 (j.reg 0) || off16 (j.reg 1)

end Job

/-! ### Products (R112, R113) -/

/-- The exact sum of some terms of a k-block: scaled by 2^554, with infinities and NaN kept apart, and how many were present. -/
structure KSum where
  nan : Bool := false
  pinf : Bool := false
  ninf : Bool := false
  sum : Int := 0
  n : Nat := 0
  deriving DecidableEq, Repr

/-- One product of present operands under two scale codes (R106, R112). A product of 0 and an infinity has no value in R112: its term counts
as NaN (assumption 80). -/
def KSum.term (a : KSum) (x y : Num) (sa sb : Nat) : KSum :=
  let a := { a with n := a.n + 1 }
  if sa = 255 || sb = 255 || x.isNan || y.isNan || badProduct x y then { a with nan := true }
  else match exactProduct x y with
    | .inf s => if s then { a with ninf := true } else { a with pinf := true }
    | .fin s n _ => { a with sum := a.sum + signedNum s (n * 2 ^ (sa + sb)) }
    | .nan _ => { a with nan := true }

/-- The k-block's sum of a row of A and a column of B; absent operands (none) contribute nothing. -/
def kDot (sa sb : Nat) : List (Option Num) → List (Option Num) → KSum → KSum
  | some x :: r, some y :: q, a => kDot sa sb r q (a.term x y sa sb)
  | _ :: r, _ :: q, a => kDot sa sb r q a
  | _, _, a => a

/-- The accumulator after a k-block (R112). Where the accumulator and the sum add up to exactly 0 the sign of the zero is the free value
`neg` (assumption 33: R112 rounds an exact real and states no sign for 0). -/
def KSum.addTo (t : KSum) (acc : Half) (neg : Bool) : Half :=
  let x := fp32.unpack acc.toNat
  if x.isNan || t.nan || (t.pinf && t.ninf) then 0x7FC00000
  else if t.n = 0 then acc
  else if t.pinf || t.ninf then
    match x with
    | .inf s => if s = t.ninf then acc else 0x7FC00000
    | _ => if t.ninf then 0xFF800000 else 0x7F800000
  else match x with
    | .fin s n _ =>
      let v := signedNum s (n * 2 ^ 404) + t.sum
      if v = 0 then (if neg then 0x80000000 else 0)
      else BitVec.ofNat 32 (fp32.finish .rne (v < 0) v.natAbs (2 ^ 554)).bits
    | _ => acc

/-- An FP32 pattern as an operand: absent is none. -/
def operand (x : Half) : Option Num := if fp32.isAbsent x.toNat then none else some (fp32.unpack x.toNat)

/-- Columns of rows. -/
def transpose (n : Nat) (rows : List (List (Option Num))) : List (List (Option Num)) :=
  (List.range n).map fun j => rows.map fun r => r.getD j none

/-- An element of an empty tile. -/
def AcElem.zero : AcElem := { val := 0, cnt := 0, poison := false }

/-- The elements of a row of a tile. -/
def Tile.row (t : Tile) (r : Nat) : List AcElem :=
  let es := t.elems.filter fun e => e.1 / 128 = r
  (List.range 128).map fun c => FMap.getD es (128 * r + c) AcElem.zero

/-- Replace a row of a tile. -/
def Tile.setRow (t : Tile) (r : Nat) (es : List AcElem) : Tile :=
  { t with elems := t.elems.filter (fun e => e.1 < 128 * r) ++ (es.zipIdx.map fun e => (128 * r + e.2, e.1)) ++
      t.elems.filter fun e => 128 * r + 128 ≤ e.1 }

/-- An element after a k-block whose sum it takes (R112, R113). -/
def AcElem.add (e : AcElem) (k : KSum) (neg : Bool) : AcElem := { e with val := k.addTo e.val neg, cnt := Nat.min (e.cnt + k.n) 65535 }

/-- A tile after a k-block, and the products counted (R112, R113); `free` numbers the free sign of the first element (assumption
33). -/
def Tile.addBlock (t : Tile) (a b : KPart) (free : Nat) : Tile × Nat :=
  let rows := a.rows.map (·.map operand)
  let cols := transpose 128 (b.rows.map (·.map operand))
  rows.zipIdx.foldl (fun (acc : Tile × Nat) r =>
    let es := ((acc.1.row r.2).zip cols.zipIdx).map fun e =>
      (e.1, kDot (a.scales.getD r.2 127) (b.scales.getD e.2.2 127) r.1 e.2.1 {})
    let sign (c : Nat) : Bool := (Config.freeValue (free + (128 * r.2 + c))).getLsbD 0
    ({ acc.1.setRow r.2 (es.zipIdx.map fun e => e.1.1.add e.1.2 (sign e.2)) with
        csat := acc.1.csat || es.any fun e => 65535 < e.1.cnt + e.2.n },
      es.foldl (fun n e => n + e.2.n) acc.2)) (t, 0)

namespace State

/-- A tile as a VF holds it. -/
def tileOf (s : State) (cl vf t : Nat) : Tile := FMap.getD (s.cluster cl).ac (64 * vf + t) {}
/-- Replace a tile. -/
def setTile (s : State) (cl vf t : Nat) (x : Tile) : State :=
  s.updCluster cl fun k => { k with ac := FMap.insert k.ac (64 * vf + t) x }

/-- Cut bytes into strings of given lengths. -/
def cut : List Nat → List Byte → List (List Byte)
  | [], _ => []
  | n :: r, bs => bs.take n :: cut r (bs.drop n)

/-- The reads of a k-block in order: rows of A, rows of B, then the scales (R106, R208). -/
def kReads (j : Job) (kb : Nat) : List (Word × Nat) :=
  let wa := fmtWidth (fmtdAF j.fmtd)
  let wb := fmtWidth (fmtdBF j.fmtd)
  let rowA := (List.range 128).map fun i =>
    (j.reg 0 + BitVec.ofNat 64 i * j.reg 1 + BitVec.ofNat 64 (kb * 4 * wa), 4 * wa)
  let rowB := (List.range 32).map fun k => (j.reg 2 + BitVec.ofNat 64 (32 * kb + k) * j.reg 3, 16 * wb)
  let sa := (List.range 128).map fun i => (j.reg 6 + BitVec.ofNat 64 (i * (j.mulK / 32) + kb), 1)
  rowA ++ rowB ++ (if fmtdSmode j.fmtd = 1 then sa ++ [(j.reg 7 + BitVec.ofNat 64 (128 * kb), 128)] else [])

/-- Decode the elements of a row into FP32 patterns, without %SCALE (R112). -/
def kDecode (j : Job) (f : BitVec 4) (n : Nat) (bs : List Byte) : List Half :=
  (List.range n).map fun i => BitVec.ofNat 32 (decodeFmt f (j.table f) 0 (element (fmtWidth f) bs i)).bits

/-- The two halves of a k-block from what was read. -/
def kParts (j : Job) (bs : List Byte) (kb : Nat) : KPart × KPart :=
  let l := cut ((kReads j kb).map (·.2)) bs
  let one := fmtdSmode j.fmtd = 1
  ({ rows := (l.take 128).map (kDecode j (fmtdAF j.fmtd) 32)
     scales := if one then ((l.drop 160).take 128).map fun b => (b.getD 0 0).toNat else List.replicate 128 127 },
   { rows := ((l.drop 128).take 32).map (kDecode j (fmtdBF j.fmtd) 128)
     scales := if one then (l.getD 288 []).map (·.toNat) else List.replicate 128 127 })

/-- The word pieces of some reads. -/
def piecesOf (rs : List (Word × Nat)) : List (Word × Nat) := rs.flatMap fun r => wordPieces r.1 (r.2 / 8 + 2) r.2

/-- The lines of a slice array that some reads touch: home and line (R206). -/
def linesRead (s : State) (cl : Nat) (j : Job) (ps : List (Word × Nat)) : List (Nat × Nat) :=
  (ps.filterMap fun p => match s.engLook cl j .mx 0 p.1 with
    | .at (.mem key _ home) _ =>
      if ((s.slice (home / 256)).line? (home % 256) (key / 128)).isSome then some (home, key / 128) else none
    | _ => none).eraseDups

/-- The MXE reads pieces, each line pinned from its reading on (R206): what was read, and the lines pinned. A read that waits is made
again from the start, and its lines are unpinned. -/
def readPinned (s : State) (cl : Nat) (j : Job) : List (Word × Nat) → List (Nat × Nat) → EngRead × List (Nat × Nat)
  | [], ls => (.bytes [] s, ls)
  | p :: r, ls => match s.engReadPieces cl j .mx [p] with
    | .bytes bs t =>
      let new := (t.linesRead cl j [p]).filter fun l => !ls.contains l
      match (t.pinLines new true).readPinned cl j r (ls ++ new) with
      | (.bytes cs u, l) => (.bytes (bs ++ cs) u, l)
      | x => x
    | .fault q va => (.fault q va, [])
    | .wait w t => (.wait w (t.pinLines ls false), [])

/-- The MXE reads pieces and consumes them at once; then their lines are unpinned (R206). -/
def withPinned (s : State) (cl : Nat) (j : Job) (ps : List (Word × Nat)) (go : List Byte → State → State) : State :=
  let r := s.readPinned cl j ps []
  withRead cl j r.1 (fun bs t => (go bs t).pinLines r.2 false) s

/-- A VF's kept set is gone (R210). -/
def dropKept (s : State) (cl vf : Nat) : State := s.updCluster cl fun k => { k with kept := FMap.erase k.kept vf }

/-- A multiply ends: CSAT is reported, and with KEEP its operands stay (R198, R210). -/
def endMul (s : State) (cl : Nat) (j : Job) : State :=
  let s := if j.keep then s.updCluster cl fun k => { k with
      kept := FMap.insert k.kept j.vf ({ vf := j.vf, k := j.mulK, parts := j.setA, pop := j.pop },
        { vf := j.vf, k := j.mulK, parts := j.setB, pop := j.pop }) } else s
  s.endJob cl { j with csat := (s.tileOf cl j.vf j.tile).csat }

/-- A multiply adds a k-block to its tile (R209). -/
def mulBlock (s : State) (cl : Nat) (j : Job) (a b : KPart) : State :=
  let t := s.tileOf cl j.vf j.tile
  if t.elems.any (·.2.poison) then s.failJob cl j 3 (BitVec.ofNat 64 j.tile)
  else
    let r := t.addBlock a b s.free
    let s := (({ s with free := s.free + 16384 } : State).setTile cl j.vf j.tile r.1).countFor j.core (j.vf + 1) 0x20 j.slot r.2
    let j := { j with
      row := j.row + 1, walking := none
      setA := if j.keep then j.setA ++ [a] else [], setB := if j.keep then j.setB ++ [b] else [] }
    if j.row = j.mulK / 32 then s.endMul cl j else s.setJob cl j

/-- The next k-block of a multiply, prefetched or read now (R196, R209, R322). -/
def mulStep (s : State) (cl : Nat) (j : Job) : State :=
  let pre : Option (KPart × KPart) := match (s.cluster cl).prefetched with
    | some (id, a, b) => if id = j.id then (a[j.row]?).bind fun x => (b[j.row]?).map fun y => (x, y) else none
    | none => none
  match pre with
  | some (a, b) =>
    let n := match (s.cluster cl).prefetched with
      | some (_, l, _) => l.length
      | none => 0
    let t := s.mulBlock cl j a b
    if j.row + 1 = n then t.dropPrefetch cl else t
  | none =>
    s.withPinned cl j (piecesOf (kReads j j.row)) fun bs t =>
      let p := kParts j bs j.row
      t.mulBlock cl j p.1 p.2

/-- The blocks a VF has received are gone (R210). -/
def dropGot (s : State) (cl vf : Nat) : State := s.updCluster cl fun k =>
  { k with gotA := FMap.erase k.gotA vf, gotB := FMap.erase k.gotB vf }

/-- A rotation ends (R210): with KEEP the received set is the kept one, else none is. -/
def endRot (s : State) (cl : Nat) (j : Job) (a b : Block) : State :=
  let s := s.updCluster cl fun k => { k with
    gotA := FMap.erase k.gotA j.vf, gotB := FMap.erase k.gotB j.vf
    kept := if j.keep then FMap.insert k.kept j.vf ({ a with vf := j.vf, pop := j.pop }, { b with vf := j.vf, pop := j.pop })
      else FMap.erase k.kept j.vf }
  s.endJob cl { j with csat := (s.tileOf cl j.vf j.tile).csat }

/-- The next k-block of a rotation whose two blocks are here; a block of another K faults it (R210 step 3). -/
def rotStep (s : State) (cl : Nat) (j : Job) : State :=
  match FMap.find? (s.cluster cl).gotA j.vf, FMap.find? (s.cluster cl).gotB j.vf with
  | some a, some b =>
    let kk := j.rotK
    if a.k ≠ kk ∨ b.k ≠ kk then
      ((s.dropKept cl j.vf).dropGot cl j.vf).failJob cl j 5 0
    else match a.parts[j.row]?, b.parts[j.row]? with
    | some x, some y =>
      let t := s.tileOf cl j.vf j.tile
      if t.elems.any (·.2.poison) then
        ((s.dropKept cl j.vf).dropGot cl j.vf).failJob cl j 3
          (BitVec.ofNat 64 j.tile)
      else
        let r := t.addBlock x y s.free
        let s := (({ s with free := s.free + 16384 } : State).setTile cl j.vf j.tile r.1).countFor j.core (j.vf + 1) 0x20 j.slot r.2
        let j := { j with row := j.row + 1 }
        if j.row = kk / 32 then s.endRot cl j a b else s.setJob cl j
    | _, _ => s.endRot cl j a b
  | _, _ => s

end State

/-! ### Drains and loads (R114, R211, R212) -/

/-- The value of a drained element (R114). Under NORM a zero accumulator keeps its sign (assumption 75). -/
def drained (norm : Bool) (e : AcElem) : Nat :=
  if e.cnt = 0 then fp32.absent
  else if !norm then (if (fp32.unpack e.val.toNat).isNan then fp32.nan else e.val.toNat)
  else match fp32.unpack e.val.toNat with
    | .nan _ => fp32.nan
    | .inf s => fp32.withSign s fp32.inf
    | .fin s n d => if n = 0 then e.val.toNat else (fp32.finish .rne s n (d * e.cnt)).bits

namespace State

/-- A drain writes the bytes of its row from where it stands (R211). -/
def drainWrite (s : State) (cl : Nat) (j : Job) : State :=
  let va := j.reg 0 + BitVec.ofNat 64 j.row * j.reg 1 + BitVec.ofNat 64 j.done
  let r := s.engWritePieces cl j .mx true (wordPieces va (j.buf.length / 8 + 2) j.buf.length) j.buf
  let j := { j with done := j.done + (j.buf.length - r.1.length), buf := r.1, walking := none }
  match r.2.1 with
  | some (some q, _, va) => r.2.2.failJob cl j q va
  | some (none, w, _) => r.2.2.setJob cl { j with walking := w.map fun va => (va, 1) }
  | none =>
    let j := { j with row := j.row + 1, done := 0 }
    if j.row < 128 then r.2.2.setJob cl j
    else
      let t := r.2.2.tileOf cl j.vf j.tile
      let s := if j.keep then r.2.2.setTile cl j.vf j.tile {} else r.2.2
      s.endJob cl { j with csat := t.csat }

/-- A drain's next row: encoded, then written; a poisoned element stops it (R155, R211). -/
def drainStep (s : State) (cl : Nat) (j : Job) : State :=
  if !j.buf.isEmpty then s.drainWrite cl j
  else
    let t := s.tileOf cl j.vf j.tile
    let es := t.row j.row
    if es.any (·.poison) then s.failJob cl j 3 (BitVec.ofNat 64 j.tile)
    else
      let f := fmtdOF j.fmtd
      let e := j.encode f (es.map (drained (fmtdNorm j.fmtd)))
      s.drainWrite cl { j with buf := packElements (fmtWidth f) e.1, rng := e.2, done := 0 }

/-- A load's next row (R212). -/
def loadStep (s : State) (cl : Nat) (j : Job) : State :=
  let f := fmtdAF j.fmtd
  let va := j.reg 0 + BitVec.ofNat 64 j.row * j.reg 1
  s.withPinned cl j (wordPieces va (16 * fmtWidth f / 8 + 2) (16 * fmtWidth f)) fun bs s =>
    let t := s.tileOf cl j.vf j.tile
    let es := (List.range 128).map fun c =>
      let v := (decodeFmt f (j.table f) (scaleDexp j.scale) (element (fmtWidth f) bs c)).bits
      if fp32.isAbsent v then AcElem.zero else { val := BitVec.ofNat 32 v, cnt := 1, poison := false }
    let s := s.setTile cl j.vf j.tile { t.setRow j.row es with csat := false }
    let j := { j with row := j.row + 1, walking := none }
    if j.row < 128 then s.setJob cl j else s.endJob cl j

/-- A drain or a load goes on as far as it gets: rows left, and one write after a wait. -/
def driveMx (s : State) (cl id : Nat) : State := (List.range 129).foldl (fun t _ => match t.jobAt cl id with
  | some j =>
    if j.status ≠ .running then t
    else if j.kind = 4 then t.drainStep cl j
    else if j.kind = 6 then t.loadStep cl j
    else t
  | none => t) s

/-! ### The start of jobs (R196, R210) -/

/-- The neighbours of a cluster in its partition's torus: west and north (R210). -/
def torus (p : Part) (cl : Nat) : Nat × Nat :=
  let x := cl % 16 - p.cx0
  let y := cl / 16 - p.cy0
  (16 * (cl / 16) + p.cx0 + (x + p.cw - 1) % p.cw, 16 * (p.cy0 + (y + 1) % p.ch) + cl % 16)

/-- A rotation starts: without a kept set of its K it faults; else it sends its blocks west and north (R210). -/
def startRot (s : State) (cl : Nat) (j : Job) : State :=
  let s := s.dropPrefetch cl
  match FMap.find? (s.cluster cl).kept j.vf, s.part (s.pidOf j.vf) with
  | some (a, b), some p =>
    if a.k ≠ j.rotK then (s.dropKept cl j.vf).failJob cl j 5 0
    else
      let n := torus p cl
      (s.updCluster n.1 fun k => { k with linkA := k.linkA ++ [{ a with pop := j.pop }] }).updCluster n.2 fun k =>
        { k with linkB := k.linkB ++ [{ b with pop := j.pop }] }
  | _, _ => (s.dropKept cl j.vf).failJob cl j 5 0

/-- Banks a job must find its VF's before it starts (R242): its tile, and the operand sets of a multiply or a rotation. -/
def jobBanks (j : Job) : List (Nat × Nat) :=
  (4, j.tile) :: (if j.kind = 2 then [(5, 0)] else if j.kind = 3 then [(5, 0), (5, 1)] else [])

/-- The owner of a cluster's bank. -/
def clusterBank (s : State) (cl : Nat) (b : Nat × Nat) : Option Nat :=
  let k := s.cluster cl
  if b.1 = 4 then FMap.find? k.tileTag b.2 else FMap.find? k.setTag b.2

/-- The engine of a job can accept it (R196). -/
def engineFree (s : State) (cl : Nat) (j : Job) : Bool :=
  let k := s.cluster cl
  if j.kind = 1 then (k.running.filter (·.kind = 1)).length < 4 else k.running.all (·.kind = 1)

end State

/-- JOB_START (R196, R204, R210-R213): the head of the queue starts when its engine accepts it and its banks are its VF's; a refused
descriptor faults at once. MX.ZERO, MX.DRAIN and MX.LOAD do their work, MX.ROT sends its blocks. Where the kept set is discarded, a
block that the other set has already received stays for the next MX.ROT (assumption 74). -/
def execJobStart (cluster : Nat) (s : State) : Host.Outcome State Fault Refusal :=
  .next (match (s.cluster cluster).queue with
  | [] => s
  | j :: r =>
    let bad := if j.kind = 1 then j.cpyBad else j.mxBad
    let missing := if j.kind = 1 ∨ bad then [] else
      (State.jobBanks j).filter fun b => s.clusterBank cluster b ≠ some j.vf
    if !s.engineFree cluster j then s
    else match missing with
    | b :: _ => s.askBank b.1 cluster b.2 j.vf
    | [] =>
      let s := s.updCluster cluster fun k => { k with
        queue := r, running := k.running ++ [{ j with status := .running }] }
      let s := if j.kind = 2 ∨ j.kind = 6 ∨ (j.kind = 3 ∧ bad) then s.dropKept cluster j.vf else s
      let j : Job := { j with status := .running }
      if bad then s.failJob cluster j 4 0
      else if j.kind = 5 then (s.setTile cluster j.vf j.tile {}).endJob cluster j
      else if j.kind = 3 then s.startRot cluster j
      else s.driveMx cluster j.id.toNat)

/-- MXE_PREFETCH (R196, R206): while a job runs, the first k-blocks of the next MX.MUL are read into a free operand set, and each
line read stays pinned from its reading on. A read that fails makes no prefetch (R322). -/
def execMxePrefetch (cluster : Nat) (s : State) : Host.Outcome State Fault Refusal :=
  let k := s.cluster cluster
  let used := (k.running.filter (·.kind ≠ 1)).foldl (fun n j => n + if j.kind = 3 then 2 else if j.kind = 2 then 1 else 0) 0
  let held := if k.kept.any fun e => FMap.find? k.setTag 0 = some e.1 then 1 else 0
  .next (match k.queue.find? (·.kind = 2) with
  | none => s
  | some j =>
    if k.running.isEmpty ∨ k.prefetched.isSome ∨ !k.gotA.isEmpty ∨ !k.gotB.isEmpty ∨ 2 ≤ used + held ∨ j.mxBad ∨
       FMap.find? k.setTag 0 ≠ some j.vf then s
    else
      let n := Nat.min 4 (j.mulK / 32)
      let reads := (List.range n).map fun kb => State.piecesOf (State.kReads j kb)
      match s.readPinned cluster j reads.flatten [] with
      | (.bytes bs t, ls) =>
        let lens := reads.map fun ps => ps.foldl (fun a p => a + p.2) 0
        let parts := (State.cut lens bs).zipIdx.map fun e => State.kParts j e.1 e.2
        t.updCluster cluster fun k => { k with
          prefetched := some (j.id, parts.map (·.1), parts.map (·.2)), pinned := ls }
      | _ => s)

/-- MXE_KBLOCK (R209, R210, R112): the running multiply, or the rotation whose blocks are here, adds its next k-block. -/
def execMxeKblock (cluster : Nat) (s : State) : Host.Outcome State Fault Refusal :=
  .next (match (s.cluster cluster).running.find? fun j => j.kind ≠ 1 && decide (j.status = .running) with
  | some j => if j.kind = 2 then s.mulStep cluster j else if j.kind = 3 then s.rotStep cluster j else s
  | none => s)

/-- ROT_BLOCK_ARRIVAL (R210, R243): the oldest block on the link from the east (side 0) or from the south (side 1) is taken while the
engine holds a kept set of its VF and the other set has room for it, and no other VF's blocks; else it waits. -/
def execRotBlockArrival (cluster side : Nat) (s : State) : Host.Outcome State Fault Refusal :=
  let k := s.cluster cluster
  .next (match (if side = 0 then k.linkA else k.linkB) with
  | [] => s
  | b :: r =>
    let ok : Bool := (FMap.find? k.kept b.vf).isSome && FMap.find? k.setTag 0 = some b.vf && k.prefetched.isNone &&
      (FMap.find? (if side = 0 then k.gotA else k.gotB) b.vf).isNone &&
      (FMap.find? k.setTag 1 = some b.vf || (FMap.keys k.gotA ++ FMap.keys k.gotB).all (· = b.vf))
    if !ok then s
    else (s.updCluster cluster fun k =>
      if side = 0 then { k with linkA := r, gotA := FMap.insert k.gotA b.vf b }
      else { k with linkB := r, gotB := FMap.insert k.gotB b.vf b }).flew b.pop)

/-- JOB_COMPLETE (R198, R201, R211): a job that waited goes on; one whose writes are all placed sends its message. -/
def execJobComplete (cluster job : Nat) (s : State) : Host.Outcome State Fault Refusal :=
  let s := s.driveMx cluster job
  .next (match s.jobAt cluster job with
  | some j => match j.status with
    | .running => s
    | .queued => s
    | _ => s.completeJob cluster j
  | none => s)

end Sys2Proof.Machine
end

