-- ==== Sys2Proof/Machine/Vector.lean ====
section
/-! DEFINITION. The vector pool (R214-R219), the vector instructions (R337-R360) with their checks at issue and what the vector
queue performs, and the special-function units (R220). -/

namespace Sys2Proof.Machine

/-! ### Lanes and elements (R337) -/

namespace Claim

/-- %VLEN. -/
def vlen (k : Claim) : Nat := 8 * k.groups.length
/-- A lane of a register. -/
def lane (k : Claim) (r : BitVec 5) (l : Nat) : Half := FMap.getD k.v (256 * r.toNat + l) 0
/-- Write a lane of a register. -/
def setLane (k : Claim) (r : BitVec 5) (l : Nat) (v : Half) : Claim := { k with v := FMap.insert k.v (256 * r.toNat + l) v }
/-- A lane below %VLEN is enabled. -/
def on (k : Claim) (m : BitVec 1) (l : Nat) : Bool := m = 0 || k.vm.getLsbD l
/-- The enabled lanes, ascending. -/
def lanes (k : Claim) (m : BitVec 1) : List Nat := (List.range k.vlen).filter (k.on m)
/-- Write the enabled lanes of a register; every source is read before. -/
def write (k : Claim) (m : BitVec 1) (d : BitVec 5) (f : Nat → Half) : Claim :=
  (k.lanes m).foldl (fun c l => c.setLane d l (f l)) k
/-- Set the mask bits of some lanes. -/
def mask (k : Claim) (ls : List Nat) (f : Nat → Bool) : Claim :=
  { k with vm := ls.foldl (fun (m : BitVec 256) l => if f l then m ||| (1#256 <<< l) else m &&& ~~~(1#256 <<< l)) k.vm }
/-- The operation at the head of the queue leaves it. -/
def pop (k : Claim) : Claim := { k with queue := k.queue.drop 1 }
/-- A claim without some groups' lanes: those at and above a length are gone (R216). -/
def shrink (k : Claim) (n : Nat) : Claim :=
  { k with
    groups := k.groups.take n
    v := k.v.filter fun e => e.1 % 256 < 8 * n
    vm := k.vm &&& BitVec.ofNat 256 (2 ^ (8 * n) - 1) }

end Claim

/-- The elements of a lane, low one first. -/
def elemsOf (t : BitVec 3) (v : Half) : List Nat :=
  if tyElems t = 2 then [v.toNat % 2 ^ 16, v.toNat / 2 ^ 16] else [v.toNat]

/-- The lane of some elements. -/
def laneOf (t : BitVec 3) (es : List Nat) : Half :=
  if tyElems t = 2 then BitVec.ofNat 32 (es.getD 0 0 % 2 ^ 16 + es.getD 1 0 % 2 ^ 16 * 2 ^ 16) else BitVec.ofNat 32 (es.getD 0 0)

/-- A lane operation element by element. -/
def perElem (t : BitVec 3) (f : Nat → Nat → Nat) (x y : Half) : Half :=
  laneOf t ((List.range (tyElems t)).map fun i => f ((elemsOf t x).getD i 0) ((elemsOf t y).getD i 0))

/-- The layout of a floating lane type. -/
def tyLayout (t : BitVec 3) : FSpec := if t = 2 then fp32 else if t = 3 then bf16 else fp16

/-- The width of an integer lane type. -/
def tyBits (t : BitVec 3) : Nat := if t = 5 then 16 else 32

/-! ### Element arithmetic (R108, R110, R339, R346) -/

/-- The five arithmetic operations of VALU. -/
inductive VArith where
  | add | sub | mul | min | max
  deriving DecidableEq, Repr

/-- An operation over integers. -/
def VArith.int (k : VArith) (x y : Int) : Int := match k with
  | .add => x + y
  | .sub => x - y
  | .mul => x * y
  | .min => if x ≤ y then x else y
  | .max => if x ≤ y then y else x

/-- What an absent operand stands for in identity mode, in numbers of w bits. -/
def VArith.unit (k : VArith) (w : Nat) : Int := match k with
  | .add => 0
  | .sub => 0
  | .mul => 1
  | .min => 2 ^ (w - 1) - 1
  | .max => -(2 ^ (w - 1) - 1)

/-- Saturate to ±(2^(w−1) − 1) (R110). -/
def saturate (w : Nat) (v : Int) : Int := max (-(2 ^ (w - 1) - 1)) (min (2 ^ (w - 1) - 1) v)

/-- An operation on I32 or I16 elements (R108, R110). -/
def VArith.signed (k : VArith) (w : Nat) (identity : Bool) (x y : Nat) : Nat :=
  let ab := 2 ^ (w - 1)
  if x = ab ∧ y = ab then ab
  else if (x = ab ∨ y = ab) ∧ !identity then ab
  else
    let v (z : Nat) : Int := if z = ab then k.unit w else signedOf w z
    patternOf w (saturate w (k.int (v x) (v y)))

/-- An operation on floating elements (R339). -/
def VArith.float (k : VArith) (f : FSpec) (identity : Bool) (x y : Nat) : Nat := (match k with
  | .add => f.fadd identity .rne x y
  | .sub => f.fsub identity .rne x y
  | .mul => f.fmul identity .rne x y
  | .min => f.fminmax identity false x y
  | .max => f.fminmax identity true x y : FRes).bits

/-- An operation on the elements of a type. -/
def VArith.elem (k : VArith) (t : BitVec 3) (identity : Bool) (x y : Nat) : Nat :=
  if tyFloat t then k.float (tyLayout t) identity x y
  else if t = 1 then patternOf 32 (k.int x y)
  else k.signed (tyBits t) identity x y

/-- A condition of VCMP on two elements (R109, R350): EQ, NE, LT, LE. -/
def vcond (t : BitVec 3) (c : BitVec 2) (x y : Nat) : Bool :=
  if tyFloat t then
    let f := tyLayout t
    let a := f.unpack x
    let b := f.unpack y
    if f.isAbsent x || f.isAbsent y then false
    else match c.toNat with
      | 0 => numEq a b
      | 1 => !numEq a b
      | 2 => !a.isNan && !b.isNan && numLt false a b
      | _ => !a.isNan && !b.isNan && (numLt false a b || numEq a b)
  else
    let w := tyBits t
    let v (z : Nat) : Int := if t = 1 then z else signedOf w z
    if t ≠ 1 ∧ (x = 2 ^ (w - 1) ∨ y = 2 ^ (w - 1)) then false
    else match c.toNat with
      | 0 => v x = v y
      | 1 => v x ≠ v y
      | 2 => v x < v y
      | _ => v x ≤ v y

/-! ### Reductions (R111, R357) -/

/-- An element is no term. -/
def termAbsent (t : BitVec 3) (x : Nat) : Bool :=
  if tyFloat t then (tyLayout t).isAbsent x else t ≠ 1 && x = 2 ^ (tyBits t - 1)

/-- The exact sum of finite numbers as a fraction: numerator and denominator. -/
def sumFin (l : List Num) : Int × Nat := l.foldl (fun a x => match x with
  | .fin s n d => (a.1 * d + signedNum s n * a.2, a.2 * d)
  | _ => a) (0, 1)

/-- The floating sum rounded once to FP32: −0 only where every term is −0 (R357). -/
def redAddF (l : List Num) : Nat :=
  let up := l.any (· = .inf false)
  let dn := l.any (· = .inf true)
  if l.any (·.isNan) || (up && dn) then fp32.nan
  else if up then fp32.inf
  else if dn then fp32.withSign true fp32.inf
  else
    let q := sumFin l
    if q.1 = 0 then fp32.withSign (l.all (·.neg)) 0 else (fp32.finish .rne (q.1 < 0) q.1.natAbs q.2).bits

/-- The floating minimum or maximum, exact in FP32 (R357). -/
def redPickF (mx : Bool) (l : List Num) : Nat :=
  if l.any (·.isNan) then fp32.nan
  else match l with
  | [] => fp32.absent
  | x :: r =>
    match r.foldl (fun b y => if numLt true b y = mx then y else b) x with
    | .inf s => fp32.withSign s fp32.inf
    | .fin s n d => if n = 0 then fp32.withSign s 0 else (fp32.finish .rne s n d).bits
    | .nan _ => fp32.nan

/-- VRED over terms: what `g[d]` receives (R357). -/
def redValue (k : VArith) (t : BitVec 3) (terms : List Nat) : Word :=
  if tyFloat t then
    let l := terms.map (tyLayout t).unpack
    BitVec.ofNat 64 (if terms.isEmpty then fp32.absent
      else match k with
        | .min => redPickF false l
        | .max => redPickF true l
        | _ => redAddF l)
  else
    let w := tyBits t
    let l : List Int := terms.map fun x => if t = 1 then Int.ofNat x else signedOf w x
    match l with
    | [] => if t = 1 then 0 else 0x8000000000000000
    | x :: r => BitVec.ofInt 64 (r.foldl k.int x)

/-! ### Conversions (R351) -/

/-- The format code of a floating lane type. -/
def tyFormat (t : BitVec 3) : BitVec 4 := if t = 2 then 0 else if t = 3 then 1 else 2

/-- Convert the codes of a lane into elements, drawing in order. -/
def decLane (o : VOp) (t : BitVec 3) (f : BitVec 4) (v : Half) (rng : Vector (BitVec 32) 4) : Half × Vector (BitVec 32) 4 :=
  let w := fmtWidth f
  let r := (List.range (tyElems t)).foldl (fun (a : List Nat × Vector (BitVec 32) 4) i =>
    let x := (decodeFmt f o.table (scaleDexp o.scale) (v.toNat / 2 ^ (w * i) % 2 ^ w)).bits
    if t = 2 then (a.1 ++ [x], a.2)
    else
      let e := encodeFmt (tyFormat t) [] (fmtdRnd o.fmtd) (fmtdSat o.fmtd) 0 a.2 x
      (a.1 ++ [e.1.bits], e.2)) ([], rng)
  (laneOf t r.1, r.2)

/-- Convert the elements of a lane into packed codes, drawing in order; the lane's other bits are 0. -/
def encLane (o : VOp) (t : BitVec 3) (f : BitVec 4) (v : Half) (rng : Vector (BitVec 32) 4) : Half × Vector (BitVec 32) 4 :=
  let w := fmtWidth f
  let r := ((elemsOf t v).zipIdx).foldl (fun (a : Nat × Vector (BitVec 32) 4) x =>
    let e := encodeFmt f o.table (fmtdRnd o.fmtd) (fmtdSat o.fmtd) (scaleEexp o.scale) a.2
      ((tyLayout t).convert fp32 .rne x.1).bits
    (a.1 + e.1.bits % 2 ^ w * 2 ^ (w * x.2), e.2)) (0, rng)
  (BitVec.ofNat 32 r.1, r.2)

/-- Convert the enabled lanes in ascending order. -/
def cvtLanes (k : Claim) (m : BitVec 1) (d a : BitVec 5) (g : Half → Vector (BitVec 32) 4 → Half × Vector (BitVec 32) 4)
    (rng : Vector (BitVec 32) 4) : Claim × Vector (BitVec 32) 4 :=
  (k.lanes m).foldl (fun (q : Claim × Vector (BitVec 32) 4) l =>
    let r := g (k.lane a l) q.2
    (q.1.setLane d l r.1, r.2)) (k, rng)

/-! ### What the queue performs on lanes alone (R337-R360) -/

/-- %AMODE[0] as captured. -/
def VOp.identity (o : VOp) : Bool := o.amode.getLsbD 0

/-- An arithmetic VALU form. -/
def Claim.arith (k : Claim) (o : VOp) (op : VArith) (m : BitVec 1) (d a b : BitVec 5) (t : BitVec 3) : Claim :=
  k.write m d fun l => perElem t (op.elem t o.identity) (k.lane a l) (k.lane b l)

/-- A bitwise VALU form. -/
def Claim.bits (k : Claim) (op : Half → Half → Half) (m : BitVec 1) (d a b : BitVec 5) : Claim :=
  k.write m d fun l => op (k.lane a l) (k.lane b l)

/-- A shift (R360): the amount is taken modulo the element width. -/
def Claim.shift (k : Claim) (op : Nat → Nat → Nat → Nat) (m : BitVec 1) (d a b : BitVec 5) (t : BitVec 3) : Claim :=
  k.write m d fun l => perElem t (fun x y => op (tyBits t) x (y % tyBits t)) (k.lane a l) (k.lane b l)

/-- One element of a special function in a lane type (R359). -/
def sfuElem (g : SfuFn) (t : BitVec 3) (x : Nat) : Nat :=
  if t = 2 then (sfu32 g x).bits else sfuLane g (tyLayout t) ((tyLayout t).convert fp32 .rne x).bits

/-- What a VSFU form writes. -/
def Claim.sfu (k : Claim) (g : SfuFn) (m : BitVec 1) (d a : BitVec 5) (t : BitVec 3) : Claim :=
  k.write m d fun l => laneOf t ((elemsOf t (k.lane a l)).map (sfuElem g t))

/-- VPERM (R356). -/
def Claim.perm (k : Claim) (m : BitVec 1) (d a b : BitVec 5) (t : BitVec 3) : Claim :=
  let pick (i : Nat) : Nat :=
    if tyElems t * k.vlen ≤ i then 0 else (elemsOf t (k.lane a (i / tyElems t))).getD (i % tyElems t) 0
  k.write m d fun l => laneOf t ((elemsOf t (k.lane b l)).map pick)

/-- An operation that reads and writes lanes, VM and the generator only; others change nothing here. -/
def Claim.run (k : Claim) (o : VOp) (rng : Vector (BitVec 32) 4) : Claim × Vector (BitVec 32) 4 :=
  let keep (c : Claim) : Claim × Vector (BitVec 32) 4 := (c, rng)
  match o.op with
  | .vadd m d a b t => keep (k.arith o .add m d a b t)
  | .vsub m d a b t => keep (k.arith o .sub m d a b t)
  | .vmul m d a b t => keep (k.arith o .mul m d a b t)
  | .vmin m d a b t => keep (k.arith o .min m d a b t)
  | .vmax m d a b t => keep (k.arith o .max m d a b t)
  | .vand m d a b _ => keep (k.bits (· &&& ·) m d a b)
  | .vor m d a b _ => keep (k.bits (· ||| ·) m d a b)
  | .vxor m d a b _ => keep (k.bits (· ^^^ ·) m d a b)
  | .vshl m d a b t => keep (k.shift (fun w x y => x * 2 ^ y % 2 ^ w) m d a b t)
  | .vshr m d a b t => keep (k.shift (fun _ x y => x / 2 ^ y) m d a b t)
  | .vsra m d a b t => keep (k.shift (fun w x y => patternOf w (signedOf w x / 2 ^ y)) m d a b t)
  | .vfma m d a b t c => keep (k.write m d fun l => laneOf t ((List.range (tyElems t)).map fun i =>
      let e (r : BitVec 5) : Nat := (elemsOf t (k.lane r l)).getD i 0
      ((tyLayout t).ffma o.identity .rne (e a) (e b) (e c)).bits))
  | .vcmp m a b t c => keep (k.mask (k.lanes m) fun l => (List.range (tyElems t)).all fun i =>
      vcond t c ((elemsOf t (k.lane a l)).getD i 0) ((elemsOf t (k.lane b l)).getD i 0))
  | .vsel d a b _ => keep (k.write 0 d fun l => if k.vm.getLsbD l then k.lane a l else k.lane b l)
  | .vcvtDec m d a t f => cvtLanes k m d a (decLane o t f) rng
  | .vcvtEnc m d a t f => cvtLanes k m d a (encLane o t f) rng
  | .vbc m d _ t => keep (k.write m d fun _ =>
      if tyElems t = 2 then laneOf t [o.x.toNat, o.x.toNat] else o.x.setWidth 32)
  | .vperm m d a b t => keep (k.perm m d a b t)
  | .vabt m a f => keep (k.mask (k.lanes m) fun l => isAbsentCode f o.table (k.lane a l).toNat)
  | .vabm d a f => keep (k.write 0 d fun l =>
      if k.vm.getLsbD l then
        BitVec.ofNat 32 ((List.range (32 / fmtWidth f)).foldl
          (fun v i => v + absCode f o.table % 2 ^ fmtWidth f * 2 ^ (fmtWidth f * i)) 0)
      else k.lane a l)
  | .viota m d _ => keep (k.write m d fun l => BitVec.ofNat 32 l)
  | .vsfuRcp m d a t => keep (k.sfu .rcp m d a t)
  | .vsfuSqrt m d a t => keep (k.sfu .sqrt m d a t)
  | .vsfuRsqrt m d a t => keep (k.sfu .rsqrt m d a t)
  | .vsfuExp2 m d a t => keep (k.sfu .exp2 m d a t)
  | .vsfuLog2 m d a t => keep (k.sfu .log2 m d a t)
  | .vsfuSinpi m d a t => keep (k.sfu .sinpi m d a t)
  | .vsfuCospi m d a t => keep (k.sfu .cospi m d a t)
  | _ => (k, rng)

/-- The mask bit and the type of a VSFU form. -/
def vsfuForm : Instr → Option (BitVec 1 × BitVec 3)
  | .vsfuRcp m _ _ t => some (m, t)
  | .vsfuSqrt m _ _ t => some (m, t)
  | .vsfuRsqrt m _ _ t => some (m, t)
  | .vsfuExp2 m _ _ t => some (m, t)
  | .vsfuLog2 m _ _ t => some (m, t)
  | .vsfuSinpi m _ _ t => some (m, t)
  | .vsfuCospi m _ _ t => some (m, t)
  | _ => none

/-- What VEXT and VRED write to general registers. -/
def Claim.scalar (k : Claim) (o : VOp) : Option (List Wr) :=
  let red (op : VArith) (m : BitVec 1) (d : BitVec 6) (a : BitVec 5) (t : BitVec 3) : Option (List Wr) :=
    let terms := ((k.lanes m).flatMap fun l => elemsOf t (k.lane a l)).filter fun x => !termAbsent t x
    some [.g d.toNat (redValue op t terms), .g (d.toNat + 1) (BitVec.ofNat 64 terms.length)]
  match o.op with
  | .vext d a _ t =>
    let v : Half := if k.vlen ≤ o.y.toNat then 0 else k.lane a o.y.toNat
    some [.g d.toNat (if t = 0 then v.signExtend 64 else v.zeroExtend 64)]
  | .vredAdd m d a t => red .add m d a t
  | .vredMin m d a t => red .min m d a t
  | .vredMax m d a t => red .max m d a t
  | _ => none

/-- The registers and VM that an operation writes, for the checks of R354: a register, and whether VM. -/
def VOp.writes (o : VOp) : Option (BitVec 5) × Bool := match o.op with
  | .vadd _ d _ _ _ => (some d, false)
  | .vsub _ d _ _ _ => (some d, false)
  | .vmul _ d _ _ _ => (some d, false)
  | .vmin _ d _ _ _ => (some d, false)
  | .vmax _ d _ _ _ => (some d, false)
  | .vand _ d _ _ _ => (some d, false)
  | .vor _ d _ _ _ => (some d, false)
  | .vxor _ d _ _ _ => (some d, false)
  | .vshl _ d _ _ _ => (some d, false)
  | .vshr _ d _ _ _ => (some d, false)
  | .vsra _ d _ _ _ => (some d, false)
  | .vfma _ d _ _ _ _ => (some d, false)
  | .vcmp _ _ _ _ _ => (none, true)
  | .vsel d _ _ _ => (some d, false)
  | .vcvtDec _ d _ _ _ => (some d, false)
  | .vcvtEnc _ d _ _ _ => (some d, false)
  | .vbc _ d _ _ => (some d, false)
  | .vperm _ d _ _ _ => (some d, false)
  | .vabt _ _ _ => (none, true)
  | .vabm d _ _ => (some d, false)
  | .viota _ d _ => (some d, false)
  | .vsfuRcp _ d _ _ => (some d, false)
  | .vsfuSqrt _ d _ _ => (some d, false)
  | .vsfuRsqrt _ d _ _ => (some d, false)
  | .vsfuExp2 _ d _ _ => (some d, false)
  | .vsfuLog2 _ d _ _ => (some d, false)
  | .vsfuSinpi _ d _ _ => (some d, false)
  | .vsfuCospi _ d _ _ => (some d, false)
  | .vaccFrom _ d _ => (some d, false)
  | .vld _ t _ _ _ => (some t, false)
  | .vgth _ t _ _ _ => (some t, false)
  | _ => (none, false)

/-! ### Acceptance at issue (R218, R337, R338) -/

namespace State

/-- The checks of R338 items 2 and 3: a claim (trap 0x08), and registers below %VREGS (trap 0x07). -/
def withClaim (s : State) (regs : List (BitVec 5)) (go : Claim → State) : State := match s.src.slot.claim with
  | none => s.raise 0x08 s.wordTval
  | some k => if regs.any fun r => k.regs ≤ r.toNat then s.raise 0x07 s.wordTval else go k

/-- An operation with the state it captures at issue (R337). -/
def vop (s : State) (i : Instr) : VOp :=
  { op := i, fmtd := s.src.slot.fmtd, scale := s.src.slot.scale, amode := s.src.slot.amode, x := 0, y := 0, table := []
    cycle := s.here.cyc.toNat }

/-- The vector queue as it stood before the bundle. -/
def oldQueue (s : State) : List VOp := match s.src.slot.claim with
  | some k => k.queue
  | none => []

/-- An operation enters the vector queue (R218): a full queue parks the bundle. A C-word's operation stands before its pair's
A-word's. -/
def vput (s : State) (o : VOp) (go : State → State) : State :=
  let n := s.oldQueue.length
  if Config.vqueue ≤ n then s.replay .vroom
  else go (s.updMe fun x => { x with claim := x.claim.map fun k => { k with queue := k.queue.take n ++ o :: k.queue.drop n } })

/-- An operation on lanes is checked and accepted. -/
def valu (s : State) (regs : List (BitVec 5)) (o : VOp) : State := s.withClaim regs fun _ => s.vput o id

/-- An operation whose result the slot waits for is checked and accepted. -/
def vwait (s : State) (regs : List (BitVec 5)) (o : VOp) : State :=
  s.withClaim regs fun _ => s.vput o fun t => t.parkA .vresult

/-- An operation that names a format is checked and accepted (R91). -/
def vfmt (s : State) (regs : List (BitVec 5)) (f : BitVec 4) (enc : Bool) (o : VOp) : State :=
  s.withClaim regs fun _ => s.withFmt f enc fun t => s.vput { o with table := t } id

end State

/-! ### VALU, VFMA, VCMP, VSEL, VCVT, VBC, VPERM, VABT, VABM, VIOTA -/

/-- VADD (R346). -/
def execVadd (m : BitVec 1) (d a b : BitVec 5) (t : BitVec 3) (s : State) : Host.Outcome State Fault Refusal :=
  .next (s.valu [d, a, b] (s.vop (.vadd m d a b t)))
/-- VSUB (R346). -/
def execVsub (m : BitVec 1) (d a b : BitVec 5) (t : BitVec 3) (s : State) : Host.Outcome State Fault Refusal :=
  .next (s.valu [d, a, b] (s.vop (.vsub m d a b t)))
/-- VMUL (R346). -/
def execVmul (m : BitVec 1) (d a b : BitVec 5) (t : BitVec 3) (s : State) : Host.Outcome State Fault Refusal :=
  .next (s.valu [d, a, b] (s.vop (.vmul m d a b t)))
/-- VMIN (R346). -/
def execVmin (m : BitVec 1) (d a b : BitVec 5) (t : BitVec 3) (s : State) : Host.Outcome State Fault Refusal :=
  .next (s.valu [d, a, b] (s.vop (.vmin m d a b t)))
/-- VMAX (R346). -/
def execVmax (m : BitVec 1) (d a b : BitVec 5) (t : BitVec 3) (s : State) : Host.Outcome State Fault Refusal :=
  .next (s.valu [d, a, b] (s.vop (.vmax m d a b t)))
/-- VAND (R347). -/
def execVand (m : BitVec 1) (d a b : BitVec 5) (t : BitVec 3) (s : State) : Host.Outcome State Fault Refusal :=
  .next (s.valu [d, a, b] (s.vop (.vand m d a b t)))
/-- VOR (R347). -/
def execVor (m : BitVec 1) (d a b : BitVec 5) (t : BitVec 3) (s : State) : Host.Outcome State Fault Refusal :=
  .next (s.valu [d, a, b] (s.vop (.vor m d a b t)))
/-- VXOR (R347). -/
def execVxor (m : BitVec 1) (d a b : BitVec 5) (t : BitVec 3) (s : State) : Host.Outcome State Fault Refusal :=
  .next (s.valu [d, a, b] (s.vop (.vxor m d a b t)))
/-- VSHL (R360). -/
def execVshl (m : BitVec 1) (d a b : BitVec 5) (t : BitVec 3) (s : State) : Host.Outcome State Fault Refusal :=
  .next (s.valu [d, a, b] (s.vop (.vshl m d a b t)))
/-- VSHR (R360). -/
def execVshr (m : BitVec 1) (d a b : BitVec 5) (t : BitVec 3) (s : State) : Host.Outcome State Fault Refusal :=
  .next (s.valu [d, a, b] (s.vop (.vshr m d a b t)))
/-- VSRA (R360). -/
def execVsra (m : BitVec 1) (d a b : BitVec 5) (t : BitVec 3) (s : State) : Host.Outcome State Fault Refusal :=
  .next (s.valu [d, a, b] (s.vop (.vsra m d a b t)))
/-- VFMA (R353). -/
def execVfma (m : BitVec 1) (d a b : BitVec 5) (t : BitVec 3) (c : BitVec 5) (s : State) :
    Host.Outcome State Fault Refusal := .next (s.valu [d, a, b, c] (s.vop (.vfma m d a b t c)))
/-- VCMP (R350). -/
def execVcmp (m : BitVec 1) (a b : BitVec 5) (t : BitVec 3) (c : BitVec 2) (s : State) :
    Host.Outcome State Fault Refusal := .next (s.valu [a, b] (s.vop (.vcmp m a b t c)))
/-- VSEL (R358). -/
def execVsel (d a b : BitVec 5) (t : BitVec 3) (s : State) : Host.Outcome State Fault Refusal :=
  .next (s.valu [d, a, b] (s.vop (.vsel d a b t)))
/-- VCVT.DEC (R351). -/
def execVcvtDec (m : BitVec 1) (d a : BitVec 5) (t : BitVec 3) (f : BitVec 4) (s : State) :
    Host.Outcome State Fault Refusal := .next (s.vfmt [d, a] f false (s.vop (.vcvtDec m d a t f)))
/-- VCVT.ENC (R351). -/
def execVcvtEnc (m : BitVec 1) (d a : BitVec 5) (t : BitVec 3) (f : BitVec 4) (s : State) :
    Host.Outcome State Fault Refusal := .next (s.vfmt [d, a] f true (s.vop (.vcvtEnc m d a t f)))
/-- VBC (R348). -/
def execVbc (m : BitVec 1) (d : BitVec 5) (a : BitVec 6) (t : BitVec 3) (s : State) : Host.Outcome State Fault Refusal :=
  .next (s.valu [d] { s.vop (.vbc m d a t) with x := s.rg a })
/-- VPERM (R356). -/
def execVperm (m : BitVec 1) (d a b : BitVec 5) (t : BitVec 3) (s : State) : Host.Outcome State Fault Refusal :=
  .next (s.valu [d, a, b] (s.vop (.vperm m d a b t)))
/-- VABT (R344). -/
def execVabt (m : BitVec 1) (a : BitVec 5) (f : BitVec 4) (s : State) : Host.Outcome State Fault Refusal :=
  .next (s.vfmt [a] f false (s.vop (.vabt m a f)))
/-- VABM (R343). -/
def execVabm (d a : BitVec 5) (f : BitVec 4) (s : State) : Host.Outcome State Fault Refusal :=
  .next (s.vfmt [d, a] f false (s.vop (.vabm d a f)))
/-- VIOTA (R355). -/
def execViota (m : BitVec 1) (d : BitVec 5) (t : BitVec 1) (s : State) : Host.Outcome State Fault Refusal :=
  .next (s.valu [d] (s.vop (.viota m d t)))

/-! ### VRED, VEXT, VSFU, VACC -/

/-- VRED.ADD (R357). -/
def execVredAdd (m : BitVec 1) (d : BitVec 6) (a : BitVec 5) (t : BitVec 3) (s : State) :
    Host.Outcome State Fault Refusal := .next (s.vwait [a] (s.vop (.vredAdd m d a t)))
/-- VRED.MIN (R357). -/
def execVredMin (m : BitVec 1) (d : BitVec 6) (a : BitVec 5) (t : BitVec 3) (s : State) :
    Host.Outcome State Fault Refusal := .next (s.vwait [a] (s.vop (.vredMin m d a t)))
/-- VRED.MAX (R357). -/
def execVredMax (m : BitVec 1) (d : BitVec 6) (a : BitVec 5) (t : BitVec 3) (s : State) :
    Host.Outcome State Fault Refusal := .next (s.vwait [a] (s.vop (.vredMax m d a t)))
/-- VEXT (R352). -/
def execVext (d : BitVec 6) (a : BitVec 5) (b : BitVec 6) (t : BitVec 3) (s : State) :
    Host.Outcome State Fault Refusal := .next (s.vwait [a] { s.vop (.vext d a b t) with y := s.rg b })
/-- VSFU.RCP (R359). -/
def execVsfuRcp (m : BitVec 1) (d a : BitVec 5) (t : BitVec 3) (s : State) : Host.Outcome State Fault Refusal :=
  .next (s.vwait [d, a] (s.vop (.vsfuRcp m d a t)))
/-- VSFU.SQRT (R359). -/
def execVsfuSqrt (m : BitVec 1) (d a : BitVec 5) (t : BitVec 3) (s : State) : Host.Outcome State Fault Refusal :=
  .next (s.vwait [d, a] (s.vop (.vsfuSqrt m d a t)))
/-- VSFU.RSQRT (R359). -/
def execVsfuRsqrt (m : BitVec 1) (d a : BitVec 5) (t : BitVec 3) (s : State) : Host.Outcome State Fault Refusal :=
  .next (s.vwait [d, a] (s.vop (.vsfuRsqrt m d a t)))
/-- VSFU.EXP2 (R359). -/
def execVsfuExp2 (m : BitVec 1) (d a : BitVec 5) (t : BitVec 3) (s : State) : Host.Outcome State Fault Refusal :=
  .next (s.vwait [d, a] (s.vop (.vsfuExp2 m d a t)))
/-- VSFU.LOG2 (R359). -/
def execVsfuLog2 (m : BitVec 1) (d a : BitVec 5) (t : BitVec 3) (s : State) : Host.Outcome State Fault Refusal :=
  .next (s.vwait [d, a] (s.vop (.vsfuLog2 m d a t)))
/-- VSFU.SINPI (R359). -/
def execVsfuSinpi (m : BitVec 1) (d a : BitVec 5) (t : BitVec 3) (s : State) : Host.Outcome State Fault Refusal :=
  .next (s.vwait [d, a] (s.vop (.vsfuSinpi m d a t)))
/-- VSFU.COSPI (R359). -/
def execVsfuCospi (m : BitVec 1) (d a : BitVec 5) (t : BitVec 3) (s : State) : Host.Outcome State Fault Refusal :=
  .next (s.vwait [d, a] (s.vop (.vsfuCospi m d a t)))

namespace State

/-- VACC (R345): the operand's reserved bits and columns are checked last. -/
def vacc (s : State) (d : BitVec 5) (a : BitVec 6) (i : Instr) : State := s.withClaim [d] fun k =>
  let v := s.rg a
  if v.toNat / 2 ^ 23 ≠ 0 ∨ v.toNat / 2 ^ 14 % 4 ≠ 0 ∨ v.getLsbD 7 ∨ 128 < v.toNat / 2 ^ 16 % 128 + k.vlen then s.illegal
  else s.vput { s.vop i with x := v } id

end State

/-- VACC.FROM (R345). -/
def execVaccFrom (m : BitVec 1) (d : BitVec 5) (a : BitVec 6) (s : State) : Host.Outcome State Fault Refusal :=
  .next (s.vacc d a (.vaccFrom m d a))
/-- VACC.TO (R345). -/
def execVaccTo (m : BitVec 1) (d : BitVec 5) (a : BitVec 6) (s : State) : Host.Outcome State Fault Refusal :=
  .next (s.vacc d a (.vaccTo m d a))

/-! ### VLD, VST, VGTH, VSCT (R225, R354) -/

/-- The stages of looking up the addresses of a vector memory operation. -/
inductive VLook where
  | ok (ps : List Look)
  | walk (va : Word)
  deriving DecidableEq, Repr

namespace State

/-- Translate the addresses of the enabled lanes in ascending order (R354 item 2). -/
def vlook (s : State) (c : Nat) (k : Access) : List Word → VLook × State
  | [] => (.ok [], s)
  | va :: r =>
    if inAperture va then match s.vlook c k r with
      | (.ok ps, t) => (.ok (s.aperture c va :: ps), t)
      | x => x
    else match s.tlbLook c va with
    | (none, t) => (.walk va, t)
    | (some e, t) =>
      if !e.allows k then (.walk va, t)
      else match t.vlook c k r with
      | (.ok ps, u) => (.ok (t.physical (t.runVf c) (e.pa va) e.f e.c false :: ps), u)
      | x => x

/-- An element at a place. -/
def elemAt (s : State) (c : Nat) (l : Nat) (va : Word) : Look → Elem
  | .at (.sp o off) => { lane := l, key := spKey (s.vk c) o off, va := va, cached := false, slice := none }
  | .at (.mem key cached home) => { lane := l, key := key, va := va, cached := cached, slice := some home }
  | _ => { lane := l, key := 0, va := va, cached := false, slice := none }

/-- A vector memory operation (R354): the address checks over the enabled lanes in their order, then its place in the queue. -/
def vmem (s : State) (m : BitVec 1) (t : BitVec 5) (ix : Option (BitVec 5)) (z : BitVec 3) (k : Access) (i : Instr)
    (addr : Claim → Nat → Word) : State := s.withClaim (t :: ix.toList) fun cl =>
  let c := s.cur.core
  let n := 2 ^ z.toNat
  let q := s.oldQueue
  let busy := (q.zipIdx.filter fun o =>
    (m = 1 && o.1.writes.2) || (ix.isSome && o.1.writes.1 = ix)).getLast?
  match busy with
  | some o => s.replay (.vaddr (q.length - (o.2 + 1)))
  | none =>
    let es := (cl.lanes m).map fun l => (l, addr cl l)
    match es.find? fun e => !canonical e.2 with
    | some e => s.raise 0x05 e.2
    | none => match es.find? fun e => e.2.toNat % n ≠ 0 with
    | some e => s.raise 0x04 e.2
    | none => match es.find? fun e => inAperture e.2 && s.aperture c e.2 = .trap 0x05 with
    | some e => s.raise 0x05 e.2
    | none => match s.vlook c k (es.map (·.2)) with
    | (.walk va, u) => u.parkWalk c k va
    | (.ok ps, u) =>
      let xs := es.zip ps
      match xs.find? fun x => x.2 = .trap 0x06 with
      | some x => u.raise 0x06 x.1.2
      | none => match xs.find? fun x => x.2 = .trap 0x05 with
      | some x => u.raise 0x05 x.1.2
      | none => u.vput { u.vop i with addrs := xs.map fun x => u.elemAt c x.1.1 x.1.2 x.2 } id

end State

/-- VLD (R354): element l at `g[a]` + l·`g[b]`. -/
def execVld (m : BitVec 1) (t : BitVec 5) (a b : BitVec 6) (z : BitVec 3) (s : State) :
    Host.Outcome State Fault Refusal :=
  .next (s.vmem m t none z 0 (.vld m t a b z) fun _ l => s.rg a + BitVec.ofNat 64 l * s.rg b)
/-- VST (R354). -/
def execVst (m : BitVec 1) (t : BitVec 5) (a b : BitVec 6) (z : BitVec 3) (s : State) :
    Host.Outcome State Fault Refusal :=
  .next (s.vmem m t none z 1 (.vst m t a b z) fun _ l => s.rg a + BitVec.ofNat 64 l * s.rg b)
/-- VGTH (R354): element l at `g[a]` + vb[l], sign-extended. -/
def execVgth (m : BitVec 1) (t : BitVec 5) (a : BitVec 6) (v : BitVec 5) (z : BitVec 3) (s : State) :
    Host.Outcome State Fault Refusal :=
  .next (s.vmem m t (some v) z 0 (.vgth m t a v z) fun k l => s.rg a + (k.lane v l).signExtend 64)
/-- VSCT (R354). -/
def execVsct (m : BitVec 1) (t : BitVec 5) (a : BitVec 6) (v : BitVec 5) (z : BitVec 3) (s : State) :
    Host.Outcome State Fault Refusal :=
  .next (s.vmem m t (some v) z 1 (.vsct m t a v z) fun k l => s.rg a + (k.lane v l).signExtend 64)

/-- The target register, element size and direction (a store) of a vector memory operation. -/
def VOp.memForm (o : VOp) : Option (BitVec 5 × Nat × Bool) := match o.op with
  | .vld _ t _ _ z => some (t, 2 ^ z.toNat, false)
  | .vst _ t _ _ z => some (t, 2 ^ z.toNat, true)
  | .vgth _ t _ _ z => some (t, 2 ^ z.toNat, false)
  | .vsct _ t _ _ z => some (t, 2 ^ z.toNat, true)
  | _ => none

/-! ### Performing the head of the queue (R213, R218, R225, R242, R354) -/

namespace State

/-- Change a slot's claim. -/
def updClaim (s : State) (c n : Nat) (f : Claim → Claim) : State := s.updSlot c n fun x => { x with claim := x.claim.map f }

/-- The head operation becomes another one. -/
def setHead (s : State) (c n : Nat) (o : VOp) : State := s.updClaim c n fun k => { k with queue := o :: k.queue.drop 1 }

/-- Poison met by a queued operation (R155, R354): it writes nothing, what is queued behind it is discarded, and trap 0x0B becomes
pending; a slot on a wait of R54 is woken to take it, and one that waits for a discarded operation has its answer. -/
def vpoison (s : State) (c n : Nat) (v : Word) : State :=
  let s := s.updClaim c n fun k => { k with queue := [] }
  let s := s.updSlot c n fun x => { x with
    pendVpoison := some (x.pendVpoison.getD v)
    aWait := if x.aWait = some .vresult then some (.done []) else x.aWait }
  let x := s.slot c n
  if (s.waitCode c x).isSome && !x.inTrap then s.abandon c n else s

/-- An element of a vector load has its value: outside the scratchpads it counts under L1HIT, or, where it came by step 2 or 4 of R161,
under L1MISS (R251, R354). -/
def countElem (s : State) (c n : Nat) (e : Elem) (miss : Bool) : State :=
  if e.slice.isSome then s.count c (if miss then 5 else 4) n 1 else s

/-- What one element of a load gives: its value, poison, or a wait. An element that asked for a fill takes what that fill gives it
(R162). -/
def vloadElem (s : State) (c n : Nat) (o : VOp) (e : Elem) (z : Nat) : Option (Option Half) × State :=
  let vf := s.runVf c
  let op := e.load z
  match o.ans with
  | some a => (some a, if a.isSome then s.countElem c n e true else s)
  | none =>
    if o.fill.isSome then (none, s)
    else if !s.bankReady e.key vf then (none, s.askKeyBank e.key vf)
    else match s.loadLook c op with
    | .value v => (some (some (BitVec.ofNat 32 v)), (s.touch c op).countElem c n e o.late)
    | .poison => (some none, s)
    | .cover => (none, s.setHead c n { o with begun := true, late := true })
    | .fill =>
      let r := s.askFill c (vf + 1) n op
      match r.2.earlyAt c r.1 op with
      | (some w, t) => (fillGives w, t.countElem c n e true)
      | (none, t) => (none, t.setHead c n { o with begun := true, fill := some r.1 })
    | .request =>
      let s := if e.slice.isSome then s.countTag c vf n 1 else s
      if s.poisoned e.key z then (some none, s)
      else (some (some (BitVec.ofNat 32 (s.home e.key z))), s.countElem c n e true)

/-- A vector load moves its elements in ascending lane order until one waits; with all of them here it writes its lanes. -/
def vload (s : State) (c n : Nat) (t : BitVec 5) (z : Nat) : Nat → VOp → State
  | 0, _ => s
  | fuel + 1, o => match o.addrs with
    | [] => match o.bad with
      | some va => s.vpoison c n va
      | none => s.updClaim c n fun k => (o.got.foldl (fun k g => k.setLane t g.1 g.2) k).pop
    | e :: r => match s.vloadElem c n o e z with
      | (none, u) => u
      | (some v, u) =>
        let bad : Option Word := match v, o.bad with
          | some _, b => b
          | none, none => some e.va
          | none, some b => some (if e.va < b then e.va else b)
        let o := { o with addrs := r, got := o.got ++ (v.map fun x => (e.lane, x)).toList, bad := bad, begun := true
                          fill := none, ans := none, late := false }
        (u.setHead c n o).vload c n t z fuel o

/-- A vector store enters its elements into the PQ in ascending lane order, while it has room. -/
def vstore (s : State) (c n : Nat) (t : BitVec 5) (z : Nat) : Nat → VOp → State
  | 0, _ => s
  | fuel + 1, o => match o.addrs with
    | [] => s.updClaim c n (·.pop)
    | e :: r =>
      if !s.bankReady e.key (s.runVf c) && spCore e.key = c then s.askKeyBank e.key (s.runVf c)
      else if s.pqIsFull c then s
      else
        let x := s.slot c n
        let v : Half := match x.claim with
          | some k => k.lane t e.lane
          | none => 0
        let u := s.enterPq c
          { seq := 0, key := e.key, bytes := leBytes z v.toNat, mark := none, slot := n, pop := x.pop, vf := s.runVf c
            va := e.va, cached := e.cached, slice := e.slice }
        let o := { o with addrs := r, begun := true }
        (u.setHead c n o).vstore c n t z fuel o

/-- A VACC reaches its tile (R213, R345): once no job on the tile runs and the tile is its VF's (R242). -/
def vaccStep (s : State) (c n : Nat) (o : VOp) (m : BitVec 1) (d : BitVec 5) (put : Bool) : State :=
  let cl := s.clusterOf c
  let vf := s.runVf c
  let tl := o.x.toNat / 2 ^ 8 % 64
  let at_ (l : Nat) : Nat := 128 * (o.x.toNat % 128) + o.x.toNat / 2 ^ 16 % 128 + l
  if (s.cluster cl).running.any fun j => j.kind ≠ 1 && j.tile = tl then s
  else if s.clusterBank cl (4, tl) ≠ some vf then s.askBank 4 cl tl vf
  else match (s.slot c n).claim with
  | none => s
  | some k =>
    let t := s.tileOf cl vf tl
    let get (l : Nat) : AcElem := FMap.getD t.elems (at_ l) { val := 0, cnt := 0, poison := false }
    if put then
      let es := (k.lanes m).foldl (fun es l =>
        let v := k.lane d l
        FMap.insert es (at_ l) (if fp32.isAbsent v.toNat then { val := 0, cnt := 0, poison := false }
          else { val := v, cnt := 1, poison := false })) t.elems
      (s.setTile cl vf tl { t with elems := es }).updClaim c n (·.pop)
    else if (k.lanes m).any fun l => (get l).poison then s.vpoison c n o.x
    else s.updClaim c n fun k => (k.write m d fun l => if 0 < (get l).cnt then (get l).val else 0xFFFFFFFF).pop

/-- An SFU's queue has room: of its 16 entries one holds no request that waits for its service (R220). -/
def sfuRoom (l : List SfuReq) : Bool := (l.filter fun q => q.served.isNone && !q.atCore).length < Config.sfuQueue

/-- Send a request to the SFU of a core's quad (R220), the lower or the upper two core rows of the cluster: it enters the queue, or
stays at its core while the queue is full. A service core, which is in no quad, uses the lower quad's (assumption 59). -/
def sendSfu (s : State) (c : Nat) (r : SfuReq) : State :=
  let put (l : List SfuReq) : List SfuReq := l ++ [{ r with atCore := !sfuRoom l }]
  (s.updCluster (s.clusterOf c) fun k =>
    if Config.cscBase ≤ c || s.physOf c / 32 % 4 < 2 then { k with sfu0 := put k.sfu0 } else { k with sfu1 := put k.sfu1 }).ticked

/-- A VSFU sends its one request (R220): ⌈e/8⌉ service cycles for e elements of enabled lanes, one where no lane is enabled
(assumption 69). -/
def vsfuStep (s : State) (c n : Nat) (o : VOp) (m : BitVec 1) (t : BitVec 3) (k : Claim) : State :=
  let e := tyElems t * (k.lanes m).length
  (s.setHead c n { o with begun := true, sent := some s.tick }).sendSfu c
    { id := s.tick, core := c, slot := n, vf := s.runVf c, vec := true, n := Nat.max 1 ((e + 7) / 8)
      cycle := o.cycle, ws := [], served := none }

/-- The head of a slot's vector queue is performed by its claim's groups, once they are its VF's (R242). -/
def performHead (s : State) (c n : Nat) (k : Claim) (o : VOp) : State :=
  let cl := s.clusterOf c
  match k.groups.find? fun g => FMap.find? (s.cluster cl).laneTag g ≠ some (s.runVf c) with
  | some g => s.askBank 3 cl g (s.runVf c)
  | none => match o.memForm with
  | some (t, z, false) => s.vload c n t z (o.addrs.length + 1) o
  | some (t, z, true) => s.vstore c n t z (o.addrs.length + 1) o
  | none => match k.scalar o with
  | some ws => (s.updClaim c n (·.pop)).updSlot c n fun x =>
      { x with aWait := if x.aWait = some .vresult then some (.done ws) else x.aWait }
  | none => match vsfuForm o.op with
  | some f => if o.sent.isSome then s else s.vsfuStep c n o f.1 f.2 k
  | none => match o.op with
  | .vaccFrom m d _ => s.vaccStep c n o m d false
  | .vaccTo m d _ => s.vaccStep c n o m d true
  | _ =>
    let r := k.run o (s.slot c n).rseed
    s.updSlot c n fun x => { x with claim := some r.1.pop, rseed := r.2 }

end State

/-- VECTOR_OP_PERFORM (R218): the head of a slot's vector queue, unless its pair's C-word is still parked, or a world switch is
under way and it has not begun (R239). -/
def execVectorOpPerform (core slot : Nat) (s : State) : Host.Outcome State Fault Refusal :=
  .next (match (s.slot core slot).claim with
  | none => s
  | some k => match k.queue with
    | [] => s
    | o :: _ => if o.held || ((s.core core).switchTo.isSome && !o.begun) then s else s.performHead core slot k o)

/-! ### The pool (R214-R219, R349) -/

namespace State

/-- The claims of a VF's slots in a cluster, whether the VF runs there or not. -/
def claimsOf (s : State) (cl vf : Nat) : List Claim := (s.coresOf cl).flatMap fun c =>
  (FMap.getD (s.core c).vfs (vf + 1) {}).slots.vals.filterMap (·.claim)

/-- The lane groups a VF's claims leave free (assumption 14). -/
def freeGroups (s : State) (cl vf : Nat) : List Nat :=
  let used := (s.claimsOf cl vf).flatMap (·.groups)
  (List.range Config.laneGroups).filter fun g => !used.contains g

end State

/-- VCLAIM (R215, R349): joins the pool's list and parks. -/
def execVclaim (d a b : BitVec 6) (s : State) : Host.Outcome State Fault Refusal :=
  let n := (s.rg a).toNat
  let r := (s.rg b).toNat
  let c := s.cur.core
  .next (if s.src.slot.claim.isSome || n < 1 || 8 < n || !([8, 16, 32].contains r) then s.illegal
  else (s.updCluster (s.clusterOf c) fun k => { k with claims := k.claims ++ [(c, s.cur.slot, s.runVf c)] }).parkC
    (.vclaim d.toNat n r))

/-- VCLAIM_GRANT (R215): the oldest waiting request of the pool with free groups is served: its claim begins with every register 0
and VM all ones. -/
def execVclaimGrant (cluster : Nat) (s : State) : Host.Outcome State Fault Refusal :=
  let k := s.cluster cluster
  let heads := k.claims.filter fun r => k.claims.find? (·.2.2 = r.2.2) = some r && !(s.freeGroups cluster r.2.2).isEmpty
  .next (match heads with
  | [] => s
  | r :: _ => match (s.slot r.1 r.2.1).cWait with
    | some (.vclaim d n regs) =>
      let gs := (s.freeGroups cluster r.2.2).take n
      (s.updCluster cluster fun k => { k with claims := k.claims.erase r }).updSlot r.1 r.2.1 fun x => { x with
        claim := some { groups := gs, regs := regs, v := [], vm := BitVec.ofNat 256 (2 ^ (8 * gs.length) - 1), queue := [] }
        cWait := some (.done [.g d (BitVec.ofNat 64 (8 * gs.length))]) }
    | _ => s.updCluster cluster fun k => { k with claims := k.claims.erase r })

namespace State

/-- VRELS once the queue is empty (R217). -/
def endClaim (s : State) (c n : Nat) : State := (s.dropClaim c n).updSlot c n fun x => { x with cWait := none, cont := none }

/-- VRENEG once the queue is empty (R216): the new length. -/
def renegotiate (s : State) (c n d : Nat) : State :=
  let cl := s.clusterOf c
  let vf := s.runVf c
  let waiting := (s.cluster cl).claims.filter (·.2.2 = vf)
  let h := (s.claimsOf cl vf).length + waiting.length
  let share := (Config.laneGroups + h - 1) / h
  let s := if waiting.isEmpty then s
    else s.updClaim c n fun k => if share < k.groups.length then k.shrink share else k
  let len := match (s.slot c n).claim with
    | some k => k.vlen
    | none => 0
  s.updSlot c n fun x => { x.wr (.g d (BitVec.ofNat 64 len)) with cWait := none, cont := none }

/-- A slot's vector queue holds an operation that may be performed. -/
def vpending (s : State) (c n : Nat) : Bool := match (s.slot c n).claim with
  | some k => k.queue.any fun o => !o.held
  | none => false

/-- A control instruction of the pool acts now, or once the queue is empty. -/
def whenEmpty (s : State) (k : Option Cont) (go : State → State) : State :=
  let c := s.cur.core
  let n := s.cur.slot
  if (s.slot c n).claim.isNone then s.raise 0x08 s.wordTval
  else if s.vbusy c n then s.await c n .vempty k
  else go s

end State

/-- VRELS (R217, R349). -/
def execVrels (s : State) : Host.Outcome State Fault Refusal :=
  .next (s.whenEmpty (some .vrels) fun t => t.endClaim t.cur.core t.cur.slot)

/-- VRENEG (R216, R349). -/
def execVreneg (d : BitVec 6) (s : State) : Host.Outcome State Fault Refusal :=
  .next (s.whenEmpty (some (.reneg d.toNat 0)) fun t => t.renegotiate t.cur.core t.cur.slot d.toNat)

/-- VFENCE (R219). -/
def execVfence (s : State) : Host.Outcome State Fault Refusal := .next (s.whenEmpty none id)

/-! ### The special-function units (R116, R220) -/

namespace State

/-- SFU (R220): the request enters the quad's queue and the slot parks. -/
def sfu (s : State) (g : SfuFn) (d a : BitVec 6) : State :=
  let c := s.cur.core
  let r := sfu32 g (s.rg a).toNat
  (s.parkA (.sfu s.tick)).sendSfu c
    { id := s.tick, core := c, slot := s.cur.slot, vf := s.runVf c, vec := false, n := 1, cycle := s.here.cyc.toNat
      ws := [.g d.toNat (BitVec.ofNat 64 (r.bits % 2 ^ 32)), .flags (r.flags.zeroExtend 64)], served := none }

end State

/-- SFU.RCP (R116, R220). -/
def execSfuRcp (d a : BitVec 6) (s : State) : Host.Outcome State Fault Refusal := .next (s.sfu .rcp d a)
/-- SFU.SQRT (R116, R220). -/
def execSfuSqrt (d a : BitVec 6) (s : State) : Host.Outcome State Fault Refusal := .next (s.sfu .sqrt d a)
/-- SFU.RSQRT (R116, R220). -/
def execSfuRsqrt (d a : BitVec 6) (s : State) : Host.Outcome State Fault Refusal := .next (s.sfu .rsqrt d a)
/-- SFU.EXP2 (R116, R220). -/
def execSfuExp2 (d a : BitVec 6) (s : State) : Host.Outcome State Fault Refusal := .next (s.sfu .exp2 d a)
/-- SFU.LOG2 (R116, R220). -/
def execSfuLog2 (d a : BitVec 6) (s : State) : Host.Outcome State Fault Refusal := .next (s.sfu .log2 d a)
/-- SFU.SINPI (R116, R220). -/
def execSfuSinpi (d a : BitVec 6) (s : State) : Host.Outcome State Fault Refusal := .next (s.sfu .sinpi d a)
/-- SFU.COSPI (R116, R220). -/
def execSfuCospi (d a : BitVec 6) (s : State) : Host.Outcome State Fault Refusal := .next (s.sfu .cospi d a)

/-- The oldest of some requests: by issue cycle, ties to the lower core (R220). -/
def oldestOf (l : List SfuReq) : Option SfuReq := l.foldl (fun b r => match b with
  | none => some r
  | some q => if r.cycle < q.cycle ∨ (r.cycle = q.cycle ∧ r.core < q.core) then some r else b) none

/-- The oldest request of an SFU's queue that is not served yet (R220). -/
def oldestReq (l : List SfuReq) : Option SfuReq := oldestOf (l.filter fun q => q.served.isNone && !q.atCore)

/-- An entry of the queue is free: the oldest request that waits at its core enters it (R220). -/
def sfuEnter (l : List SfuReq) : List SfuReq :=
  if !State.sfuRoom l then l
  else match oldestOf (l.filter (·.atCore)) with
    | some r => l.map fun q => if q.id = r.id then { q with atCore := false } else q
    | none => l

/-- SFU_SERVICE (R220): the oldest request is served; its result returns 24 cycles after the start of its last service cycle. -/
def execSfuService (cluster quad : Nat) (s : State) : Host.Outcome State Fault Refusal :=
  let serve (l : List SfuReq) : List SfuReq := match oldestReq l with
    | some r => sfuEnter (l.map fun q => if q.id = r.id then
        { q with served := some ((s.core r.core).cyc.toNat + (r.n - 1) + Config.sfuLatency) } else q)
    | none => l
  .next (s.updCluster cluster fun k => if quad = 0 then { k with sfu0 := serve k.sfu0 } else { k with sfu1 := serve k.sfu1 })

namespace State

/-- A result reaches its slot: a scalar one is written, a VSFU's lanes are written and its operation leaves the queue. A slot that
no longer waits for it gets nothing. -/
def sfuDeliver (s : State) (r : SfuReq) : State :=
  let vk := r.vf + 1
  let x := s.slotV r.core vk r.slot
  if r.vec then match x.claim with
    | some k => match k.queue with
      | o :: _ =>
        if o.sent = some r.id then
          (s.updSlotV r.core vk r.slot fun x => { x with claim := some (k.run o x.rseed).1.pop }).finishA r.core vk r.slot []
        else s
      | [] => s
    | none => s
  else if x.aWait = some (.sfu r.id) then s.finishA r.core vk r.slot r.ws
  else s

end State

/-- SFU_RESULT (R220): a slot's result whose time has come returns. -/
def execSfuResult (core slot : Nat) (s : State) : Host.Outcome State Fault Refusal :=
  let cl := s.clusterOf core
  let k := s.cluster cl
  .next (match (k.sfu0 ++ k.sfu1).find? fun r => r.core = core && r.slot = slot && (match r.served with
    | some t => decide (t ≤ (s.core core).cyc.toNat)
    | none => false) with
  | some r => (s.updCluster cl fun k => { k with
      sfu0 := k.sfu0.filter (·.id ≠ r.id), sfu1 := k.sfu1.filter (·.id ≠ r.id) }).sfuDeliver r
  | none => s)

end Sys2Proof.Machine
end

