-- ==== Sys2Proof/Machine/Tenancy.lean ====
section
/-! DEFINITION. Tenants on the cores: bank exchanges (R242), world switches (R239-R241, R252, R263), the schedule of a slicing
domain (R244, R248), the reset of a virtual function (R249). -/

namespace Sys2Proof.Machine

namespace State

/-! ### Banks (R242) -/

/-- A bank belongs to another VF from now on. -/
def retag (s : State) (x : Xfer) : State := match x.kind with
  | 0 => s.updCore x.unit fun k => { k with gprTag := FMap.insert k.gprTag x.idx x.vf }
  | 1 => s.updCore x.unit fun k => { k with spTag := FMap.insert k.spTag x.idx x.vf }
  | 2 => s.updCore x.unit fun k => { k with tabTag := FMap.insert k.tabTag x.idx x.vf }
  | 3 => s.updCluster x.unit fun k => { k with laneTag := FMap.insert k.laneTag x.idx x.vf }
  | 4 => s.updCluster x.unit fun k => { k with tileTag := FMap.insert k.tileTag x.idx x.vf }
  | _ => s.updCluster x.unit fun k => { k with setTag := FMap.insert k.setTag x.idx x.vf }

/-- The slots that touched the bank for the VF execute their bundles again. -/
def releaseBank (s : State) (x : Xfer) : State :=
  if 3 ≤ x.kind ∨ s.vk x.unit ≠ x.vf + 1 then s
  else (List.range 16).foldl (fun t n =>
    if (t.slot x.unit n).cWait = some (.bank x.kind x.unit x.idx) then t.retry x.unit (x.vf + 1) n else t) s

/-- An MX job that runs keeps the tile or operand set it works on (R243). -/
def bankBusy (s : State) (x : Xfer) : Bool :=
  (x.kind = 4 && (s.cluster x.unit).running.any fun j => j.kind ≠ 1 && j.tile = x.idx) ||
  (x.kind = 5 && (s.cluster x.unit).running.any fun j => j.kind ≠ 1)

end State

/-- BANK_EXCHANGE_DONE (R242): the spill and the fill end, the bank is the toucher's, and the toucher is released. -/
def execBankExchangeDone (kind unit idx : Nat) (s : State) : Host.Outcome State Fault Refusal :=
  .next (match s.xfers.find? fun x => x.kind = kind && x.unit = unit && x.idx = idx with
  | none => s
  | some x =>
    if s.bankBusy x then s
    else (({ s with xfers := s.xfers.erase x } : State).retag x).releaseBank x)

/-! ### World switches (R239-R241) -/

namespace State

/-- What a switch does with a parked slot whose C-word waits (R240): true where it is stopped, to execute its bundle again. -/
def stopsAt (s : State) (x : Slot) : Bool :=
  let mem (k : MemKind) : Bool := match k with
    | .amo _ => false
    | .store => false
    | _ => true
  if x.cont.isSome then false
  else match x.cWait with
  | some .redo => true
  | some (.fill _ _) => true
  | some (.cover op) => mem op.kind
  | some (.request rid) => match FMap.find? s.reqs rid with
    | some r => (match r.kind with
      | .mem op => mem op.kind
      | .fill _ => true
      | .queue q => decide (q.form = 2))
    | none => false
  | some (.watch _ _ _) => true
  | some (.acquire _ _ _ keep) => !keep
  | some (.pqFull _ _ _) => true
  | some (.semp _) => true
  | some (.ibx _) => true
  | some .park => true
  | some (.qWait _) => true
  | some (.asend _ _ _ _ _) => true
  | some (.submit _ _ _ _) => true
  | some (.vclaim _ _ _) => true
  | some .vroom => true
  | some (.vaddr _) => true
  | some .draws => true
  | some (.dtld _ _ _ _ _) => true
  | some (.walk _ _) => true
  | some (.bank _ _ _) => true
  | _ => false

/-- A slot is stopped before its bundle: its reply, when it comes, is discarded, and its place in every list is lost (R62, R240). -/
def stopSlot (s : State) (c n : Nat) : State :=
  if s.stopsAt (s.slot c n) then s.abandon c n else s

/-- The order of a switch reaches a core (R239 step 1, R263). -/
def orderSwitch (s : State) (target : Option Nat) (c : Nat) : State :=
  let s := (List.range 16).foldl (fun t n => t.stopSlot c n) s
  s.updCore c fun k => { k with switchTo := some target }

/-- Some vector operation of the running VF has begun and not ended (R239 step 2). -/
def vectorBegun (s : State) (c : Nat) : Bool := (s.cvf c).slots.vals.any fun x => match x.claim with
  | some k => k.queue.any (·.begun)
  | none => false

/-- The incoming VF's deferred sums are added in one step (R252). -/
def addDeferred (x : CoreVf) : CoreVf := { x.deferred.foldl (fun y d => addEvent y d.1 d.2.1 d.2.2) x with deferred := [] }

/-- Packets of the buffer go to the save area of the VF that leaves, before those that came later (R239). -/
def keepBuffer (k : Core) : Core :=
  { k.setCvf { k.cvf with kept := k.buf ++ k.cvf.kept } with buf := [] }

/-- The exchange of the eager state (R239 steps 3-5, R241): the L view and the instruction cache are invalidated, and the
incoming VF's slots may issue. -/
def exchange (s : State) (c : Nat) (target : Option Nat) : State := s.updCore c fun k =>
  let k := keepBuffer k.selfInvalidate
  let k : Core := { k with vf := target, switchTo := none, held := 0, l1i := [] }
  let x := addDeferred k.cvf
  { k.setCvf { x with kept := x.kept.drop Config.actBuf } with buf := x.kept.take Config.actBuf }

end State

/-- WORLD_SWITCH_EXCHANGE (R239, R241): once no vector operation is under way and the PQ is home, the core changes its VF. -/
def execWorldSwitchExchange (core : Nat) (s : State) : Host.Outcome State Fault Refusal :=
  .next (match (s.core core).switchTo with
  | none => s
  | some target =>
    if s.vectorBegun core then s
    else
      let s := s.drainUpTo core (s.core core).seq.toNat
      if (s.core core).pq.isEmpty then s.exchange core target else s)

/-! ### The schedule (R244, R246, R248) -/

namespace State

/-- The core set of a VF (R246): its group entry. -/
def coreSet (s : State) (v : Nat) : List Nat := match s.vfRec v with
  | some x => (s.group (s.pidOf v) (x.w0.toNat / 2 ^ 40 % 256)).getD []
  | none => []

/-- A VF has work (R248): a population that runs, or a LAUNCH accepted and not dispatched, at its queue's head or left to be run
again by a recovery (R275). A VF that is fatal, reset or paused has none (R228, R249, R254). -/
def hasWork (s : State) (v : Nat) : Bool := match s.vfRec v with
  | none => false
  | some x => !x.fatal && !x.resetting && !x.paused && !x.moved &&
    ((s.pops.any fun p => p.2.vf = v && p.2.status = .running) ||
     (s.queues.any fun q => q.2.vf = v && ((q.2.head.toList ++ q.2.live).any fun p => p.stage = .accepted)))

/-- The VFs of a slicing domain, ascending: those of one partition with the same core set. -/
def domainOf (s : State) (v : Nat) : List Nat :=
  s.vfs.keys.filter fun w => s.pidOf w = s.pidOf v && s.coreSet w = s.coreSet v

/-- The next VF with work after the running one, ascending and wrapping (R248); where none runs, the lowest (assumption 82). -/
def nextVf (s : State) (l : List Nat) (r : Option Nat) : Option Nat :=
  let l := l.filter fun v => s.hasWork v && some v ≠ r
  match r with
  | none => l.head?
  | some q => match l.find? (q < ·) with
    | some v => some v
    | none => l.head?

/-- Quanta of a VF's turn (R246 WEIGHT). -/
def weight (s : State) (v : Nat) : Nat := match s.vfRec v with
  | some x => x.w0.toNat / 2 ^ 32 % 256
  | none => 1

end State

/-- QUANTUM_EXPIRY (R244, R248): in the slicing domain of a VF the core set passes to the next VF with work, once the running one
has had its quanta; without work it leaves after 42,000 cycles, one that is fatal or destroyed at once. -/
def execQuantumExpiry (domain : Nat) (s : State) : Host.Outcome State Fault Refusal :=
  let set := s.coreSet domain
  let r := (s.core (set.headD 0)).vf
  let need : Nat := match r.bind s.vfRec with
    | some x => if x.fatal then 0 else if s.hasWork (r.getD 0) then s.weight (r.getD 0) * Config.quantum else Config.quantum
    | none => 0
  .next (match s.nextVf (s.domainOf domain) r with
  | some v =>
    if !set.isEmpty && set.all fun c => (s.core c).switchTo.isNone && need ≤ (s.core c).held then
      set.foldl (State.orderSwitch · (some v) ·) s
    else s
  | none => s)

/-! ### Reset of a VF (R249) -/

namespace State

/-- A scratchpad key of a VF. -/
def spOf (v key : Nat) : Bool := isSp key && (key - 2 ^ 50) / 2 ^ 30 = v + 1

/-- Every population of a VF ends and is reported as reset (R249). -/
def endPops (s : State) (v : Nat) : State :=
  (s.pops.filter fun p => p.2.vf = v && p.2.status = .running).foldl (fun t p => t.endPop p.1 .reset) s

/-- What a VF holds outside its queues, counter IDs and memory is cleared (R249): its banks, its saved and eager state, its
counters and pending traps; its operand sets are released. The VF may run work again. -/
def clearVf (s : State) (v : Nat) : State :=
  { s with
    cores := s.cores.map fun c => (c.1, { c.2 with
      vfs := FMap.erase c.2.vfs (v + 1)
      inbox := c.2.inbox.filter (·.vf ≠ v)
      buf := c.2.buf.filter (·.vf ≠ v) })
    clusters := s.clusters.map fun k => (k.1, { k.2 with
      ac := k.2.ac.filter fun t => t.1 / 64 ≠ v
      kept := FMap.erase k.2.kept v
      gotA := FMap.erase k.2.gotA v, gotB := FMap.erase k.2.gotB v
      linkA := k.2.linkA.filter (·.vf ≠ v), linkB := k.2.linkB.filter (·.vf ≠ v)
      claims := k.2.claims.filter (·.2.2 ≠ v)
      setTag := k.2.setTag.filter (·.2 ≠ v) })
    mem := s.mem.filter fun e => !spOf v e.1
    marks := s.marks.filter fun e => !spOf v (8 * e.1)
    poison := s.poison.filter fun e => !spOf v (8 * e.1)
    reqs := s.reqs.filter fun r => r.2.vf ≠ v
    vfs := match FMap.find? s.vfs v with
      | some x => FMap.insert s.vfs v { x with fatal := false, resetting := false }
      | none => s.vfs }

/-- The reset or the destruction of a VF begins (R249): its populations end, and it runs no new work until the reset has completed. As a
fatal VF, one that is destroyed is switched away at once (R244). -/
def resetVf (s : State) (v : Nat) (destroy : Bool) : State :=
  let s := s.endPops v
  match s.vfRec v with
  | some x => { s with vfs := FMap.insert s.vfs v { x with fatal := x.fatal || destroy, resetting := true } }
  | none => s

/-- No engine job of a VF stands in a queue or runs: those that ran when a population ended have run to their end (R228, R249). -/
def jobless (s : State) (v : Nat) : Bool := s.clusters.all fun k => (k.2.queue ++ k.2.running).all fun j => j.vf ≠ v

/-- The queues of a VF in the slices of its partition. -/
def queuesOf (s : State) (v : Nat) : List (Nat × Nat) := s.slices.flatMap fun k =>
  (k.2.queues.filter fun q => q.2.ownVf = v).map fun q => (k.1, q.1)

end State

end Sys2Proof.Machine
end

