-- ==== Sys2Proof/Machine/HostQueues.lean ====
section
/-! DEFINITION. Command queues (R267-R271, R273-R275): control blocks and rings in memory, opening, doorbells, the checks of a
packet, acceptance, packet break (R258), completion records. -/

namespace Sys2Proof.Machine

/-! ### Addresses of queues -/

/-- Operand values at and above this name host memory; below it they are physical addresses of the HBM (assumption 16). -/
def hostSpace : Nat := 2 ^ 64

namespace State

/-- The key of an address of a queue's space (R267): host memory, the whole HBM for a management queue, the HBM of the VF's
partition otherwise. -/
def queueKey (s : State) (host : Bool) (vf a : Nat) : Option Nat :=
  if host then some (hostKey (a % 2 ^ 64))
  else if vf = 0x1FF then (if a < Config.channels * Config.channelBytes then some (Part.zero.hbmKey a) else none)
  else s.physKey (s.pidOf vf) a

/-- Read n 64-bit words; an address outside memory reads 0. -/
def readWords (s : State) (host : Bool) (vf a n : Nat) : List Word := (List.range n).map fun i =>
  match s.queueKey host vf (a + 8 * i) with
  | some key => BitVec.ofNat 64 (s.home key 8)
  | none => 0

/-- Write 64-bit words, at home and in the memory behind it. -/
def writeWords (s : State) (host : Bool) (vf a : Nat) (ws : List Word) : State := ws.zipIdx.foldl (fun t e =>
  match t.queueKey host vf (a + 8 * e.2) with
  | some key => t.memWrite key (leBytes 8 e.1.toNat)
  | none => t) s

/-- An open queue. -/
def cmdq (s : State) (i : Nat) : Option CmdQueue := FMap.find? s.queues i
/-- Replace a queue. -/
def setCmdq (s : State) (i : Nat) (q : CmdQueue) : State := { s with queues := FMap.insert s.queues i q }

/-- Write words of a queue's control block. -/
def writeQcb (s : State) (q : CmdQueue) (i : Nat) (ws : List Word) : State :=
  s.writeWords q.host q.vf (q.qcb + 8 * i) ws

end State

/-- w4 of a control block (R267): CHEAD, MAJ, MIN, STATE. -/
def CmdQueue.w4 (q : CmdQueue) : Word :=
  BitVec.ofNat 64 (q.chead.toNat * 2 ^ 32 + q.maj % 16 * 2 ^ 12 + q.min % 16 * 2 ^ 8 + q.state % 256)

/-! ### Opening (R268) -/

/-- The REASON an open is refused with, for the eight words of its control block and the doorbell written. -/
def openReason (s : State) (bell : Nat) (w : List Word) : Option Nat :=
  let b (i hi lo : Nat) : Nat := (w.getD i 0).toNat / 2 ^ lo % 2 ^ (hi + 1 - lo)
  let vf := b 1 40 32
  if b 1 11 8 ≠ 1 ∨ b 1 3 0 < 4 ∨ b 1 63 41 ≠ 0 ∨ b 1 31 12 ≠ 0 ∨ b 2 63 32 ≠ 0 ∨ b 4 31 16 ≠ 0 ∨ b 5 31 8 ≠ 0 ∨
     b 6 63 0 ≠ 0 ∨ b 7 63 0 ≠ 0 then some 2
  else if b 0 6 0 ≠ 0 ∨ b 3 3 0 ≠ 0 then some 5
  else if vf ≠ bell ∨ (vf ≠ 0x1FF ∧ (s.vfRec vf).isNone) then some 6
  else if Config.queues ≤ s.queues.length then some 8
  else none

/-- QUEUE_OPEN (R268): the open doorbell of a VF's window, or the management doorbell 0x1FF, names a control block. A refused open
changes only REASON. -/
def execQueueOpen (bell qcb : Nat) (s : State) : Host.Outcome State Fault Refusal :=
  let host : Bool := decide (hostSpace ≤ qcb)
  let a := qcb % hostSpace
  let w := s.readWords host bell a 8
  let w1 := (w.getD 1 0).toNat
  .next (match openReason s bell w with
  | some r => s.writeWords host bell (a + 40) [BitVec.ofNat 64 ((w.getD 5 0).toNat / 256 * 256 + r)]
  | none =>
    let q : CmdQueue :=
      { qcb := a, host := host, base := (w.getD 0 0).toNat, cbase := (w.getD 3 0).toNat, sizelog := w1 % 16, vf := bell
        maj := 1, min := Nat.min (w1 / 16 % 16) 1, state := 1, accept := 0, tail := 0, chead := 0, head := none, live := [] }
    let t : State := { s.setCmdq s.nextQueue q with nextQueue := s.nextQueue + 1 }
    (t.writeQcb q 2 [0]).writeQcb q 4 [q.w4, 0])

/-! ### Packets (R269-R271) -/

/-- Bits [hi:lo] of a body or header word. -/
def pkBits (w : List Word) (i hi lo : Nat) : Nat := (w.getD i 0).toNat / 2 ^ lo % 2 ^ (hi + 1 - lo)

/-- The opcode of a packet. -/
def pkOp (w : List Word) : Nat := pkBits w 0 47 40

/-- Words from one place to w15 are zero. -/
def pkZero (w : List Word) (i : Nat) : Bool := (w.drop i).all (· = 0)

/-- The minor version an opcode is listed from (R270). -/
def pkSince (op : Nat) : Option Nat := if 1 ≤ op ∧ op ≤ 0x0D then some 0 else if 0x0E ≤ op ∧ op ≤ 0x10 then some 1 else none

/-- A partition record is refused (R22). -/
def partRefused (s : State) (w0 w1 w2 w3 : Word) : Bool :=
  let p : Part := { Part.zero with w0 := w0, w1 := w1, w2 := w2 }
  let cidB := w0.toNat / 2 ^ 16 % 256
  let cidN := w0.toNat / 2 ^ 24 % 512
  w0.toNat / 2 ^ 33 ≠ 0 || w0.toNat / 2 ^ 4 % 4 ≠ 0 || w1.toNat / 2 ^ 19 ≠ 0 || w1.toNat / 2 ^ 4 % 16 ≠ 0 || w3 ≠ 0 ||
  16 < p.cx0 + p.cw || 8 < p.cy0 + p.ch || w2 = 0 || 6 < p.spanLog || p.spanBase % 2 ^ p.spanLog ≠ 0 ||
  cidN = 0 || 256 < cidN || 256 < cidB + cidN || (s.part (w0.toNat % 16)).isSome ||
  s.parts.any fun e =>
    let o := e.2
    ((List.range Config.clusters).any fun k => o.hasCluster k && p.hasCluster k) || o.w2 &&& w2 ≠ 0 ||
    (p.spanBase < o.spanBase + 2 ^ o.spanLog && o.spanBase < p.spanBase + 2 ^ p.spanLog) ||
    (p.cidBase < o.cidBase + o.cidCount && o.cidBase < p.cidBase + p.cidCount)

/-- Bytes of a VF's save area (R244): 320 KiB for each core of its set, 7 MiB for each cluster that holds one. -/
def saveBytes (s : State) (cores : List Nat) : Nat :=
  cores.length * (320 * 1024) + (cores.map s.clusterOf).eraseDups.length * (7 * 2 ^ 20)

/-- The save area of a VF record with a core set: first byte and length. -/
def saveArea (s : State) (w3 : Word) (cores : List Nat) : Nat × Nat :=
  (w3.toNat / 2 ^ 16 % 2 ^ 36 * 2 ^ 16, saveBytes s cores)

/-- A VF record is refused (R247). -/
def vfRefused (s : State) (w0 w1 w2 w3 : Word) : Bool :=
  let b (w : Word) (hi lo : Nat) : Nat := w.toNat / 2 ^ lo % 2 ^ (hi + 1 - lo)
  let vf := b w0 31 23
  let pid := b w0 19 16
  b w0 63 48 ≠ 0 || b w0 22 21 ≠ 0 || b w0 15 0 ≠ 0 || b w1 63 52 ≠ 0 || b w1 11 0 ≠ 0 || b w2 63 52 ≠ 0 ||
  b w2 11 0 ≠ 0 || b w3 63 52 ≠ 0 || b w3 15 8 ≠ 0 || 384 ≤ vf || (s.vfRec vf).isSome || 384 ≤ s.vfs.length ||
  b w0 39 32 = 0 || b w3 7 0 ≠ 1 ||
  (match s.part pid, s.group pid (b w0 47 40) with
    | some p, some (c :: cs) =>
      let set := c :: cs
      let a := saveArea s w3 set
      p.channels * Config.channelBytes < a.1 + a.2 ||
      s.vfs.any fun e =>
        s.pidOf e.1 = pid &&
        (let o := s.coreSet e.1
         let x := saveArea s e.2.w3 o
         e.2.w2 ≠ w2 || (a.1 < x.1 + x.2 && x.1 < a.1 + a.2) || (o != set && o.any set.contains))
    | _, _ => true)

/-- The cores a group bitmap names (R270). -/
def bitmapCores (ws : List Word) : List Nat := (List.range 1024).filter fun n => (ws.getD (n / 64) 0).getLsbD (n % 64)

/-- A group write is refused (R25, R247). -/
def groupRefused (s : State) (pid e : Nat) (cores : Option (List Nat)) : Bool := match s.part pid with
  | none => true
  | some p =>
    e = 0 || (s.vfs.any fun v => s.pidOf v.1 = pid && v.2.w0.toNat / 2 ^ 40 % 256 = e) ||
    (match cores with
      | none => false
      | some l => l.any fun n => !s.coreIn pid n ||
          4 ≤ (p.groups.filter fun g => g.1 ≠ e && g.2.contains n).length)

/-- The cores of a VF record's core set (R246). -/
def recCores (s : State) (x : Vf) : List Nat := (s.group (x.w0.toNat / 2 ^ 16 % 16) (x.w0.toNat / 2 ^ 40 % 256)).getD []

/-- A VF's partition has the places of its image's queues and counters (R122, R177, R245): slices and QIDs that no other queue holds,
with at most 8 reserved ways in a slice, and counter IDs that it owns and no other VF uses. -/
def imagePlaces (s : State) (v : Nat) (x : Image) : Bool := match s.part (s.pidOf v) with
  | none => false
  | some p =>
    let others (k : Slice) : Slice := { k with queues := k.queues.filter fun q => q.2.ownVf ≠ v }
    x.queues.all (fun q =>
      let k := others (s.slice (q.1 / 16))
      let mine := (x.queues.filter fun e => e.1 / 16 = q.1 / 16).map (·.2.cap)
      p.hasPos (q.1 / 16) && !k.taken (q.1 % 16) && Slice.waysFor (mine ++ k.caps) ≤ 8) &&
    x.cids.all fun e =>
      !s.cfgRefused e.1 (State.entryUnder (s.pidOf v) e.2.e0) e.2.e1 && (FMap.find? s.cids e.1).all fun o => !o.valid || o.vf = v

/-- An image that a RESUME may import (R254, assumption 64): for the VF, with as many cores as its set has here, and places for its
queues and counters; the VF has moved away, or has nothing that runs, or its record is one that R247 accepts. -/
def importable (s : State) (v : Nat) (x : Image) : Bool :=
  imagePlaces (if (s.vfRec v).isSome then s else { s with vfs := FMap.insert s.vfs v x.vf }) v x && x.vf.w0.toNat / 2 ^ 23 % 512 = v &&
  (match s.vfRec v with
    | some o => (recCores s o).length = x.cores.length && (o.moved ||
        (!o.paused && s.pops.all fun p => p.2.vf ≠ v || p.2.status ≠ .running))
    | none => (recCores s x.vf).length = x.cores.length && !vfRefused s x.vf.w0 x.vf.w1 x.vf.w2 x.vf.w3)

/-- The group bitmap a GROUP packet names, in the space of its queue (assumption 16); none to invalidate. -/
def groupCores (s : State) (q : CmdQueue) (w : List Word) : Option (List Nat) :=
  if w.getD 2 0 = 0 then none else some (bitmapCores (s.readWords q.host q.vf (w.getD 2 0).toNat 16))

/-- What is wrong with the body of a packet of an open queue (R270-R272), as the first REASON in the order 3, 5, 6
(assumption 17). A PAUSE of a VF that is paused or has moved away is REASON 6 (assumption 43); a non-zero w4 of a DEBUG for a packet-break
register, which is one word, is REASON 3 (assumption 86). -/
def bodyReason (s : State) (q : CmdQueue) (w : List Word) : Option Nat :=
  let b := pkBits w
  let pid := b 1 3 0
  let first (r3 r5 r6 : Bool) : Option Nat := if r3 then some 3 else if r5 then some 5 else if r6 then some 6 else none
  let noPid (k : Nat) : Bool := (s.part k).isNone
  match pkOp w with
  | 0x01 =>
    let pc := w.getD 1 0
    let ns := b 2 3 0
    first (b 2 31 24 ≠ 0 || b 2 15 13 ≠ 0 || b 2 7 4 ≠ 0 || !pkZero w 13 || b 3 63 18 ≠ 0 || b 4 63 16 ≠ 0 ||
        ((List.range 8).any fun i => ns ≤ i && w.getD (5 + i) 0 ≠ 0))
      (b 2 12 8 = 0 || 16 < b 2 12 8 || 8 < ns || pc.toNat % 4 ≠ 0 || !canonical pc || fmtdBad (w.getD 3 0) ||
        (match s.group (s.pidOf q.vf) (b 2 23 16) with
          | some (_ :: _) => false
          | _ => true)) false
  | 0x02 => first (!pkZero w 5) false (partRefused s (w.getD 1 0) (w.getD 2 0) (w.getD 3 0) (w.getD 4 0))
  | 0x03 => first (b 1 63 4 ≠ 0 || !pkZero w 2) false (noPid pid || s.vfs.any fun v => s.pidOf v.1 = pid)
  | 0x04 => first (!pkZero w 5) false (vfRefused s (w.getD 1 0) (w.getD 2 0) (w.getD 3 0) (w.getD 4 0))
  | 0x05 => first (b 1 63 9 ≠ 0 || !pkZero w 2) false (s.vfRec (b 1 8 0)).isNone
  | 0x06 => first (b 1 63 9 ≠ 0 || !pkZero w 2) false (s.vfRec (b 1 8 0)).isNone
  | 0x07 => first (b 1 63 12 ≠ 0 || !pkZero w 3) false (groupRefused s (b 1 11 8) (b 1 7 0) (groupCores s q w))
  | 0x08 => first (b 1 63 12 ≠ 0 || !pkZero w 4) false (s.cfgRefused (b 1 11 0) (w.getD 2 0) (w.getD 3 0))
  | 0x09 => first (b 1 63 4 ≠ 0 || b 2 63 29 ≠ 0 || b 2 15 9 ≠ 0 || !pkZero w 3) (4096 < b 2 28 16)
      (noPid pid || (s.vfRec (b 2 8 0)).isNone || s.pidOf (b 2 8 0) ≠ pid)
  | 0x0A => first (!pkZero w 4) false
      (b 1 63 40 = 0 || b 2 15 0 ≠ 0 || 2 ^ 44 < b 2 63 0 || (s.vfRec (b 1 14 6)).isNone)
  | 0x0B => first (b 1 63 12 ≠ 0 || b 1 7 4 ≠ 0 || !pkZero w 2) false (noPid (b 1 11 8))
  | 0x0C => first (b 1 63 12 ≠ 0 || !pkZero w 2) (b 1 11 0 < 1200 || 2700 < b 1 11 0) false
  | 0x0D =>
    let r := b 2 3 0
    first (b 1 63 4 ≠ 0 || b 2 63 4 ≠ 0 || !pkZero w 5 || (r < 4 && (b 3 61 57 ≠ 0 || w.getD 4 0 ≠ 0)) ||
        (8 ≤ r && (b 3 63 57 ≠ 0 || b 3 1 0 ≠ 0 || b 4 63 52 ≠ 0))) (4 ≤ r && r < 8) (noPid pid)
  | 0x0E => first (b 1 63 4 ≠ 0 || b 2 63 52 ≠ 0 || b 2 11 6 ≠ 0 || b 3 63 32 ≠ 0 || !pkZero w 5) false (noPid pid)
  | 0x0F => first (b 1 63 9 ≠ 0 || !pkZero w 3) false
      (match s.vfRec (b 1 8 0) with
        | some v => v.paused || v.moved
        | none => true)
  | _ => first (b 1 63 9 ≠ 0 || !pkZero w 3) false
      (match FMap.find? s.images (w.getD 2 0).toNat with
        | some x => !importable s (b 1 8 0) x
        | none => true)

/-- The REASON a packet is rejected with (R271), for the words at the queue's next place. R271 gives no order where several apply: 1, 2, the
header's 3, 4, 7, and then the body's (assumption 17). -/
def packetReason (s : State) (q : CmdQueue) (w : List Word) : Option Nat :=
  let b := pkBits w
  match pkSince (pkOp w) with
  | none => some 1
  | some m =>
    if q.min < m then some 1
    else if b 0 39 36 ≠ q.maj ∨ b 0 35 32 ≠ q.min then some 2
    else if b 0 63 56 ≠ 0 ∨ b 0 54 48 ≠ 0 then some 3
    else if b 0 31 0 ≠ (q.accept + 1).toNat then some 4
    else if (decide (pkOp w = 1)) = (decide (q.vf = 0x1FF)) then some 7
    else bodyReason s q w

namespace State

/-! ### Completion records (R273, R274) -/

/-- A completion record enters the host's ring. -/
def completion (s : State) (i : Nat) (q : CmdQueue) (seq status op : Nat) (w1 : Word) : State :=
  let a := q.cbase + 16 * (q.chead.toNat % 2 ^ q.sizelog)
  let q := { q with chead := q.chead + 1 }
  let w0 := BitVec.ofNat 64 (seq % 2 ^ 32 + status * 2 ^ 32 + op * 2 ^ 40)
  ((s.writeWords q.host q.vf a [w0, w1]).writeQcb q 4 [q.w4]).setCmdq i q

/-- A packet is rejected (R271): HSEQ and REASON, a record of status 3, and the queue halts. -/
def reject (s : State) (i : Nat) (q : CmdQueue) (w : List Word) (r : Nat) : State :=
  let q := { q with state := 2, head := none }
  (s.writeQcb q 5 [BitVec.ofNat 64 (pkBits w 0 31 0 * 2 ^ 32 + r)]).completion i q (pkBits w 0 31 0) 3 (pkOp w) (BitVec.ofNat 64 r)

/-- The next published packet of an open queue is read and checked (R268, R271): the packet with SEQ n stands at place n − 1 of
the ring (assumption 18). -/
def parse (s : State) (i : Nat) : State := match s.cmdq i with
  | none => s
  | some q =>
    if q.state ≠ 1 ∨ q.head.isSome ∨ q.accept = q.tail then s
    else
      let w := s.readWords q.host q.vf (q.base + 128 * (q.accept.toNat % 2 ^ q.sizelog)) 16
      match packetReason s q w with
      | some r => s.reject i q w r
      | none => s.setCmdq i { q with
          head := some { seq := (q.accept + 1).toNat, words := w, stage := .checked, broken := false, passed := false } }

end State

/-- TAIL_DOORBELL (R268): packets up to a SEQ are published. -/
def execTailDoorbell (queue seq : Nat) (s : State) : Host.Outcome State Fault Refusal :=
  .next (match s.cmdq queue with
  | some q => (s.setCmdq queue { q with tail := BitVec.ofNat 32 seq }).parse queue
  | none => s)

/-- RELEASE_DOORBELL (R271, R275): a halted or held queue is open again, and parsing resumes at ACCEPT + 1. -/
def execReleaseDoorbell (queue : Nat) (s : State) : Host.Outcome State Fault Refusal :=
  .next (match s.cmdq queue with
  | some q =>
    if q.state = 2 ∨ q.state = 3 then
      let q := { q with state := 1 }
      ((s.writeQcb q 4 [q.w4]).setCmdq queue q).parse queue
    else s
  | none => s)

namespace State

/-- A packet-break register of the queue's partition meets a packet (R258); a management queue has no partition, and its packets meet none
(assumption 83). -/
def breaks (s : State) (i : Nat) (q : CmdQueue) (w : List Word) : Bool := match s.part (s.pidOf q.vf) with
  | none => false
  | some p => q.vf ≠ 0x1FF && p.brk.any fun e =>
      e.2.getLsbD 63 &&
      (if e.2.getLsbD 62 then e.2.toNat % 2 ^ 16 = i
       else pkOp w = 1 && e.2.toNat % 2 ^ 57 = (w.getD 1 0).toNat % 2 ^ 57)

/-- Another queue has accepted a management packet and not yet dispatched it: records are judged one at a time (R22). -/
def judging (s : State) (i : Nat) : Bool := s.queues.any fun e =>
  e.1 ≠ i && (match e.2.head with
    | some p => p.stage = .accepted && pkOp p.words ≠ 1
    | none => false)

/-- A record of a packet (R273): its acceptance, or its completion with STATUS and word 1. -/
def stackRec (i : Nat) (p : Pkt) (fin : Option (Nat × Word)) : StackRec :=
  { queue := i, seq := p.seq, digest := leVal (wordBytes (p.words.drop 1)), restart := (p.words.getD 0 0).getLsbD 55, fin := fin }

/-- A record is written to both stacks (R273); to one alone where the other copy is lost. -/
def putRecord (s : State) (r : StackRec) : State :=
  { s with stackA := s.stackA.map (· ++ [r]), stackB := s.stackB.map (· ++ [r]) }

end State

/-- ACCEPTANCE_RECORD (R273 steps 1, 2): the record stands on both stacks, ACCEPT is written, and the packet is ready for dispatch. A
GROUP packet is accepted with the bitmap it names now (R25). -/
def execAcceptanceRecord (queue : Nat) (s : State) : Host.Outcome State Fault Refusal :=
  .next (match s.cmdq queue with
  | none => s
  | some q => match q.head with
    | none => s
    | some p =>
      if p.stage ≠ .checked ∨ (pkOp p.words ≠ 1 ∧ s.judging queue) then s
      else match bodyReason s q p.words with
        | some r => s.reject queue q p.words r
        | none =>
          let q := { q with
            accept := BitVec.ofNat 32 p.seq
            head := some { p with stage := .accepted, cores := if pkOp p.words = 7 then groupCores s q p.words else none } }
          ((s.putRecord (State.stackRec queue p none)).writeQcb q 2 [BitVec.ofNat 64 p.seq]).setCmdq queue q)

/-- PACKET_BREAK_RESUME (R258): the held packet is dispatched without another comparison. -/
def execPacketBreakResume (queue : Nat) (s : State) : Host.Outcome State Fault Refusal :=
  .next (match s.cmdq queue with
  | some q => match q.head with
    | some p => if p.broken then s.setCmdq queue { q with head := some { p with broken := false, passed := true } } else s
    | none => s
  | none => s)

end Sys2Proof.Machine
end

