-- ==== Sys2Proof/Machine/SysReg.lean ====
section
/-! DEFINITION. Special registers (R28, R29, R250, R253, R332, R333): what SRD reads and what SWR writes. -/

namespace Sys2Proof.Machine

/-- %GTID as read: core in [47:32], sequence in [31:0]. -/
def gtidWord (g : BitVec 48) : Word := g.zeroExtend 64

/-- %VLEN and %VREGS: granted lanes and registers of the slot (R28, R214). -/
def Slot.vlen (x : Slot) : Nat := match x.claim with
  | some c => 8 * c.groups.length
  | none => 0
/-- Granted vector registers. -/
def Slot.vregs (x : Slot) : Nat := match x.claim with
  | some c => c.regs
  | none => 0

/-- The event identifiers of event table version 1 (R251). -/
def eventListed (e : Nat) : Bool :=
  [0x01, 0x02, 0x03, 0x04, 0x05, 0x10, 0x11, 0x12, 0x20, 0x21, 0x30, 0x31, 0x40, 0x41, 0x50].contains e

namespace State

/-- The value of a listed register other than a firmware one (R28); %CORE and %PXY of a service core are not stated and are
free values. -/
def srdValue (s : State) (sel : Nat) : Word :=
  let c := s.cur.core
  let x := s.src.slot
  let v := s.cvf c
  let csc : Bool := Config.cscBase ≤ c
  let p := s.physOf c
  if sel = 0x000 then BitVec.ofNat 64 s.cur.slot
  else if sel = 0x001 then (if csc then Config.freeValue s.free else BitVec.ofNat 64 c)
  else if sel = 0x002 then (if csc then Config.freeValue s.free else BitVec.ofNat 64 (p / 32 * 256 + p % 32))
  else if sel = 0x003 then BitVec.ofNat 64 (s.clusterOf c)
  else if sel = 0x004 then BitVec.ofNat 64 (s.runPid c)
  else if sel = 0x005 then BitVec.ofNat 64 (s.runVf c)
  else if sel = 0x006 then gtidWord x.gtid
  else if sel = 0x007 then BitVec.ofNat 64 s.ncore
  else if sel = 0x010 then s.here.cyc
  else if sel = 0x011 then x.tcmp
  else if sel = 0x020 then v.tvec
  else if sel = 0x021 then x.tpc
  else if sel = 0x022 then x.tcause
  else if sel = 0x023 then x.tval
  else if sel = 0x024 then x.tstat
  else if sel = 0x025 then x.tscr
  else if sel = 0x030 then x.fmtd
  else if sel = 0x031 then x.scale
  else if sel = 0x032 then x.frm
  else if sel = 0x033 then x.fflags
  else if sel = 0x034 then x.amode
  else if sel = 0x035 then x.rseed[0].zeroExtend 64
  else if sel = 0x036 then x.rseed[1].zeroExtend 64
  else if sel = 0x037 then x.rseed[2].zeroExtend 64
  else if sel = 0x038 then x.rseed[3].zeroExtend 64
  else if sel = 0x039 then x.live
  else if sel = 0x03A then BitVec.ofNat 64 x.vlen
  else if sel = 0x03B then BitVec.ofNat 64 x.vregs
  else if sel = 0x040 then v.dqbase
  else if sel = 0x120 then v.pmEn.zeroExtend 64 ||| (v.pmUnsup.zeroExtend 64 <<< 8)
  else if sel = 0x121 then v.pmOvf.zeroExtend 64
  else if sel = 0x122 then v.pmTgt
  else if sel / 8 = 0x20 then (v.pmc.getD (sel % 8) 0).zeroExtend 64
  else if sel / 8 = 0x22 then v.pmsel.getD (sel % 8) 0
  else FMap.getD s.here.fwRegs sel 0

/-- A selector of %RSEED0-3. -/
def isRseed (sel : BitVec 12) : Bool := 0x035 ≤ sel.toNat && sel.toNat ≤ 0x038

end State

/-- SRD (R332). -/
def execSrd (d : BitVec 6) (y : BitVec 12) (s : State) : Host.Outcome State Fault Refusal :=
  let t := { s.wg d (s.srdValue y.toNat) with
    free := if Config.cscBase ≤ s.cur.core ∧ (y = 1 ∨ y = 2) then s.free + 1 else s.free }
  .next (if State.isRseed y then s.afterDraws t else t)

/-- SWR of a register without a row of its own (R332, R333): read-only registers ignore it. -/
def execSwr (a : BitVec 6) (y : BitVec 12) (s : State) : Host.Outcome State Fault Refusal :=
  let v := s.rg a
  let c := s.cur.core
  .next (match y.toNat with
  | 0x020 => s.updCvf c fun x => { x with tvec := v &&& ~~~3#64 }
  | 0x021 => s.updMe fun x => { x with tpc := v }
  | 0x024 => s.updMe fun x => { x with tstat := (x.tstat &&& 1) ||| (v &&& 0xE) }
  | 0x025 => s.updMe fun x => { x with tscr := v }
  | 0x031 => s.updMe fun x => { x with scale := v &&& 0xFFFF }
  | 0x032 => s.updMe fun x => { x with frm := v &&& 3 }
  | 0x033 => s.updMe fun x => { x with fflags := (v &&& 0x1F) ||| x.raised }
  | 0x034 => s.updMe fun x => { x with amode := v &&& 1 }
  | 0x039 => s.updMe fun x => { x with live := v }
  | 0x122 => s.updCvf c fun x => { x with pmTgt := v &&& 0xF }
  | sel => if 0x800 ≤ sel then s.updCore c fun k => { k with fwRegs := FMap.insert k.fwRegs sel v } else s)

/-- SWR %TCMP (R30, R333): a timer cause already pending stays pending. -/
def execTcmpWrite (a : BitVec 6) (s : State) : Host.Outcome State Fault Refusal :=
  .next (s.updMe fun x => { x with tcmp := s.rg a })

/-- SWR %FMTD (R103, R105). -/
def execFmtdWrite (a : BitVec 6) (s : State) : Host.Outcome State Fault Refusal :=
  let v := s.rg a
  .next (if fmtdBad v then s.raise 0x11 0 else s.updMe fun x => { x with fmtd := v &&& 0x3FFFF })

/-- SWR %DQBASE (R43): refused while the ring holds records, and past the end of the scratchpad. -/
def execDqbaseWrite (a : BitVec 6) (s : State) : Host.Outcome State Fault Refusal :=
  let v := s.rg a
  let scap := v.toNat / 2 ^ 18 % 2 ^ 12
  let soff := v.toNat / 2 ^ 6 % 2 ^ 12
  .next (if (s.cvf s.cur.core).ringCount ≠ 0 ∨ Config.spBytes < 64 * (soff + scap) then s.raise 0x13 4
  else s.updCvf s.cur.core fun x => { x with dqbase := v &&& 0x3FFFFFC0, ringHead := 0 })

/-- SWR %RSEED0-3 (R332, R333): only as a lone word, and after earlier draws of the vector queue. -/
def execRseedWrite (n : BitVec 2) (a : BitVec 6) (s : State) : Host.Outcome State Fault Refusal :=
  .next (if s.cur.pair then s.illegal
  else s.afterDraws (s.updMe fun x => { x with rseed := x.rseed.set n.toNat ((s.rg a).setWidth 32) }))

/-- SWR %PMCn (R250): ignored while UNSUP[n] is set. -/
def execPmcWrite (n : BitVec 3) (a : BitVec 6) (s : State) : Host.Outcome State Fault Refusal :=
  .next (s.updCvf s.cur.core fun x =>
    if x.pmUnsup.getLsbD n.toNat then x else { x with pmc := x.pmc.set n.toNat ((s.rg a).setWidth 48) })

/-- SWR %PMSELn (R250): an unlisted event other than 0 sets UNSUP[n] and clears the counter. -/
def execPmselWrite (n : BitVec 3) (a : BitVec 6) (s : State) : Host.Outcome State Fault Refusal :=
  let v := s.rg a &&& 0x1FFF
  let e := v.toNat % 256
  .next (s.updCvf s.cur.core fun x =>
    let x := { x with pmsel := x.pmsel.set n.toNat v }
    if e = 0 ∨ eventListed e then { x with pmUnsup := setBit8 x.pmUnsup n.toNat false }
    else { x with pmUnsup := setBit8 x.pmUnsup n.toNat true, pmc := x.pmc.set n.toNat 0 })

/-- SWR %PMCTL (R250, R262): UNSUP is read-only. -/
def execPmctlWrite (a : BitVec 6) (s : State) : Host.Outcome State Fault Refusal :=
  .next (s.updCvf s.cur.core fun x => { x with pmEn := (s.rg a).setWidth 8 })

/-- SWR %PMOVF (R253): write 1 to clear. -/
def execPmovfWrite (a : BitVec 6) (s : State) : Host.Outcome State Fault Refusal :=
  .next (s.updCvf s.cur.core fun x => { x with pmOvf := x.pmOvf &&& ~~~((s.rg a).setWidth 8) })

end Sys2Proof.Machine
end

