-- ==== Sys2Proof/Machine/Images.lean ====
section
/-! DEFINITION. Migration images (R254-R256): when nothing of a paused VF is under way any more, what its image holds, and what
the import of one places. -/

namespace Sys2Proof.Machine

namespace State

/-! ### The memory of a VF -/

/-- The guest physical ranges (base, log2 of the bytes) that a VF's stage-1 table and those below it lie in or map (R233). -/
def guestRanges (s : State) (pid s2root : Nat) : Nat → Nat → Nat → List (Nat × Nat)
  | 0, _, _ => []
  | fuel + 1, level, table =>
    (table, if level = 0 then 17 else 12) :: (List.range (if level = 0 then 2 ^ 14 else 512)).flatMap fun i =>
      match s.stage2 pid s2root (table + 8 * i) with
      | .fail _ => []
      | .ok pa _ _ => match (s.readPte pid pa).map (pteOf level) with
        | some (.table t) => s.guestRanges pid s2root fuel (level - 1) t
        | some (.page base z _) => [(base, sizeLog z)]
        | _ => []

/-- A VF's memory (R254, assumption 64): the 4 KiB units of the guest pages that its stage-1 tables map, and of the tables. -/
def guestUnits (s : State) (v : Nat) : List Nat := match s.vfRec v with
  | none => []
  | some x => ((s.guestRanges (s.pidOf v) x.s2root 4 3 x.s1root).flatMap fun r =>
      (List.range (2 ^ (r.2 - 12))).map (r.1 / 4096 + ·)).eraseDups

/-- The key of a guest physical address of a VF, through the partition's stage-2 tables. -/
def guestKey (s : State) (v gpa : Nat) : Option Nat := match s.vfRec v with
  | none => none
  | some x => match s.stage2 (s.pidOf v) x.s2root gpa with
    | .ok pa _ _ => s.physKey (s.pidOf v) pa
    | .fail _ => none

/-- The blocks of 256 bytes, within which keys run on (R147), of some units of guest memory. -/
def guestBlocks (units : List Nat) : List Nat := units.flatMap fun u => (List.range 16).map fun i => u * 4096 + 256 * i

/-! ### PAUSE (R254) -/

end State

/-- What a slot of a paused VF waits for stands in its save area alone (R240, R254): nothing of its bundle is under way. -/
def Slot.settled (x : Slot) : Bool :=
  (match x.cWait with
    | none => true
    | some .redo => true
    | some (.trap _ _) => true
    | some .fault => true
    | some (.bar _ _ (some _)) => true
    | some .vempty => true
    | some .vresult => true
    | some (.partner _) => true
    | some (.done _) => x.cont.isNone
    | _ => false) &&
  (match x.aWait with
    | none => true
    | some (.done _) => true
    | some (.divide _) => true
    | some .vresult => true
    | _ => false)

namespace State

/-- Nothing of a paused VF is under way any more (R254 step 2): it runs nowhere, what its bundles let run to its end has ended, and
so have its jobs, its counter and queue operations, its packets, migrations and bank exchanges. A barrier token that has arrived
waits with its counter. -/
def pauseReady (s : State) (v : Nat) : Bool :=
  s.cores.all (fun c => c.2.vf ≠ some v && c.2.switchTo ≠ some (some v) &&
    (FMap.getD c.2.vfs (v + 1) {}).slots.all fun x => x.2.settled) &&
  s.clusters.all (fun k => (k.2.queue ++ k.2.running).all fun j => j.vf ≠ v) &&
  s.tokens.all (fun t => t.2.vf ≠ v || (t.2.arrived && t.2.out.isNone)) && s.reqs.all (fun r => r.2.vf ≠ v) &&
  (s.chan ++ s.unsent).all (fun p => p.2.vf ≠ v) && s.migs.all (fun m => m.vf ≠ v) && s.xfers.all (fun x => x.vf ≠ v) &&
  s.peerOps.all (fun o => o.2.vf ≠ v)

/-- What a cluster holds of a VF. -/
def clusterImage (s : State) (v cl : Nat) : ClusterImage :=
  let k := s.cluster cl
  { tiles := (k.ac.filter fun t => t.1 / 64 = v).map fun t => (t.1 % 64, t.2)
    kept := FMap.find? k.kept v, gotA := FMap.find? k.gotA v, gotB := FMap.find? k.gotB v
    linkA := k.linkA.filter (·.vf = v), linkB := k.linkB.filter (·.vf = v) }

/-- The clusters of some cores, each once. -/
def clustersOf (s : State) (cores : List Nat) : List Nat := (cores.map s.clusterOf).eraseDups

/-- A queue without the marks of its records: every publication is done (R254). -/
def unmarked (q : Queue) : Queue := { q with recs := q.recs.map fun r => { r with marks := [] } }

/-- The place of a scratchpad byte of a VF in its image: 2^18 · place of its core + offset. -/
def spPlace (set : List Nat) (key : Nat) : Nat := set.idxOf (spCore key) * 2 ^ 18 + (key - 2 ^ 50) % 2 ^ 18

/-- The migration image of a VF (R254); poison flags travel with their words (R154). -/
def imageOf (s : State) (v : Nat) (x : Vf) : Image :=
  let set := s.coreSet v
  let mine (cid : Nat) : Bool := (FMap.find? s.cids cid).any fun e => e.vf = v
  let units := s.guestUnits v
  { vf := x, units := units
    mem := (guestBlocks units).foldl (fun m a => match s.guestKey v a with
      | some key => m.write a (s.mem.read key 256)
      | none => m) []
    poison := (guestBlocks units).flatMap fun a => match s.guestKey v a with
      | some key => ((List.range 32).filter fun i => s.wordPoisoned (key / 8 + i)).map (a / 8 + ·)
      | none => []
    cores := set.map fun c => FMap.getD (s.core c).vfs (v + 1) {}
    sp := s.mem.foldl (fun m e => if spOf v e.1 && set.contains (spCore e.1) then m.set (spPlace set e.1) e.2 else m) []
    spPoison := (s.poison.keys.filter fun w => spOf v (8 * w) && set.contains (spCore (8 * w))).map fun w => spPlace set (8 * w) / 8
    clusters := (s.clustersOf set).map (s.clusterImage v)
    inbox := set.map fun c => (s.core c).inbox.filter (·.vf = v)
    queues := s.slices.foldl (fun m k => k.2.queues.foldl (fun m q =>
      if q.2.ownVf = v then FMap.insert m (16 * k.1 + q.1) (unmarked q.2) else m) m) []
    cids := s.cids.filter fun e => e.2.vf = v
    toggles := s.toggles.filter fun e => mine (e.1 / 2048)
    counts := s.counts.filter fun e => mine (e.1 / 64)
    badParity := s.badParity.filter fun k => mine (if k % 2 = 0 then k / 2 / 2048 else k / 2 / 64)
    tokens := (s.tokens.filter fun t => t.2.vf = v).map fun t => (t.1, { t.2 with core := set.idxOf t.2.core })
    pops := (s.pops.filter fun p => p.2.vf = v && p.2.status = .running).map fun p =>
      (p.1, { p.2 with
        cores := p.2.cores.map set.idxOf
        seen := p.2.seen.foldl (fun m e => FMap.insert m (set.idxOf e.1) e.2) [] })
    held := s.heldOps.filter (·.vf = v) }

/-- The image is written (R254 step 3): every store of the VF's cores is published, every bank tagged with the VF is spilled, marks
of its queues are dropped, and the VF has moved. The operations of peers that were held go with it (R255). -/
def writeImage (s : State) (v image : Nat) : State := match s.vfRec v with
  | none => s
  | some x =>
    let s := (s.coreSet v).foldl publishCore s
    let untag (m : FMap Nat) : FMap Nat := m.filter (·.2 ≠ v)
    let s : State := { s with
      cores := s.cores.map fun e => (e.1, { e.2 with
        gprTag := untag e.2.gprTag, spTag := untag e.2.spTag, tabTag := untag e.2.tabTag })
      clusters := s.clusters.map fun e => (e.1, { e.2 with
        tileTag := untag e.2.tileTag, setTag := untag e.2.setTag, laneTag := untag e.2.laneTag })
      slices := s.slices.map fun e => (e.1, { e.2 with queues := e.2.queues.map fun q =>
        if q.2.ownVf = v then (q.1, unmarked q.2) else q }) }
    { s with
      images := FMap.insert s.images image (s.imageOf v x)
      heldOps := s.heldOps.filter (·.vf ≠ v)
      vfs := FMap.insert s.vfs v { x with moved := true } }

end State

/-! ### The import under RESUME (R254, R256) -/

/-- The numbers an import gives to populations and to tokens of an image. -/
structure Renumber where
  pop : Nat → Option Nat
  tok : Nat → Nat

/-- A slot as it is imported (R254, assumption 64): it is to execute again a bundle whose page fault stood in the source's mailbox,
and what it counted in the source's cycles starts anew. -/
def Slot.imported (x : Slot) (r : Renumber) (cyc : Nat) : Slot :=
  { x with
    pop := x.pop.bind r.pop, lastIssue := none, readyAt := 0
    cWait := match x.cWait with
      | some .fault => some .redo
      | some (.bar c _ (some t)) => some (.bar c 0 (some (r.tok t)))
      | w => w
    arrived := x.arrived.map fun m => { m with tok := r.tok m.tok }
    steal := x.steal.map fun t =>
      { t with since := cyc, backoff := none, asked := if t.answer.isSome then t.asked else none } }

/-- A selection of an event that the destination's table does not list counts no more (R256): UNSUP is set and the counter is 0. -/
def CoreVf.unlisted (x : CoreVf) : CoreVf := (List.range 8).foldl (fun x n =>
  let e := (x.pmsel.getD n 0).toNat % 256
  if e = 0 ∨ eventListed e then x
  else { x with pmUnsup := setBit8 x.pmUnsup n true, pmc := x.pmc.setIfInBounds n 0 }) x

/-- A core's state as it is imported. -/
def CoreVf.imported (x : CoreVf) (r : Renumber) (cyc : Nat) : CoreVf :=
  CoreVf.unlisted { x with
    slots := x.slots.map fun e => (e.1, e.2.imported r cyc)
    dqPop := x.dqPop.bind r.pop
    kept := x.kept.map fun p => { p with pop := p.pop.bind r.pop } }

namespace State

/-- A queue is placed in its slice, with the ways it needs (R177); the lines that stood in them leave. -/
def placeQueue (s : State) (qid : Nat) (q : Queue) : State :=
  let sl := qid / 16
  let s := s.updSlice sl fun k => Slice.reserve { k with queues := FMap.insert k.queues (qid % 16) q }
  (s.slice sl).reservedLines.foldl (fun t e =>
    ((if e.2.dirty then t.flushNow (256 * sl + e.1) e.2.line else t).updSlice sl fun k => k.dropLine e.1 e.2.line).leaveClean e.2.line) s

/-- What an image holds of a core is placed on a core. -/
def placeCore (s : State) (v : Nat) (r : Renumber) (c : Nat) (x : CoreVf) (ms : List Msg) : State := s.updCore c fun k =>
  { k with
    vfs := FMap.insert k.vfs (v + 1) (x.imported r k.cyc.toNat)
    inbox := k.inbox ++ ms.map fun m => { m with pop := m.pop.bind r.pop } }

/-- What an image holds of a cluster is placed in a cluster. -/
def placeCluster (s : State) (v : Nat) (r : Renumber) (cl : Nat) (x : ClusterImage) : State := s.updCluster cl fun k =>
  let put (m : FMap Block) (b : Option Block) : FMap Block := match b with
    | some b => FMap.insert m v { b with pop := b.pop.bind r.pop }
    | none => m
  { k with
    ac := x.tiles.foldl (fun m t => FMap.insert m (64 * v + t.1) t.2) k.ac
    kept := match x.kept with
      | some b => FMap.insert k.kept v b
      | none => k.kept
    gotA := put k.gotA x.gotA, gotB := put k.gotB x.gotB
    linkA := k.linkA ++ x.linkA.map fun b => { b with pop := b.pop.bind r.pop }
    linkB := k.linkB ++ x.linkB.map fun b => { b with pop := b.pop.bind r.pop } }

/-- What an image holds of counters is placed, under the VF's partition. -/
def placeCids (s : State) (pid : Nat) (x : Image) : State :=
  let s := x.cids.keys.foldl clearCid s
  { s with
    cids := x.cids.foldl (fun m e => FMap.insert m e.1
      { e.2 with e0 := entryUnder pid e.2.e0, reconf := false }) s.cids
    toggles := x.toggles.foldl (fun m e => FMap.insert m e.1 e.2) s.toggles
    counts := x.counts.foldl (fun m e => FMap.insert m e.1 e.2) s.counts
    badParity := s.badParity ++ x.badParity }

/-- Words, by key div 8, become poisoned as they arrive (R154): where they are read from, and in the memory behind a held line. -/
def poisonWords (s : State) (ws : List Nat) : State := { s with
  poison := ws.foldl (fun m w => FMap.insert m w ()) s.poison
  hbmPoison := (ws.filter fun w => s.holdsLine (w / 16)).foldl (fun m w => FMap.insert m w ()) s.hbmPoison }

/-- A population of the image that this device still has running keeps its number. -/
def stillHere (s : State) (v p : Nat) : Bool := (FMap.find? s.pops p).any fun q => q.vf = v && q.status = .running

/-- The numbers that populations and tokens of an image get. -/
def renumber (s : State) (v : Nat) (x : Image) : Renumber where
  pop p := if (FMap.find? x.pops p).isNone then none
    else if s.stillHere v p then some p else some (s.nextPop + x.pops.keys.idxOf p)
  tok t := s.nextTok + x.tokens.keys.idxOf t

/-- An image is imported (R254, R256; assumption 64): what the image holds takes the place of what this device has of the VF, memory
through the stage-2 tables here, cores and clusters in the order of the core set. A population that does not run here
belongs to no queue of this device. -/
def importImage (s : State) (v : Nat) (x : Image) : State :=
  let s : State := match s.vfRec v with
    | some _ => s
    | none => { s with vfs := FMap.insert s.vfs v x.vf }
  let r := s.renumber v x
  let set := s.coreSet v
  let s := s.clearVf v
  let s : State := { s with
    tokens := s.tokens.filter fun t => t.2.vf ≠ v
    slices := s.slices.map fun k => (k.1, Slice.reserve { k.2 with queues := k.2.queues.filter fun q => q.2.ownVf ≠ v }) }
  let s := (set.zip (x.cores.zip x.inbox)).foldl (fun t e => t.placeCore v r e.1 e.2.1 e.2.2) s
  let s := ((s.clustersOf set).zip x.clusters).foldl (fun t e => t.placeCluster v r e.1 e.2) s
  let s := x.queues.foldl (fun t q => t.placeQueue q.1 q.2) s
  let s := s.placeCids (s.pidOf v) x
  let s := (guestBlocks x.units).foldl (fun t a => match t.guestKey v a with
    | some key => t.memWrite key (x.mem.read a 256)
    | none => t) s
  let at_ (i : Nat) : Nat := set.getD i 0
  let spAt (i : Nat) : Nat := spKey (v + 1) (at_ (i / 2 ^ 18)) (i % 2 ^ 18)
  let s := s.poisonWords (x.poison.filterMap fun w => (s.guestKey v (8 * w)).map (· / 8))
  let s := s.poisonWords (x.spPoison.map fun w => spAt (8 * w) / 8)
  { s with
    mem := x.sp.foldl (fun m e => m.set (spAt e.1) e.2) s.mem
    tokens := x.tokens.foldl (fun m t => FMap.insert m (r.tok t.1)
      { t.2 with core := at_ t.2.core, pop := t.2.pop.bind r.pop }) s.tokens
    nextTok := s.nextTok + x.tokens.length
    pops := x.pops.foldl (fun m p =>
      let q := { p.2 with
        pid := s.pidOf v, cores := p.2.cores.map at_
        seen := p.2.seen.foldl (fun m e => FMap.insert m (at_ e.1) e.2) [] }
      FMap.insert m ((r.pop p.1).getD 0) (if s.stillHere v p.1 then q else { q with queue := 2 ^ 32, seq := 0 })) s.pops
    nextPop := s.nextPop + x.pops.length }

end State

end Sys2Proof.Machine
end

