-- ==== Sys2Proof/Machine/HostPackets.lean ====
section
/-! DEFINITION. What packets do (R270, R272): launches, partitions, virtual functions, groups, counters, limits, windows, ports,
debug and trace registers, live migration (R254, R255); their completion (R273, R274), and recovery (R275, R276). -/

namespace Sys2Proof.Machine

/-! ### Operations of peers (R149, R255) -/

/-- The atomic operation of an incoming peer operation (the model's numbering): 2 add … 12 compare-and-swap. -/
def peerAmo (op : Nat) : AmoKind := match op with
  | 2 => .add
  | 3 => .and
  | 4 => .or
  | 5 => .xor
  | 6 => .min
  | 7 => .max
  | 8 => .minu
  | 9 => .maxu
  | 10 => .swap
  | 11 => .fadd
  | _ => .cas

/-- An operation that arrives over a Ubham port: op [3:0] 0 read, 1 write, else an atomic, [5:4] log2 of its bytes; the address is
the VF in [72:64] and its virtual address; the value has a comparand above bit 63 (the model's numbering, assumption 19). -/
def peerOpOf (port op addr value : Nat) : PeerOp :=
  { win := port, op := Nat.min (op % 16) 2, amo := peerAmo (op % 16), addr := addr % 2 ^ 64, size := 2 ^ (op / 16 % 4)
    value := BitVec.ofNat 64 value, cmp := BitVec.ofNat 64 (value / 2 ^ 64), core := 0, slot := 0, vf := addr / 2 ^ 64
    d := 0, acq := false, pop := none }

namespace State

/-- Where a peer operation goes, through the VF's tables (R149): its key, cacheable or not, its home; none where they grant no such
access. -/
def peerPlace (s : State) (o : PeerOp) : Option (Nat × Bool × Nat) :=
  let va := BitVec.ofNat 64 o.addr
  if !canonical va || o.addr % o.size ≠ 0 || inAperture va then none
  else match s.walkEntry { vpn := o.addr % 2 ^ 57 / 2 ^ 16, vf := o.vf, pid := s.pidOf o.vf } with
  | .inr _ => none
  | .inl e =>
    if !e.allows o.op then none
    else match s.physical o.vf (e.pa va) e.f e.c false with
    | .at (.mem key cached home) => some (key, cached, home)
    | _ => none

/-- The key of a peer operation's address. -/
def peerKey (s : State) (o : PeerOp) : Option Nat := (s.peerPlace o).map (·.1)

/-- A peer's read or atomic takes its line as every read does (R151, R152), room being made within the step. -/
def peerTake (s : State) (o : PeerOp) (key : Nat) (cached : Bool) (home : Nat) : State :=
  if cached then (s.roomAt home key o.size o.vf true false).readThrough home key o.size o.vf else s

/-- The line of a peer's write is published, since it has SYS scope (R149, R166): a held one is flushed. -/
def peerPublish (s : State) (o : PeerOp) (key : Nat) (cached : Bool) (home : Nat) : State :=
  if cached && ((s.slice (home / 256)).line? (home % 256) (key / 128)).isSome then s.flushNow home (key / 128)
  else (s.wroteMemory key o.size).publishLine (key / 128)

/-- A peer operation is performed at its home and answered across the link (R149, R255). One that the VF's tables do not grant, or
that meets poison, has no effect, and what it is answered with is a free value (assumption 19). -/
def peerApply (s : State) (o : PeerOp) : State :=
  let ack (t : State) (v : Nat) : State := t.report (.peerReply o.win (BitVec.ofNat 64 v))
  match s.peerPlace o with
  | none => s.draw.2.report (.peerReply o.win s.draw.1)
  | some (key, cached, home) =>
    if o.op = 1 then
      let bs := leBytes o.size o.value.toNat
      ack ((if cached then s.storeThrough home key o.vf bs else s.storeHome key bs).peerPublish o key cached home) 0
    else
      let s := s.peerTake o key cached home
      if s.poisoned key o.size then s.draw.2.report (.peerReply o.win s.draw.1)
      else
        let old := s.home key o.size
        if o.op = 0 then ack s old
        else match amoNew o.amo o.size old o.value.toNat o.cmp.toNat with
          | none => ack s old
          | some x => ack (((s.putHome key (leBytes o.size x)).recompare key).peerPublish o key cached home) old

end State

/-- A peer operation finds a request for its word at the input of its home slice, and waits behind it (R152). -/
def State.peerBehind (s : State) (o : PeerOp) : Bool := match s.peerPlace o with
  | some (key, true, home) => s.stalledOn (home / 256) key o.size
  | _ => false

/-- PEER_REQUEST (R149): performed at the home and answered; a write or atomic to a paused VF is not performed here (R255), and one that a
request at its slice's input holds up is not yet (R152). -/
def execPeerRequest (port op addr value : Nat) (s : State) : Host.Outcome State Fault Refusal :=
  let o := peerOpOf port op addr value
  .next (match s.vfRec o.vf with
  | none => s
  | some v => if v.moved || (v.paused && o.op ≠ 0) || s.peerBehind o then s else s.peerApply o)

/-- PEER_OP_HELD (R255): a write or atomic to a paused VF is held in arrival order; after the switchover every arrival is answered
MOVED. -/
def execPeerOpHeld (port op addr value : Nat) (s : State) : Host.Outcome State Fault Refusal :=
  let o := peerOpOf port op addr value
  .next (match s.vfRec o.vf with
  | none => s
  | some v =>
    if v.moved then s.report (.peerMoved port)
    else if v.paused && o.op ≠ 0 then { s with heldOps := s.heldOps ++ [o] }
    else s)

/-- PEER_MOVED_REPLY (R255): the window reaches the destination from now on, and the operations not yet answered go there in
their order. -/
def execPeerMovedReply (win peer : Nat) (s : State) : Host.Outcome State Fault Refusal :=
  .next (match FMap.find? s.windows win with
  | none => s
  | some x =>
    let x := { x with w1 := (x.w1 &&& ~~~0xFFFF000000#64) ||| BitVec.ofNat 64 (peer % 2 ^ 16 * 2 ^ 24) }
    { s with windows := FMap.insert s.windows win x })

namespace State

/-! ### Effects -/

/-- LAUNCH (R36, R37, R51, R272): the VF's counters are set, and the front end has q packets for each core of the group to inject. A
group that has become invalid or empty since the packet was accepted has no core: nothing starts, and the launch ends with status 0
(assumption 63). -/
def launch (s : State) (i : Nat) (q : CmdQueue) (p : Pkt) : State :=
  let w := p.words
  let cores := (s.group (s.pidOf q.vf) (pkBits w 2 23 16)).getD []
  let base := pkBits w 2 63 32
  let n := pkBits w 2 12 8
  let id := s.nextPop
  let pop : Pop :=
    { vf := q.vf, pid := s.pidOf q.vf, cores := cores, quota := n, seen := [], queue := i, seq := p.seq
      status := if cores.isEmpty then .reported else .running, hung := false, quiet := 0, still := 0, report := 0 }
  let pkt (c : Nat) : Nat × Packet := (c,
    { pc := w.getD 1 0, payload := (w.drop 5).take (pkBits w 2 3 0), g12 := 0, g13 := 0, fmtd := w.getD 3 0
      scale := w.getD 4 0, gtid := BitVec.ofNat 48 (c % 2 ^ 16 * 2 ^ 32 + base), vf := q.vf, pop := some id, sender := none })
  let s := cores.foldl (fun t c => t.updCore c fun k =>
    let x : CoreVf := FMap.getD k.vfs (q.vf + 1) {}
    { k with vfs := FMap.insert k.vfs (q.vf + 1) { x with taskSeq := BitVec.ofNat 32 (base + n) } }) s
  ({ s with
    pops := FMap.insert s.pops id pop, nextPop := id + 1
    unsent := s.unsent ++ cores.flatMap fun c => List.replicate n (pkt c) } : State).pump

/-- A partition is destroyed (R19, R182, R229, R245): its clusters are power-gated; what their slices hold goes to memory. Its counter
entries and its far-port assignments stay as they are (assumption 61). -/
def destroyPart (s : State) (pid : Nat) : State := match s.part pid with
  | none => s
  | some p =>
    let slices := (List.range p.slices).map p.sliceAt
    let dirty := slices.flatMap fun k => (s.slice k).sets.flatMap fun e => (e.2.filter (·.dirty)).map (·.line)
    let s := dirty.foldl publishLine s
    { s with
      parts := FMap.erase s.parts pid
      slices := s.slices.filter fun e => !slices.contains e.1
      cores := s.cores.map fun e =>
        if p.hasCluster (s.clusterOf e.1) then (e.1, ({ vf := none, cyc := e.2.cyc } : Core)) else e
      clusters := s.clusters.filter fun e => !p.hasCluster e.1 }

/-- Every core stands in the list of cores, as it is. -/
def listCores (s : State) : State :=
  let all := List.range s.ncore ++ (List.range Config.clusters).map (Config.cscBase + ·)
  { s with cores := all.foldl (fun m c => FMap.insert m c (s.core c)) s.cores }

/-- The end of a VF's destruction (R182, R237, R249): it is cleared as by a reset, its queues are freed, those still being made with
them, its TLB entries invalidated, its id released. -/
def destroyVf (s : State) (v : Nat) : State :=
  let tlbs := s.tlbsOf (s.pidOf v)
  let s := s.clearVf v
  let s := (s.queuesOf v).foldl (fun t k => match t.queue? (16 * k.1 + k.2) with
    | some q => t.freeQueue (16 * k.1 + k.2) q
    | none => t) s
  let s := s.slices.keys.foldl (fun t k =>
    if (t.slice k).making.any (·.queue.ownVf = v) then
      (t.updSlice k fun x => Slice.reserve { x with making := x.making.filter (·.queue.ownVf ≠ v) }).retryStalled k
    else t) s
  let s := (tlbs.foldl (fun t k => t.shootTlb k 1 0 v) s).listCores
  { s with
    vfs := FMap.erase s.vfs v
    cores := s.cores.map fun e => (e.1, { e.2 with
      vf := if e.2.vf = some v then none else e.2.vf
      switchTo := if e.2.switchTo = some (some v) then some none else e.2.switchTo }) }

/-- PAUSE (R254 step 1): the paused VF is switched out of the cores on which it has run its 42,000 cycles (R244); a fatal one at
once. -/
def pauseSwitch (s : State) (v : Nat) : State := match s.vfRec v with
  | none => s
  | some x =>
    let need : Nat := if x.fatal then 0 else Config.quantum
    (s.coreSet v).foldl (fun t c =>
      if (t.core c).switchTo = some (some v) then t.updCore c fun k => { k with switchTo := some none }
      else if (t.core c).vf = some v && (t.core c).switchTo.isNone && need ≤ (t.core c).held then t.orderSwitch none c else t) s

/-- PAUSE (R254): the VF starts nothing more, and is switched out. -/
def pauseVf (s : State) (v : Nat) : State := match s.vfRec v with
  | none => s
  | some x => ({ s with vfs := FMap.insert s.vfs v { x with paused := true } } : State).pauseSwitch v

/-- RESUME (R254, R255): the image is imported, the operations of peers held with it are applied in their order, and the VF may run. -/
def resumeVf (s : State) (v image : Nat) : State :=
  let s := match FMap.find? s.images image with
    | some x => x.held.foldl peerApply (s.importImage v x)
    | none => s
  match s.vfRec v with
  | none => s
  | some x =>
    let fatal := match FMap.find? s.images image with
      | some y => y.vf.fatal
      | none => x.fatal
    { s with
      images := FMap.erase s.images image
      vfs := FMap.insert s.vfs v { x with fatal := fatal, resetting := false, paused := false, moved := false } }

/-- The entry write that a CIDCFG packet of a queue makes (R121, R122). -/
def cfgOf (i : Nat) (p : Pkt) : CfgWrite :=
  { cid := pkBits p.words 1 11 0, by_ := .packet i p.seq, e0 := p.words.getD 2 0, e1 := p.words.getD 3 0 }

/-- The effect of a dispatched packet (R270). -/
def effect (s : State) (i : Nat) (q : CmdQueue) (p : Pkt) : State :=
  let w := p.words
  let b := pkBits w
  let g (k : Nat) : Word := w.getD k 0
  match pkOp w with
  | 0x01 => s.launch i q p
  | 0x02 => { s with parts := FMap.insert s.parts (b 1 3 0) { Part.zero with w0 := g 1, w1 := g 2, w2 := g 3 } }
  | 0x03 => s.destroyPart (b 1 3 0)
  | 0x04 =>
    let v : Vf := { w0 := g 1, w1 := g 2, w2 := g 3, w3 := g 4, fatal := false, paused := false, moved := false }
    { s with vfs := FMap.insert s.vfs (b 1 31 23) v }
  | 0x05 => s.resetVf (b 1 8 0) false
  | 0x06 => s.resetVf (b 1 8 0) true
  | 0x07 => s.updPart (b 1 11 8) fun x => { x with groups := match p.cores with
      | some l => FMap.insert x.groups (b 1 7 0) l
      | none => FMap.erase x.groups (b 1 7 0) }
  | 0x08 => s.cfgBegin (cfgOf i p)
  | 0x09 => s.updPart (b 1 3 0) fun x => { x with limits := FMap.insert x.limits (b 2 8 0) (b 2 28 16) }
  | 0x0A =>
    let x : Window := { w1 := g 1, w2 := g 2, w3 := g 3 }
    { s with windows := if g 2 = 0 then FMap.erase s.windows (b 1 5 0) else FMap.insert s.windows (b 1 5 0) x }
  | 0x0B =>
    let x : FarPort := FMap.getD s.farPorts (b 1 3 0) { rate := 0, width := 0, cap := 0, pid := none }
    { s with farPorts := FMap.insert s.farPorts (b 1 3 0) { x with pid := some (b 1 11 8) } }
  | 0x0C => { s with pcap := b 1 11 0 }
  | 0x0D => s.updPart (b 1 3 0) fun x =>
      if b 2 3 0 < 4 then { x with brk := FMap.insert x.brk (b 2 3 0) (g 3) }
      else { x with dbm := FMap.insert x.dbm (b 2 3 0 - 8) (g 3, g 4) }
  | 0x0E => s.updPart (b 1 3 0) fun x => { x with trace0 := g 2, trace1 := g 3, traceHead := 0 }
  | 0x0F => s.pauseVf (b 1 8 0)
  | _ => s.resumeVf (b 1 8 0) (g 2).toNat

/-- A VF that may start new work (R228, R254). -/
def startable (s : State) (v : Nat) : Bool := match s.vfRec v with
  | some x => !x.fatal && !x.resetting && !x.paused && !x.moved
  | none => false

/-- The image of a RESUME has its places still, or again (R177, R254, assumption 64): what has taken them since it was accepted holds its
dispatch back. -/
def mayImport (s : State) (p : Pkt) : Bool :=
  pkOp p.words ≠ 0x10 || (FMap.find? s.images (p.words.getD 2 0).toNat).all (importable s (pkBits p.words 1 8 0))

/-- A packet of an open queue is dispatched: its effect begins, and it is live until it ends. -/
def start (s : State) (i : Nat) (q : CmdQueue) (p : Pkt) : State :=
  let p := { p with stage := .dispatched }
  let q := { q with live := q.live.filter (·.seq ≠ p.seq) ++ [p] }
  (s.setCmdq i q).effect i q p

/-- Dispatch of an accepted packet of one opcode (R273 step 3): first of one that a recovery has left to run again (R275), then of
that at the queue's head, after which the next one is parsed. Before it is dispatched the head is compared with every armed
packet-break register; one that meets it holds it, and the host is told (R258). -/
def dispatch (s : State) (i op : Nat) : State := match s.cmdq i with
  | none => s
  | some q =>
    if q.state ≠ 1 ∨ (op = 1 ∧ !s.startable q.vf) then s
    else match q.live.find? fun p => p.stage = .accepted && pkOp p.words = op with
    | some p => if s.mayImport p then s.start i q p else s
    | none => match q.head with
    | none => s
    | some p =>
      if p.stage ≠ .accepted ∨ p.broken ∨ pkOp p.words ≠ op ∨ !s.mayImport p then s
      else if !p.passed && s.breaks i q p.words then
        (s.setCmdq i { q with head := some { p with broken := true } }).report (.breakHit i)
      else (s.start i { q with head := none } p).parse i

/-! ### Completion -/

/-- How a population of a packet has ended: STATUS and word 1 (R273, R274). -/
def popEnd (s : State) (i seq : Nat) : Option (Nat × Nat × Word) :=
  (List.find? (fun (e : Nat × Pop) => e.2.queue = i && e.2.seq = seq) s.pops).bind fun e => match e.2.status with
    | .reported => some (e.1, 0, 0)
    | .fatal => some (e.1, 1, e.2.report)
    | .reset => some (e.1, 4, 0)
    | _ => none

/-- The end of a packet's effect (R273): STATUS and word 1, with what its end still does; none while it has not ended. -/
def packetEnd (s : State) (i : Nat) (p : Pkt) : Option (Nat × Word × State) :=
  let w := p.words
  match pkOp w with
  | 0x01 => (s.popEnd i p.seq).map fun e => (e.2.1, e.2.2, { s with pops := FMap.erase s.pops e.1 })
  | 0x05 =>
    let v := pkBits w 1 8 0
    if s.jobless v then some (0, 0, s.clearVf v) else none
  | 0x06 =>
    let v := pkBits w 1 8 0
    if s.jobless v then some (0, 0, s.destroyVf v) else none
  | 0x08 => if s.cfgReady (cfgOf i p) then some (0, 0, s.cfgWrite (cfgOf i p)) else none
  | 0x0F =>
    let v := pkBits w 1 8 0
    if s.pauseReady v then some (0, 0, s.writeImage v (w.getD 2 0).toNat) else none
  | _ => some (0, 0, s)

/-- A live packet ends with a status: entries on both stacks, then the host's record (R273). -/
def endPacket (s : State) (i : Nat) (p : Pkt) (status : Nat) (w1 : Word) : State := match s.cmdq i with
  | none => s
  | some q =>
    let q := { q with live := q.live.filter (·.seq ≠ p.seq) }
    (s.putRecord (stackRec i p (some (status, w1)))).completion i q p.seq status (pkOp p.words) w1

/-- What goes on while a packet has not ended: a PAUSE switches its VF out of a core once it has run its quantum there (R244). -/
def urge (s : State) (p : Pkt) : State := if pkOp p.words = 0x0F then s.pauseSwitch (pkBits p.words 1 8 0) else s

end State

/-- PACKET_COMPLETE (R273, R274). -/
def execPacketComplete (queue seq : Nat) (s : State) : Host.Outcome State Fault Refusal :=
  .next (match s.cmdq queue with
  | none => s
  | some q => match q.live.find? (·.seq = seq) with
    | none => s
    | some p =>
      let s := s.urge p
      match s.packetEnd queue p with
      | some (status, w1, t) => t.endPacket queue p status w1
      | none => s)

/-- LAUNCH (R272). -/
def execLaunch (queue : Nat) (s : State) : Host.Outcome State Fault Refusal := .next (s.dispatch queue 0x01)
/-- PCREATE (R22). -/
def execPcreate (queue : Nat) (s : State) : Host.Outcome State Fault Refusal := .next (s.dispatch queue 0x02)
/-- PDESTROY (R245). -/
def execPdestroy (queue : Nat) (s : State) : Host.Outcome State Fault Refusal := .next (s.dispatch queue 0x03)
/-- VCREATE (R247). -/
def execVcreate (queue : Nat) (s : State) : Host.Outcome State Fault Refusal := .next (s.dispatch queue 0x04)
/-- VRESET (R249). -/
def execVreset (queue : Nat) (s : State) : Host.Outcome State Fault Refusal := .next (s.dispatch queue 0x05)
/-- VDESTROY (R249). -/
def execVdestroy (queue : Nat) (s : State) : Host.Outcome State Fault Refusal := .next (s.dispatch queue 0x06)
/-- GROUP (R25). -/
def execGroup (queue : Nat) (s : State) : Host.Outcome State Fault Refusal := .next (s.dispatch queue 0x07)
/-- CIDCFG (R121, R122). -/
def execCidcfg (queue : Nat) (s : State) : Host.Outcome State Fault Refusal := .next (s.dispatch queue 0x08)
/-- OCCLIM (R150). -/
def execOcclim (queue : Nat) (s : State) : Host.Outcome State Fault Refusal := .next (s.dispatch queue 0x09)
/-- WINDOW (R279). -/
def execWindow (queue : Nat) (s : State) : Host.Outcome State Fault Refusal := .next (s.dispatch queue 0x0A)
/-- FARPORT (R280). -/
def execFarport (queue : Nat) (s : State) : Host.Outcome State Fault Refusal := .next (s.dispatch queue 0x0B)
/-- PCAP (R282). -/
def execPcap (queue : Nat) (s : State) : Host.Outcome State Fault Refusal := .next (s.dispatch queue 0x0C)
/-- DEBUG (R258, R259). -/
def execDebug (queue : Nat) (s : State) : Host.Outcome State Fault Refusal := .next (s.dispatch queue 0x0D)
/-- TRACE (R260). -/
def execTrace (queue : Nat) (s : State) : Host.Outcome State Fault Refusal := .next (s.dispatch queue 0x0E)
/-- PAUSE (R254). -/
def execPause (queue : Nat) (s : State) : Host.Outcome State Fault Refusal := .next (s.dispatch queue 0x0F)
/-- RESUME (R254). -/
def execResume (queue : Nat) (s : State) : Host.Outcome State Fault Refusal := .next (s.dispatch queue 0x10)

namespace State

/-! ### Recovery (R275, R276) -/

/-- What a packet's first run has begun is gone: a launch's population ends, unreported, and a write of a counter entry waits no
more (assumption 20). -/
def dropRun (s : State) (i : Nat) (p : Pkt) : State :=
  let s := (s.pops.filter fun e => e.2.queue = i && e.2.seq = p.seq).foldl (fun t e =>
    let t := if e.2.status = .running then t.endPop e.1 .reset else t
    { t with pops := FMap.erase t.pops e.1 }) s
  (s.cfgs.filter fun w => w.by_ = .packet i p.seq).foldl cfgEnd s

/-- The last record of a packet that a surviving stack holds; one whose SEQ lies above ACCEPT is ignored (R275 items 1, 2). -/
def stackOf (s : State) (i : Nat) (q : CmdQueue) (seq : Nat) : Option StackRec :=
  let above (n : Nat) : Bool := decide (0 < (BitVec.ofNat 32 n - q.accept).toInt)
  ((s.stackA.orElse fun _ => s.stackB).getD []).reverse.find? fun r => r.queue = i && r.seq = seq && !above r.seq

/-- An accepted packet that is left after a fault (R275 items 3, 4): one with a completion keeps it, one with RESTART = 1 is run again
from its start, another is reported aborted. A management packet runs again at once, and neither a PCREATE nor a GROUP is judged a
second time, by R22 or R25 (assumption 62); a launch does when its VF is live, and else waits until it is (assumption 20). -/
def recoverPacket (s : State) (i : Nat) (p : Pkt) : State := match s.cmdq i with
  | none => s
  | some q => match s.stackOf i q p.seq with
    | none => (s.dropRun i p).endPacket i p 2 0
    | some r => match r.fin with
      | some (status, w1) =>
        s.completion i { q with live := q.live.filter (·.seq ≠ p.seq) } p.seq status (pkOp p.words) w1
      | none =>
        let s := s.dropRun i p
        if !r.restart then s.endPacket i p 2 0
        else if (q.vf = 0x1FF ∨ s.startable q.vf) ∧ s.mayImport p then s.start i q p
        else s.setCmdq i { q with live := q.live.filter (·.seq ≠ p.seq) ++ [{ p with stage := .accepted }] }

/-- The packet at a recovered queue's head (R275): one that is accepted and restartable is dispatched after the release, another
accepted one is reported aborted, and one that was not accepted is parsed again (assumption 20). -/
def recoverHead (s : State) (i : Nat) (q : CmdQueue) : State := match q.head with
  | none => s
  | some p =>
    if p.stage = .accepted ∧ (s.stackOf i q p.seq).any (·.restart) then s
    else
      let s := s.setCmdq i { q with head := none }
      if p.stage = .accepted then s.endPacket i p 2 0 else s

/-- A queue is recovered (R275): packets that were not accepted are parsed again after the release. -/
def recoverQueue (s : State) (i : Nat) : State := match s.cmdq i with
  | none => s
  | some q =>
    let s := q.live.foldl (fun t p => t.recoverPacket i p) (s.recoverHead i q)
    match s.cmdq i with
    | some q =>
      let q := { q with state := 3 }
      (s.writeQcb q 4 [q.w4]).setCmdq i q
    | none => s

end State

/-- OCHRE_MISMATCH (R276): the pair reloads its firmware and recovers every queue. -/
def execOchreMismatch (s : State) : Host.Outcome State Fault Refusal :=
  .next (s.queues.keys.foldl (fun t i => t.recoverQueue i) s)

end Sys2Proof.Machine
end

