-- ==== Sys2Proof/Decode.lean ====
section
/-! DEFINITION. From instruction words to instructions and back (R58, R64-R72).

A word is read as a number. Decoding looks at its shape: the class bit and the major opcode, the function codes, and the
fields that must be zero; it refuses by name what R71 calls no instruction for its shape. What is left of R71, the legality
of the operands, is WellFormed. The encoder is written from the same tables. -/

namespace Sys2Proof

/-- Bits [lo + n - 1 : lo] of a word (R4). -/
def fld (w lo n : Nat) : Nat := w / 2 ^ lo % 2 ^ n

/-- Why a word's shape is no instruction: all take trap 0x01 (R71). -/
inductive Reject where
  /-- Major 0x00, or a major R66 and R68 do not assign. -/
  | reservedMajor
  /-- A function code that is not listed, or a field that must be zero is not. -/
  | reservedField
  deriving DecidableEq, Repr

/-- An SWR word (R332): the selectors with a write rule of their own are instructions of their own. -/
def decodeSwr (a : BitVec 6) (s : BitVec 12) : Instr :=
  if s = 0x011 then .tcmpWrite a
  else if s = 0x030 then .fmtdWrite a
  else if s = 0x040 then .dqbaseWrite a
  else if 0x035 ≤ s ∧ s ≤ 0x038 then .rseedWrite (BitVec.ofNat 2 (s.toNat - 0x035)) a
  else if 0x100 ≤ s ∧ s ≤ 0x107 then .pmcWrite (BitVec.ofNat 3 (s.toNat - 0x100)) a
  else if 0x110 ≤ s ∧ s ≤ 0x117 then .pmselWrite (BitVec.ofNat 3 (s.toNat - 0x110)) a
  else if s = 0x120 then .pmctlWrite a
  else if s = 0x121 then .pmovfWrite a
  else .swr a s

/-- The C-class map (R66, R67): the major opcode, then the rest of the word. -/
def decodeC (m w : Nat) : Option Instr :=
  match m with
  | 0x01 =>
    if fld w 20 1 = 0 then some (.br (.ofNat 3 (fld w 21 3)) (.ofNat 20 (fld w 0 20)))
    else if fld w 20 1 = 1 then some (.brn (.ofNat 3 (fld w 21 3)) (.ofNat 20 (fld w 0 20)))
    else none
  | 0x02 => some (.jal (.ofNat 6 (fld w 18 6)) (.ofNat 18 (fld w 0 18)))
  | 0x03 => some (.jalr (.ofNat 6 (fld w 18 6)) (.ofNat 6 (fld w 12 6)) (.ofNat 12 (fld w 0 12)))
  | 0x04 =>
    if fld w 0 24 = 0 then some .exit
    else none
  | 0x05 =>
    if fld w 18 6 = 0 then some (.trap (.ofNat 18 (fld w 0 18)))
    else none
  | 0x06 =>
    if fld w 0 24 = 0 then some .tret
    else none
  | 0x07 =>
    if fld w 18 6 = 0 then some (.dbrk (.ofNat 18 (fld w 0 18)))
    else none
  | 0x08 => some (.ldb (.ofNat 6 (fld w 18 6)) (.ofNat 6 (fld w 12 6)) (.ofNat 12 (fld w 0 12)))
  | 0x09 => some (.ldbu (.ofNat 6 (fld w 18 6)) (.ofNat 6 (fld w 12 6)) (.ofNat 12 (fld w 0 12)))
  | 0x0A => some (.ldh (.ofNat 6 (fld w 18 6)) (.ofNat 6 (fld w 12 6)) (.ofNat 12 (fld w 0 12)))
  | 0x0B => some (.ldhu (.ofNat 6 (fld w 18 6)) (.ofNat 6 (fld w 12 6)) (.ofNat 12 (fld w 0 12)))
  | 0x0C => some (.ldw (.ofNat 6 (fld w 18 6)) (.ofNat 6 (fld w 12 6)) (.ofNat 12 (fld w 0 12)))
  | 0x0D => some (.ldwu (.ofNat 6 (fld w 18 6)) (.ofNat 6 (fld w 12 6)) (.ofNat 12 (fld w 0 12)))
  | 0x0E => some (.ldd (.ofNat 6 (fld w 18 6)) (.ofNat 6 (fld w 12 6)) (.ofNat 12 (fld w 0 12)))
  | 0x0F =>
    if fld w 0 2 = 0 ∧ fld w 3 1 = 0 ∧ fld w 9 3 = 0 then some (.lda (.ofNat 6 (fld w 18 6)) (.ofNat 6 (fld w 12 6)) (.ofNat 1 (fld w 8 1)) (.ofNat 2 (fld w 6 2)) (.ofNat 2 (fld w 4 2)) (.ofNat 1 (fld w 2 1)))
    else none
  | 0x10 => some (.stb (.ofNat 6 (fld w 18 6)) (.ofNat 6 (fld w 12 6)) (.ofNat 12 (fld w 0 12)))
  | 0x11 => some (.sth (.ofNat 6 (fld w 18 6)) (.ofNat 6 (fld w 12 6)) (.ofNat 12 (fld w 0 12)))
  | 0x12 => some (.stw (.ofNat 6 (fld w 18 6)) (.ofNat 6 (fld w 12 6)) (.ofNat 12 (fld w 0 12)))
  | 0x13 => some (.std (.ofNat 6 (fld w 18 6)) (.ofNat 6 (fld w 12 6)) (.ofNat 12 (fld w 0 12)))
  | 0x14 =>
    if fld w 0 3 = 0 ∧ fld w 8 4 = 0 then some (.str (.ofNat 6 (fld w 18 6)) (.ofNat 6 (fld w 12 6)) (.ofNat 2 (fld w 6 2)) (.ofNat 2 (fld w 4 2)) (.ofNat 1 (fld w 3 1)))
    else none
  | 0x15 =>
    if fld w 0 1 = 0 then some (.amoadd (.ofNat 6 (fld w 18 6)) (.ofNat 6 (fld w 12 6)) (.ofNat 6 (fld w 6 6)) (.ofNat 2 (fld w 4 2)) (.ofNat 2 (fld w 2 2)) (.ofNat 1 (fld w 1 1)))
    else none
  | 0x16 =>
    if fld w 0 1 = 0 then some (.amoand (.ofNat 6 (fld w 18 6)) (.ofNat 6 (fld w 12 6)) (.ofNat 6 (fld w 6 6)) (.ofNat 2 (fld w 4 2)) (.ofNat 2 (fld w 2 2)) (.ofNat 1 (fld w 1 1)))
    else none
  | 0x17 =>
    if fld w 0 1 = 0 then some (.amoor (.ofNat 6 (fld w 18 6)) (.ofNat 6 (fld w 12 6)) (.ofNat 6 (fld w 6 6)) (.ofNat 2 (fld w 4 2)) (.ofNat 2 (fld w 2 2)) (.ofNat 1 (fld w 1 1)))
    else none
  | 0x18 =>
    if fld w 0 1 = 0 then some (.amoxor (.ofNat 6 (fld w 18 6)) (.ofNat 6 (fld w 12 6)) (.ofNat 6 (fld w 6 6)) (.ofNat 2 (fld w 4 2)) (.ofNat 2 (fld w 2 2)) (.ofNat 1 (fld w 1 1)))
    else none
  | 0x19 =>
    if fld w 0 1 = 0 then some (.amomin (.ofNat 6 (fld w 18 6)) (.ofNat 6 (fld w 12 6)) (.ofNat 6 (fld w 6 6)) (.ofNat 2 (fld w 4 2)) (.ofNat 2 (fld w 2 2)) (.ofNat 1 (fld w 1 1)))
    else none
  | 0x1A =>
    if fld w 0 1 = 0 then some (.amomax (.ofNat 6 (fld w 18 6)) (.ofNat 6 (fld w 12 6)) (.ofNat 6 (fld w 6 6)) (.ofNat 2 (fld w 4 2)) (.ofNat 2 (fld w 2 2)) (.ofNat 1 (fld w 1 1)))
    else none
  | 0x1B =>
    if fld w 0 1 = 0 then some (.amominu (.ofNat 6 (fld w 18 6)) (.ofNat 6 (fld w 12 6)) (.ofNat 6 (fld w 6 6)) (.ofNat 2 (fld w 4 2)) (.ofNat 2 (fld w 2 2)) (.ofNat 1 (fld w 1 1)))
    else none
  | 0x1C =>
    if fld w 0 1 = 0 then some (.amomaxu (.ofNat 6 (fld w 18 6)) (.ofNat 6 (fld w 12 6)) (.ofNat 6 (fld w 6 6)) (.ofNat 2 (fld w 4 2)) (.ofNat 2 (fld w 2 2)) (.ofNat 1 (fld w 1 1)))
    else none
  | 0x1D =>
    if fld w 0 1 = 0 then some (.amoswap (.ofNat 6 (fld w 18 6)) (.ofNat 6 (fld w 12 6)) (.ofNat 6 (fld w 6 6)) (.ofNat 2 (fld w 4 2)) (.ofNat 2 (fld w 2 2)) (.ofNat 1 (fld w 1 1)))
    else none
  | 0x1E =>
    if fld w 0 2 = 0 then some (.amofadd (.ofNat 6 (fld w 18 6)) (.ofNat 6 (fld w 12 6)) (.ofNat 6 (fld w 6 6)) (.ofNat 2 (fld w 4 2)) (.ofNat 2 (fld w 2 2)))
    else none
  | 0x1F =>
    if fld w 0 1 = 0 then some (.cas (.ofNat 6 (fld w 18 6)) (.ofNat 6 (fld w 12 6)) (.ofNat 6 (fld w 6 6)) (.ofNat 2 (fld w 4 2)) (.ofNat 2 (fld w 2 2)) (.ofNat 1 (fld w 1 1)))
    else none
  | 0x20 =>
    if fld w 0 2 = 0 ∧ fld w 6 18 = 0 then some (.fence (.ofNat 2 (fld w 4 2)) (.ofNat 2 (fld w 2 2)))
    else none
  | 0x21 =>
    if fld w 0 1 = 0 ∧ fld w 3 1 = 0 then some (.waitw (.ofNat 6 (fld w 18 6)) (.ofNat 6 (fld w 12 6)) (.ofNat 6 (fld w 6 6)) (.ofNat 2 (fld w 4 2)) (.ofNat 1 (fld w 2 1)) (.ofNat 1 (fld w 1 1)))
    else none
  | 0x22 =>
    if fld w 18 3 = 0 then some (.waitwt (.ofNat 3 (fld w 21 3)) (.ofNat 6 (fld w 12 6)) (.ofNat 6 (fld w 6 6)) (.ofNat 6 (fld w 0 6)))
    else none
  | 0x23 =>
    if fld w 4 20 = 0 then some (.semp (.ofNat 4 (fld w 0 4)))
    else none
  | 0x24 =>
    if fld w 4 20 = 0 then some (.semv (.ofNat 4 (fld w 0 4)))
    else none
  | 0x25 =>
    if fld w 0 12 = 0 then some (.cntInc (.ofNat 6 (fld w 18 6)) (.ofNat 6 (fld w 12 6)))
    else if fld w 0 12 = 1 then some (.cntDec (.ofNat 6 (fld w 18 6)) (.ofNat 6 (fld w 12 6)))
    else if fld w 0 6 = 2 then some (.cntCan (.ofNat 6 (fld w 18 6)) (.ofNat 6 (fld w 12 6)) (.ofNat 6 (fld w 6 6)))
    else if fld w 0 6 = 3 then some (.cntSprd (.ofNat 6 (fld w 18 6)) (.ofNat 6 (fld w 12 6)) (.ofNat 6 (fld w 6 6)))
    else if fld w 0 12 = 4 ∧ fld w 18 6 = 0 then some (.cntBar (.ofNat 6 (fld w 12 6)))
    else if fld w 0 12 = 5 then some (.cntRdq (.ofNat 6 (fld w 18 6)) (.ofNat 6 (fld w 12 6)))
    else if fld w 0 6 = 8 ∧ fld w 18 6 = 0 then some (.cntCfg (.ofNat 6 (fld w 12 6)) (.ofNat 6 (fld w 6 6)))
    else none
  | 0x26 =>
    if fld w 0 6 = 0 then some (.qEnq (.ofNat 6 (fld w 18 6)) (.ofNat 6 (fld w 12 6)) (.ofNat 6 (fld w 6 6)))
    else if fld w 0 12 = 1 then some (.qDeq (.ofNat 6 (fld w 18 6)) (.ofNat 6 (fld w 12 6)))
    else if fld w 0 12 = 2 ∧ fld w 18 6 = 0 then some (.qWait (.ofNat 6 (fld w 12 6)))
    else if fld w 0 6 = 3 then some (.qMake (.ofNat 6 (fld w 18 6)) (.ofNat 6 (fld w 12 6)) (.ofNat 6 (fld w 6 6)))
    else if fld w 0 12 = 4 ∧ fld w 18 6 = 0 then some (.qFree (.ofNat 6 (fld w 12 6)))
    else if fld w 0 12 = 5 then some (.qStat (.ofNat 6 (fld w 18 6)) (.ofNat 6 (fld w 12 6)))
    else none
  | 0x27 =>
    if fld w 0 6 = 0 ∧ fld w 18 6 = 0 then some (.spawn (.ofNat 6 (fld w 12 6)) (.ofNat 6 (fld w 6 6)))
    else if fld w 0 24 = 1 then some .sync
    else if fld w 0 24 = 2 then some .tend
    else none
  | 0x28 =>
    if fld w 4 2 = 0 then some (.asend (.ofNat 6 (fld w 18 6)) (.ofNat 6 (fld w 12 6)) (.ofNat 6 (fld w 6 6)) (.ofNat 4 (fld w 0 4)))
    else if fld w 4 2 = 2 then some (.asendG (.ofNat 6 (fld w 18 6)) (.ofNat 6 (fld w 12 6)) (.ofNat 6 (fld w 6 6)) (.ofNat 4 (fld w 0 4)))
    else none
  | 0x29 =>
    if fld w 0 18 = 0 then some (.ibx (.ofNat 6 (fld w 18 6)))
    else if fld w 0 18 = 1 then some (.ibxTry (.ofNat 6 (fld w 18 6)))
    else none
  | 0x2A =>
    if fld w 0 12 = 0 ∧ fld w 18 6 = 0 then some (.setlive (.ofNat 6 (fld w 12 6)))
    else none
  | 0x2B =>
    if fld w 0 12 = 0 then some (.cpy (.ofNat 6 (fld w 18 6)) (.ofNat 6 (fld w 12 6)))
    else if fld w 0 12 = 1 then some (.cpyCvt (.ofNat 6 (fld w 18 6)) (.ofNat 6 (fld w 12 6)))
    else if fld w 0 12 = 2 then some (.cpyGather (.ofNat 6 (fld w 18 6)) (.ofNat 6 (fld w 12 6)))
    else if fld w 0 12 = 3 then some (.cpyPeer (.ofNat 6 (fld w 18 6)) (.ofNat 6 (fld w 12 6)))
    else if fld w 0 12 = 4 then some (.cpyFill (.ofNat 6 (fld w 18 6)) (.ofNat 6 (fld w 12 6)))
    else none
  | 0x2C =>
    if fld w 0 12 = 0 then some (.mxMul (.ofNat 6 (fld w 18 6)) (.ofNat 6 (fld w 12 6)))
    else if fld w 0 12 = 1 then some (.mxRot (.ofNat 6 (fld w 18 6)) (.ofNat 6 (fld w 12 6)))
    else if fld w 0 12 = 2 then some (.mxDrain (.ofNat 6 (fld w 18 6)) (.ofNat 6 (fld w 12 6)))
    else if fld w 0 12 = 3 then some (.mxZero (.ofNat 6 (fld w 18 6)) (.ofNat 6 (fld w 12 6)))
    else if fld w 0 12 = 4 then some (.mxLoad (.ofNat 6 (fld w 18 6)) (.ofNat 6 (fld w 12 6)))
    else none
  | 0x2D =>
    if fld w 0 12 = 0 then some (.jpoll (.ofNat 6 (fld w 18 6)) (.ofNat 6 (fld w 12 6)))
    else none
  | 0x2E =>
    if fld w 2 10 = 0 ∧ fld w 18 6 = 0 then some (.dtld (.ofNat 6 (fld w 12 6)) (.ofNat 2 (fld w 0 2)))
    else none
  | 0x2F =>
    if fld w 0 6 = 0 then some (.vclaim (.ofNat 6 (fld w 18 6)) (.ofNat 6 (fld w 12 6)) (.ofNat 6 (fld w 6 6)))
    else if fld w 0 24 = 1 then some .vrels
    else if fld w 0 18 = 2 then some (.vreneg (.ofNat 6 (fld w 18 6)))
    else if fld w 0 24 = 3 then some .vfence
    else none
  | 0x30 =>
    if fld w 0 3 = 0 then some (.vld (.ofNat 1 (fld w 23 1)) (.ofNat 5 (fld w 18 5)) (.ofNat 6 (fld w 12 6)) (.ofNat 6 (fld w 6 6)) (.ofNat 3 (fld w 3 3)))
    else none
  | 0x31 =>
    if fld w 0 3 = 0 then some (.vst (.ofNat 1 (fld w 23 1)) (.ofNat 5 (fld w 18 5)) (.ofNat 6 (fld w 12 6)) (.ofNat 6 (fld w 6 6)) (.ofNat 3 (fld w 3 3)))
    else none
  | 0x32 =>
    if fld w 0 3 = 0 ∧ fld w 6 1 = 0 then some (.vgth (.ofNat 1 (fld w 23 1)) (.ofNat 5 (fld w 18 5)) (.ofNat 6 (fld w 12 6)) (.ofNat 5 (fld w 7 5)) (.ofNat 3 (fld w 3 3)))
    else none
  | 0x33 =>
    if fld w 0 3 = 0 ∧ fld w 6 1 = 0 then some (.vsct (.ofNat 1 (fld w 23 1)) (.ofNat 5 (fld w 18 5)) (.ofNat 6 (fld w 12 6)) (.ofNat 5 (fld w 7 5)) (.ofNat 3 (fld w 3 3)))
    else none
  | 0x34 =>
    if fld w 12 6 = 0 then some (.srd (.ofNat 6 (fld w 18 6)) (.ofNat 12 (fld w 0 12)))
    else none
  | 0x35 =>
    if fld w 18 6 = 0 then some (decodeSwr (.ofNat 6 (fld w 12 6)) (.ofNat 12 (fld w 0 12)))
    else none
  | 0x36 =>
    if fld w 0 24 = 0 then some .park
    else none
  | 0x37 =>
    if fld w 0 6 = 0 ∧ fld w 18 6 = 0 then some (.tlbwCore (.ofNat 6 (fld w 12 6)) (.ofNat 6 (fld w 6 6)))
    else if fld w 0 6 = 1 ∧ fld w 18 6 = 0 then some (.tlbwClus (.ofNat 6 (fld w 12 6)) (.ofNat 6 (fld w 6 6)))
    else none
  | 0x38 =>
    if fld w 0 6 = 0 ∧ fld w 18 6 = 0 then some (.tlbiPage (.ofNat 6 (fld w 12 6)) (.ofNat 6 (fld w 6 6)))
    else if fld w 0 6 = 1 ∧ fld w 12 12 = 0 then some (.tlbiVf (.ofNat 6 (fld w 6 6)))
    else if fld w 0 24 = 2 then some .tlbiAll
    else none
  | 0x39 =>
    if fld w 0 12 = 0 ∧ fld w 18 6 = 0 then some (.frepRetry (.ofNat 6 (fld w 12 6)))
    else if fld w 0 12 = 1 ∧ fld w 18 6 = 0 then some (.frepKill (.ofNat 6 (fld w 12 6)))
    else none
  | _ => none

/-- The A-class map (R68-R70). -/
def decodeA (m w : Nat) : Option Instr :=
  match m with
  | 0x01 =>
    if fld w 0 5 = 0 then some (.add (.ofNat 6 (fld w 18 6)) (.ofNat 6 (fld w 12 6)) (.ofNat 6 (fld w 6 6)) (.ofNat 1 (fld w 5 1)))
    else if fld w 0 5 = 1 then some (.sub (.ofNat 6 (fld w 18 6)) (.ofNat 6 (fld w 12 6)) (.ofNat 6 (fld w 6 6)) (.ofNat 1 (fld w 5 1)))
    else if fld w 0 5 = 2 then some (.and (.ofNat 6 (fld w 18 6)) (.ofNat 6 (fld w 12 6)) (.ofNat 6 (fld w 6 6)) (.ofNat 1 (fld w 5 1)))
    else if fld w 0 5 = 3 then some (.or (.ofNat 6 (fld w 18 6)) (.ofNat 6 (fld w 12 6)) (.ofNat 6 (fld w 6 6)) (.ofNat 1 (fld w 5 1)))
    else if fld w 0 5 = 4 then some (.xor (.ofNat 6 (fld w 18 6)) (.ofNat 6 (fld w 12 6)) (.ofNat 6 (fld w 6 6)) (.ofNat 1 (fld w 5 1)))
    else if fld w 0 5 = 5 then some (.andn (.ofNat 6 (fld w 18 6)) (.ofNat 6 (fld w 12 6)) (.ofNat 6 (fld w 6 6)) (.ofNat 1 (fld w 5 1)))
    else if fld w 0 5 = 6 then some (.sll (.ofNat 6 (fld w 18 6)) (.ofNat 6 (fld w 12 6)) (.ofNat 6 (fld w 6 6)) (.ofNat 1 (fld w 5 1)))
    else if fld w 0 5 = 7 then some (.srl (.ofNat 6 (fld w 18 6)) (.ofNat 6 (fld w 12 6)) (.ofNat 6 (fld w 6 6)) (.ofNat 1 (fld w 5 1)))
    else if fld w 0 5 = 8 then some (.sra (.ofNat 6 (fld w 18 6)) (.ofNat 6 (fld w 12 6)) (.ofNat 6 (fld w 6 6)) (.ofNat 1 (fld w 5 1)))
    else if fld w 0 5 = 9 then some (.min (.ofNat 6 (fld w 18 6)) (.ofNat 6 (fld w 12 6)) (.ofNat 6 (fld w 6 6)) (.ofNat 1 (fld w 5 1)))
    else if fld w 0 5 = 10 then some (.max (.ofNat 6 (fld w 18 6)) (.ofNat 6 (fld w 12 6)) (.ofNat 6 (fld w 6 6)) (.ofNat 1 (fld w 5 1)))
    else if fld w 0 5 = 11 then some (.minu (.ofNat 6 (fld w 18 6)) (.ofNat 6 (fld w 12 6)) (.ofNat 6 (fld w 6 6)) (.ofNat 1 (fld w 5 1)))
    else if fld w 0 5 = 12 then some (.maxu (.ofNat 6 (fld w 18 6)) (.ofNat 6 (fld w 12 6)) (.ofNat 6 (fld w 6 6)) (.ofNat 1 (fld w 5 1)))
    else if fld w 0 5 = 13 then some (.mul (.ofNat 6 (fld w 18 6)) (.ofNat 6 (fld w 12 6)) (.ofNat 6 (fld w 6 6)) (.ofNat 1 (fld w 5 1)))
    else if fld w 0 5 = 14 then some (.mulh (.ofNat 6 (fld w 18 6)) (.ofNat 6 (fld w 12 6)) (.ofNat 6 (fld w 6 6)) (.ofNat 1 (fld w 5 1)))
    else if fld w 0 5 = 15 then some (.mulhu (.ofNat 6 (fld w 18 6)) (.ofNat 6 (fld w 12 6)) (.ofNat 6 (fld w 6 6)) (.ofNat 1 (fld w 5 1)))
    else if fld w 0 5 = 16 then some (.div (.ofNat 6 (fld w 18 6)) (.ofNat 6 (fld w 12 6)) (.ofNat 6 (fld w 6 6)) (.ofNat 1 (fld w 5 1)))
    else if fld w 0 5 = 17 then some (.divu (.ofNat 6 (fld w 18 6)) (.ofNat 6 (fld w 12 6)) (.ofNat 6 (fld w 6 6)) (.ofNat 1 (fld w 5 1)))
    else if fld w 0 5 = 18 then some (.rem (.ofNat 6 (fld w 18 6)) (.ofNat 6 (fld w 12 6)) (.ofNat 6 (fld w 6 6)) (.ofNat 1 (fld w 5 1)))
    else if fld w 0 5 = 19 then some (.remu (.ofNat 6 (fld w 18 6)) (.ofNat 6 (fld w 12 6)) (.ofNat 6 (fld w 6 6)) (.ofNat 1 (fld w 5 1)))
    else if fld w 0 5 = 20 ∧ fld w 6 6 = 0 then some (.clz (.ofNat 6 (fld w 18 6)) (.ofNat 6 (fld w 12 6)) (.ofNat 1 (fld w 5 1)))
    else if fld w 0 5 = 21 ∧ fld w 6 6 = 0 then some (.ctz (.ofNat 6 (fld w 18 6)) (.ofNat 6 (fld w 12 6)) (.ofNat 1 (fld w 5 1)))
    else if fld w 0 5 = 22 ∧ fld w 6 6 = 0 then some (.popc (.ofNat 6 (fld w 18 6)) (.ofNat 6 (fld w 12 6)) (.ofNat 1 (fld w 5 1)))
    else if fld w 0 5 = 23 ∧ fld w 6 6 = 0 then some (.bswap (.ofNat 6 (fld w 18 6)) (.ofNat 6 (fld w 12 6)) (.ofNat 1 (fld w 5 1)))
    else none
  | 0x02 => some (.addi (.ofNat 6 (fld w 18 6)) (.ofNat 6 (fld w 12 6)) (.ofNat 12 (fld w 0 12)))
  | 0x03 => some (.andi (.ofNat 6 (fld w 18 6)) (.ofNat 6 (fld w 12 6)) (.ofNat 12 (fld w 0 12)))
  | 0x04 => some (.ori (.ofNat 6 (fld w 18 6)) (.ofNat 6 (fld w 12 6)) (.ofNat 12 (fld w 0 12)))
  | 0x05 => some (.xori (.ofNat 6 (fld w 18 6)) (.ofNat 6 (fld w 12 6)) (.ofNat 12 (fld w 0 12)))
  | 0x06 =>
    if fld w 7 5 = 0 then some (.slli (.ofNat 6 (fld w 18 6)) (.ofNat 6 (fld w 12 6)) (.ofNat 1 (fld w 6 1)) (.ofNat 6 (fld w 0 6)))
    else none
  | 0x07 =>
    if fld w 7 5 = 0 then some (.srli (.ofNat 6 (fld w 18 6)) (.ofNat 6 (fld w 12 6)) (.ofNat 1 (fld w 6 1)) (.ofNat 6 (fld w 0 6)))
    else none
  | 0x08 =>
    if fld w 7 5 = 0 then some (.srai (.ofNat 6 (fld w 18 6)) (.ofNat 6 (fld w 12 6)) (.ofNat 1 (fld w 6 1)) (.ofNat 6 (fld w 0 6)))
    else none
  | 0x09 => some (.lui (.ofNat 6 (fld w 18 6)) (.ofNat 18 (fld w 0 18)))
  | 0x0A => some (.addpc (.ofNat 6 (fld w 18 6)) (.ofNat 18 (fld w 0 18)))
  | 0x0C =>
    if fld w 0 5 = 0 then some (.cmp (.ofNat 3 (fld w 21 3)) (.ofNat 3 (fld w 18 3)) (.ofNat 6 (fld w 12 6)) (.ofNat 6 (fld w 6 6)) (.ofNat 1 (fld w 5 1)))
    else none
  | 0x0D => some (.cmpi (.ofNat 3 (fld w 21 3)) (.ofNat 3 (fld w 18 3)) (.ofNat 6 (fld w 12 6)) (.ofNat 12 (fld w 0 12)))
  | 0x0E =>
    if fld w 0 13 = 0 then some (.pand (.ofNat 3 (fld w 21 3)) (.ofNat 3 (fld w 18 3)) (.ofNat 3 (fld w 15 3)) (.ofNat 1 (fld w 14 1)) (.ofNat 1 (fld w 13 1)))
    else if fld w 0 13 = 1024 then some (.por (.ofNat 3 (fld w 21 3)) (.ofNat 3 (fld w 18 3)) (.ofNat 3 (fld w 15 3)) (.ofNat 1 (fld w 14 1)) (.ofNat 1 (fld w 13 1)))
    else if fld w 0 13 = 2048 then some (.pxor (.ofNat 3 (fld w 21 3)) (.ofNat 3 (fld w 18 3)) (.ofNat 3 (fld w 15 3)) (.ofNat 1 (fld w 14 1)) (.ofNat 1 (fld w 13 1)))
    else if fld w 0 13 = 3072 then some (.pandn (.ofNat 3 (fld w 21 3)) (.ofNat 3 (fld w 18 3)) (.ofNat 3 (fld w 15 3)) (.ofNat 1 (fld w 14 1)) (.ofNat 1 (fld w 13 1)))
    else none
  | 0x0F =>
    if fld w 3 3 = 0 then some (.sel (.ofNat 6 (fld w 18 6)) (.ofNat 6 (fld w 12 6)) (.ofNat 6 (fld w 6 6)) (.ofNat 3 (fld w 0 3)))
    else none
  | 0x10 =>
    if fld w 0 18 = 0 then some (.movpG (.ofNat 6 (fld w 18 6)))
    else if fld w 0 12 = 1 ∧ fld w 18 6 = 0 then some (.movpP (.ofNat 6 (fld w 12 6)))
    else none
  | 0x11 =>
    if fld w 0 5 = 0 then some (.fadd (.ofNat 6 (fld w 18 6)) (.ofNat 6 (fld w 12 6)) (.ofNat 6 (fld w 6 6)) (.ofNat 1 (fld w 5 1)))
    else if fld w 0 5 = 1 then some (.fsub (.ofNat 6 (fld w 18 6)) (.ofNat 6 (fld w 12 6)) (.ofNat 6 (fld w 6 6)) (.ofNat 1 (fld w 5 1)))
    else if fld w 0 5 = 2 then some (.fmul (.ofNat 6 (fld w 18 6)) (.ofNat 6 (fld w 12 6)) (.ofNat 6 (fld w 6 6)) (.ofNat 1 (fld w 5 1)))
    else if fld w 0 5 = 3 then some (.fmin (.ofNat 6 (fld w 18 6)) (.ofNat 6 (fld w 12 6)) (.ofNat 6 (fld w 6 6)) (.ofNat 1 (fld w 5 1)))
    else if fld w 0 5 = 4 then some (.fmax (.ofNat 6 (fld w 18 6)) (.ofNat 6 (fld w 12 6)) (.ofNat 6 (fld w 6 6)) (.ofNat 1 (fld w 5 1)))
    else if fld w 0 5 = 5 then some (.fsgnj (.ofNat 6 (fld w 18 6)) (.ofNat 6 (fld w 12 6)) (.ofNat 6 (fld w 6 6)) (.ofNat 1 (fld w 5 1)))
    else if fld w 0 5 = 6 then some (.fsgnjn (.ofNat 6 (fld w 18 6)) (.ofNat 6 (fld w 12 6)) (.ofNat 6 (fld w 6 6)) (.ofNat 1 (fld w 5 1)))
    else if fld w 0 5 = 7 then some (.fsgnjx (.ofNat 6 (fld w 18 6)) (.ofNat 6 (fld w 12 6)) (.ofNat 6 (fld w 6 6)) (.ofNat 1 (fld w 5 1)))
    else if fld w 0 5 = 8 ∧ fld w 6 6 = 0 then some (.fclass (.ofNat 6 (fld w 18 6)) (.ofNat 6 (fld w 12 6)) (.ofNat 1 (fld w 5 1)))
    else none
  | 0x12 => some (.fma (.ofNat 6 (fld w 18 6)) (.ofNat 6 (fld w 12 6)) (.ofNat 6 (fld w 6 6)) (.ofNat 6 (fld w 0 6)))
  | 0x13 => some (.fmaD (.ofNat 6 (fld w 18 6)) (.ofNat 6 (fld w 12 6)) (.ofNat 6 (fld w 6 6)) (.ofNat 6 (fld w 0 6)))
  | 0x14 =>
    if fld w 0 5 = 0 ∧ fld w 20 1 = 0 then some (.fcmp (.ofNat 3 (fld w 21 3)) (.ofNat 2 (fld w 18 2)) (.ofNat 6 (fld w 12 6)) (.ofNat 6 (fld w 6 6)) (.ofNat 1 (fld w 5 1)))
    else none
  | 0x15 =>
    if fld w 0 12 = 0 then some (.fcvtF32I64 (.ofNat 6 (fld w 18 6)) (.ofNat 6 (fld w 12 6)))
    else if fld w 0 12 = 1 then some (.fcvtF32I64u (.ofNat 6 (fld w 18 6)) (.ofNat 6 (fld w 12 6)))
    else if fld w 0 12 = 2 then some (.fcvtI64F32 (.ofNat 6 (fld w 18 6)) (.ofNat 6 (fld w 12 6)))
    else if fld w 0 12 = 3 then some (.fcvtI64uF32 (.ofNat 6 (fld w 18 6)) (.ofNat 6 (fld w 12 6)))
    else if fld w 0 12 = 4 then some (.fcvtF64I64 (.ofNat 6 (fld w 18 6)) (.ofNat 6 (fld w 12 6)))
    else if fld w 0 12 = 5 then some (.fcvtI64F64 (.ofNat 6 (fld w 18 6)) (.ofNat 6 (fld w 12 6)))
    else if fld w 0 12 = 6 then some (.fcvtF32F64 (.ofNat 6 (fld w 18 6)) (.ofNat 6 (fld w 12 6)))
    else if fld w 0 12 = 7 then some (.fcvtF64F32 (.ofNat 6 (fld w 18 6)) (.ofNat 6 (fld w 12 6)))
    else none
  | 0x16 =>
    if fld w 4 8 = 0 ∧ fld w 18 3 = 0 then some (.abtAbs (.ofNat 3 (fld w 21 3)) (.ofNat 6 (fld w 12 6)) (.ofNat 4 (fld w 0 4)))
    else if fld w 4 8 = 0 ∧ fld w 18 3 = 1 then some (.abtPrs (.ofNat 3 (fld w 21 3)) (.ofNat 6 (fld w 12 6)) (.ofNat 4 (fld w 0 4)))
    else none
  | 0x17 =>
    if fld w 4 5 = 0 then some (.abm (.ofNat 6 (fld w 18 6)) (.ofNat 6 (fld w 12 6)) (.ofNat 3 (fld w 9 3)) (.ofNat 4 (fld w 0 4)))
    else none
  | 0x18 =>
    if fld w 4 8 = 0 then some (.cvtd (.ofNat 6 (fld w 18 6)) (.ofNat 6 (fld w 12 6)) (.ofNat 4 (fld w 0 4)))
    else none
  | 0x19 =>
    if fld w 6 6 = 0 then some (.cvte (.ofNat 6 (fld w 18 6)) (.ofNat 6 (fld w 12 6)) (.ofNat 2 (fld w 4 2)) (.ofNat 4 (fld w 0 4)))
    else none
  | 0x1A =>
    if fld w 0 18 = 0 then some (.rand (.ofNat 6 (fld w 18 6)))
    else none
  | 0x1B =>
    if fld w 0 12 = 0 then some (.sfuRcp (.ofNat 6 (fld w 18 6)) (.ofNat 6 (fld w 12 6)))
    else if fld w 0 12 = 1 then some (.sfuSqrt (.ofNat 6 (fld w 18 6)) (.ofNat 6 (fld w 12 6)))
    else if fld w 0 12 = 2 then some (.sfuRsqrt (.ofNat 6 (fld w 18 6)) (.ofNat 6 (fld w 12 6)))
    else if fld w 0 12 = 3 then some (.sfuExp2 (.ofNat 6 (fld w 18 6)) (.ofNat 6 (fld w 12 6)))
    else if fld w 0 12 = 4 then some (.sfuLog2 (.ofNat 6 (fld w 18 6)) (.ofNat 6 (fld w 12 6)))
    else if fld w 0 12 = 5 then some (.sfuSinpi (.ofNat 6 (fld w 18 6)) (.ofNat 6 (fld w 12 6)))
    else if fld w 0 12 = 6 then some (.sfuCospi (.ofNat 6 (fld w 18 6)) (.ofNat 6 (fld w 12 6)))
    else none
  | 0x20 =>
    if fld w 0 5 = 0 then some (.vadd (.ofNat 1 (fld w 23 1)) (.ofNat 5 (fld w 18 5)) (.ofNat 5 (fld w 13 5)) (.ofNat 5 (fld w 8 5)) (.ofNat 3 (fld w 5 3)))
    else if fld w 0 5 = 1 then some (.vsub (.ofNat 1 (fld w 23 1)) (.ofNat 5 (fld w 18 5)) (.ofNat 5 (fld w 13 5)) (.ofNat 5 (fld w 8 5)) (.ofNat 3 (fld w 5 3)))
    else if fld w 0 5 = 2 then some (.vmul (.ofNat 1 (fld w 23 1)) (.ofNat 5 (fld w 18 5)) (.ofNat 5 (fld w 13 5)) (.ofNat 5 (fld w 8 5)) (.ofNat 3 (fld w 5 3)))
    else if fld w 0 5 = 3 then some (.vmin (.ofNat 1 (fld w 23 1)) (.ofNat 5 (fld w 18 5)) (.ofNat 5 (fld w 13 5)) (.ofNat 5 (fld w 8 5)) (.ofNat 3 (fld w 5 3)))
    else if fld w 0 5 = 4 then some (.vmax (.ofNat 1 (fld w 23 1)) (.ofNat 5 (fld w 18 5)) (.ofNat 5 (fld w 13 5)) (.ofNat 5 (fld w 8 5)) (.ofNat 3 (fld w 5 3)))
    else if fld w 0 5 = 5 then some (.vand (.ofNat 1 (fld w 23 1)) (.ofNat 5 (fld w 18 5)) (.ofNat 5 (fld w 13 5)) (.ofNat 5 (fld w 8 5)) (.ofNat 3 (fld w 5 3)))
    else if fld w 0 5 = 6 then some (.vor (.ofNat 1 (fld w 23 1)) (.ofNat 5 (fld w 18 5)) (.ofNat 5 (fld w 13 5)) (.ofNat 5 (fld w 8 5)) (.ofNat 3 (fld w 5 3)))
    else if fld w 0 5 = 7 then some (.vxor (.ofNat 1 (fld w 23 1)) (.ofNat 5 (fld w 18 5)) (.ofNat 5 (fld w 13 5)) (.ofNat 5 (fld w 8 5)) (.ofNat 3 (fld w 5 3)))
    else if fld w 0 5 = 8 then some (.vshl (.ofNat 1 (fld w 23 1)) (.ofNat 5 (fld w 18 5)) (.ofNat 5 (fld w 13 5)) (.ofNat 5 (fld w 8 5)) (.ofNat 3 (fld w 5 3)))
    else if fld w 0 5 = 9 then some (.vshr (.ofNat 1 (fld w 23 1)) (.ofNat 5 (fld w 18 5)) (.ofNat 5 (fld w 13 5)) (.ofNat 5 (fld w 8 5)) (.ofNat 3 (fld w 5 3)))
    else if fld w 0 5 = 10 then some (.vsra (.ofNat 1 (fld w 23 1)) (.ofNat 5 (fld w 18 5)) (.ofNat 5 (fld w 13 5)) (.ofNat 5 (fld w 8 5)) (.ofNat 3 (fld w 5 3)))
    else none
  | 0x21 => some (.vfma (.ofNat 1 (fld w 23 1)) (.ofNat 5 (fld w 18 5)) (.ofNat 5 (fld w 13 5)) (.ofNat 5 (fld w 8 5)) (.ofNat 3 (fld w 5 3)) (.ofNat 5 (fld w 0 5)))
  | 0x22 =>
    if fld w 2 3 = 0 ∧ fld w 18 5 = 0 then some (.vcmp (.ofNat 1 (fld w 23 1)) (.ofNat 5 (fld w 13 5)) (.ofNat 5 (fld w 8 5)) (.ofNat 3 (fld w 5 3)) (.ofNat 2 (fld w 0 2)))
    else none
  | 0x23 =>
    if fld w 0 5 = 0 ∧ fld w 23 1 = 0 then some (.vsel (.ofNat 5 (fld w 18 5)) (.ofNat 5 (fld w 13 5)) (.ofNat 5 (fld w 8 5)) (.ofNat 3 (fld w 5 3)))
    else none
  | 0x24 =>
    if fld w 4 1 = 0 ∧ fld w 8 5 = 0 then some (.vcvtDec (.ofNat 1 (fld w 23 1)) (.ofNat 5 (fld w 18 5)) (.ofNat 5 (fld w 13 5)) (.ofNat 3 (fld w 5 3)) (.ofNat 4 (fld w 0 4)))
    else if fld w 4 1 = 1 ∧ fld w 8 5 = 0 then some (.vcvtEnc (.ofNat 1 (fld w 23 1)) (.ofNat 5 (fld w 18 5)) (.ofNat 5 (fld w 13 5)) (.ofNat 3 (fld w 5 3)) (.ofNat 4 (fld w 0 4)))
    else none
  | 0x25 =>
    if fld w 3 9 = 0 then some (.vredAdd (.ofNat 1 (fld w 23 1)) (.ofNat 6 (fld w 17 6)) (.ofNat 5 (fld w 12 5)) (.ofNat 3 (fld w 0 3)))
    else if fld w 3 9 = 8 then some (.vredMin (.ofNat 1 (fld w 23 1)) (.ofNat 6 (fld w 17 6)) (.ofNat 5 (fld w 12 5)) (.ofNat 3 (fld w 0 3)))
    else if fld w 3 9 = 16 then some (.vredMax (.ofNat 1 (fld w 23 1)) (.ofNat 6 (fld w 17 6)) (.ofNat 5 (fld w 12 5)) (.ofNat 3 (fld w 0 3)))
    else none
  | 0x26 =>
    if fld w 0 5 = 0 ∧ fld w 8 4 = 0 then some (.vbc (.ofNat 1 (fld w 23 1)) (.ofNat 5 (fld w 18 5)) (.ofNat 6 (fld w 12 6)) (.ofNat 3 (fld w 5 3)))
    else none
  | 0x27 =>
    if fld w 3 3 = 0 ∧ fld w 23 1 = 0 then some (.vext (.ofNat 6 (fld w 17 6)) (.ofNat 5 (fld w 12 5)) (.ofNat 6 (fld w 6 6)) (.ofNat 3 (fld w 0 3)))
    else none
  | 0x28 =>
    if fld w 0 5 = 0 then some (.vperm (.ofNat 1 (fld w 23 1)) (.ofNat 5 (fld w 18 5)) (.ofNat 5 (fld w 13 5)) (.ofNat 5 (fld w 8 5)) (.ofNat 3 (fld w 5 3)))
    else none
  | 0x29 =>
    if fld w 0 5 = 0 ∧ fld w 8 5 = 0 then some (.vsfuRcp (.ofNat 1 (fld w 23 1)) (.ofNat 5 (fld w 18 5)) (.ofNat 5 (fld w 13 5)) (.ofNat 3 (fld w 5 3)))
    else if fld w 0 5 = 1 ∧ fld w 8 5 = 0 then some (.vsfuSqrt (.ofNat 1 (fld w 23 1)) (.ofNat 5 (fld w 18 5)) (.ofNat 5 (fld w 13 5)) (.ofNat 3 (fld w 5 3)))
    else if fld w 0 5 = 2 ∧ fld w 8 5 = 0 then some (.vsfuRsqrt (.ofNat 1 (fld w 23 1)) (.ofNat 5 (fld w 18 5)) (.ofNat 5 (fld w 13 5)) (.ofNat 3 (fld w 5 3)))
    else if fld w 0 5 = 3 ∧ fld w 8 5 = 0 then some (.vsfuExp2 (.ofNat 1 (fld w 23 1)) (.ofNat 5 (fld w 18 5)) (.ofNat 5 (fld w 13 5)) (.ofNat 3 (fld w 5 3)))
    else if fld w 0 5 = 4 ∧ fld w 8 5 = 0 then some (.vsfuLog2 (.ofNat 1 (fld w 23 1)) (.ofNat 5 (fld w 18 5)) (.ofNat 5 (fld w 13 5)) (.ofNat 3 (fld w 5 3)))
    else if fld w 0 5 = 5 ∧ fld w 8 5 = 0 then some (.vsfuSinpi (.ofNat 1 (fld w 23 1)) (.ofNat 5 (fld w 18 5)) (.ofNat 5 (fld w 13 5)) (.ofNat 3 (fld w 5 3)))
    else if fld w 0 5 = 6 ∧ fld w 8 5 = 0 then some (.vsfuCospi (.ofNat 1 (fld w 23 1)) (.ofNat 5 (fld w 18 5)) (.ofNat 5 (fld w 13 5)) (.ofNat 3 (fld w 5 3)))
    else none
  | 0x2A =>
    if fld w 0 12 = 64 then some (.vaccFrom (.ofNat 1 (fld w 23 1)) (.ofNat 5 (fld w 18 5)) (.ofNat 6 (fld w 12 6)))
    else if fld w 0 12 = 65 then some (.vaccTo (.ofNat 1 (fld w 23 1)) (.ofNat 5 (fld w 18 5)) (.ofNat 6 (fld w 12 6)))
    else none
  | 0x2B =>
    if fld w 4 9 = 0 ∧ fld w 18 5 = 0 then some (.vabt (.ofNat 1 (fld w 23 1)) (.ofNat 5 (fld w 13 5)) (.ofNat 4 (fld w 0 4)))
    else none
  | 0x2C =>
    if fld w 4 9 = 0 ∧ fld w 23 1 = 0 then some (.vabm (.ofNat 5 (fld w 18 5)) (.ofNat 5 (fld w 13 5)) (.ofNat 4 (fld w 0 4)))
    else none
  | 0x2D =>
    if fld w 0 5 = 0 ∧ fld w 6 12 = 0 then some (.viota (.ofNat 1 (fld w 23 1)) (.ofNat 5 (fld w 18 5)) (.ofNat 1 (fld w 5 1)))
    else none
  | _ => none

/-- A word of fixed bits `m` with the fields [23:21], [19:0] (R64). -/
def enc0 (m : Nat) (x : BitVec 3) (y : BitVec 20) : Nat := m + x.toNat * 2097152 + y.toNat

/-- A word of fixed bits `m` with the fields [23:18], [17:0] (R64). -/
def enc1 (m : Nat) (x : BitVec 6) (y : BitVec 18) : Nat := m + x.toNat * 262144 + y.toNat

/-- A word of fixed bits `m` with the fields [23:18], [17:12], [11:0] (R64). -/
def enc2 (m : Nat) (x : BitVec 6) (y : BitVec 6) (z : BitVec 12) : Nat := m + x.toNat * 262144 + y.toNat * 4096 + z.toNat

/-- A word of fixed bits `m` with the fields [17:0] (R64). -/
def enc3 (m : Nat) (x : BitVec 18) : Nat := m + x.toNat

/-- A word of fixed bits `m` with the fields [23:18], [17:12], [8:8], [7:6], [5:4], [2:2] (R64). -/
def enc4 (m : Nat) (x : BitVec 6) (y : BitVec 6) (z : BitVec 1) (u : BitVec 2) (v : BitVec 2) (t : BitVec 1) : Nat := m + x.toNat * 262144 + y.toNat * 4096 + z.toNat * 256 + u.toNat * 64 + v.toNat * 16 + t.toNat * 4

/-- A word of fixed bits `m` with the fields [23:18], [17:12], [7:6], [5:4], [3:3] (R64). -/
def enc5 (m : Nat) (x : BitVec 6) (y : BitVec 6) (z : BitVec 2) (u : BitVec 2) (v : BitVec 1) : Nat := m + x.toNat * 262144 + y.toNat * 4096 + z.toNat * 64 + u.toNat * 16 + v.toNat * 8

/-- A word of fixed bits `m` with the fields [23:18], [17:12], [11:6], [5:4], [3:2], [1:1] (R64). -/
def enc6 (m : Nat) (x : BitVec 6) (y : BitVec 6) (z : BitVec 6) (u : BitVec 2) (v : BitVec 2) (t : BitVec 1) : Nat := m + x.toNat * 262144 + y.toNat * 4096 + z.toNat * 64 + u.toNat * 16 + v.toNat * 4 + t.toNat * 2

/-- A word of fixed bits `m` with the fields [23:18], [17:12], [11:6], [5:4], [3:2] (R64). -/
def enc7 (m : Nat) (x : BitVec 6) (y : BitVec 6) (z : BitVec 6) (u : BitVec 2) (v : BitVec 2) : Nat := m + x.toNat * 262144 + y.toNat * 4096 + z.toNat * 64 + u.toNat * 16 + v.toNat * 4

/-- A word of fixed bits `m` with the fields [5:4], [3:2] (R64). -/
def enc8 (m : Nat) (x : BitVec 2) (y : BitVec 2) : Nat := m + x.toNat * 16 + y.toNat * 4

/-- A word of fixed bits `m` with the fields [23:18], [17:12], [11:6], [5:4], [2:2], [1:1] (R64). -/
def enc9 (m : Nat) (x : BitVec 6) (y : BitVec 6) (z : BitVec 6) (u : BitVec 2) (v : BitVec 1) (t : BitVec 1) : Nat := m + x.toNat * 262144 + y.toNat * 4096 + z.toNat * 64 + u.toNat * 16 + v.toNat * 4 + t.toNat * 2

/-- A word of fixed bits `m` with the fields [23:21], [17:12], [11:6], [5:0] (R64). -/
def enc10 (m : Nat) (x : BitVec 3) (y : BitVec 6) (z : BitVec 6) (u : BitVec 6) : Nat := m + x.toNat * 2097152 + y.toNat * 4096 + z.toNat * 64 + u.toNat

/-- A word of fixed bits `m` with the fields [3:0] (R64). -/
def enc11 (m : Nat) (x : BitVec 4) : Nat := m + x.toNat

/-- A word of fixed bits `m` with the fields [23:18], [17:12] (R64). -/
def enc12 (m : Nat) (x : BitVec 6) (y : BitVec 6) : Nat := m + x.toNat * 262144 + y.toNat * 4096

/-- A word of fixed bits `m` with the fields [23:18], [17:12], [11:6] (R64). -/
def enc13 (m : Nat) (x : BitVec 6) (y : BitVec 6) (z : BitVec 6) : Nat := m + x.toNat * 262144 + y.toNat * 4096 + z.toNat * 64

/-- A word of fixed bits `m` with the fields [17:12] (R64). -/
def enc14 (m : Nat) (x : BitVec 6) : Nat := m + x.toNat * 4096

/-- A word of fixed bits `m` with the fields [17:12], [11:6] (R64). -/
def enc15 (m : Nat) (x : BitVec 6) (y : BitVec 6) : Nat := m + x.toNat * 4096 + y.toNat * 64

/-- A word of fixed bits `m` with the fields [23:18], [17:12], [11:6], [3:0] (R64). -/
def enc16 (m : Nat) (x : BitVec 6) (y : BitVec 6) (z : BitVec 6) (u : BitVec 4) : Nat := m + x.toNat * 262144 + y.toNat * 4096 + z.toNat * 64 + u.toNat

/-- A word of fixed bits `m` with the fields [23:18] (R64). -/
def enc17 (m : Nat) (x : BitVec 6) : Nat := m + x.toNat * 262144

/-- A word of fixed bits `m` with the fields [17:12], [1:0] (R64). -/
def enc18 (m : Nat) (x : BitVec 6) (y : BitVec 2) : Nat := m + x.toNat * 4096 + y.toNat

/-- A word of fixed bits `m` with the fields [23:23], [22:18], [17:12], [11:6], [5:3] (R64). -/
def enc19 (m : Nat) (x : BitVec 1) (y : BitVec 5) (z : BitVec 6) (u : BitVec 6) (v : BitVec 3) : Nat := m + x.toNat * 8388608 + y.toNat * 262144 + z.toNat * 4096 + u.toNat * 64 + v.toNat * 8

/-- A word of fixed bits `m` with the fields [23:23], [22:18], [17:12], [11:7], [5:3] (R64). -/
def enc20 (m : Nat) (x : BitVec 1) (y : BitVec 5) (z : BitVec 6) (u : BitVec 5) (v : BitVec 3) : Nat := m + x.toNat * 8388608 + y.toNat * 262144 + z.toNat * 4096 + u.toNat * 128 + v.toNat * 8

/-- A word of fixed bits `m` with the fields [23:18], [11:0] (R64). -/
def enc21 (m : Nat) (x : BitVec 6) (y : BitVec 12) : Nat := m + x.toNat * 262144 + y.toNat

/-- A word of fixed bits `m` with the fields [17:12], [11:0] (R64). -/
def enc22 (m : Nat) (x : BitVec 6) (y : BitVec 12) : Nat := m + x.toNat * 4096 + y.toNat

/-- A word of fixed bits `m` with the fields [11:6] (R64). -/
def enc23 (m : Nat) (x : BitVec 6) : Nat := m + x.toNat * 64

/-- A word of fixed bits `m` with the fields [23:18], [17:12], [11:6], [5:5] (R64). -/
def enc24 (m : Nat) (x : BitVec 6) (y : BitVec 6) (z : BitVec 6) (u : BitVec 1) : Nat := m + x.toNat * 262144 + y.toNat * 4096 + z.toNat * 64 + u.toNat * 32

/-- A word of fixed bits `m` with the fields [23:18], [17:12], [5:5] (R64). -/
def enc25 (m : Nat) (x : BitVec 6) (y : BitVec 6) (z : BitVec 1) : Nat := m + x.toNat * 262144 + y.toNat * 4096 + z.toNat * 32

/-- A word of fixed bits `m` with the fields [23:18], [17:12], [6:6], [5:0] (R64). -/
def enc26 (m : Nat) (x : BitVec 6) (y : BitVec 6) (z : BitVec 1) (u : BitVec 6) : Nat := m + x.toNat * 262144 + y.toNat * 4096 + z.toNat * 64 + u.toNat

/-- A word of fixed bits `m` with the fields [23:21], [20:18], [17:12], [11:6], [5:5] (R64). -/
def enc27 (m : Nat) (x : BitVec 3) (y : BitVec 3) (z : BitVec 6) (u : BitVec 6) (v : BitVec 1) : Nat := m + x.toNat * 2097152 + y.toNat * 262144 + z.toNat * 4096 + u.toNat * 64 + v.toNat * 32

/-- A word of fixed bits `m` with the fields [23:21], [20:18], [17:12], [11:0] (R64). -/
def enc28 (m : Nat) (x : BitVec 3) (y : BitVec 3) (z : BitVec 6) (u : BitVec 12) : Nat := m + x.toNat * 2097152 + y.toNat * 262144 + z.toNat * 4096 + u.toNat

/-- A word of fixed bits `m` with the fields [23:21], [20:18], [17:15], [14:14], [13:13] (R64). -/
def enc29 (m : Nat) (x : BitVec 3) (y : BitVec 3) (z : BitVec 3) (u : BitVec 1) (v : BitVec 1) : Nat := m + x.toNat * 2097152 + y.toNat * 262144 + z.toNat * 32768 + u.toNat * 16384 + v.toNat * 8192

/-- A word of fixed bits `m` with the fields [23:18], [17:12], [11:6], [2:0] (R64). -/
def enc30 (m : Nat) (x : BitVec 6) (y : BitVec 6) (z : BitVec 6) (u : BitVec 3) : Nat := m + x.toNat * 262144 + y.toNat * 4096 + z.toNat * 64 + u.toNat

/-- A word of fixed bits `m` with the fields [23:18], [17:12], [11:6], [5:0] (R64). -/
def enc31 (m : Nat) (x : BitVec 6) (y : BitVec 6) (z : BitVec 6) (u : BitVec 6) : Nat := m + x.toNat * 262144 + y.toNat * 4096 + z.toNat * 64 + u.toNat

/-- A word of fixed bits `m` with the fields [23:21], [19:18], [17:12], [11:6], [5:5] (R64). -/
def enc32 (m : Nat) (x : BitVec 3) (y : BitVec 2) (z : BitVec 6) (u : BitVec 6) (v : BitVec 1) : Nat := m + x.toNat * 2097152 + y.toNat * 262144 + z.toNat * 4096 + u.toNat * 64 + v.toNat * 32

/-- A word of fixed bits `m` with the fields [23:21], [17:12], [3:0] (R64). -/
def enc33 (m : Nat) (x : BitVec 3) (y : BitVec 6) (z : BitVec 4) : Nat := m + x.toNat * 2097152 + y.toNat * 4096 + z.toNat

/-- A word of fixed bits `m` with the fields [23:18], [17:12], [11:9], [3:0] (R64). -/
def enc34 (m : Nat) (x : BitVec 6) (y : BitVec 6) (z : BitVec 3) (u : BitVec 4) : Nat := m + x.toNat * 262144 + y.toNat * 4096 + z.toNat * 512 + u.toNat

/-- A word of fixed bits `m` with the fields [23:18], [17:12], [3:0] (R64). -/
def enc35 (m : Nat) (x : BitVec 6) (y : BitVec 6) (z : BitVec 4) : Nat := m + x.toNat * 262144 + y.toNat * 4096 + z.toNat

/-- A word of fixed bits `m` with the fields [23:18], [17:12], [5:4], [3:0] (R64). -/
def enc36 (m : Nat) (x : BitVec 6) (y : BitVec 6) (z : BitVec 2) (u : BitVec 4) : Nat := m + x.toNat * 262144 + y.toNat * 4096 + z.toNat * 16 + u.toNat

/-- A word of fixed bits `m` with the fields [23:23], [22:18], [17:13], [12:8], [7:5] (R64). -/
def enc37 (m : Nat) (x : BitVec 1) (y : BitVec 5) (z : BitVec 5) (u : BitVec 5) (v : BitVec 3) : Nat := m + x.toNat * 8388608 + y.toNat * 262144 + z.toNat * 8192 + u.toNat * 256 + v.toNat * 32

/-- A word of fixed bits `m` with the fields [23:23], [22:18], [17:13], [12:8], [7:5], [4:0] (R64). -/
def enc38 (m : Nat) (x : BitVec 1) (y : BitVec 5) (z : BitVec 5) (u : BitVec 5) (v : BitVec 3) (t : BitVec 5) : Nat := m + x.toNat * 8388608 + y.toNat * 262144 + z.toNat * 8192 + u.toNat * 256 + v.toNat * 32 + t.toNat

/-- A word of fixed bits `m` with the fields [23:23], [17:13], [12:8], [7:5], [1:0] (R64). -/
def enc39 (m : Nat) (x : BitVec 1) (y : BitVec 5) (z : BitVec 5) (u : BitVec 3) (v : BitVec 2) : Nat := m + x.toNat * 8388608 + y.toNat * 8192 + z.toNat * 256 + u.toNat * 32 + v.toNat

/-- A word of fixed bits `m` with the fields [22:18], [17:13], [12:8], [7:5] (R64). -/
def enc40 (m : Nat) (x : BitVec 5) (y : BitVec 5) (z : BitVec 5) (u : BitVec 3) : Nat := m + x.toNat * 262144 + y.toNat * 8192 + z.toNat * 256 + u.toNat * 32

/-- A word of fixed bits `m` with the fields [23:23], [22:18], [17:13], [7:5], [3:0] (R64). -/
def enc41 (m : Nat) (x : BitVec 1) (y : BitVec 5) (z : BitVec 5) (u : BitVec 3) (v : BitVec 4) : Nat := m + x.toNat * 8388608 + y.toNat * 262144 + z.toNat * 8192 + u.toNat * 32 + v.toNat

/-- A word of fixed bits `m` with the fields [23:23], [22:17], [16:12], [2:0] (R64). -/
def enc42 (m : Nat) (x : BitVec 1) (y : BitVec 6) (z : BitVec 5) (u : BitVec 3) : Nat := m + x.toNat * 8388608 + y.toNat * 131072 + z.toNat * 4096 + u.toNat

/-- A word of fixed bits `m` with the fields [23:23], [22:18], [17:12], [7:5] (R64). -/
def enc43 (m : Nat) (x : BitVec 1) (y : BitVec 5) (z : BitVec 6) (u : BitVec 3) : Nat := m + x.toNat * 8388608 + y.toNat * 262144 + z.toNat * 4096 + u.toNat * 32

/-- A word of fixed bits `m` with the fields [22:17], [16:12], [11:6], [2:0] (R64). -/
def enc44 (m : Nat) (x : BitVec 6) (y : BitVec 5) (z : BitVec 6) (u : BitVec 3) : Nat := m + x.toNat * 131072 + y.toNat * 4096 + z.toNat * 64 + u.toNat

/-- A word of fixed bits `m` with the fields [23:23], [22:18], [17:13], [7:5] (R64). -/
def enc45 (m : Nat) (x : BitVec 1) (y : BitVec 5) (z : BitVec 5) (u : BitVec 3) : Nat := m + x.toNat * 8388608 + y.toNat * 262144 + z.toNat * 8192 + u.toNat * 32

/-- A word of fixed bits `m` with the fields [23:23], [22:18], [17:12] (R64). -/
def enc46 (m : Nat) (x : BitVec 1) (y : BitVec 5) (z : BitVec 6) : Nat := m + x.toNat * 8388608 + y.toNat * 262144 + z.toNat * 4096

/-- A word of fixed bits `m` with the fields [23:23], [17:13], [3:0] (R64). -/
def enc47 (m : Nat) (x : BitVec 1) (y : BitVec 5) (z : BitVec 4) : Nat := m + x.toNat * 8388608 + y.toNat * 8192 + z.toNat

/-- A word of fixed bits `m` with the fields [22:18], [17:13], [3:0] (R64). -/
def enc48 (m : Nat) (x : BitVec 5) (y : BitVec 5) (z : BitVec 4) : Nat := m + x.toNat * 262144 + y.toNat * 8192 + z.toNat

/-- A word of fixed bits `m` with the fields [23:23], [22:18], [5:5] (R64). -/
def enc49 (m : Nat) (x : BitVec 1) (y : BitVec 5) (z : BitVec 1) : Nat := m + x.toNat * 8388608 + y.toNat * 262144 + z.toNat * 32

/-- The instruction a 32-bit word encodes, whatever its bit 31 (R58), or none where its shape is none (R71). -/
def decode (w : Nat) : Option Instr :=
  if fld w 30 1 = 0 then decodeC (fld w 24 6) w else decodeA (fld w 24 6) w

/-- Why a word without an instruction has none: its major is not assigned, or a function code or zero field is wrong. -/
def rejectOf (w : Nat) : Option Reject :=
  match decode w with
  | some _ => none
  | none =>
    if (fld w 30 1 = 0 ∧ (fld w 24 6 = 0 ∨ 0x3A ≤ fld w 24 6)) ∨
       (fld w 30 1 = 1 ∧ (fld w 24 6 = 0 ∨ fld w 24 6 = 0x0B ∨ (0x1C ≤ fld w 24 6 ∧ fld w 24 6 ≤ 0x1F) ∨ 0x2E ≤ fld w 24 6))
    then some .reservedMajor else some .reservedField

/-- The instruction a row's word stands for, its bits numbered as spec/opcode_table.json numbers them. -/
def decodeTableWord (_nbits w : Nat) : Option Instr := decode (w % 2 ^ 32)

/-- The SWR word of a selector and a source register (R66). -/
def swrWord (s : Nat) (a : BitVec 6) : Nat := 0x35000000 + a.toNat * 2 ^ 12 + s

/-- The word of an instruction with bit 31 clear (R58); none for the rows that are events. -/
def encode : Instr → Option Nat
  | .br p o => some (enc0 0x01000000 p o)
  | .brn p o => some (enc0 0x01100000 p o)
  | .jal d i => some (enc1 0x02000000 d i)
  | .jalr d a i => some (enc2 0x03000000 d a i)
  | .exit => some 0x04000000
  | .trap i => some (enc3 0x05000000 i)
  | .tret => some 0x06000000
  | .dbrk i => some (enc3 0x07000000 i)
  | .ldb t a i => some (enc2 0x08000000 t a i)
  | .ldbu t a i => some (enc2 0x09000000 t a i)
  | .ldh t a i => some (enc2 0x0A000000 t a i)
  | .ldhu t a i => some (enc2 0x0B000000 t a i)
  | .ldw t a i => some (enc2 0x0C000000 t a i)
  | .ldwu t a i => some (enc2 0x0D000000 t a i)
  | .ldd t a i => some (enc2 0x0E000000 t a i)
  | .lda d a e z s o => some (enc4 0x0F000000 d a e z s o)
  | .stb t a i => some (enc2 0x10000000 t a i)
  | .sth t a i => some (enc2 0x11000000 t a i)
  | .stw t a i => some (enc2 0x12000000 t a i)
  | .std t a i => some (enc2 0x13000000 t a i)
  | .str d a z s o => some (enc5 0x14000000 d a z s o)
  | .amoadd d a b s o w => some (enc6 0x15000000 d a b s o w)
  | .amoand d a b s o w => some (enc6 0x16000000 d a b s o w)
  | .amoor d a b s o w => some (enc6 0x17000000 d a b s o w)
  | .amoxor d a b s o w => some (enc6 0x18000000 d a b s o w)
  | .amomin d a b s o w => some (enc6 0x19000000 d a b s o w)
  | .amomax d a b s o w => some (enc6 0x1A000000 d a b s o w)
  | .amominu d a b s o w => some (enc6 0x1B000000 d a b s o w)
  | .amomaxu d a b s o w => some (enc6 0x1C000000 d a b s o w)
  | .amoswap d a b s o w => some (enc6 0x1D000000 d a b s o w)
  | .amofadd d a b s o => some (enc7 0x1E000000 d a b s o)
  | .cas d a b s o w => some (enc6 0x1F000000 d a b s o w)
  | .fence s o => some (enc8 0x20000000 s o)
  | .waitw d a b s o w => some (enc9 0x21000000 d a b s o w)
  | .waitwt p a b f => some (enc10 0x22000000 p a b f)
  | .semp s => some (enc11 0x23000000 s)
  | .semv s => some (enc11 0x24000000 s)
  | .cntInc d a => some (enc12 0x25000000 d a)
  | .cntDec d a => some (enc12 0x25000001 d a)
  | .cntCan d a b => some (enc13 0x25000002 d a b)
  | .cntSprd d a b => some (enc13 0x25000003 d a b)
  | .cntBar a => some (enc14 0x25000004 a)
  | .cntRdq d a => some (enc12 0x25000005 d a)
  | .cntCfg a b => some (enc15 0x25000008 a b)
  | .qEnq d a b => some (enc13 0x26000000 d a b)
  | .qDeq d a => some (enc12 0x26000001 d a)
  | .qWait a => some (enc14 0x26000002 a)
  | .qMake d a b => some (enc13 0x26000003 d a b)
  | .qFree a => some (enc14 0x26000004 a)
  | .qStat d a => some (enc12 0x26000005 d a)
  | .spawn a b => some (enc15 0x27000000 a b)
  | .sync => some 0x27000001
  | .tend => some 0x27000002
  | .asend s a b n => some (enc16 0x28000000 s a b n)
  | .asendG s a b n => some (enc16 0x28000020 s a b n)
  | .ibx d => some (enc17 0x29000000 d)
  | .ibxTry d => some (enc17 0x29000001 d)
  | .setlive a => some (enc14 0x2A000000 a)
  | .cpy d a => some (enc12 0x2B000000 d a)
  | .cpyCvt d a => some (enc12 0x2B000001 d a)
  | .cpyGather d a => some (enc12 0x2B000002 d a)
  | .cpyPeer d a => some (enc12 0x2B000003 d a)
  | .cpyFill d a => some (enc12 0x2B000004 d a)
  | .mxMul d a => some (enc12 0x2C000000 d a)
  | .mxRot d a => some (enc12 0x2C000001 d a)
  | .mxDrain d a => some (enc12 0x2C000002 d a)
  | .mxZero d a => some (enc12 0x2C000003 d a)
  | .mxLoad d a => some (enc12 0x2C000004 d a)
  | .jpoll d a => some (enc12 0x2D000000 d a)
  | .dtld a s => some (enc18 0x2E000000 a s)
  | .vclaim d a b => some (enc13 0x2F000000 d a b)
  | .vrels => some 0x2F000001
  | .vreneg d => some (enc17 0x2F000002 d)
  | .vfence => some 0x2F000003
  | .vld m t a b z => some (enc19 0x30000000 m t a b z)
  | .vst m t a b z => some (enc19 0x31000000 m t a b z)
  | .vgth m t a v z => some (enc20 0x32000000 m t a v z)
  | .vsct m t a v z => some (enc20 0x33000000 m t a v z)
  | .srd d s => some (enc21 0x34000000 d s)
  | .swr a s => some (enc22 0x35000000 a s)
  | .park => some 0x36000000
  | .tlbwCore a b => some (enc15 0x37000000 a b)
  | .tlbwClus a b => some (enc15 0x37000001 a b)
  | .tlbiPage a b => some (enc15 0x38000000 a b)
  | .tlbiVf b => some (enc23 0x38000001 b)
  | .tlbiAll => some 0x38000002
  | .frepRetry a => some (enc14 0x39000000 a)
  | .frepKill a => some (enc14 0x39000001 a)
  | .add d a b w => some (enc24 0x41000000 d a b w)
  | .sub d a b w => some (enc24 0x41000001 d a b w)
  | .and d a b w => some (enc24 0x41000002 d a b w)
  | .or d a b w => some (enc24 0x41000003 d a b w)
  | .xor d a b w => some (enc24 0x41000004 d a b w)
  | .andn d a b w => some (enc24 0x41000005 d a b w)
  | .sll d a b w => some (enc24 0x41000006 d a b w)
  | .srl d a b w => some (enc24 0x41000007 d a b w)
  | .sra d a b w => some (enc24 0x41000008 d a b w)
  | .min d a b w => some (enc24 0x41000009 d a b w)
  | .max d a b w => some (enc24 0x4100000A d a b w)
  | .minu d a b w => some (enc24 0x4100000B d a b w)
  | .maxu d a b w => some (enc24 0x4100000C d a b w)
  | .mul d a b w => some (enc24 0x4100000D d a b w)
  | .mulh d a b w => some (enc24 0x4100000E d a b w)
  | .mulhu d a b w => some (enc24 0x4100000F d a b w)
  | .div d a b w => some (enc24 0x41000010 d a b w)
  | .divu d a b w => some (enc24 0x41000011 d a b w)
  | .rem d a b w => some (enc24 0x41000012 d a b w)
  | .remu d a b w => some (enc24 0x41000013 d a b w)
  | .clz d a w => some (enc25 0x41000014 d a w)
  | .ctz d a w => some (enc25 0x41000015 d a w)
  | .popc d a w => some (enc25 0x41000016 d a w)
  | .bswap d a w => some (enc25 0x41000017 d a w)
  | .addi d a i => some (enc2 0x42000000 d a i)
  | .andi d a i => some (enc2 0x43000000 d a i)
  | .ori d a i => some (enc2 0x44000000 d a i)
  | .xori d a i => some (enc2 0x45000000 d a i)
  | .slli d a w s => some (enc26 0x46000000 d a w s)
  | .srli d a w s => some (enc26 0x47000000 d a w s)
  | .srai d a w s => some (enc26 0x48000000 d a w s)
  | .lui d i => some (enc1 0x49000000 d i)
  | .addpc d i => some (enc1 0x4A000000 d i)
  | .cmp p c a b w => some (enc27 0x4C000000 p c a b w)
  | .cmpi p c a i => some (enc28 0x4D000000 p c a i)
  | .pand d a b x y => some (enc29 0x4E000000 d a b x y)
  | .por d a b x y => some (enc29 0x4E000400 d a b x y)
  | .pxor d a b x y => some (enc29 0x4E000800 d a b x y)
  | .pandn d a b x y => some (enc29 0x4E000C00 d a b x y)
  | .sel d a b p => some (enc30 0x4F000000 d a b p)
  | .movpG d => some (enc17 0x50000000 d)
  | .movpP a => some (enc14 0x50000001 a)
  | .fadd d a b x => some (enc24 0x51000000 d a b x)
  | .fsub d a b x => some (enc24 0x51000001 d a b x)
  | .fmul d a b x => some (enc24 0x51000002 d a b x)
  | .fmin d a b x => some (enc24 0x51000003 d a b x)
  | .fmax d a b x => some (enc24 0x51000004 d a b x)
  | .fsgnj d a b x => some (enc24 0x51000005 d a b x)
  | .fsgnjn d a b x => some (enc24 0x51000006 d a b x)
  | .fsgnjx d a b x => some (enc24 0x51000007 d a b x)
  | .fclass d a x => some (enc25 0x51000008 d a x)
  | .fma d a b c => some (enc31 0x52000000 d a b c)
  | .fmaD d a b c => some (enc31 0x53000000 d a b c)
  | .fcmp p c a b x => some (enc32 0x54000000 p c a b x)
  | .fcvtF32I64 d a => some (enc12 0x55000000 d a)
  | .fcvtF32I64u d a => some (enc12 0x55000001 d a)
  | .fcvtI64F32 d a => some (enc12 0x55000002 d a)
  | .fcvtI64uF32 d a => some (enc12 0x55000003 d a)
  | .fcvtF64I64 d a => some (enc12 0x55000004 d a)
  | .fcvtI64F64 d a => some (enc12 0x55000005 d a)
  | .fcvtF32F64 d a => some (enc12 0x55000006 d a)
  | .fcvtF64F32 d a => some (enc12 0x55000007 d a)
  | .abtAbs p a f => some (enc33 0x56000000 p a f)
  | .abtPrs p a f => some (enc33 0x56040000 p a f)
  | .abm d a p f => some (enc34 0x57000000 d a p f)
  | .cvtd d a f => some (enc35 0x58000000 d a f)
  | .cvte d a r f => some (enc36 0x59000000 d a r f)
  | .rand d => some (enc17 0x5A000000 d)
  | .sfuRcp d a => some (enc12 0x5B000000 d a)
  | .sfuSqrt d a => some (enc12 0x5B000001 d a)
  | .sfuRsqrt d a => some (enc12 0x5B000002 d a)
  | .sfuExp2 d a => some (enc12 0x5B000003 d a)
  | .sfuLog2 d a => some (enc12 0x5B000004 d a)
  | .sfuSinpi d a => some (enc12 0x5B000005 d a)
  | .sfuCospi d a => some (enc12 0x5B000006 d a)
  | .vadd m d a b t => some (enc37 0x60000000 m d a b t)
  | .vsub m d a b t => some (enc37 0x60000001 m d a b t)
  | .vmul m d a b t => some (enc37 0x60000002 m d a b t)
  | .vmin m d a b t => some (enc37 0x60000003 m d a b t)
  | .vmax m d a b t => some (enc37 0x60000004 m d a b t)
  | .vand m d a b t => some (enc37 0x60000005 m d a b t)
  | .vor m d a b t => some (enc37 0x60000006 m d a b t)
  | .vxor m d a b t => some (enc37 0x60000007 m d a b t)
  | .vshl m d a b t => some (enc37 0x60000008 m d a b t)
  | .vshr m d a b t => some (enc37 0x60000009 m d a b t)
  | .vsra m d a b t => some (enc37 0x6000000A m d a b t)
  | .vfma m d a b t c => some (enc38 0x61000000 m d a b t c)
  | .vcmp m a b t c => some (enc39 0x62000000 m a b t c)
  | .vsel d a b t => some (enc40 0x63000000 d a b t)
  | .vcvtDec m d a t f => some (enc41 0x64000000 m d a t f)
  | .vcvtEnc m d a t f => some (enc41 0x64000010 m d a t f)
  | .vredAdd m d a t => some (enc42 0x65000000 m d a t)
  | .vredMin m d a t => some (enc42 0x65000040 m d a t)
  | .vredMax m d a t => some (enc42 0x65000080 m d a t)
  | .vbc m d a t => some (enc43 0x66000000 m d a t)
  | .vext d a b t => some (enc44 0x67000000 d a b t)
  | .vperm m d a b t => some (enc37 0x68000000 m d a b t)
  | .vsfuRcp m d a t => some (enc45 0x69000000 m d a t)
  | .vsfuSqrt m d a t => some (enc45 0x69000001 m d a t)
  | .vsfuRsqrt m d a t => some (enc45 0x69000002 m d a t)
  | .vsfuExp2 m d a t => some (enc45 0x69000003 m d a t)
  | .vsfuLog2 m d a t => some (enc45 0x69000004 m d a t)
  | .vsfuSinpi m d a t => some (enc45 0x69000005 m d a t)
  | .vsfuCospi m d a t => some (enc45 0x69000006 m d a t)
  | .vaccFrom m d a => some (enc46 0x6A000040 m d a)
  | .vaccTo m d a => some (enc46 0x6A000041 m d a)
  | .vabt m a f => some (enc47 0x6B000000 m a f)
  | .vabm d a f => some (enc48 0x6C000000 d a f)
  | .viota m d t => some (enc49 0x6D000000 m d t)
  | .tcmpWrite a => some (swrWord 0x011 a)
  | .fmtdWrite a => some (swrWord 0x030 a)
  | .dqbaseWrite a => some (swrWord 0x040 a)
  | .rseedWrite n a => some (swrWord (0x035 + n.toNat) a)
  | .pmcWrite n a => some (swrWord (0x100 + n.toNat) a)
  | .pmselWrite n a => some (swrWord (0x110 + n.toNat) a)
  | .pmctlWrite a => some (swrWord 0x120 a)
  | .pmovfWrite a => some (swrWord 0x121 a)
  | .issueCycle _ => none
  | .bankExchangeDone _ _ _ => none
  | .timerExpiry _ _ => none
  | .parkReply _ _ _ => none
  | .activationPacket _ _ => none
  | .activationBufferDispatch _ => none
  | .asendInject _ _ => none
  | .stealRequest _ _ => none
  | .stealAnswer _ _ => none
  | .stealReply _ _ => none
  | .stealBackoffExpiry _ _ => none
  | .migrationArrival _ _ => none
  | .migrationAck _ _ => none
  | .migrationRefusal _ _ => none
  | .populationComplete _ => none
  | .populationHung _ => none
  | .completionReport _ => none
  | .storePqEntry _ _ => none
  | .pqDrain _ _ => none
  | .forceRequest _ _ _ => none
  | .forceAck _ _ _ => none
  | .sysPublish _ _ => none
  | .l1Fill _ _ => none
  | .sliceRequest _ => none
  | .l2FillReturn _ _ _ => none
  | .missEntryFree _ _ => none
  | .writebackAck _ _ => none
  | .balancerToken _ => none
  | .balancerAntitoken _ => none
  | .exitToken _ => none
  | .exitAntitoken _ => none
  | .snapshot _ _ => none
  | .barrierRelease _ _ => none
  | .spreadRecord _ => none
  | .cntCfgApply _ _ => none
  | .queueReservationDone _ _ => none
  | .jobAdmit _ => none
  | .jobStart _ => none
  | .mxePrefetch _ => none
  | .cpxPiece _ _ => none
  | .mxeKblock _ => none
  | .rotBlockArrival _ _ => none
  | .jobComplete _ _ => none
  | .vclaimGrant _ => none
  | .vectorOpPerform _ _ => none
  | .sfuService _ _ => none
  | .sfuResult _ _ => none
  | .dtldComplete _ _ => none
  | .walkDone _ _ => none
  | .tlbShootdownAck _ _ _ => none
  | .quantumExpiry _ => none
  | .worldSwitchExchange _ => none
  | .debugResume _ _ => none
  | .debugRegisterAccess _ _ _ _ _ => none
  | .peerRequest _ _ _ _ => none
  | .peerOpHeld _ _ _ _ => none
  | .queueOpen _ _ => none
  | .tailDoorbell _ _ => none
  | .acceptanceRecord _ => none
  | .releaseDoorbell _ => none
  | .packetComplete _ _ => none
  | .launch _ => none
  | .pcreate _ => none
  | .pdestroy _ => none
  | .vcreate _ => none
  | .vreset _ => none
  | .vdestroy _ => none
  | .group _ => none
  | .cidcfg _ => none
  | .occlim _ => none
  | .window _ => none
  | .farport _ => none
  | .pcap _ => none
  | .debug _ => none
  | .trace _ => none
  | .pause _ => none
  | .resume _ => none
  | .ochreMismatch => none
  | .powerOnReset _ _ _ => none
  | .spdmGetVersion _ => none
  | .spdmGetCapabilities _ => none
  | .spdmNegotiateAlgorithms _ => none
  | .spdmGetDigests _ => none
  | .spdmGetCertificate _ => none
  | .spdmChallenge _ => none
  | .spdmGetMeasurements _ => none
  | .ubhamLinkTrain _ _ _ => none
  | .ubhamLaneLoss _ => none
  | .ubhamFlitRetry _ => none
  | .farportTrain _ _ _ _ => none
  | .temperatureInput _ _ => none
  | .thermalTrip _ => none
  | .pcapWindow _ => none
  | .waitwtTimeout _ _ => none
  | .packetBreakResume _ => none
  | .debuggerAttach _ _ => none
  | .softError _ _ _ _ => none
  | .peerMovedReply _ _ => none

/-- The word of an instruction as a lone bundle: bit 31 set (R59). -/
def encodeLone (i : Instr) : Option Nat := (encode i).map (2 ^ 31 + ·)

end Sys2Proof
end

