-- ==== Sys2Proof/Machine/Issue.lean ====
section
/-! DEFINITION. Issue (R30-R32, R226, R242, R259) and bundles (R59-R63): which slot issues in a core's cycle, how its bundle
is fetched and checked, and how the words of a bundle are put together. -/

namespace Sys2Proof.Machine

/-! ### The issue cycle -/

/-- A slot may issue in this cycle (R31 items 1, 2). -/
def Slot.eligible (x : Slot) (cyc : Nat) : Bool :=
  x.mode = .ready && x.readyAt ≤ cyc && (match x.lastIssue with
    | none => true
    | some l => l + Config.spacing ≤ cyc)

/-- A slot whose last issue is older (R31 items 3, 4): never issued is oldest. -/
def older (a b : Slot) : Bool := match a.lastIssue, b.lastIssue with
  | none, some _ => true
  | some x, some y => x < y
  | _, none => false

/-- The eligible slot whose last issue is oldest, ties to the lowest number (R31 items 3-5). -/
def Core.pick (k : Core) : Option Nat :=
  (List.range 16).foldl (fun best n =>
    if (k.slot n).eligible k.cyc.toNat then match best with
      | none => some n
      | some b => if older (k.slot n) (k.slot b) then some n else best
    else best) none

/-- Counter `i` counts a cycle: CYCLES by 1 when a selected slot is READY or PARKED, PARKED by the selected parked slots
(R251). -/
def cycleCounter (x : CoreVf) (i : Nat) : CoreVf :=
  if h : i < 8 then
    let sel := x.pmsel[i]
    let pick := (List.range 16).filter fun n => !sel.getLsbD 12 || sel.toNat / 256 % 16 = n
    let busy := pick.filter fun n => let m := (FMap.getD x.slots n {}).mode; m = .ready || m = .parked
    let parked := pick.filter fun n => (FMap.getD x.slots n {}).mode = .parked
    let sl := sel.toNat / 256 % 16
    if sel.toNat % 256 = 1 then State.addCounter x i 1 sl (if busy.isEmpty then 0 else 1)
    else if sel.toNat % 256 = 3 then State.addCounter x i 3 sl parked.length
    else x
  else x

/-- The next node of a route (R9): dimension-ordered, x first and then y; none at its end. -/
def hop (p q : Nat) : Option Nat :=
  if p % 32 < q % 32 then some (p + 1)
  else if q % 32 < p % 32 then some (p - 1)
  else if p / 32 < q / 32 then some (p + 32)
  else if q / 32 < p / 32 then some (p - 32)
  else none

/-- The mesh links that leave a node (R8, R9): those over which a route takes its next step. -/
def meshLinks (p : Nat) : List Nat :=
  ([p + 1, p - 1, p + 32, p - 32].filter fun q => q < Config.positions && hop p q = some q).eraseDups

/-- A node lies on the route from p to q: along x first, in p's row, and then along y, in q's column (R9). -/
def onRoute (p q n : Nat) : Bool :=
  let between (a b m : Nat) : Bool := (a ≤ m && m ≤ b) || (b ≤ m && m ≤ a)
  (n / 32 = p / 32 && between (p % 32) (q % 32) (n % 32)) || (n % 32 = q % 32 && between (p / 32) (q / 32) (n / 32))

/-- Some route from one of `a` to one of `b` leaves node n over its link to m (R9). -/
def linkUsed (a b : List Nat) (n m : Nat) : Bool :=
  let b := b.filter fun q => hop n q = some m
  a.any fun p => b.any fun q => onRoute p q n

/-- A router on an edge of a compute die (R8, R20). -/
def dieEdge (die q : Nat) : Bool :=
  q % 32 / 16 = die % 2 && q / 32 / 16 = die / 2 && (q % 16 = 0 || q % 16 = 15 || q / 32 % 16 = 0 || q / 32 % 16 = 15)

/-- Between which nodes a partition's messages, packets and tokens travel (R19, R20, R120, R123, assumption 7): its own nodes, the
routers where its channels' controllers attach, those of row y = 0, where the I/O die joins the mesh, and the balancer and exit cells of
its span. -/
def Part.traffic (p : Part) : List (List Nat × List Nat) :=
  let nodes := List.range Config.positions
  let own := nodes.filter p.hasPos
  let mem := nodes.filter fun q => p.octets.any fun o => dieEdge (o / 16) q
  let io := List.range 32
  let cells := nodes.filter fun q => q / 32 < p.spanLog * (p.spanLog + 1) / 2 &&
    p.spanBase ≤ 2 * (q % 32) && 2 * (q % 32) < p.spanBase + 2 ^ p.spanLog
  let exits := (List.range (2 ^ p.spanLog)).map fun i => exitNode (p.spanBase + i)
  [(own, own ++ mem ++ io ++ cells ++ exits), (mem ++ io ++ exits, own), (io ++ cells, cells ++ exits), (exits, io), (io, mem), (mem, io)]

namespace State

/-- The mesh links of a core's node over which a partition's traffic may leave its router: those that an x-then-y route of such traffic
takes there (R9). A service core's count as four (assumption 7). -/
def linksOf (s : State) (c : Nat) : Nat :=
  if Config.cscBase ≤ c then 4
  else
    let n := s.physOf c
    let ways := s.parts.flatMap (·.2.traffic)
    ((meshLinks n).filter fun m => ways.any fun w => linkUsed w.1 w.2 n m).length

/-- FABFLIT: the flits that leave the node's router in a cycle, at most one on each link that routes take there, are a free value; they
count only for a VF with FAB = 1 and never with SLOTF = 1 (R9, R251, assumption 7). -/
def countFlits (s : State) (c : Nat) : State :=
  if s.fab c && ((s.cvf c).pmsel.toList.any fun e => e.toNat % 256 = 0x30 && !e.getLsbD 12) then
    let r := s.draw
    r.2.updCvf c fun x => (List.range 8).foldl (fun x i =>
      if !(x.pmsel.getD i 0).getLsbD 12 then addCounter x i 0x30 0 (r.1.toNat % (s.linksOf c + 1)) else x) x
  else s

/-- Some slot of a population is SAVED (R27). -/
def saved (s : State) (id : Nat) : Bool :=
  s.cores.any fun c => c.2.vfs.any fun e =>
    e.1 ≠ c.2.vkey && e.2.slots.any fun x => x.2.pop = some id && x.2.mode ≠ .free

/-- A packet or token of a population is in flight (R56). -/
def inFlight (s : State) (id : Nat) : Bool :=
  s.chan.any (·.2.pop = some id) || s.unsent.any (·.2.pop = some id) ||
  s.tokens.any (fun t => t.2.pop = some id && !(t.2.arrived && t.2.out.isNone)) ||
  s.cores.any (fun e => e.2.buf.any (·.pop = some id)) ||
  s.migs.any (fun m => m.image.pop = some id) ||
  s.cores.any (fun e => e.2.vfs.any fun v => v.2.kept.any (·.pop = some id) ||
    v.2.slots.any fun x => x.2.pop = some id && (match x.2.cWait with
      | some (.asend _ _ _ _ _) => true
      | _ => false))

/-- A cycle of a population's windows, counted on its first core (R56, assumption 8). -/
def popCycle (s : State) (c : Nat) : State :=
  { s with pops := s.pops.map fun e =>
      if e.2.cores.head? = some c ∧ !s.saved e.1 then
        (e.1, { e.2 with quiet := if s.inFlight e.1 then 0 else e.2.quiet + 1, still := e.2.still + 1 })
      else e }

/-- A slot whose wait takes a code of R54 only after a trap became pending in it, a submission whose drain has now finished, is woken to
take that trap (R201, R354). -/
def wakeDue (s : State) (c : Nat) : State := (List.range 16).foldl (fun t n =>
  let x := t.slot c n
  if (t.waitCode c x).isSome && !x.inTrap && (x.pendVpoison.isSome || x.pendHang.isSome || !x.pendEngine.isEmpty) then t.abandon c n
  else t) s

/-- The core's cycle begins: %CYC, timers, windows (R28, R30, R56). -/
def cycle (s : State) (c : Nat) : State :=
  let s := s.updCore c fun k =>
    let k := { k with cyc := k.cyc + 1, held := k.held + 1 }
    let x := k.cvf
    k.setCvf { x with slots := x.slots.map fun e => (e.1, e.2.timer k.cyc.toNat) }
  (s.popCycle c).wakeDue c

/-- The core's cycle ends: its events count as the registers then stand, so that a written %PMC, %PMSEL or %PMCTL governs
the cycle of its SWR (R250, R262), and the wait table stands as its slots do (R55). -/
def endCycle (s : State) (c : Nat) : State :=
  ((s.updCvf c fun x => (List.range 8).foldl cycleCounter x).countFlits c).reportWaits c

/-- The asynchronous cause a slot takes next and its value, the slot without it (R226); with the timer's %TCMP becomes 0 (R30). -/
def nextAsync (x : Slot) (ovf : BitVec 8) : Option (Nat × Word × Slot) :=
  if x.inTrap then none
  else match x.pendVpoison with
  | some v => some (0x0B, v, { x with pendVpoison := none })
  | none => match x.pendHang with
    | some v => some (0x10, v, { x with pendHang := none })
    | none => match x.pendEngine with
      | v :: r => some (0x0E, v, { x with pendEngine := r })
      | [] =>
        if x.pendOvf then some (0x12, ovf.zeroExtend 64, { x with pendOvf := false })
        else match x.pendTimer with
          | some v => some (0x0F, v, { x with pendTimer := none, tcmp := 0 })
          | none => none

/-- The armed match registers that a bundle address and GTID meet, each with its STOPALL (R259). -/
def dbmMatch (s : State) (c : Nat) (x : Slot) : List (Nat × Bool) := match s.part (s.runPid c) with
  | none => []
  | some p => (List.filter (fun (e : Nat × Word × Word) =>
      e.2.2.getLsbD 50 && (e.2.2.getLsbD 49 || decide (e.2.1.toNat / 4 % 2 ^ 55 = x.pc.toNat / 4 % 2 ^ 55)) &&
      (e.2.2.getLsbD 48 || decide (e.2.2.toNat % 2 ^ 48 = x.gtid.toNat))) p.dbm).map
      fun e => (e.1, e.2.2.getLsbD 51)

/-- STOPALL: every other slot of the population halts before its next issue (R259). -/
def stopAll (s : State) (c n : Nat) (p : Option Nat) : State := match p with
  | none => s
  | some q => { s with cores := s.cores.map fun e => (e.1, { e.2 with vfs := e.2.vfs.map fun v =>
      (v.1, { v.2 with slots := v.2.slots.map fun x =>
        if x.2.pop = some q ∧ !(e.1 = c ∧ x.1 = n) then (x.1, { x.2 with stop := true }) else x }) }) }

/-- The bundle of a slot whose turn it is comes next, unless match registers stop it (R259): each of them is reported, and one with
STOPALL stops the population. A bundle at which the slot was halted so and resumed issues. -/
def turnOf (s : State) (c n : Nat) : State :=
  let x := s.slot c n
  let found := if x.matched = some x.pc then [] else s.dbmMatch c x
  if found.isEmpty then { s.updSlot c n fun y => { y with matched := none } with issuing := some (c, n) }
  else
    let s := (s.halt c n).updSlot c n fun y => { y with matched := some x.pc }
    let s := found.foldl (fun t e => t.report (.dbm c n e.1)) s
    if found.any (·.2) then s.stopAll c n x.pop else s

/-- The picked slot issues (R31): it halts, its register bank is asked for, an asynchronous cause is taken and its handler's first
bundle is next in the same turn (R264), a match register stops it, or its bundle is next. -/
def issueSlot (s : State) (c n : Nat) : State :=
  let k := s.core c
  let x := s.slot c n
  let s := s.updSlot c n fun y => { y with lastIssue := some k.cyc.toNat }
  if x.stop then s.halt c n
  else if c < Config.cscBase ∧ FMap.find? k.gprTag n ≠ some (k.vf.getD 0) then
    (s.askBank 0 c n (k.vf.getD 0)).updSlot c n fun y => { y with mode := .parked, cWait := some (.bank 0 c n) }
  else match nextAsync (s.slot c n) k.cvf.pmOvf with
  | some (cause, v, y) =>
    let t := ((s.setSlot c n y).takeTrap c n false cause v).updSlot c n fun z => { z with fate := .ok }
    if (t.slot c n).mode = .ready then t.turnOf c n else t
  | none => s.turnOf c n

/-- A core that exists: an enabled logical core, or a service core (R10, R18). That of a power-gated cluster keeps its %CYC and
goes on counting it (assumption 60: R20 stops the core and says nothing of its count). -/
def exists_ (s : State) (c : Nat) : Bool := c < s.ncore || (Config.cscBase ≤ c && c < Config.cscBase + Config.clusters)

end State

/-- ISSUE_CYCLE (R31): a cycle of a core passes and the eligible slot whose last issue is oldest issues, or none does; a
core that is being switched issues and counts nothing (R239, R263). -/
def execIssueCycle (c : Nat) (s : State) : Host.Outcome State Fault Refusal :=
  if !s.exists_ c || s.issuing.isSome then .next s
  else
    let s := s.cycle c
    if (s.core c).switchTo.isSome then .next (s.reportWaits c)
    else match (s.core c).pick with
    | none => .next (s.endCycle c)
    | some n =>
      let t := s.issueSlot c n
      .next (if t.issuing.isSome then t else t.endCycle c)

/-! ### Bundles -/

/-- What fetching and checking a bundle gives (R61-R63). -/
inductive Bundle where
  | lone (w : Nat) (i : Instr)
  | pair (wc wa : Nat) (c a : Instr)
  | trap (cause : Nat) (val : Word)
  | walk (va : Word)
  | wait
  deriving DecidableEq, Repr

/-- A word that is no legal instruction takes trap 0x01 (R71, R72). -/
def legal (w : Nat) : Option Instr := match decode w with
  | some i => if i.wellFormed then some i else none
  | none => none

/-- Check a lone word (R63 items 3, 4). -/
def checkLone (w : Nat) (fw : Bool) : Bundle := match legal w with
  | none => .trap 0x01 (BitVec.ofNat 64 w)
  | some i => if i.privileged && !fw then .trap 0x03 (BitVec.ofNat 64 w) else .lone w i

/-- An SWR of %RSEED0-3, which is illegal as a word of a pair (R332). -/
def isSeedWrite : Instr → Bool
  | .rseedWrite _ _ => true
  | _ => false

/-- Check the two words of a pair shape (R61-R63, R332): 0x02, then 0x01 with the C-word first, then 0x03. -/
def checkPair (wc wa : Nat) (fw : Bool) : Bundle :=
  let both := BitVec.ofNat 64 (wc + wa * 2 ^ 32)
  if fld wa 31 1 = 1 ∨ fld wa 30 1 = 0 then .trap 0x02 both
  else match legal wc, legal wa with
  | none, _ => .trap 0x01 (BitVec.ofNat 64 wc)
  | some c, none => .trap 0x01 (if isSeedWrite c then BitVec.ofNat 64 wc else BitVec.ofNat 64 (wa + 2 ^ 32))
  | some c, some a =>
    if c.sameDest a then .trap 0x02 both
    else if isSeedWrite c then .trap 0x01 (BitVec.ofNat 64 wc)
    else if c.privileged && !fw then .trap 0x03 (BitVec.ofNat 64 wc)
    else .pair wc wa c a

namespace State

/-- Fetch and check the bundle of a slot (R61-R63). -/
def fetchBundle (s : State) (c n : Nat) : Bundle × State :=
  let x := s.slot c n
  match s.fetchWord c x.pc with
  | .walk t => (.walk x.pc, t.askWalk c x.pc)
  | .wait t => (.wait, t)
  | .trap q => (.trap q x.pc, s)
  | .word w t =>
    if fld w 31 1 = 1 then (checkLone w x.fw, t)
    else if x.pc.toNat % 8 = 4 ∨ fld w 30 1 = 1 then (.trap 0x02 (BitVec.ofNat 64 w), t)
    else match t.fetchWord c (x.pc + 4) with
    | .walk u => (.walk (x.pc + 4), u.askWalk c (x.pc + 4))
    | .wait u => (.wait, u)
    | .trap q => (.trap q x.pc, t)
    | .word v u => (checkPair w v x.fw, u)

/-- Before a bundle's words run: its address's successor is next (R59), nothing has happened yet. -/
def begin_ (s : State) (c n : Nat) (len : Nat) : State :=
  (s.updSlot c n fun x => { x with fate := .ok, raised := 0, nextPc := x.pc + BitVec.ofNat 64 len })

/-- After a bundle (R31, R60, R62): the pc moves on unless the slot parked, trapped or is to execute the bundle again. -/
def commit (s : State) (c n : Nat) : State :=
  let x := s.slot c n
  let s := { s with cur := {} }
  (match x.fate with
  | .ok =>
    let mode := if x.mode = .halted then x.haltFrom else x.mode
    if mode = .parked then s.moved x.pop else s.bundleDone c n x.pop
  | _ => (s.updSlot c n fun y => { y with fate := .ok }).moved x.pop : State).endCycle c

/-- Keep what the A-word of a pair overwrote while the C-word is parked, and hold its vector operation (R62). -/
def keepPrior (s : State) (old : Slot) (c n : Nat) : State := s.updSlot c n fun x =>
  match x.cWait with
  | none => x
  | some .vempty => x
  | some (.partner _) => x
  | some _ => { x with
      prior := some { g := old.g, p := old.p, fflags := old.fflags
                      rseed := if x.rseed = old.rseed then none else some old.rseed
                      tables := some (old.tabs.getD (s.cvf c).tables) }
      claim := x.claim.map fun cl => { cl with queue := cl.queue.mapIdx fun i o =>
        if (old.claim.map (·.queue.length)).getD 0 ≤ i then { o with held := true } else o } }

/-- A bundle that is to be executed again because of another word keeps the place of its DTLD in the order of issue, as `t` has it
(R90). -/
def keepDtld (s t : State) (c n : Nat) : State :=
  let x := t.slot c n
  if x.dtld.isSome ∧ (s.slot c n).fate = .replay then
    ({ s with tick := max s.tick t.tick } : State).updSlot c n fun y => { y with dtld := x.dtld }
  else s

/-- The fate of the word just executed. -/
def fate (s : State) (c n : Nat) : Fate := (s.slot c n).fate

end State

/-- The number of operations in a slot's vector queue. -/
def Slot.vqueue (x : Slot) : Nat := match x.claim with
  | some c => c.queue.length
  | none => 0

/-- Run a pair (R60, R62): both words read the state before the bundle; a trap or a park of the whole bundle by the C-word
comes first, then one by the A-word, and otherwise both take effect. -/
def runPair (ex : Instr → State → Host.Outcome State Fault Refusal) (s : State) (n0 : Nat × Nat) (wc wa : Nat)
    (c a : Instr) : Host.Outcome State Fault Refusal :=
  let k := n0.1
  let n := n0.2
  let s := s.begin_ k n 8
  let old := s.slot k n
  let src : Src := { g := old.g, p := old.p, slot := old }
  let curC : Cur := { core := k, slot := n, word := BitVec.ofNat 32 wc, pairA := false, pair := true, src := some src }
  let curA : Cur := { curC with word := BitVec.ofNat 32 wa, pairA := true }
  match ex c { s with cur := curC } with
  | .next t =>
    if t.fate k n ≠ .ok then .next (t.commit k n)
    else match ex a { s with cur := curA } with
    | .next u =>
      if u.fate k n ≠ .ok then .next ((u.keepDtld t k n).commit k n)
      else match ex c { u with cur := curC } with
      | .next v =>
        if Config.vqueue < (v.slot k n).vqueue then .next ((({ s with cur := curC }.replay .vroom).keepDtld v k n).commit k n)
        else .next ((v.keepPrior old k n).commit k n)
      | r => r
    | r => r
  | r => r

/-- Run the bundle of the slot that issues. -/
def runBundle (ex : Instr → State → Host.Outcome State Fault Refusal) (s : State) (n0 : Nat × Nat) :
    Host.Outcome State Fault Refusal :=
  let c := n0.1
  let n := n0.2
  let s := { s with issuing := none, cur := { core := c, slot := n } }
  let r := s.fetchBundle c n
  match r.1 with
  | .trap q v => .next (((r.2.takeTrap c n true q v).updSlot c n fun x => { x with fate := .trap q v }).commit c n)
  | .walk va => .next ((r.2.replay (.walk va.toNat 3)).commit c n)
  | .wait => .next ((r.2.replay .redo).commit c n)
  | .lone w i =>
    match ex i { r.2.begin_ c n 4 with cur := { core := c, slot := n, word := BitVec.ofNat 32 w } } with
    | .next t => .next (t.commit c n)
    | q => q
  | .pair wc wa i j => runPair ex r.2 n0 wc wa i j

namespace State

/-- The core whose issue cycle follows when nothing else is at hand. -/
def nextTurn (s : State) : Nat := if s.turn + 1 < s.ncore then s.turn + 1 else 0

/-- The host die or a CXL agent writes bytes: the homes and the memory behind them hold them, and the words lose
their marks (assumption 10). -/
def hostStore (s : State) (key : Nat) (bs : List Byte) : State :=
  s.memWrite key bs

/-- The activation channel of a core admits packets again, and the front end goes on, or it admits no more (R36). -/
def channelRoom (s : State) (c : Nat) (full : Bool) : State :=
  let l := s.chanFull.filter (· ≠ c)
  ({ s with chanFull := if full then c :: l else l } : State).pump

/-- The TLB entry that maps the page of an address to the physical page at 0x4_0000 for a VF: valid, R, W, X, cacheable. -/
def placeEntry (vf : Nat) (va : Word) : TlbEntry where
  lo := BitVec.ofNat 64 (va.toNat % 2 ^ 57 / 2 ^ 16 * 2 ^ 23 + vf % 512 * 2 ^ 14 + 0xF)
  hi := BitVec.ofNat 64 (4 * 2 ^ 16 + 4)

/-- Store a word as a lone bundle where slot 0 of core 0 fetches, and make that slot's bundle the next to issue
(assumption 9). -/
def placeWord (s : State) (w : Nat) : State :=
  let pc := (s.slot 0 0).pc
  let pa := 0x40000 + pc.toNat % 2 ^ 16
  let key := match s.part (s.runPid 0) with
    | some p => p.hbmKey pa
    | none => pa
  let t := (s.updSlot 0 0 fun x => { x with mode := .ready }).updCore 0 fun k =>
    { k with
      tlb := placeEntry (s.runVf 0) pc :: k.tlb
      gprTag := FMap.insert k.gprTag 0 (s.runVf 0)
      l1i := k.l1i.filter (·.line ≠ key / 128) }
  { t with on := true, issuing := some (0, 0), mem := t.mem.write key (leBytes 4 (w % 2 ^ 31 + 2 ^ 31)) }

end State

end Sys2Proof.Machine
end

