-- ==== Sys2Proof/Machine/Links.lean ====
section
/-! DEFINITION. Power-on and boot (R275, R277, R278, R362), attestation (R277), links (R279, R280), temperature and power (R281,
R282), the debugger (R257), soft errors (R134, R154). -/

namespace Sys2Proof.Machine

/-! ### Boot (R277, R278) -/

/-- One word of the device record (R362). -/
def deviceWord (fused : List Nat) (secver : Nat) (farPorts : FMap FarPort) (uports : FMap UPort) (i : Nat) : Word :=
  BitVec.ofNat 64 (
    if i = 0 then (secver % 2 ^ 16) * 2 ^ 32 + 2 ^ 24 + (Config.positions - fused.length)
    else if i = 1 then Config.channels * Config.channelBytes
    else if i < 18 then (List.range 64).foldl (fun a k => if fused.contains (64 * (i - 2) + k) then a + 2 ^ k else a) 0
    else if i < 34 then match FMap.find? farPorts (i - 18) with
      | some p => if p.rate = 0 then 0 else (p.cap % 2 ^ 48) * 2 ^ 16 + (p.width % 16) * 16 + p.rate % 16
      | none => 0
    else match FMap.find? uports (i - 34) with
      | some p => (p.st % 256) * 2 ^ 8 + (p.maj % 16) * 16 + p.min % 16
      | none => 0)

/-- The device record (R362). -/
def deviceRecord (s : State) : List Word := (List.range 58).map (deviceWord s.fused s.secver s.farPorts s.uports)

/-- The control block of the management queue as the firmware writes it (R278 step 6). -/
def bootMemory (m : Memory) : Memory :=
  Memory.boot.foldl (fun m c => m.set c.1 c.2) (m.write 0 (List.replicate 64 0))

/-- Fused positions as the part's map gives them: rising, each once (R16, R18). -/
def fuseMap (l : List Nat) : List Nat := (List.range Config.positions).filter l.contains

namespace State

/-- A Ubham port; down before it has trained. -/
def uport (s : State) (p : Nat) : UPort := FMap.getD s.uports p { st := 0, maj := 0, min := 0, retries := 0 }
/-- Replace a Ubham port. -/
def setUport (s : State) (p : Nat) (x : UPort) : State := { s with uports := FMap.insert s.uports p x }

/-- A Ubham port trains (R279): the peer's highest version is met with major 1 and the lower minor; another major leaves the port down,
and that is reported. -/
def trainUbham (s : State) (port major minor : Nat) : State :=
  if 24 ≤ port then s
  else if major = 1 then s.setUport port { st := 1, maj := 1, min := Nat.min minor 1, retries := (s.uport port).retries }
  else (s.setUport port { st := 3, maj := 0, min := 0, retries := (s.uport port).retries }).report (.portDown port)

/-- A second-tier port trains (R280) at a rate (1-3: 32, 64, 128 GT/s) and a width (1-3: × 4, × 8, × 16), or is down. -/
def trainFar (s : State) (port rate width cap : Nat) : State :=
  let x := FMap.getD s.farPorts port { rate := 0, width := 0, cap := 0, pid := none }
  let up := 1 ≤ rate && rate ≤ 3 && 1 ≤ width && width ≤ 3
  let y : FarPort := if up then { x with rate := rate, width := width, cap := cap } else { x with rate := 0, width := 0, cap := 0 }
  if port < 16 then { s with farPorts := FMap.insert s.farPorts port y } else s

/-- The ports train at a boot (R278 step 5): all are down before, and those that `boot` does not name stay so (assumption 65). -/
def trainPorts (s : State) (boot : Config.Boot) : State :=
  let t := boot.far.foldl (fun (t : State) x => t.trainFar x.1 x.2.1 x.2.2.1 x.2.2.2) { s with uports := [], farPorts := [] }
  boot.links.foldl (fun t x => t.trainUbham x.1 x.2.1 x.2.2) t

/-- The flags of poisoned words that the memory behind the homes keeps without power (R154). -/
def memoryFlags (s : State) : FMap Unit :=
  s.hbmPoison.foldl (fun m w => FMap.insert m w.1 ()) (s.poison.filter fun w => !isSp (8 * w.1) && !s.holdsLine (w.1 / 16))

end State

/-- The device in recovery after a boot that failed at a step (R278): off, with what a later boot still finds: memory behind the
homes with its flags, the queues and their records (R275), the fuses, and how the links trained where the boot came past step 5. -/
def State.recovery (s : State) (boot : Config.Boot) (step : Nat) : State :=
  let t : State := { State.reset with
    on := false, reports := s.reports, agenda := s.agenda, free := s.free, tick := s.tick, behind := s.behind, poison := s.memoryFlags
    queues := s.queues, nextQueue := s.nextQueue, stackA := s.stackA, stackB := s.stackB, temps := s.temps, images := s.images
    fuseMin := s.fuseMin }
  (if 5 < step then t.trainPorts boot else t).report (.bootFailed step)

/-- The first step at which a boot fails (R278), 0 for none: step 2 without a verified image of a sufficient security version (R277),
step 4 for a part with more fused cores than R16 allows or with node (0,0) fused, or a step that the world makes fail. -/
def bootFails (fused : List Nat) (secver fuseMin : Nat) (verified : Bool) (fail : Nat) : Nat :=
  let bad (i : Nat) : Bool := i = fail ||
    (i = 2 && (!verified || secver < fuseMin || 2 ^ 16 ≤ secver)) || (i = 4 && (16 < fused.length || fused.contains 0))
  ([1, 2, 3, 4, 5, 6, 7].find? bad).getD 0

/-- A copy of the records that the fault behind a reset has lost (R275): 1 that of the first stack, 2 that of the second. -/
def State.loseStack (s : State) (lost : Nat) : State :=
  { s with stackA := if lost = 1 then none else s.stackA, stackB := if lost = 2 then none else s.stackB }

/-- Both stacks hold what the surviving one does (R275 item 1). -/
def State.copyStacks (s : State) : State :=
  let l := s.stackA.orElse fun _ => s.stackB
  { s with stackA := l, stackB := l }

/-- POWER_ON_RESET (R275, R277, R278; assumption 65): the fuses hold at least the version that `boot` names, which also says
whether the image verifies, which step fails, which copy of the records is lost and how the ports train. A boot that fails leaves the device in recovery. Else
the machine is as after reset, measured, its ports trained, memory keeps what stood behind the homes with its flags, the device record
is reported, and every queue open before is recovered; the management queue is opened anew, with ACCEPT 0. -/
def execPowerOnReset (fused : List Nat) (secver : Nat) (boot : Config.Boot) (s : State) : Host.Outcome State Fault Refusal :=
  let f := fuseMap fused
  let s := ({ s with fuseMin := Nat.max s.fuseMin boot.minver } : State).loseStack boot.lost
  let step := bootFails f secver s.fuseMin boot.verified boot.fail
  .next (if step ≠ 0 then s.recovery boot step
  else
    let mem := bootMemory (s.behind.filter fun e => !State.isSp e.1)
    let old := s.queues.filter (·.1 ≠ 0)
    let kept (l : List StackRec) : List StackRec := l.filter (·.queue ≠ 0)
    let t : State := { State.reset with
      fused := f, secver := secver, mem := mem, behind := mem, free := s.free + 1, tick := s.tick, agenda := s.agenda
      poison := s.memoryFlags.filter fun w => 8 ≤ w.1
      queues := (0, CmdQueue.management) :: old, nextQueue := Nat.max 1 s.nextQueue
      stackA := s.stackA.map kept, stackB := s.stackB.map kept
      reports := s.reports, temps := s.temps, images := s.images, fuseMin := s.fuseMin
      meas1 := Config.digest 1 [Config.freeValue s.free]
      meas2 := Config.digest 2 ((secver :: s.fuseMin :: f).map (BitVec.ofNat 64 ·)) }
    let t := t.trainPorts boot
    let t := t.report (.device (deviceRecord t))
    (old.foldl (fun t e => t.recoverQueue e.1) t).copyStacks)

/-! ### Attestation (R277) -/

/-- An SPDM request is answered: the bytes are free values (the spec gives the requests supported and not their encoding). -/
def State.spdm (s : State) (code nonce : Nat) : State :=
  ({ s with free := s.free + 1 } : State).report (.spdm code (Config.freeBytes nonce s.free))

/-- SPDM_GET_VERSION (R277). -/
def execSpdmGetVersion (nonce : Nat) (s : State) : Host.Outcome State Fault Refusal := .next (s.spdm 0 nonce)
/-- SPDM_GET_CAPABILITIES (R277). -/
def execSpdmGetCapabilities (nonce : Nat) (s : State) : Host.Outcome State Fault Refusal := .next (s.spdm 1 nonce)
/-- SPDM_NEGOTIATE_ALGORITHMS (R277). -/
def execSpdmNegotiateAlgorithms (nonce : Nat) (s : State) : Host.Outcome State Fault Refusal := .next (s.spdm 2 nonce)
/-- SPDM_GET_DIGESTS (R277). -/
def execSpdmGetDigests (nonce : Nat) (s : State) : Host.Outcome State Fault Refusal := .next (s.spdm 3 nonce)
/-- SPDM_GET_CERTIFICATE (R277). -/
def execSpdmGetCertificate (nonce : Nat) (s : State) : Host.Outcome State Fault Refusal := .next (s.spdm 4 nonce)
/-- SPDM_CHALLENGE (R277). -/
def execSpdmChallenge (nonce : Nat) (s : State) : Host.Outcome State Fault Refusal := .next (s.spdm 5 nonce)
/-- SPDM_GET_MEASUREMENTS (R277): measurements 1 and 2 as the boot took them, and 3 of the partition records live now. -/
def execSpdmGetMeasurements (nonce : Nat) (s : State) : Host.Outcome State Fault Refusal :=
  let live := s.parts.flatMap fun p => [BitVec.ofNat 64 p.1, p.2.w0, p.2.w1, p.2.w2]
  .next ((s.report (.measured [s.meas1, s.meas2, Config.digest 3 live])).spdm 6 nonce)

/-! ### Links (R279, R280) -/

/-- UBHAM_LINK_TRAIN (R279). -/
def execUbhamLinkTrain (port major minor : Nat) (s : State) : Host.Outcome State Fault Refusal := .next (s.trainUbham port major minor)

/-- UBHAM_LANE_LOSS (R279): a port on four lanes goes on with two and is reported degraded. -/
def execUbhamLaneLoss (port : Nat) (s : State) : Host.Outcome State Fault Refusal :=
  let x := s.uport port
  .next (if x.st = 1 then (s.setUport port { x with st := 2 }).report (.degraded port) else s)

/-- UBHAM_FLIT_RETRY (R279): a flit that fails its CRC is sent again; no operation sees it. -/
def execUbhamFlitRetry (port : Nat) (s : State) : Host.Outcome State Fault Refusal :=
  let x := s.uport port
  .next (if x.st = 1 ∨ x.st = 2 then s.setUport port { x with retries := x.retries + 1 } else s)

/-- FARPORT_TRAIN (R280). -/
def execFarportTrain (port rate width cap : Nat) (s : State) : Host.Outcome State Fault Refusal := .next (s.trainFar port rate width cap)

/-! ### Temperature and power (R281, R282) -/

namespace State

/-- A compute die is at 95 °C or above. -/
def hotDie (s : State) : Bool := s.temps.any fun e => e.1 < 4 && 95 ≤ e.2
/-- An HBM stack is at 85 °C or above. -/
def hotHbm (s : State) : Bool := s.temps.any fun e => 4 ≤ e.1 && 85 ≤ e.2
/-- A sensor is at its trip limit. -/
def tripped (s : State) (sensor : Nat) : Bool := match FMap.find? s.temps sensor with
  | some t => if sensor < 4 then decide (110 ≤ t) else decide (100 ≤ t)
  | none => false

end State

/-- TEMPERATURE_INPUT (R282): stretching from 95 °C on a compute die, the refresh rate doubled from 85 °C in a stack. -/
def execTemperatureInput (sensor temp : Nat) (s : State) : Host.Outcome State Fault Refusal :=
  .next (if 20 ≤ sensor then s
  else
    let t := { s with temps := FMap.insert s.temps sensor temp }
    { t with stretch := t.stretch || t.hotDie, doubleRefresh := t.hotHbm })

/-- THERMAL_TRIP (R282): at 110 °C of a compute die or 100 °C of a stack the device stops and reports to the host die. -/
def execThermalTrip (sensor : Nat) (s : State) : Host.Outcome State Fault Refusal :=
  .next (if s.tripped sensor then ({ s with on := false, issuing := none } : State).report (.thermalTrip sensor) else s)

/-- PCAP_WINDOW (R281, R282): at the end of a 1 ms window cycles are suppressed where the package was above its cap, or a die is
hot. -/
def execPcapWindow (watts : Nat) (s : State) : Host.Outcome State Fault Refusal :=
  .next { s with stretch := decide (s.pcap < watts) || s.hotDie }

/-! ### The debugger (R257) -/

/-- DEBUGGER_ATTACH (R257): a partition's debugger is attached, or detached with 0. -/
def execDebuggerAttach (pid on : Nat) (s : State) : Host.Outcome State Fault Refusal :=
  .next (s.updPart pid fun p => { p with debugger := decide (on ≠ 0) })

/-- DEBUG_RESUME (R257): a HALTED slot returns to the state it left. -/
def execDebugResume (core slot : Nat) (s : State) : Host.Outcome State Fault Refusal :=
  let x := s.slot core slot
  .next (if x.mode = .halted then s.setSlot core slot { x with mode := x.haltFrom } else s)

namespace State

/-- A selector that names a register of the slot. -/
def debugSel (reg : Nat) : Option Nat := if 0x1000 ≤ reg ∧ reg < 0x1800 then some (reg - 0x1000) else none

/-- A register of a HALTED slot (assumption 21 numbers them): 0-63 general, 64-71 predicates, 72 the pc, 0x1000 + selector a
special register. -/
def debugRead (s : State) (c n reg : Nat) : Word :=
  let x := s.slot c n
  if reg < 64 then (if reg = 0 then 0 else x.g.getD reg 0)
  else if reg < 72 then (if reg = 64 ∨ x.p.getLsbD (reg - 64) then 1 else 0)
  else if reg = 72 then x.pc
  else match debugSel reg with
  | some sel => ({ s with cur := { core := c, slot := n } } : State).srdValue sel
  | none => 0

/-- The write of a special register as SWR makes it, of a value that stands in `g1` of what the word reads. -/
def debugSwr (s : State) (sel : Nat) (v : Word) : Host.Outcome State Fault Refusal :=
  if sel = 0x011 then execTcmpWrite 1 s
  else if sel = 0x030 then execFmtdWrite 1 s
  else if sel = 0x040 then execDqbaseWrite 1 s
  else if 0x035 ≤ sel ∧ sel ≤ 0x038 then .next (s.updMe fun x =>
    { x with rseed := x.rseed.setIfInBounds (sel - 0x035) (v.setWidth 32) })
  else if sel / 8 = 0x20 then execPmcWrite (BitVec.ofNat 3 sel) 1 s
  else if sel / 8 = 0x22 then execPmselWrite (BitVec.ofNat 3 sel) 1 s
  else if sel = 0x120 then execPmctlWrite 1 s
  else if sel = 0x121 then execPmovfWrite 1 s
  else execSwr 1 (BitVec.ofNat 12 sel) s

/-- A write of a register of a HALTED slot; a value that SWR traps on is not written. -/
def debugWrite (s : State) (c n reg : Nat) (v : Word) : State :=
  if reg < 64 then s.updSlot c n (·.wg (BitVec.ofNat 6 reg) v)
  else if reg < 72 then s.updSlot c n (·.wp (BitVec.ofNat 3 (reg - 64)) (v.getLsbD 0))
  else if reg = 72 then s.updSlot c n fun x => { x with pc := v &&& ~~~3#64, nextPc := v &&& ~~~3#64 }
  else match debugSel reg with
  | none => s
  | some sel =>
    let src : Src := { g := .replicate 64 v, p := (s.slot c n).p, slot := s.slot c n }
    match ({ s with cur := { core := c, slot := n, src := some src } } : State).debugSwr sel v with
    | .next t => if (t.slot c n).mode = .halted then { t with cur := s.cur } else s
    | _ => s

end State

/-- DEBUG_REGISTER_ACCESS (R257): the debugger reads (and gets the value in a report) or writes a register of a HALTED slot. -/
def execDebugRegisterAccess (core slot reg wr value : Nat) (s : State) : Host.Outcome State Fault Refusal :=
  .next (if (s.slot core slot).mode ≠ .halted then s
  else if wr = 0 then s.report (.debugValue (s.debugRead core slot reg))
  else s.debugWrite core slot reg (BitVec.ofNat 64 value))

/-! ### Soft errors (R134, R154, R155) -/

namespace State

/-- The reset of a partition's fault domain (R154): its VFs are reset, its engines, slices and translation buffers empty, what no
slice had written back is lost, and the queues of its VFs are recovered (assumption 22). -/
def domainReset (s : State) (pid : Nat) : State := match s.part pid with
  | none => s
  | some p =>
    let vs := s.vfs.keys.filter fun v => s.pidOf v = pid
    let slices := (List.range p.slices).map p.sliceAt
    let idle (k : Cluster) : Cluster := { k with
      queue := [], running := [], prefetched := none, pinned := [], sfu0 := [], sfu1 := [], claims := [], tlb := [], walks := []
      mailbox := [], waits := [] }
    let s : State := { s with clusters := s.clusters.map fun e => if p.hasCluster e.1 then (e.1, idle e.2) else e }
    let s := vs.foldl (fun t v => (t.endPops v).clearVf v) s
    let lines := slices.flatMap fun k => (s.slice k).sets.flatMap fun e => e.2.map (·.line)
    let s : State := { s with
      mem := lines.foldl (fun m l => m.write (l * 128) (s.behind.read (l * 128) 128)) s.mem
      marks := s.marks.filter fun e => !lines.contains (e.1 / 16)
      slices := s.slices.filter fun e => !slices.contains e.1
      cores := s.cores.map fun e => if p.hasCluster (s.clusterOf e.1) then
          (e.1, { e.2 with l1 := [], l1i := [], tlb := [], pq := [], unpub := [], fills := [] }) else e }
    let s := lines.foldl leaveClean s
    let s := s.report (.domainReset pid)
    (s.queues.filter fun q => vs.contains q.2.vf).foldl (fun t q => t.recoverQueue q.1) s

/-- A register of a slot is lost: fatal to the population of the VF that owns the bank (R154); the cause that is reported is a
free value. -/
def registerError (s : State) (c n : Nat) : State :=
  let v := FMap.find? (s.core c).gprTag n
  let vk := match v with
    | some v => v + 1
    | none => s.vk c
  let cause := s.draw.1.toNat % 2 ^ 8
  let x := s.slotV c vk n
  if x.mode = .free then s
  else if vk = s.vk c then s.draw.2.fatalTrap c n x.pc cause 0
  else match x.pop with
  | none => s.updSlotV c vk n (·.freed)
  | some q => ((s.draw.2.endPop q .fatal).report (.fatal q x.gtid cause x.pc 0)).fatalWord q x.gtid cause

/-- The state of a counter at a cell flips (R134): `idx` is the key of a toggle (unit 0) or of an exit count (unit 1). -/
def parityFlip (s : State) (unit idx bit : Nat) : State :=
  if unit = 0 then { s with
    toggles := FMap.insert s.toggles idx (!(FMap.getD s.toggles idx false))
    badParity := if s.badParity.contains (2 * idx) then s.badParity.erase (2 * idx) else s.badParity ++ [2 * idx] }
  else { s with
    counts := FMap.insert s.counts idx (FMap.getD s.counts idx 0 ^^^ (1#32 <<< (bit % 32)))
    badParity := if s.badParity.contains (2 * idx + 1) then s.badParity.erase (2 * idx + 1)
      else s.badParity ++ [2 * idx + 1] }

/-- An uncorrectable error of a store (assumption 23 numbers the stores): 0 L2 data, 1 Saffron record, 2 L2 tags and miss table,
3 scratchpad, 4 accumulator store, 5 L1 data, 6 L1 instruction, 7 HBM, 8 registers and predicates. -/
def hardError (s : State) (store unit idx : Nat) : State :=
  let word (t : State) : State := { t with poison := FMap.insert t.poison idx () }
  match store with
  | 0 => if s.holdsWord idx then word s else s
  | 1 => match s.queue? unit with
    | some q => s.setQueue unit { q with recs := q.recs.zipIdx.map fun r => if r.2 = idx then { r.1 with poison := true } else r.1 }
    | none => s
  | 2 => match List.find? (fun (p : Nat × Part) => p.2.hasPos unit) s.parts with
    | some p => s.domainReset p.1
    | none => s
  | 3 => if isSp (8 * idx) then word s else s
  | 4 => s.updCluster unit fun k =>
      let t := FMap.getD k.ac (idx / 2 ^ 14) {}
      let e := FMap.getD t.elems (idx % 2 ^ 14) { val := 0, cnt := 0, poison := false }
      { k with ac := FMap.insert k.ac (idx / 2 ^ 14) { t with elems := FMap.insert t.elems (idx % 2 ^ 14) { e with poison := true } } }
  | 5 => s.updCore unit fun k =>
      if k.owned (4 * idx) then k
      else
        let l1 : FMap L1Line := k.l1.map fun e =>
          if e.1 = idx / 32 then (e.1, { e.2 with words := FMap.erase e.2.words (idx % 32) }) else e
        { k with l1 := l1.filter fun e => !e.2.words.isEmpty }
  | 6 => s.updCore unit fun k => { k with l1i := k.l1i.filter (·.line ≠ idx) }
  | 7 => if isSp (8 * idx) then s
      else if s.holdsLine (idx / 16) then { s with hbmPoison := FMap.insert s.hbmPoison idx () } else word s
  | 8 => s.registerError unit (idx / 128)
  | _ => s

end State

/-- SOFT_ERROR (R134, R154): store 9 is Indigo state, protected by parity. Elsewhere one flipped bit is corrected and logged; a
second one, bit / 2^16 ≠ 0, makes the error uncorrectable. -/
def execSoftError (store unit idx bit : Nat) (s : State) : Host.Outcome State Fault Refusal :=
  .next (if store = 9 then s.parityFlip unit idx bit
  else if bit < 2 ^ 16 then { s with errorLog := s.errorLog + 1 }
  else s.hardError store unit idx)

end Sys2Proof.Machine
end

