-- ==== Sys2Proof/Machine/Reply.lean ====
section
/-! DEFINITION. Replies and wakes of parked slots (R27, R33, R62, R240): PARK_REPLY writes what has come for one word of a slot's
bundle and lets the slot go on when nothing is outstanding. -/

namespace Sys2Proof.Machine

/-- The slot is parked, or was when it was halted (R27). -/
def Slot.isParked (x : Slot) : Bool := x.mode = .parked || (x.mode = .halted && x.haltFrom = .parked)

namespace State

/-- The state with the VF of a key as the one that runs on a core, so that its slots are the core's (R240: what runs to its end
while its VF is switched out works on the VF's saved state). Its events then go to its deferred sums, as under a switch (R252,
R263). -/
def asVf (s : State) (c vk : Nat) : State :=
  if vk = s.vk c then s
  else s.updCore c fun k => { k with vf := if vk = 0 then none else some (vk - 1), switchTo := some none }

/-- The VF whose slot n waits: the running one, or else the first stored one. -/
def parkedVk (s : State) (c n : Nat) (aWord : Bool) : Nat :=
  let is (vk : Nat) : Bool :=
    let x := s.slotV c vk n
    x.isParked && (if aWord then x.aWait.isSome else x.cWait.isSome)
  if is (s.vk c) then s.vk c
  else match (s.core c).vfs.keys.find? is with
    | some vk => vk
    | none => s.vk c

/-- The C-word is complete (R62): its partner's queued vector operation may go on, and with no word waiting the bundle ends. -/
def endC (s : State) (c n : Nat) (pop : Option Nat) : State :=
  let s := (s.updSlot c n fun x => { x with cWait := none, cont := none }).unhold c n
  if (s.slot c n).aWait.isSome then s.moved pop
  else (s.bundleDone c n pop).updSlot c n fun x => { x with readyAt := (s.core c).cyc.toNat + 1 }

/-- What the C-word waited for is there: its registers are written, or its next step is taken (R45-R47, R216, R217, R307); a DBRK halts
its slot once the bundle is complete (R305). -/
def deliver (s : State) (c n : Nat) (ws : List Wr) : State :=
  let x := s.slot c n
  match x.cont with
  | none => (s.updSlot c n (·.wrs ws)).endC c n x.pop
  | some (.halt tag) => (s.endC c n x.pop).haltAt c n tag
  | some k =>
    let s := s.updSlot c n fun x => { x with cWait := none, cont := none }
    let t := match k with
      | .vrels => s.endClaim c n
      | .reneg d _ => s.renegotiate c n d
      | k => s.runTask c n (replyValue ws) k
    let y := t.slot c n
    if y.fate ≠ .ok then (t.updSlot c n fun x => { x with fate := .ok }).moved x.pop
    else if y.cWait.isSome then t.moved x.pop
    else t.endC c n x.pop

/-- The bundle is executed again (R240, and every wake that asks for it). -/
def again (s : State) (c n : Nat) (pop : Option Nat) : State := (s.retry c (s.vk c) n).moved pop

/-- A trap reported by a reply (R62): the A-word's registers are restored and the trap is taken. -/
def replyTrap (s : State) (c n cause : Nat) (val : Word) : State :=
  let pop := (s.slot c n).pop
  ((s.trapAt c n cause val).updSlot c n fun x => { x with fate := .ok }).moved pop

/-- The own entries that covered an operation have gone: it is looked up again, in the own scratchpad once the bank is its VF's (R242), or
goes to its home (R161, R163). A load that has waited for them counts under L1MISS (R251: step 2). -/
def uncovered (s : State) (c n : Nat) (op : MemOp) : State :=
  if (s.core c).covered op.key op.size then s
  else match op.kind with
  | .load => if spCore op.key = c && !s.bankReady op.key (s.runVf c) then s.askKeyBank op.key (s.runVf c)
    else match s.loadLook c op with
    | .value v => ((s.touch c op).missCounted c (s.vk c) n op).deliver c n [.g op.d (op.result v)]
    | .poison => s.setWait c (s.vk c) n (.trap 0x0B op.va)
    | .cover => s
    | .fill => s.sendFill c (s.vk c) n op
    | .request => s.sendMem c (s.vk c) n op
  | _ => s.sendMem c (s.vk c) n op

/-- A peer's answer (R149): its value is a free value, sign-extended as the operation's form says; an acquiring one is followed by
the self-invalidation of R165. -/
def peerAnswer (s : State) (c n pid : Nat) (op : PeerOp) : State :=
  let v := s.draw.1.toNat % 2 ^ (8 * op.size)
  let w : Word := if op.amo = .fadd then BitVec.ofNat 64 v else (BitVec.ofNat (8 * op.size) v).signExtend 64
  let s := { s.draw.2 with peerOps := FMap.erase s.peerOps pid }
  let s := if op.acq then s.updCore c (·.selfInvalidate) else s
  s.deliver c n [.g op.d w]

/-- The reply or wake of a slot's C-word; nothing happens while what it waits for has not come. `running` is false for a VF that
is switched out: it takes no trap before it runs again (R240). -/
def replyC (s : State) (c n : Nat) (running : Bool) : State :=
  let x := s.slot c n
  match x.cWait with
  | some (.done ws) => (s.countOwed c n).deliver c n ws
  | some .redo => s.again c n x.pop
  | some .vroom => if x.claim.any (Config.vqueue ≤ ·.queue.length) then s else s.again c n x.pop
  | some (.vaddr left) => if x.claim.any (left < ·.queue.length) then s else s.again c n x.pop
  | some .draws => if x.drawing then s else s.again c n x.pop
  | some (.bank kind unit idx) =>
    if s.xfers.any fun e => e.kind = kind && e.unit = unit && e.idx = idx then s else s.again c n x.pop
  | some (.trap cause val) => if running then (s.countOwed c n).replyTrap c n cause val else s
  | some (.cover op) => s.uncovered c n op
  | some (.drain seq sys acq) =>
    if s.forced c seq sys then (if acq then s.updCore c (·.selfInvalidate) else s).deliver c n [] else s
  | some (.partner v) => if x.aWait.isSome then s else s.deliver c n [.g 0 v]
  | some (.ring o off) => if s.spOwned o (s.runVf c) off then s.deliver c n [] else s.askBank 1 o (off / 2048) (s.runVf c)
  | some (.landed seqs) => if (s.core c).pq.any fun e => seqs.contains e.seq then s else s.deliver c n []
  | some (.peerDrain seq op) => if s.forced c seq true then s.sendPeer c (s.vk c) n op else s
  | some (.peer pid) => match FMap.find? s.peerOps pid with
    | some op => s.peerAnswer c n pid op
    | none => s
  | some (.bar cid seq none) => if s.forced c seq false then s.sendBar c (s.vk c) n cid seq (s.runVf c) else s
  | some .vempty => if s.vpending c n then s else s.deliver c n []
  | some (.ibx d) => match s.message c n (s.runVf c) x.pop with
    | some m => (s.takeMsg c m).deliver c n (msgRegs d m)
    | none => s
  | some .park => if (s.message c n (s.runVf c) x.pop).isSome then s.deliver c n [] else s
  | _ => s

/-- The reply of a slot's A-word (R33, R62): a division's result, or what the vector queue or an SFU has left. -/
def replyA (s : State) (c n : Nat) : State := match (s.slot c n).aWait with
  | some (.done ws) => s.finishA c (s.vk c) n ws
  | some (.divide ws) => s.finishA c (s.vk c) n ws
  | _ => s

/-- A reply in the place of the VF whose slot waits. -/
def reply (s : State) (c n : Nat) (aWord : Bool) : State :=
  let old := s.core c
  let vk := s.parkedVk c n aWord
  let t := s.asVf c vk
  if !(t.slot c n).isParked then s
  else
    let u := if aWord then t.replyA c n else t.replyC c n (vk = s.vk c)
    u.updCore c fun k => { k with vf := old.vf, switchTo := old.switchTo }

end State

/-- PARK_REPLY (R33): the reply or wake of one word of a parked slot: its result is written, and the slot becomes READY once both
words have theirs (R62). -/
def execParkReply (core slot : Nat) (aWord : Bool) (s : State) : Host.Outcome State Fault Refusal :=
  .next (s.reply core slot aWord)

end Sys2Proof.Machine
end

