-- ==== Sys2Proof/Machine/Slices.lean ====
section
/-! DEFINITION. Requests at homes and slices (R146, R151-R155, R163): arrival, the miss table, fills of lines, write-backs, and
the drain of publication-queue entries. -/

namespace Sys2Proof.Machine

/-! ### Events -/

/-- SLICE_REQUEST (R152, R163, R188): a request reaches its home or slice; one that stands at its slice's input has its turn again, in the
order of those that wait there. -/
def execSliceRequest (rid : Nat) (s : State) : Host.Outcome State Fault Refusal :=
  .next (match FMap.find? s.reqs rid with
  | none => s
  | some r =>
    if r.waiting then
      let sl := r.slice.getD 0 / 256
      if (s.slice sl).stalled.contains rid then s.retryStalled sl else s
    else match r.kind with
    | .queue q => s.serveQueue rid r q
    | _ => match r.slice with
      | none => if s.bankReady r.key r.vf then (s.serve rid r 1).getD s else s.askKeyBank r.key r.vf
      | some h => if r.cached then s.arrive rid r h else (s.serve rid r 1).getD s)

/-- L2_FILL_RETURN (R153): a sector's fill returns: it writes the bytes no write has covered and serves the reads that waited. -/
def execL2FillReturn (slice line sector : Nat) (s : State) : Host.Outcome State Fault Refusal :=
  .next (match ((s.slice slice).entry? line).bind fun e => FMap.find? e.pend sector with
  | none => s
  | some _ => (s.fillSector slice line sector).serveWaiters slice line)

/-- MISS_ENTRY_FREE (R152): an entry with no fill outstanding and no reader left is free, and the stores, AMOs and CASs that wait
at the slice input try again. -/
def execMissEntryFree (slice line : Nat) (s : State) : Host.Outcome State Fault Refusal :=
  .next (match (s.slice slice).entry? line with
  | none => s
  | some e => if e.pend.isEmpty && e.waiters.isEmpty then (s.freeEntry slice line).retryStalled slice else s)

/-- WRITEBACK_ACK (R152): memory acknowledges a write that the filter holds. -/
def execWritebackAck (slice line : Nat) (s : State) : Host.Outcome State Fault Refusal :=
  .next (if (s.slice slice).filter.contains line then s.ackWrite slice line else s)

/-- PQ_DRAIN (R159, R160): the entry with a seq reaches its home, once it may; a sector it completes serves its readers
(R153). -/
def execPqDrain (core seq : Nat) (s : State) : Host.Outcome State Fault Refusal :=
  .next (match (s.core core).pq.find? (·.seq = seq) with
  | none => s
  | some e => if s.bankReady e.key e.vf then (s.tryDrain core e).getD s else s.askKeyBank e.key e.vf)

end Sys2Proof.Machine
end

