-- ==== Sys2Proof/Machine/Dispatch.lean ====
section
/-! DEFINITION. One arm per constructor of Instr: a direct call of its meaning. -/

namespace Sys2Proof.Machine

/-- What one instruction or event does. -/
def exec (i : Instr) (s : State) : Host.Outcome State Fault Refusal :=
  match i with
  | .br p o => Sys2Proof.Machine.execBr p o s
  | .brn p o => Sys2Proof.Machine.execBrn p o s
  | .jal d imm => Sys2Proof.Machine.execJal d imm s
  | .jalr d a imm => Sys2Proof.Machine.execJalr d a imm s
  | .exit => Sys2Proof.Machine.execExit s
  | .trap imm => Sys2Proof.Machine.execTrap imm s
  | .tret => Sys2Proof.Machine.execTret s
  | .dbrk imm => Sys2Proof.Machine.execDbrk imm s
  | .ldb t a imm => Sys2Proof.Machine.execLdb t a imm s
  | .ldbu t a imm => Sys2Proof.Machine.execLdbu t a imm s
  | .ldh t a imm => Sys2Proof.Machine.execLdh t a imm s
  | .ldhu t a imm => Sys2Proof.Machine.execLdhu t a imm s
  | .ldw t a imm => Sys2Proof.Machine.execLdw t a imm s
  | .ldwu t a imm => Sys2Proof.Machine.execLdwu t a imm s
  | .ldd t a imm => Sys2Proof.Machine.execLdd t a imm s
  | .lda d a e z y o => Sys2Proof.Machine.execLda d a e z y o s
  | .stb t a imm => Sys2Proof.Machine.execStb t a imm s
  | .sth t a imm => Sys2Proof.Machine.execSth t a imm s
  | .stw t a imm => Sys2Proof.Machine.execStw t a imm s
  | .std t a imm => Sys2Proof.Machine.execStd t a imm s
  | .str d a z y o => Sys2Proof.Machine.execStr d a z y o s
  | .amoadd d a b y o w => Sys2Proof.Machine.execAmoadd d a b y o w s
  | .amoand d a b y o w => Sys2Proof.Machine.execAmoand d a b y o w s
  | .amoor d a b y o w => Sys2Proof.Machine.execAmoor d a b y o w s
  | .amoxor d a b y o w => Sys2Proof.Machine.execAmoxor d a b y o w s
  | .amomin d a b y o w => Sys2Proof.Machine.execAmomin d a b y o w s
  | .amomax d a b y o w => Sys2Proof.Machine.execAmomax d a b y o w s
  | .amominu d a b y o w => Sys2Proof.Machine.execAmominu d a b y o w s
  | .amomaxu d a b y o w => Sys2Proof.Machine.execAmomaxu d a b y o w s
  | .amoswap d a b y o w => Sys2Proof.Machine.execAmoswap d a b y o w s
  | .amofadd d a b y o => Sys2Proof.Machine.execAmofadd d a b y o s
  | .cas d a b y o w => Sys2Proof.Machine.execCas d a b y o w s
  | .fence y o => Sys2Proof.Machine.execFence y o s
  | .waitw d a b y o w => Sys2Proof.Machine.execWaitw d a b y o w s
  | .waitwt p a b f => Sys2Proof.Machine.execWaitwt p a b f s
  | .semp y => Sys2Proof.Machine.execSemp y s
  | .semv y => Sys2Proof.Machine.execSemv y s
  | .cntInc d a => Sys2Proof.Machine.execCntInc d a s
  | .cntDec d a => Sys2Proof.Machine.execCntDec d a s
  | .cntCan d a b => Sys2Proof.Machine.execCntCan d a b s
  | .cntSprd d a b => Sys2Proof.Machine.execCntSprd d a b s
  | .cntBar a => Sys2Proof.Machine.execCntBar a s
  | .cntRdq d a => Sys2Proof.Machine.execCntRdq d a s
  | .cntCfg a b => Sys2Proof.Machine.execCntCfg a b s
  | .qEnq d a b => Sys2Proof.Machine.execQEnq d a b s
  | .qDeq d a => Sys2Proof.Machine.execQDeq d a s
  | .qWait a => Sys2Proof.Machine.execQWait a s
  | .qMake d a b => Sys2Proof.Machine.execQMake d a b s
  | .qFree a => Sys2Proof.Machine.execQFree a s
  | .qStat d a => Sys2Proof.Machine.execQStat d a s
  | .spawn a b => Sys2Proof.Machine.execSpawn a b s
  | .sync => Sys2Proof.Machine.execSync s
  | .tend => Sys2Proof.Machine.execTend s
  | .asend y a b n => Sys2Proof.Machine.execAsend y a b n s
  | .asendG y a b n => Sys2Proof.Machine.execAsendG y a b n s
  | .ibx d => Sys2Proof.Machine.execIbx d s
  | .ibxTry d => Sys2Proof.Machine.execIbxTry d s
  | .setlive a => Sys2Proof.Machine.execSetlive a s
  | .cpy d a => Sys2Proof.Machine.execCpy d a s
  | .cpyCvt d a => Sys2Proof.Machine.execCpyCvt d a s
  | .cpyGather d a => Sys2Proof.Machine.execCpyGather d a s
  | .cpyPeer d a => Sys2Proof.Machine.execCpyPeer d a s
  | .cpyFill d a => Sys2Proof.Machine.execCpyFill d a s
  | .mxMul d a => Sys2Proof.Machine.execMxMul d a s
  | .mxRot d a => Sys2Proof.Machine.execMxRot d a s
  | .mxDrain d a => Sys2Proof.Machine.execMxDrain d a s
  | .mxZero d a => Sys2Proof.Machine.execMxZero d a s
  | .mxLoad d a => Sys2Proof.Machine.execMxLoad d a s
  | .jpoll d a => Sys2Proof.Machine.execJpoll d a s
  | .dtld a y => Sys2Proof.Machine.execDtld a y s
  | .vclaim d a b => Sys2Proof.Machine.execVclaim d a b s
  | .vrels => Sys2Proof.Machine.execVrels s
  | .vreneg d => Sys2Proof.Machine.execVreneg d s
  | .vfence => Sys2Proof.Machine.execVfence s
  | .vld m t a b z => Sys2Proof.Machine.execVld m t a b z s
  | .vst m t a b z => Sys2Proof.Machine.execVst m t a b z s
  | .vgth m t a v z => Sys2Proof.Machine.execVgth m t a v z s
  | .vsct m t a v z => Sys2Proof.Machine.execVsct m t a v z s
  | .srd d y => Sys2Proof.Machine.execSrd d y s
  | .swr a y => Sys2Proof.Machine.execSwr a y s
  | .park => Sys2Proof.Machine.execPark s
  | .tlbwCore a b => Sys2Proof.Machine.execTlbwCore a b s
  | .tlbwClus a b => Sys2Proof.Machine.execTlbwClus a b s
  | .tlbiPage a b => Sys2Proof.Machine.execTlbiPage a b s
  | .tlbiVf b => Sys2Proof.Machine.execTlbiVf b s
  | .tlbiAll => Sys2Proof.Machine.execTlbiAll s
  | .frepRetry a => Sys2Proof.Machine.execFrepRetry a s
  | .frepKill a => Sys2Proof.Machine.execFrepKill a s
  | .add d a b w => Sys2Proof.Machine.execAdd d a b w s
  | .sub d a b w => Sys2Proof.Machine.execSub d a b w s
  | .and d a b w => Sys2Proof.Machine.execAnd d a b w s
  | .or d a b w => Sys2Proof.Machine.execOr d a b w s
  | .xor d a b w => Sys2Proof.Machine.execXor d a b w s
  | .andn d a b w => Sys2Proof.Machine.execAndn d a b w s
  | .sll d a b w => Sys2Proof.Machine.execSll d a b w s
  | .srl d a b w => Sys2Proof.Machine.execSrl d a b w s
  | .sra d a b w => Sys2Proof.Machine.execSra d a b w s
  | .min d a b w => Sys2Proof.Machine.execMin d a b w s
  | .max d a b w => Sys2Proof.Machine.execMax d a b w s
  | .minu d a b w => Sys2Proof.Machine.execMinu d a b w s
  | .maxu d a b w => Sys2Proof.Machine.execMaxu d a b w s
  | .mul d a b w => Sys2Proof.Machine.execMul d a b w s
  | .mulh d a b w => Sys2Proof.Machine.execMulh d a b w s
  | .mulhu d a b w => Sys2Proof.Machine.execMulhu d a b w s
  | .div d a b w => Sys2Proof.Machine.execDiv d a b w s
  | .divu d a b w => Sys2Proof.Machine.execDivu d a b w s
  | .rem d a b w => Sys2Proof.Machine.execRem d a b w s
  | .remu d a b w => Sys2Proof.Machine.execRemu d a b w s
  | .clz d a w => Sys2Proof.Machine.execClz d a w s
  | .ctz d a w => Sys2Proof.Machine.execCtz d a w s
  | .popc d a w => Sys2Proof.Machine.execPopc d a w s
  | .bswap d a w => Sys2Proof.Machine.execBswap d a w s
  | .addi d a imm => Sys2Proof.Machine.execAddi d a imm s
  | .andi d a imm => Sys2Proof.Machine.execAndi d a imm s
  | .ori d a imm => Sys2Proof.Machine.execOri d a imm s
  | .xori d a imm => Sys2Proof.Machine.execXori d a imm s
  | .slli d a w y => Sys2Proof.Machine.execSlli d a w y s
  | .srli d a w y => Sys2Proof.Machine.execSrli d a w y s
  | .srai d a w y => Sys2Proof.Machine.execSrai d a w y s
  | .lui d imm => Sys2Proof.Machine.execLui d imm s
  | .addpc d imm => Sys2Proof.Machine.execAddpc d imm s
  | .cmp p c a b w => Sys2Proof.Machine.execCmp p c a b w s
  | .cmpi p c a imm => Sys2Proof.Machine.execCmpi p c a imm s
  | .pand d a b x y => Sys2Proof.Machine.execPand d a b x y s
  | .por d a b x y => Sys2Proof.Machine.execPor d a b x y s
  | .pxor d a b x y => Sys2Proof.Machine.execPxor d a b x y s
  | .pandn d a b x y => Sys2Proof.Machine.execPandn d a b x y s
  | .sel d a b p => Sys2Proof.Machine.execSel d a b p s
  | .movpG d => Sys2Proof.Machine.execMovpG d s
  | .movpP a => Sys2Proof.Machine.execMovpP a s
  | .fadd d a b x => Sys2Proof.Machine.execFadd d a b x s
  | .fsub d a b x => Sys2Proof.Machine.execFsub d a b x s
  | .fmul d a b x => Sys2Proof.Machine.execFmul d a b x s
  | .fmin d a b x => Sys2Proof.Machine.execFmin d a b x s
  | .fmax d a b x => Sys2Proof.Machine.execFmax d a b x s
  | .fsgnj d a b x => Sys2Proof.Machine.execFsgnj d a b x s
  | .fsgnjn d a b x => Sys2Proof.Machine.execFsgnjn d a b x s
  | .fsgnjx d a b x => Sys2Proof.Machine.execFsgnjx d a b x s
  | .fclass d a x => Sys2Proof.Machine.execFclass d a x s
  | .fma d a b c => Sys2Proof.Machine.execFma d a b c s
  | .fmaD d a b c => Sys2Proof.Machine.execFmaD d a b c s
  | .fcmp p c a b x => Sys2Proof.Machine.execFcmp p c a b x s
  | .fcvtF32I64 d a => Sys2Proof.Machine.execFcvtF32I64 d a s
  | .fcvtF32I64u d a => Sys2Proof.Machine.execFcvtF32I64u d a s
  | .fcvtI64F32 d a => Sys2Proof.Machine.execFcvtI64F32 d a s
  | .fcvtI64uF32 d a => Sys2Proof.Machine.execFcvtI64uF32 d a s
  | .fcvtF64I64 d a => Sys2Proof.Machine.execFcvtF64I64 d a s
  | .fcvtI64F64 d a => Sys2Proof.Machine.execFcvtI64F64 d a s
  | .fcvtF32F64 d a => Sys2Proof.Machine.execFcvtF32F64 d a s
  | .fcvtF64F32 d a => Sys2Proof.Machine.execFcvtF64F32 d a s
  | .abtAbs p a f => Sys2Proof.Machine.execAbtAbs p a f s
  | .abtPrs p a f => Sys2Proof.Machine.execAbtPrs p a f s
  | .abm d a p f => Sys2Proof.Machine.execAbm d a p f s
  | .cvtd d a f => Sys2Proof.Machine.execCvtd d a f s
  | .cvte d a r f => Sys2Proof.Machine.execCvte d a r f s
  | .rand d => Sys2Proof.Machine.execRand d s
  | .sfuRcp d a => Sys2Proof.Machine.execSfuRcp d a s
  | .sfuSqrt d a => Sys2Proof.Machine.execSfuSqrt d a s
  | .sfuRsqrt d a => Sys2Proof.Machine.execSfuRsqrt d a s
  | .sfuExp2 d a => Sys2Proof.Machine.execSfuExp2 d a s
  | .sfuLog2 d a => Sys2Proof.Machine.execSfuLog2 d a s
  | .sfuSinpi d a => Sys2Proof.Machine.execSfuSinpi d a s
  | .sfuCospi d a => Sys2Proof.Machine.execSfuCospi d a s
  | .vadd m d a b t => Sys2Proof.Machine.execVadd m d a b t s
  | .vsub m d a b t => Sys2Proof.Machine.execVsub m d a b t s
  | .vmul m d a b t => Sys2Proof.Machine.execVmul m d a b t s
  | .vmin m d a b t => Sys2Proof.Machine.execVmin m d a b t s
  | .vmax m d a b t => Sys2Proof.Machine.execVmax m d a b t s
  | .vand m d a b t => Sys2Proof.Machine.execVand m d a b t s
  | .vor m d a b t => Sys2Proof.Machine.execVor m d a b t s
  | .vxor m d a b t => Sys2Proof.Machine.execVxor m d a b t s
  | .vshl m d a b t => Sys2Proof.Machine.execVshl m d a b t s
  | .vshr m d a b t => Sys2Proof.Machine.execVshr m d a b t s
  | .vsra m d a b t => Sys2Proof.Machine.execVsra m d a b t s
  | .vfma m d a b t c => Sys2Proof.Machine.execVfma m d a b t c s
  | .vcmp m a b t c => Sys2Proof.Machine.execVcmp m a b t c s
  | .vsel d a b t => Sys2Proof.Machine.execVsel d a b t s
  | .vcvtDec m d a t f => Sys2Proof.Machine.execVcvtDec m d a t f s
  | .vcvtEnc m d a t f => Sys2Proof.Machine.execVcvtEnc m d a t f s
  | .vredAdd m d a t => Sys2Proof.Machine.execVredAdd m d a t s
  | .vredMin m d a t => Sys2Proof.Machine.execVredMin m d a t s
  | .vredMax m d a t => Sys2Proof.Machine.execVredMax m d a t s
  | .vbc m d a t => Sys2Proof.Machine.execVbc m d a t s
  | .vext d a b t => Sys2Proof.Machine.execVext d a b t s
  | .vperm m d a b t => Sys2Proof.Machine.execVperm m d a b t s
  | .vsfuRcp m d a t => Sys2Proof.Machine.execVsfuRcp m d a t s
  | .vsfuSqrt m d a t => Sys2Proof.Machine.execVsfuSqrt m d a t s
  | .vsfuRsqrt m d a t => Sys2Proof.Machine.execVsfuRsqrt m d a t s
  | .vsfuExp2 m d a t => Sys2Proof.Machine.execVsfuExp2 m d a t s
  | .vsfuLog2 m d a t => Sys2Proof.Machine.execVsfuLog2 m d a t s
  | .vsfuSinpi m d a t => Sys2Proof.Machine.execVsfuSinpi m d a t s
  | .vsfuCospi m d a t => Sys2Proof.Machine.execVsfuCospi m d a t s
  | .vaccFrom m d a => Sys2Proof.Machine.execVaccFrom m d a s
  | .vaccTo m d a => Sys2Proof.Machine.execVaccTo m d a s
  | .vabt m a f => Sys2Proof.Machine.execVabt m a f s
  | .vabm d a f => Sys2Proof.Machine.execVabm d a f s
  | .viota m d t => Sys2Proof.Machine.execViota m d t s
  | .tcmpWrite a => Sys2Proof.Machine.execTcmpWrite a s
  | .fmtdWrite a => Sys2Proof.Machine.execFmtdWrite a s
  | .dqbaseWrite a => Sys2Proof.Machine.execDqbaseWrite a s
  | .rseedWrite n a => Sys2Proof.Machine.execRseedWrite n a s
  | .pmcWrite n a => Sys2Proof.Machine.execPmcWrite n a s
  | .pmselWrite n a => Sys2Proof.Machine.execPmselWrite n a s
  | .pmctlWrite a => Sys2Proof.Machine.execPmctlWrite a s
  | .pmovfWrite a => Sys2Proof.Machine.execPmovfWrite a s
  | .issueCycle core => Sys2Proof.Machine.execIssueCycle core s
  | .bankExchangeDone kind unit idx => Sys2Proof.Machine.execBankExchangeDone kind unit idx s
  | .timerExpiry core slot => Sys2Proof.Machine.execTimerExpiry core slot s
  | .parkReply core slot aWord => Sys2Proof.Machine.execParkReply core slot aWord s
  | .activationPacket core idx => Sys2Proof.Machine.execActivationPacket core idx s
  | .activationBufferDispatch core => Sys2Proof.Machine.execActivationBufferDispatch core s
  | .asendInject core slot => Sys2Proof.Machine.execAsendInject core slot s
  | .stealRequest core slot => Sys2Proof.Machine.execStealRequest core slot s
  | .stealAnswer core slot => Sys2Proof.Machine.execStealAnswer core slot s
  | .stealReply core slot => Sys2Proof.Machine.execStealReply core slot s
  | .stealBackoffExpiry core slot => Sys2Proof.Machine.execStealBackoffExpiry core slot s
  | .migrationArrival core slot => Sys2Proof.Machine.execMigrationArrival core slot s
  | .migrationAck core slot => Sys2Proof.Machine.execMigrationAck core slot s
  | .migrationRefusal core slot => Sys2Proof.Machine.execMigrationRefusal core slot s
  | .populationComplete pop => Sys2Proof.Machine.execPopulationComplete pop s
  | .populationHung pop => Sys2Proof.Machine.execPopulationHung pop s
  | .completionReport pop => Sys2Proof.Machine.execCompletionReport pop s
  | .storePqEntry core slot => Sys2Proof.Machine.execStorePqEntry core slot s
  | .pqDrain core seq => Sys2Proof.Machine.execPqDrain core seq s
  | .forceRequest core slot idx => Sys2Proof.Machine.execForceRequest core slot idx s
  | .forceAck core slot idx => Sys2Proof.Machine.execForceAck core slot idx s
  | .sysPublish core seq => Sys2Proof.Machine.execSysPublish core seq s
  | .l1Fill core fid => Sys2Proof.Machine.execL1Fill core fid s
  | .sliceRequest rid => Sys2Proof.Machine.execSliceRequest rid s
  | .l2FillReturn slice line sector => Sys2Proof.Machine.execL2FillReturn slice line sector s
  | .missEntryFree slice line => Sys2Proof.Machine.execMissEntryFree slice line s
  | .writebackAck slice line => Sys2Proof.Machine.execWritebackAck slice line s
  | .balancerToken tok => Sys2Proof.Machine.execBalancerToken tok s
  | .balancerAntitoken tok => Sys2Proof.Machine.execBalancerAntitoken tok s
  | .exitToken tok => Sys2Proof.Machine.execExitToken tok s
  | .exitAntitoken tok => Sys2Proof.Machine.execExitAntitoken tok s
  | .snapshot tok out => Sys2Proof.Machine.execSnapshot tok out s
  | .barrierRelease cid core => Sys2Proof.Machine.execBarrierRelease cid core s
  | .spreadRecord tok => Sys2Proof.Machine.execSpreadRecord tok s
  | .cntCfgApply core slot => Sys2Proof.Machine.execCntCfgApply core slot s
  | .queueReservationDone core slot => Sys2Proof.Machine.execQueueReservationDone core slot s
  | .jobAdmit cluster => Sys2Proof.Machine.execJobAdmit cluster s
  | .jobStart cluster => Sys2Proof.Machine.execJobStart cluster s
  | .mxePrefetch cluster => Sys2Proof.Machine.execMxePrefetch cluster s
  | .cpxPiece cluster job => Sys2Proof.Machine.execCpxPiece cluster job s
  | .mxeKblock cluster => Sys2Proof.Machine.execMxeKblock cluster s
  | .rotBlockArrival cluster side => Sys2Proof.Machine.execRotBlockArrival cluster side s
  | .jobComplete cluster job => Sys2Proof.Machine.execJobComplete cluster job s
  | .vclaimGrant cluster => Sys2Proof.Machine.execVclaimGrant cluster s
  | .vectorOpPerform core slot => Sys2Proof.Machine.execVectorOpPerform core slot s
  | .sfuService cluster quad => Sys2Proof.Machine.execSfuService cluster quad s
  | .sfuResult core slot => Sys2Proof.Machine.execSfuResult core slot s
  | .dtldComplete core slot => Sys2Proof.Machine.execDtldComplete core slot s
  | .walkDone cluster idx => Sys2Proof.Machine.execWalkDone cluster idx s
  | .tlbShootdownAck core slot tlb => Sys2Proof.Machine.execTlbShootdownAck core slot tlb s
  | .quantumExpiry domain => Sys2Proof.Machine.execQuantumExpiry domain s
  | .worldSwitchExchange core => Sys2Proof.Machine.execWorldSwitchExchange core s
  | .debugResume core slot => Sys2Proof.Machine.execDebugResume core slot s
  | .debugRegisterAccess core slot reg wr value => Sys2Proof.Machine.execDebugRegisterAccess core slot reg wr value s
  | .peerRequest port op addr value => Sys2Proof.Machine.execPeerRequest port op addr value s
  | .peerOpHeld port op addr value => Sys2Proof.Machine.execPeerOpHeld port op addr value s
  | .queueOpen bell qcb => Sys2Proof.Machine.execQueueOpen bell qcb s
  | .tailDoorbell queue seq => Sys2Proof.Machine.execTailDoorbell queue seq s
  | .acceptanceRecord queue => Sys2Proof.Machine.execAcceptanceRecord queue s
  | .releaseDoorbell queue => Sys2Proof.Machine.execReleaseDoorbell queue s
  | .packetComplete queue seq => Sys2Proof.Machine.execPacketComplete queue seq s
  | .launch queue => Sys2Proof.Machine.execLaunch queue s
  | .pcreate queue => Sys2Proof.Machine.execPcreate queue s
  | .pdestroy queue => Sys2Proof.Machine.execPdestroy queue s
  | .vcreate queue => Sys2Proof.Machine.execVcreate queue s
  | .vreset queue => Sys2Proof.Machine.execVreset queue s
  | .vdestroy queue => Sys2Proof.Machine.execVdestroy queue s
  | .group queue => Sys2Proof.Machine.execGroup queue s
  | .cidcfg queue => Sys2Proof.Machine.execCidcfg queue s
  | .occlim queue => Sys2Proof.Machine.execOcclim queue s
  | .window queue => Sys2Proof.Machine.execWindow queue s
  | .farport queue => Sys2Proof.Machine.execFarport queue s
  | .pcap queue => Sys2Proof.Machine.execPcap queue s
  | .debug queue => Sys2Proof.Machine.execDebug queue s
  | .trace queue => Sys2Proof.Machine.execTrace queue s
  | .pause queue => Sys2Proof.Machine.execPause queue s
  | .resume queue => Sys2Proof.Machine.execResume queue s
  | .ochreMismatch => Sys2Proof.Machine.execOchreMismatch s
  | .powerOnReset fused secver boot => Sys2Proof.Machine.execPowerOnReset fused secver boot s
  | .spdmGetVersion nonce => Sys2Proof.Machine.execSpdmGetVersion nonce s
  | .spdmGetCapabilities nonce => Sys2Proof.Machine.execSpdmGetCapabilities nonce s
  | .spdmNegotiateAlgorithms nonce => Sys2Proof.Machine.execSpdmNegotiateAlgorithms nonce s
  | .spdmGetDigests nonce => Sys2Proof.Machine.execSpdmGetDigests nonce s
  | .spdmGetCertificate nonce => Sys2Proof.Machine.execSpdmGetCertificate nonce s
  | .spdmChallenge nonce => Sys2Proof.Machine.execSpdmChallenge nonce s
  | .spdmGetMeasurements nonce => Sys2Proof.Machine.execSpdmGetMeasurements nonce s
  | .ubhamLinkTrain port major minor => Sys2Proof.Machine.execUbhamLinkTrain port major minor s
  | .ubhamLaneLoss port => Sys2Proof.Machine.execUbhamLaneLoss port s
  | .ubhamFlitRetry port => Sys2Proof.Machine.execUbhamFlitRetry port s
  | .farportTrain port rate width cap => Sys2Proof.Machine.execFarportTrain port rate width cap s
  | .temperatureInput sensor temp => Sys2Proof.Machine.execTemperatureInput sensor temp s
  | .thermalTrip sensor => Sys2Proof.Machine.execThermalTrip sensor s
  | .pcapWindow watts => Sys2Proof.Machine.execPcapWindow watts s
  | .waitwtTimeout core slot => Sys2Proof.Machine.execWaitwtTimeout core slot s
  | .packetBreakResume queue => Sys2Proof.Machine.execPacketBreakResume queue s
  | .debuggerAttach pid on => Sys2Proof.Machine.execDebuggerAttach pid on s
  | .softError store unit idx bit => Sys2Proof.Machine.execSoftError store unit idx bit s
  | .peerMovedReply win peer => Sys2Proof.Machine.execPeerMovedReply win peer s

end Sys2Proof.Machine
end

