-- ==== Sys2Proof/Machine/Step.lean ====
section
/-! DEFINITION. One step of the machine, and placing an instruction where the next step fetches it. -/

namespace Sys2Proof.Machine

/-- A device that is off takes only its next power-on (R278, R282). -/
def powersOn (i : Instr) : Bool := match i with
  | .powerOnReset _ _ _ => true
  | _ => false

/-- Do the move at the head of the agenda, or let the core in turn take its issue cycle. With the device off, its power-on and what
changes in host memory are all that happens. -/
def nextMove (s : State) : Host.Outcome State Fault Refusal :=
  match s.agenda with
  | .act i :: r => if s.on || powersOn i then exec i { s with agenda := r } else .next { s with agenda := r }
  | .hostWrite k bs :: r => .next (if s.on || decide (2 ^ 65 ≤ k) then { s with agenda := r }.hostStore k bs else { s with agenda := r })
  | .channel c full :: r => .next (if s.on then { s with agenda := r }.channelRoom c full else { s with agenda := r })
  | .image a x :: r => .next { s with agenda := r, images := FMap.insert s.images a x }
  | [] => if s.on then execIssueCycle s.turn { s with turn := s.nextTurn } else .fault .deviceOff

/-- One step: the bundle of the slot that issues, or else the next move. A device that turns off issues nothing more. -/
def step (s : State) : Host.Outcome State Fault Refusal :=
  match s.issuing with
  | some n => runBundle exec s n
  | none => nextMove s

/-- The state with an instruction word stored where the next step fetches: slot 0 of core 0 is READY and its bundle is next
to issue, its page is mapped to the physical page at 0x4_0000, and the word stands there as a lone bundle (assumption 9). -/
def State.withFetchWord (s : State) (_nbits w : Nat) : State := s.placeWord w

end Sys2Proof.Machine
end

