-- ==== Sys2Proof/Safety.lean ====
section
/-! DEFINITION. What the claims about the machine are stated in: what an instruction leaves alone, what it answers, what a
trap writes, and the canonical form of memory that every step keeps. -/

namespace Sys2Proof.Machine

/-- Nothing but the cores is different. -/
def OnlyCores (s t : State) : Prop := { t with cores := s.cores } = s

/-- Nothing but one core is different. -/
structure OnlyCore (c : Nat) (s t : State) : Prop where
  rest : OnlyCores s t
  cores : ∀ d, d ≠ c → t.core d = s.core d

/-- Nothing but what one core holds for its running VF is different. -/
structure OnlyCvf (c : Nat) (s t : State) : Prop where
  core : OnlyCore c s t
  rest : { t.core c with vfs := [] } = { s.core c with vfs := [] }
  vfs : ∀ vk, vk ≠ s.vk c → FMap.find? (t.core c).vfs vk = FMap.find? (s.core c).vfs vk

/-- Nothing but one slot of a core's running VF is different. -/
structure OnlySlot (c n : Nat) (s t : State) : Prop where
  cvf : OnlyCvf c s t
  rest : { t.cvf c with slots := [] } = { s.cvf c with slots := [] }
  slots : ∀ m, m ≠ n → t.slot c m = s.slot c m

/-- An instruction answers a next state of which something holds. -/
def Answers (i : Instr) (s : State) (P : State → Prop) : Prop := ∃ t, exec i s = .next t ∧ P t

/-- The executing slot becomes `x`, and nothing else changes. -/
def Becomes (s t : State) (x : Slot) : Prop := OnlySlot s.cur.core s.cur.slot s t ∧ t.me = x

/-- One general register of a slot holds a value and the others stand: `g0` never changes (R5). -/
def Regs (x y : Slot) (d : BitVec 6) (v : Word) : Prop :=
  ∀ n : Fin 64, y.g[n] = if n.val = d.toNat ∧ n.val ≠ 0 then v else x.g[n]

/-- One predicate of a slot holds a value and the others stand: `p0` never changes (R5). -/
def Preds (x y : Slot) (q : BitVec 3) (v : Bool) : Prop :=
  ∀ n : Fin 8, y.p.getLsbD n = if n.val = q.toNat ∧ n.val ≠ 0 then v else x.p.getLsbD n

/-- A general register of the executing slot is written, and nothing else changes. -/
def WritesG (s : State) (d : BitVec 6) (v : Word) (t : State) : Prop :=
  Becomes s t { s.me with g := t.me.g } ∧ Regs s.me t.me d v

/-- A predicate of the executing slot is written, and nothing else changes. -/
def WritesP (s : State) (q : BitVec 3) (v : Bool) (t : State) : Prop :=
  Becomes s t { s.me with p := t.me.p } ∧ Preds s.me t.me q v

/-- A slot has taken a trap (R224): the registers of the trap are written, the pc is the handler's, and nothing else of the
machine changes; the bookkeeping of the bundle is dropped. -/
def TookTrap (c n : Nat) (cause : Nat) (val : Word) (s t : State) : Prop :=
  OnlySlot c n s t ∧
  t.slot c n = { (s.slot c n).trapped with
    tpc := (s.slot c n).pc, tcause := BitVec.ofNat 64 cause, tval := val, tstat := (s.slot c n).tstat ||| 1
    pc := (s.cvf c).tvec, mode := .ready, cWait := none, aWait := none, cont := none, prior := none, tabs := none, dtld := none
    owed := none, fate := (t.slot c n).fate }

/-- The executing slot has a handler and is in none: a synchronous trap is taken and is not fatal (R228). -/
def CanTrap (s : State) : Prop := (s.cvf s.cur.core).tvec ≠ 0 ∧ s.me.inTrap = false

/-- An instruction traps with a cause and a value, and has no other effect. -/
def Traps (i : Instr) (s : State) (cause : Nat) (val : Word) : Prop :=
  CanTrap s → Answers i s (TookTrap s.cur.core s.cur.slot cause val s)

/-- The homes and the memory behind them have the canonical form. -/
def State.canonical (s : State) : Prop := s.mem.wf = true ∧ s.behind.wf = true

end Sys2Proof.Machine
end

