-- ==== Sys2Proof/Certificates/Slice0/Obligations.lean ====
section
/-! DEFINITION. The statements for the provers: what the manual's rules say of the machine. Each `def Obligations.<Name>` is one
statement; the definitions under Sys2Proof.Claims are the vocabulary several of them share. -/

open Sys2Proof Sys2Proof.Machine

/-! ### Encoding and the step -/

/-- R58, R64-R72: the word of a well-formed instruction, as the second word of a pair or lone, decodes to that instruction with
every operand as it was. -/
def Obligations.DecodeOfEncodeIsIdentity : Prop :=
  ∀ (i : Instr) (w : Nat), i.wellFormed = true → encode i = some w →
    w < 2 ^ 31 ∧ decode w = some i ∧ decode (2 ^ 31 + w) = some i

/-- R71: decoding gives each word one meaning: a legal word is the word of the instruction it decodes to. -/
def Obligations.EncodeOfDecodeIsIdentity : Prop :=
  ∀ (w : Nat) (i : Instr), w < 2 ^ 31 → decode w = some i → encode i = some w

/-- Words that the instruction reference writes out (R284, R285, R289, R293, R227, R305, R315, R316, R330, R53). -/
def Obligations.WordsOfTheManualDecode : Prop :=
  decode 0xC11461C0 = some (.add 5 6 7 0) ∧ decode 0xC11461E0 = some (.add 5 6 7 1) ∧
  decode 0xC1146037 = some (.bswap 5 6 1) ∧ decode 0xCA27FFFF = some (.addpc 9 0x3FFFF) ∧
  decode 0x81200006 = some (.br 1 6) ∧ decode 0x81700004 = some (.brn 3 4) ∧
  decode 0x85000001 = some (.trap 1) ∧ decode 0x86000000 = some .tret ∧
  decode 0x87000005 = some (.dbrk 5) ∧ decode 0x82040040 = some (.jal 1 0x40) ∧
  decode 0x83001000 = some (.jalr 0 1 0) ∧ decode 0xA4000003 = some (.semv 3) ∧
  decode 0xAA009000 = some (.setlive 9) ∧ decode 0xD7146401 = some (.abm 5 6 2 1)

/-- A step runs the decoded instruction: where the word at the pc of the slot that issues is a lone bundle of a well-formed
instruction that the slot's level may run, the step is exec of it, between `begin_` and `commit`. -/
def Obligations.StepRunsTheDecodedInstruction : Prop :=
  ∀ (s u : State) (c n w : Nat) (i : Instr), s.issuing = some (c, n) →
    ({ s with issuing := none, cur := { core := c, slot := n } } : State).fetchWord c (s.slot c n).pc = .word w u →
    fld w 31 1 = 1 → decode w = some i → i.wellFormed = true →
    (i.privileged = true → (s.slot c n).fw = true) →
    step s = (match exec i { u.begin_ c n 4 with cur := { core := c, slot := n, word := BitVec.ofNat 32 w } } with
      | .next t => .next (t.commit c n)
      | r => r)

/-- A step runs the decoded pair: where two legal words with bit 31 clear stand at an 8-byte-aligned pc, a C-word first, that do not
write one register, of which none writes %RSEED (R332), and that the slot's level may run, the step is the pair's run (R59-R61). -/
def Sys2Proof.Claims.StepRunsTheDecodedPair : Prop :=
  ∀ (s t u : State) (c n wc wa : Nat) (i j : Instr), s.issuing = some (c, n) →
    ({ s with issuing := none, cur := { core := c, slot := n } } : State).fetchWord c (s.slot c n).pc = .word wc t →
    (s.slot c n).pc.toNat % 8 = 0 → fld wc 31 1 = 0 → fld wc 30 1 = 0 →
    t.fetchWord c ((s.slot c n).pc + 4) = .word wa u → fld wa 31 1 = 0 → fld wa 30 1 = 1 →
    decode wc = some i → i.wellFormed = true → decode wa = some j → j.wellFormed = true → i.sameDest j = false →
    (∀ q a, i ≠ .rseedWrite q a) → (i.privileged = true → (s.slot c n).fw = true) →
    step s = runPair exec u (c, n) wc wa i j

/-- A step with no bundle to issue runs the event at the head of the agenda; a device that is off takes its power-on alone. That
events stand in an agenda and that each step makes one move is the model's choice (assumption log entries 47 and 48). -/
def Sys2Proof.Claims.StepRunsTheEventAtHand : Prop :=
  ∀ (s : State) (i : Instr) (r : List Move), s.issuing = none → s.agenda = .act i :: r →
    ((s.on = true ∨ ∃ f v b, i = .powerOnReset f v b) → step s = exec i { s with agenda := r }) ∧
    (s.on = false → (∀ f v b, i ≠ .powerOnReset f v b) → step s = .next { s with agenda := r })

/-- R60: the two words of a pair read before either writes, the link is the bundle address + 8, and the transfer of the C-word
takes effect after both: shown for JALR and ADD, whatever registers they name. -/
def Sys2Proof.Claims.PairReadsBeforeItWrites : Prop :=
  ∀ (s : State) (c n wc wa : Nat) (d a d' a' b' : BitVec 6) (i : BitVec 12),
    let x := s.slot c n
    let g (m : BitVec 6) : Word := if m = 0 then 0 else x.g[m.toNat]
    x.mode = .ready → x.cWait = none → x.vqueue ≤ Config.vqueue →
    (g a + i.signExtend 64) &&& 3 = 0 → (d ≠ d' ∨ d = 0) →
    ∃ t, runPair exec s (c, n) wc wa (.jalr d a i) (.add d' a' b' 0) = .next t ∧
      (t.slot c n).pc = g a + i.signExtend 64 ∧
      ∀ m : Fin 64, (t.slot c n).g[m] =
        if m.val = d.toNat ∧ m.val ≠ 0 then x.pc + 8
        else if m.val = d'.toNat ∧ m.val ≠ 0 then g a' + g b'
        else x.g[m]

/-- R31, R59, R60: a bundle that ends moves its slot's pc to what its words left as the next address; one that parks keeps its pc,
and so does a slot that a trap has sent to its handler. -/
def Sys2Proof.Claims.CommitMovesThePc : Prop :=
  ∀ (s : State) (c n : Nat),
    ((s.slot c n).fate = .ok → (s.slot c n).mode = .ready →
      ((s.commit c n).slot c n).pc = (s.slot c n).nextPc ∧ ((s.commit c n).slot c n).mode = .ready) ∧
    ((s.slot c n).fate = .ok → (s.slot c n).mode = .parked →
      ((s.commit c n).slot c n).pc = (s.slot c n).pc ∧ ((s.commit c n).slot c n).mode = .parked) ∧
    ((s.slot c n).fate ≠ .ok →
      ((s.commit c n).slot c n).pc = (s.slot c n).pc ∧ ((s.commit c n).slot c n).mode = (s.slot c n).mode) ∧
    ((s.commit c n).slot c n).g = (s.slot c n).g ∧ ((s.commit c n).slot c n).p = (s.slot c n).p ∧
    (s.commit c n).mem = s.mem

/-- R31, R59-R61, R332: a step runs a pair, or the event at hand; the words of a pair read before they write; and a bundle that ends moves
its pc. -/
def Obligations.BundlesRunAsPairsAndEvents : Prop :=
  Claims.StepRunsTheDecodedPair ∧ Claims.StepRunsTheEventAtHand ∧ Claims.PairReadsBeforeItWrites ∧ Claims.CommitMovesThePc


/-- R61-R63, R71, R332: a lone word that is no instruction takes trap 0x01 with the word in %TVAL, and a privileged one at program level
trap 0x03. A word with bit 31 clear that stands at 4 mod 8 or is no C-word takes trap 0x02 with that word, and nothing more is
fetched. With a second word fetched, the causes come in the order of R63: 0x02 for its shape; 0x01 for the C-word; 0x01 for the second
word, with bit 32 of %TVAL set; 0x02 for two words that write one register; 0x01 for a C-word that writes %RSEED, and it comes before
the second word's; 0x03 for a privileged C-word. %TVAL of a pair's 0x02 holds both words. -/
def Obligations.IllegalAndPrivilegedWordsTrap : Prop :=
  ∀ (s u : State) (c n w : Nat), s.issuing = some (c, n) →
    ({ s with issuing := none, cur := { core := c, slot := n } } : State).fetchWord c (s.slot c n).pc = .word w u →
    (u.cvf c).tvec ≠ 0 → (u.slot c n).inTrap = false →
    let legal (w : Nat) (i : Instr) : Prop := decode w = some i ∧ i.wellFormed = true
    let traps (u : State) (cause : Nat) (val : Word) : Prop :=
      ∃ t, TookTrap c n cause val u t ∧ step s = .next (t.commit c n)
    (fld w 31 1 = 1 →
      ((∀ i, ¬ legal w i) → traps u 0x01 (BitVec.ofNat 64 w)) ∧
      ∀ i, legal w i → i.privileged = true → (s.slot c n).fw = false → traps u 0x03 (BitVec.ofNat 64 w)) ∧
    (fld w 31 1 = 0 → (s.slot c n).pc.toNat % 8 = 4 ∨ fld w 30 1 = 1 → traps u 0x02 (BitVec.ofNat 64 w)) ∧
    ∀ (v : State) (wa : Nat), fld w 31 1 = 0 → (s.slot c n).pc.toNat % 8 ≠ 4 → fld w 30 1 = 0 →
      u.fetchWord c ((s.slot c n).pc + 4) = .word wa v → (v.cvf c).tvec ≠ 0 → (v.slot c n).inTrap = false →
      let both : Word := BitVec.ofNat 64 (w + wa * 2 ^ 32)
      let seed (i : Instr) : Prop := ∃ q a, i = .rseedWrite q a
      (fld wa 31 1 = 1 ∨ fld wa 30 1 = 0 → traps v 0x02 both) ∧
      (fld wa 31 1 = 0 → fld wa 30 1 = 1 →
        ((∀ i, ¬ legal w i) → traps v 0x01 (BitVec.ofNat 64 w)) ∧
        ∀ i, legal w i →
          ((∀ j, ¬ legal wa j) →
            (seed i → traps v 0x01 (BitVec.ofNat 64 w)) ∧ (¬ seed i → traps v 0x01 (BitVec.ofNat 64 (wa + 2 ^ 32)))) ∧
          ∀ j, legal wa j →
            (i.sameDest j = true → traps v 0x02 both) ∧
            (i.sameDest j = false → seed i → traps v 0x01 (BitVec.ofNat 64 w)) ∧
            (i.sameDest j = false → ¬ seed i → i.privileged = true → (s.slot c n).fw = false →
              traps v 0x03 (BitVec.ofNat 64 w)))

/-- Every instruction and event runs: exec answers a next state for every instruction in every state, and a step stops only where the
device is off with nothing at hand (R278, R282). -/
def Obligations.EveryInstructionRuns : Prop :=
  (∀ (i : Instr) (s : State), ∃ t, exec i s = .next t) ∧
  (∀ (s : State), (∃ t, step s = .next t) ∨
    (step s = .fault .deviceOff ∧ s.on = false ∧ s.issuing = none ∧ s.agenda = []))

/-- The homes and the memory behind them keep their canonical form in every step. -/
def Obligations.StepKeepsMemoryCanonical : Prop :=
  ∀ (s t : State), s.canonical → step s = .next t → t.canonical

/-- The machine after reset has its memory in canonical form. -/
def Obligations.ResetMemoryIsCanonical : Prop := State.reset.canonical

/-- R23, R28: after reset partition 0 has the whole grid, all octets, exits 0-63 and counter IDs 0-4,095, and VF 0 the partition, FAB and
roots of R23; VF 0 runs on every core, with %CYC, %TVEC, %DQBASE and the counters 0. That VF 0 holds the service cores too is the
model's choice (assumption log entry 4). -/
def Obligations.ResetLeavesWhatTheManualGives : Prop :=
  (∀ p, State.reset.part 0 = some p →
    p.cx0 = 0 ∧ p.cy0 = 0 ∧ p.cw = 16 ∧ p.ch = 8 ∧ p.octets = List.range 64 ∧ p.spanBase = 0 ∧ p.spanLog = 6 ∧
    p.cidBase = 0 ∧ p.cidCount = 4096) ∧ (State.reset.part 0).isSome = true ∧
  (∀ v, State.reset.vfRec 0 = some v →
    v.w0.toNat / 2 ^ 16 % 16 = 0 ∧ v.w0.getLsbD 20 = false ∧ v.w1 = 0x10000 ∧ v.w2 = 0x20000) ∧
  (State.reset.vfRec 0).isSome = true ∧
  ∀ c, (State.reset.core c).vf = some 0 ∧ (State.reset.core c).cyc = 0 ∧ (State.reset.cvf c).tvec = 0 ∧
    (State.reset.cvf c).dqbase = 0 ∧ (State.reset.cvf c).pmEn = 0 ∧ (State.reset.cvf c).pmOvf = 0 ∧
    (State.reset.cvf c).pmTgt = 0 ∧ ∀ n : Fin 8, (State.reset.cvf c).pmc[n] = 0 ∧ (State.reset.cvf c).pmsel[n] = 0

/-! ### Integer instructions -/

namespace Sys2Proof.Claims

/-- An instruction answers the state in which one general register holds a value and nothing else has changed. -/
def Result (i : Instr) (s : State) (d : BitVec 6) (v : Word) : Prop := Answers i s (WritesG s d v)

/-- An instruction answers the state in which one predicate holds a value and nothing else has changed. -/
def PResult (i : Instr) (s : State) (q : BitVec 3) (v : Bool) : Prop := Answers i s (WritesP s q v)

/-- The low half of a register (R283: Src of a form with W = 1). -/
def lo (v : Word) : Half := v.truncate 32

/-- A register operation of two sources (R283, R284): over 64 bits, and with W = 1 over 32 bits with the result sign-extended. -/
def Op2 (mk : BitVec 6 → BitVec 6 → BitVec 6 → BitVec 1 → Instr) (f : Word → Word → Word) (g : Half → Half → Half) : Prop :=
  ∀ (s : State) (d a b : BitVec 6),
    Result (mk d a b 0) s d (f (s.rg a) (s.rg b)) ∧
    Result (mk d a b 1) s d ((g (lo (s.rg a)) (lo (s.rg b))).signExtend 64)

/-- A register operation of one source whose result a predicate describes. -/
def Op1 (mk : BitVec 6 → BitVec 6 → BitVec 1 → Instr) (f : Word → Word → Prop) (g : Half → Half → Prop) : Prop :=
  ∀ (s : State) (d a : BitVec 6),
    (∃ v, f (s.rg a) v ∧ Result (mk d a 0) s d v) ∧ (∃ v, g (lo (s.rg a)) v ∧ Result (mk d a 1) s d (v.signExtend 64))

/-- The number of 0 bits above the highest 1 of a pattern, its width for 0. -/
def IsClz {n : Nat} (x v : BitVec n) : Prop :=
  (x = 0 ∧ v.toNat = n) ∨ (v.toNat < n ∧ x.getMsbD v.toNat = true ∧ ∀ j, j < v.toNat → x.getMsbD j = false)

/-- The number of 0 bits below the lowest 1 of a pattern, its width for 0. -/
def IsCtz {n : Nat} (x v : BitVec n) : Prop :=
  (x = 0 ∧ v.toNat = n) ∨ (v.toNat < n ∧ x.getLsbD v.toNat = true ∧ ∀ j, j < v.toNat → x.getLsbD j = false)

/-- The number of 1 bits of a pattern. -/
def IsPopc {n : Nat} (x v : BitVec n) : Prop := v.toNat = (List.range n).countP fun i => x.getLsbD i

/-- The bytes of a pattern of m bytes in reverse order. -/
def IsBswap {n : Nat} (m : Nat) (x v : BitVec n) : Prop :=
  ∀ i, i < m → v.extractLsb' (8 * i) 8 = x.extractLsb' (8 * (m - 1 - i)) 8

/-- The high half of a product of signed numbers. -/
def mulHigh (x y : Word) : Word := (x.signExtend 128 * y.signExtend 128).extractLsb' 64 64
/-- The high half of a product of unsigned numbers. -/
def mulHighU (x y : Word) : Word := (x.zeroExtend 128 * y.zeroExtend 128).extractLsb' 64 64
/-- The high half of a 32-bit product of signed numbers. -/
def mulHigh32 (x y : Half) : Half := (x.signExtend 64 * y.signExtend 64).extractLsb' 32 32
/-- The high half of a 32-bit product of unsigned numbers. -/
def mulHighU32 (x y : Half) : Half := (x.zeroExtend 64 * y.zeroExtend 64).extractLsb' 32 32

/-- A division or remainder: its slot parks with the result on its way, and the reply of the A-word, whenever it comes, writes it to the
destination and to no other register (R33, R302). -/
def Divides (mk : BitVec 6 → BitVec 6 → BitVec 6 → BitVec 1 → Instr) (f : Word → Word → Word) (g : Half → Half → Half) : Prop :=
  ∀ (s : State) (d a b : BitVec 6) (w : BitVec 1), s.me.cWait = none →
    let v : Word := if w = 1 then (g (lo (s.rg a)) (lo (s.rg b))).signExtend 64 else f (s.rg a) (s.rg b)
    Answers (mk d a b w) s fun t =>
      Becomes s t { s.me with mode := .parked, aWait := t.me.aWait } ∧
      Answers (.parkReply s.cur.core s.cur.slot true) t fun u =>
        Regs s.me u.me d v ∧ u.me.mode = .ready ∧ u.me.aWait = none ∧ u.mem = s.mem

end Sys2Proof.Claims

open Sys2Proof.Claims

/-- R284, R301, R323: the register operations that finish at once write their result, at both widths, and nothing else. -/
def Sys2Proof.Claims.IntegerRegisterResults : Prop :=
  Op2 .add (· + ·) (· + ·) ∧ Op2 .sub (· - ·) (· - ·) ∧ Op2 .and (· &&& ·) (· &&& ·) ∧ Op2 .or (· ||| ·) (· ||| ·) ∧
  Op2 .xor (· ^^^ ·) (· ^^^ ·) ∧ Op2 .andn (fun x y => x &&& ~~~y) (fun x y => x &&& ~~~y) ∧
  Op2 .sll (fun x y => x <<< (y.toNat % 64)) (fun x y => x <<< (y.toNat % 32)) ∧
  Op2 .srl (fun x y => x >>> (y.toNat % 64)) (fun x y => x >>> (y.toNat % 32)) ∧
  Op2 .sra (fun x y => x.sshiftRight (y.toNat % 64)) (fun x y => x.sshiftRight (y.toNat % 32)) ∧
  Op2 .min (fun x y => if x.sle y then x else y) (fun x y => if x.sle y then x else y) ∧
  Op2 .max (fun x y => if x.sle y then y else x) (fun x y => if x.sle y then y else x) ∧
  Op2 .minu (fun x y => if x ≤ y then x else y) (fun x y => if x ≤ y then x else y) ∧
  Op2 .maxu (fun x y => if x ≤ y then y else x) (fun x y => if x ≤ y then y else x) ∧
  Op2 .mul (· * ·) (· * ·) ∧ Op2 .mulh mulHigh mulHigh32 ∧ Op2 .mulhu mulHighU mulHighU32

/-- R284, R323: CLZ, CTZ, POPC and BSWAP. -/
def Sys2Proof.Claims.BitCountResults : Prop :=
  Op1 .clz IsClz IsClz ∧ Op1 .ctz IsCtz IsCtz ∧ Op1 .popc IsPopc IsPopc ∧ Op1 .bswap (IsBswap 8) (IsBswap 4)

/-- R284, R301, R323: what the integer operations between registers answer, the counts of bits among them. -/
def Obligations.IntegerOperationResults : Prop :=
  Claims.IntegerRegisterResults ∧ Claims.BitCountResults


/-- R301, R302, R323: divisions: all ones for a zero divisor, the dividend for the overflow, remainders with the sign of the
dividend. -/
def Obligations.DivisionResults : Prop :=
  Divides .div (fun x y => if y = 0 then BitVec.allOnes 64 else x.sdiv y) (fun x y => if y = 0 then BitVec.allOnes 32 else x.sdiv y) ∧
  Divides .divu (fun x y => if y = 0 then BitVec.allOnes 64 else x / y) (fun x y => if y = 0 then BitVec.allOnes 32 else x / y) ∧
  Divides .rem (fun x y => if y = 0 then x else x.srem y) (fun x y => if y = 0 then x else x.srem y) ∧
  Divides .remu (fun x y => if y = 0 then x else x % y) (fun x y => if y = 0 then x else x % y)

/-- R285, R289, R319, R324: the immediate forms, LUI and ADDPC. -/
def Obligations.IntegerImmediateResults : Prop :=
  ∀ (s : State) (d a : BitVec 6) (i : BitVec 12) (k : BitVec 6) (u : BitVec 18),
    Result (.addi d a i) s d (s.rg a + i.signExtend 64) ∧ Result (.andi d a i) s d (s.rg a &&& i.signExtend 64) ∧
    Result (.ori d a i) s d (s.rg a ||| i.signExtend 64) ∧ Result (.xori d a i) s d (s.rg a ^^^ i.signExtend 64) ∧
    Result (.slli d a 0 k) s d (s.rg a <<< k.toNat) ∧ Result (.srli d a 0 k) s d (s.rg a >>> k.toNat) ∧
    Result (.srai d a 0 k) s d ((s.rg a).sshiftRight k.toNat) ∧
    (k.toNat < 32 →
      Result (.slli d a 1 k) s d ((lo (s.rg a) <<< k.toNat).signExtend 64) ∧
      Result (.srli d a 1 k) s d ((lo (s.rg a) >>> k.toNat).signExtend 64) ∧
      Result (.srai d a 1 k) s d (((lo (s.rg a)).sshiftRight k.toNat).signExtend 64)) ∧
    Result (.lui d u) s d (u.signExtend 64 <<< 12) ∧
    Result (.addpc d u) s d (s.me.pc + (u.signExtend 64 <<< 12))

/-- R295, R296: the compares write the predicate of their condition code: 0 EQ, 1 NE, 2 LT, 3 GE, 4 LTU, 5 GEU. -/
def Sys2Proof.Claims.CompareResults : Prop :=
  ∀ (s : State) (q : BitVec 3) (a b : BitVec 6) (i : BitVec 12),
    let x := s.rg a; let y := s.rg b; let z : Word := i.signExtend 64
    (PResult (.cmp q 0 a b 0) s q (x == y) ∧ PResult (.cmp q 1 a b 0) s q (x != y) ∧ PResult (.cmp q 2 a b 0) s q (x.slt y) ∧
      PResult (.cmp q 3 a b 0) s q (!x.slt y) ∧ PResult (.cmp q 4 a b 0) s q (x.ult y) ∧ PResult (.cmp q 5 a b 0) s q (!x.ult y)) ∧
    (PResult (.cmp q 0 a b 1) s q (lo x == lo y) ∧ PResult (.cmp q 1 a b 1) s q (lo x != lo y) ∧
      PResult (.cmp q 2 a b 1) s q ((lo x).slt (lo y)) ∧ PResult (.cmp q 3 a b 1) s q (!(lo x).slt (lo y)) ∧
      PResult (.cmp q 4 a b 1) s q ((lo x).ult (lo y)) ∧ PResult (.cmp q 5 a b 1) s q (!(lo x).ult (lo y))) ∧
    (PResult (.cmpi q 0 a i) s q (x == z) ∧ PResult (.cmpi q 1 a i) s q (x != z) ∧ PResult (.cmpi q 2 a i) s q (x.slt z) ∧
      PResult (.cmpi q 3 a i) s q (!x.slt z) ∧ PResult (.cmpi q 4 a i) s q (x.ult z) ∧ PResult (.cmpi q 5 a i) s q (!x.ult z))

/-- R320, R325, R329: predicate logic with the negate bits, SEL, and the moves between `p` and a general register. -/
def Sys2Proof.Claims.PredicateResults : Prop :=
  ∀ (s : State) (d a b : BitVec 3) (x y : BitVec 1) (g h k : BitVec 6),
    let u := s.rp a != (x == 1); let v := s.rp b != (y == 1)
    PResult (.pand d a b x y) s d (u && v) ∧ PResult (.por d a b x y) s d (u || v) ∧
    PResult (.pxor d a b x y) s d (u ^^ v) ∧ PResult (.pandn d a b x y) s d (u && !v) ∧
    Result (.sel g h k a) s g (if s.rp a then s.rg h else s.rg k) ∧
    (∃ w : Word, (∀ n, w.getLsbD n = (decide (n < 8) && s.rp (BitVec.ofNat 3 n))) ∧ Result (.movpG g) s g w) ∧
    Answers (.movpP h) s fun t => Becomes s t { s.me with p := t.me.p } ∧
      t.me.p.getLsbD 0 = true ∧ ∀ n : Nat, 0 < n → n < 8 → t.me.p.getLsbD n = (s.rg h).getLsbD n

/-- R295, R296, R320, R325, R329: compares, predicate logic and moves, and the selection between registers. -/
def Obligations.ComparesAndPredicates : Prop :=
  Claims.CompareResults ∧ Claims.PredicateResults

/-! ### Control flow, traps, semaphores -/

/-- R293, R315, R316: branches take effect on the next address alone; jumps link the sequential successor (R59), and a JALR target
that is not 4-byte aligned traps. -/
def Sys2Proof.Claims.BranchesAndJumps : Prop :=
  ∀ (s : State) (q : BitVec 3) (o : BitVec 20) (d a : BitVec 6) (j : BitVec 18) (i : BitVec 12),
    let link : Word := s.me.pc + (if s.cur.pair then 8 else 4)
    let target : Word := s.rg a + i.signExtend 64
    Answers (.br q o) s (fun t => Becomes s t
      { s.me with nextPc := if s.rp q then s.me.pc + 4 * o.signExtend 64 else s.me.nextPc }) ∧
    Answers (.brn q o) s (fun t => Becomes s t
      { s.me with nextPc := if s.rp q then s.me.nextPc else s.me.pc + 4 * o.signExtend 64 }) ∧
    Answers (.jal d j) s (fun t => Becomes s t { s.me with g := t.me.g, nextPc := s.me.pc + 4 * j.signExtend 64 } ∧
      Regs s.me t.me d link) ∧
    (target.getLsbD 0 = false → target.getLsbD 1 = false →
      Answers (.jalr d a i) s fun t => Becomes s t { s.me with g := t.me.g, nextPc := target } ∧ Regs s.me t.me d link) ∧
    ((target.getLsbD 0 = true ∨ target.getLsbD 1 = true) → Traps (.jalr d a i) s 0x04 target)

/-- R224, R225, R227: TRAP takes trap 0x09 with its code; TRET returns to %TPC and clears IN_TRAP, and a barrier mark of another pc
(R298), whose bundle the handler has skipped, goes at its release, or now where that has come; outside a handler it takes trap 0x01 with the word in %TVAL, bit 32 set for the second word of a pair. -/
def Sys2Proof.Claims.TrapEntryAndReturn : Prop :=
  (∀ (s : State) (i : BitVec 18), Traps (.trap i) s 0x09 (i.zeroExtend 64)) ∧
  (∀ s : State, s.src.slot.inTrap = true → Answers .tret s fun t =>
    Becomes s t { s.me with
      nextPc := s.me.tpc, tstat := s.me.tstat &&& 0xFFFFFFFFFFFFFFFE
      arrived := (s.me.arrived.filter fun m => decide (m.pc = s.me.tpc ∨ m.released = false)).map fun m =>
        { m with again := if m.pc = s.me.tpc then m.again else false } }) ∧
  (∀ s : State, s.src.slot.inTrap = false →
    Traps .tret s 0x01 (BitVec.ofNat 64 (s.cur.word.toNat + if s.cur.pairA then 2 ^ 32 else 0)))

/-- A trap of a slot with a cause and a value has ended its population p (R228): it is reported with GTID, cause, %TPC and %TVAL, the
slot is FREE, no slot of a core holds the population, and other populations keep their record. -/
def Sys2Proof.Claims.EndsPop (p c n cause : Nat) (val : Word) (s t : State) : Prop :=
  t.reports = s.reports ++ [.fatal p (s.slot c n).gtid cause (s.slot c n).pc val] ∧
  (∃ y, FMap.find? t.pops p = some y ∧ y.status = .fatal) ∧
  (t.slot c n).mode = .free ∧ (∀ d m, m < 16 → (t.slot d m).pop ≠ some p) ∧
  ∀ q, q ≠ p → FMap.find? t.pops q = FMap.find? s.pops q

/-- R223, R228: a synchronous trap in a handler, or any trap with %TVEC = 0, is fatal to the population, whatever its cause: shown for
taking a trap, for the traps of TRAP, of DBRK without a debugger, of a TRET outside a handler, of a misaligned JALR and DTLD, and for a
lone word that is no instruction. -/
def Sys2Proof.Claims.FatalTrapEndsThePopulation : Prop :=
  ∀ (s : State) (p : Nat) (x : Pop), FMap.find? s.pops p = some x →
    (∀ (c n cause : Nat) (sync : Bool) (val : Word), (s.slot c n).pop = some p →
      ((s.cvf c).tvec = 0 ∨ (sync = true ∧ (s.slot c n).inTrap = true)) →
      Claims.EndsPop p c n cause val s (s.takeTrap c n sync cause val)) ∧
    (s.me.pop = some p → ((s.cvf s.cur.core).tvec = 0 ∨ s.me.inTrap = true) →
      let ends := Claims.EndsPop p s.cur.core s.cur.slot
      (∀ i : BitVec 18, Answers (.trap i) s (ends 0x09 (i.zeroExtend 64) s) ∧
        (s.attached = false → Answers (.dbrk i) s (ends 0x0A (i.zeroExtend 64) s))) ∧
      (s.src.slot.inTrap = false → Answers .tret s
        (ends 0x01 (BitVec.ofNat 64 (s.cur.word.toNat + if s.cur.pairA then 2 ^ 32 else 0)) s)) ∧
      (∀ (d a : BitVec 6) (i : BitVec 12),
        let target : Word := s.rg a + i.signExtend 64
        (target.getLsbD 0 = true ∨ target.getLsbD 1 = true) → Answers (.jalr d a i) s (ends 0x04 target s)) ∧
      ∀ (a : BitVec 6) (y : BitVec 2), (s.rg a).toNat % 1024 ≠ 0 → Answers (.dtld a y) s (ends 0x04 (s.rg a) s)) ∧
    ∀ (r : State) (c n w : Nat), r.issuing = some (c, n) →
      ({ r with issuing := none, cur := { core := c, slot := n } } : State).fetchWord c (r.slot c n).pc = .word w s →
      fld w 31 1 = 1 → (∀ i, ¬ (decode w = some i ∧ i.wellFormed = true)) → (s.slot c n).pop = some p →
      ((s.cvf c).tvec = 0 ∨ (s.slot c n).inTrap = true) →
      ∃ t, step r = .next t ∧ Claims.EndsPop p c n 0x01 (BitVec.ofNat 64 w) s t

/-- R30, R226: an asynchronous cause waits while IN_TRAP = 1; else the first of 0x0B, 0x10, 0x0E, 0x12, 0x0F that is pending is taken,
with the timer's %TCMP becoming 0, and the others stay pending. -/
def Sys2Proof.Claims.AsynchronousCausesInOrder : Prop :=
  ∀ (x : Slot) (o : BitVec 8),
    (x.inTrap = true → State.nextAsync x o = none) ∧
    (x.inTrap = false →
      (∀ v, x.pendVpoison = some v → State.nextAsync x o = some (0x0B, v, { x with pendVpoison := none })) ∧
      (x.pendVpoison = none →
        (∀ v, x.pendHang = some v → State.nextAsync x o = some (0x10, v, { x with pendHang := none })) ∧
        (x.pendHang = none →
          (∀ v r, x.pendEngine = v :: r → State.nextAsync x o = some (0x0E, v, { x with pendEngine := r })) ∧
          (x.pendEngine = [] →
            (x.pendOvf = true → State.nextAsync x o = some (0x12, o.zeroExtend 64, { x with pendOvf := false })) ∧
            (x.pendOvf = false →
              (∀ v, x.pendTimer = some v → State.nextAsync x o = some (0x0F, v, { x with pendTimer := none, tcmp := 0 })) ∧
              (x.pendTimer = none → State.nextAsync x o = none))))))

/-- R30, R223, R226, R228: fatal traps end their population, and asynchronous causes are taken in their order. -/
def Obligations.FatalAndHeldTraps : Prop :=
  Claims.FatalTrapEndsThePopulation ∧ Claims.AsynchronousCausesInOrder


/-- R305: DBRK with a debugger attached to the partition halts the slot, from whichever mode, and reports the tag; where the A-word of
its pair has its result outstanding it does so once the bundle has completed, with the pc at the successor. Without a debugger it takes
trap 0x0A. -/
def Sys2Proof.Claims.BreakpointHaltsOrTraps : Prop :=
  (∀ (s : State) (i : BitVec 18),
    (s.attached = true → s.me.aWait = none → Answers (.dbrk i) s fun t =>
      t.reports = s.reports ++ [.dbrk s.cur.core s.cur.slot (i.zeroExtend 64)] ∧
      Becomes s { t with reports := s.reports } { s.me with mode := .halted, haltFrom := s.me.mode, stop := false }) ∧
    (s.attached = true → s.me.aWait.isSome = true → Answers (.dbrk i) s fun t =>
      Becomes s t { s.me with mode := .parked, cWait := some (.partner 0), cont := some (.halt (i.zeroExtend 64)) }) ∧
    (s.attached = false → Traps (.dbrk i) s 0x0A (i.zeroExtend 64))) ∧
  ∀ (s : State) (c n : Nat) (v tag : Word), (s.slot c n).mode = .parked → (s.slot c n).aWait = none →
    (s.slot c n).cWait = some (.partner v) → (s.slot c n).cont = some (.halt tag) →
    Answers (.parkReply c n false) s fun t =>
      t.reports = s.reports ++ [.dbrk c n tag] ∧ (t.slot c n).mode = .halted ∧ (t.slot c n).haltFrom = .ready ∧
      (t.slot c n).pc = (s.slot c n).nextPc ∧ (t.slot c n).g = (s.slot c n).g

/-- R224, R225, R227, R298, R305: trap entry, the return from it, software traps and breakpoints. -/
def Obligations.TrapsAreTakenAndLeft : Prop :=
  Claims.TrapEntryAndReturn ∧ Claims.BreakpointHaltsOrTraps


/-- R330: SEMP takes a unit or joins the waiters and parks with wait code 4; SEMV wakes the head of the waiters, or adds a unit up to
65,535. -/
def Sys2Proof.Claims.SemaphoresCount : Prop :=
  ∀ (s : State) (n : BitVec 4),
    let c := s.cur.core
    let count (t : State) (m : Nat) : Nat := FMap.getD (t.cvf c).sems m 0
    let waiters (t : State) (m : Nat) : List Nat := FMap.getD (t.cvf c).semWait m []
    (0 < count s n.toNat → Answers (.semp n) s fun t => OnlyCvf c s t ∧
      t.cvf c = { s.cvf c with sems := (t.cvf c).sems } ∧
      ∀ m, count t m = if m = n.toNat then count s m - 1 else count s m) ∧
    (count s n.toNat = 0 → Answers (.semp n) s fun t => OnlyCvf c s t ∧
      t.me = { s.me with mode := .parked, cWait := some (.semp n.toNat) } ∧ t.me.waitCode = some 4 ∧
      (∀ m, m ≠ s.cur.slot → t.slot c m = s.slot c m) ∧
      (∀ m, count t m = count s m) ∧
      ∀ m, waiters t m = if m = n.toNat then waiters s m ++ [s.cur.slot] else waiters s m) ∧
    (∀ w r, waiters s n.toNat = w :: r → Answers (.semv n) s fun t => OnlyCvf c s t ∧
      t.slot c w = { s.slot c w with cWait := some (.done []) } ∧ (∀ m, m ≠ w → t.slot c m = s.slot c m) ∧
      (∀ m, count t m = count s m) ∧ ∀ m, waiters t m = if m = n.toNat then r else waiters s m) ∧
    (waiters s n.toNat = [] → Answers (.semv n) s fun t => OnlyCvf c s t ∧
      t.cvf c = { s.cvf c with sems := (t.cvf c).sems } ∧
      ∀ m, count t m = if m = n.toNat then min (count s m + 1) 65535 else count s m)

/-- R59, R293, R315, R316, R330: branches and jumps set the next address and the link, and semaphores count. -/
def Obligations.ControlFlowAndSemaphores : Prop :=
  Claims.BranchesAndJumps ∧ Claims.SemaphoresCount

/-! ### Memory instructions -/

namespace Sys2Proof.Claims

/-- Bytes of memory as one little-endian value (R4): lowest address first. -/
def le2 (m : Memory) (k : Nat) : BitVec 16 := m.get (k + 1) ++ m.get k
/-- Four bytes of memory. -/
def le4 (m : Memory) (k : Nat) : Half := le2 m (k + 2) ++ le2 m k
/-- Eight bytes of memory. -/
def le8 (m : Memory) (k : Nat) : Word := le4 m (k + 4) ++ le4 m k

/-- The key of the own-scratchpad byte that an address in the alias names (R141). -/
def ownKey (s : State) (va : Word) : Nat := spKey (s.vk s.cur.core) s.cur.core (va.toNat - 0x01E000000000)

/-- An aligned access of n bytes to the own scratchpad through the alias, whose bank the running VF owns (R139, R141, R242): a VF runs on
the core, and the core numbers of the model are below 4,096. -/
def OwnSp (s : State) (va : Word) (n : Nat) : Prop :=
  0x01E000000000 ≤ va.toNat ∧ va.toNat < 0x01E000040000 ∧ va.toNat % n = 0 ∧ s.cur.core < 4096 ∧
  (s.core s.cur.core).vf.isSome = true ∧
  s.spOwned s.cur.core (s.runVf s.cur.core) (va.toNat - 0x01E000000000) = true

/-- ... and neither a store still in the core's PQ nor poison stands in the way (R155, R161, R163). -/
def OwnSpRead (s : State) (va : Word) (n : Nat) : Prop :=
  OwnSp s va n ∧ (s.core s.cur.core).covered (ownKey s va) n = false ∧ s.poisoned (ownKey s va) n = false

/-- A load of the own scratchpad that finds its bytes at home. -/
def LoadsSp (i : Instr) (s : State) (va : Word) (n : Nat) (d : BitVec 6) (v : Word) : Prop :=
  OwnSpRead s va n → Result i s d v

/-- A store of n bytes to the own scratchpad enters the PQ as its youngest entry (R157, R334): the bytes of the register, the mark it
carries; the homes, the slots and every other core stand. -/
def StoresSp (i : Instr) (s : State) (va : Word) (n : Nat) (v : Word) (mark : Option Mark) : Prop :=
  OwnSp s va n → (s.core s.cur.core).pq.length < 32 → Answers i s fun t =>
    OnlyCore s.cur.core s t ∧ (t.core s.cur.core).vfs = (s.core s.cur.core).vfs ∧
    (t.core s.cur.core).seq = (s.core s.cur.core).seq + 1 ∧
    ∃ e : PqEntry, (t.core s.cur.core).pq = (s.core s.cur.core).pq ++ [e] ∧
      e.seq = ((s.core s.cur.core).seq + 1).toNat ∧ e.key = ownKey s va ∧ e.bytes.length = n ∧ e.mark = mark ∧
      ∀ j, j < n → e.bytes[j]? = some (v.extractLsb' (8 * j) 8)

/-- A store of n bytes to the own scratchpad that finds the PQ full parks with its entry (R157): nothing else changes. -/
def WaitsForRoom (i : Instr) (s : State) (va : Word) (n : Nat) (v : Word) (mark : Option Mark) : Prop :=
  OwnSp s va n → 32 ≤ (s.core s.cur.core).pq.length → Answers i s fun t =>
    Becomes s t { s.me with mode := .parked, cWait := t.me.cWait } ∧
    ∃ e : PqEntry, t.me.cWait = some (.pqFull [e] [] []) ∧ e.key = ownKey s va ∧ e.bytes.length = n ∧ e.mark = mark ∧
      ∀ j, j < n → e.bytes[j]? = some (v.extractLsb' (8 * j) 8)

/-- An operation of n bytes at a home in the own scratchpad: it parks, its request reaches the home, and the reply writes the
registers; no acquire and no mark is asked for. At home the bytes become those of `new`, and everything outside them stands. -/
def AtHomeSp (i : Instr) (s : State) (va : Word) (n : Nat) (d : BitVec 6) (old : Word) (new : Option Nat) : Prop :=
  OwnSpRead s va n → s.me.aWait = none → s.me.cont = none →
  Answers i s fun t => t.me.mode = .parked ∧ t.mem = s.mem ∧
    Answers (.sliceRequest s.nextReq) t fun u =>
      (match new with
        | none => u.mem = s.mem
        | some x => u.mem.read (ownKey s va) n = leBytes n x ∧
          ∀ a, a < ownKey s va ∨ ownKey s va + n ≤ a → u.mem.get a = s.mem.get a) ∧
      Answers (.parkReply s.cur.core s.cur.slot false) u fun v =>
        Regs s.me v.me d old ∧ v.me.mode = .ready ∧ v.me.cWait = none ∧ v.mem = u.mem

/-- An atomic operation at both widths (R286, R290): the old value sign-extended, the new one at home. -/
def Amo (mk : BitVec 6 → BitVec 6 → BitVec 6 → BitVec 2 → BitVec 2 → BitVec 1 → Instr)
    (f : Word → Word → Word) (g : Half → Half → Half) : Prop :=
  ∀ (s : State) (d a b : BitVec 6) (y o : BitVec 2), (y = 0 ∨ (y = 1 ∧ o = 0)) →
    let k := ownKey s (s.rg a)
    AtHomeSp (mk d a b y o 0) s (s.rg a) 4 d ((le4 s.mem k).signExtend 64)
      (some (g (le4 s.mem k) (lo (s.rg b))).toNat) ∧
    AtHomeSp (mk d a b y o 1) s (s.rg a) 8 d (le8 s.mem k) (some (f (le8 s.mem k) (s.rg b)).toNat)

/-- The plain loads: their form, their bytes, whether they sign-extend (R317). -/
def loadForms : List ((BitVec 6 → BitVec 6 → BitVec 12 → Instr) × Nat × Bool) :=
  [(.ldb, 1, true), (.ldbu, 1, false), (.ldh, 2, true), (.ldhu, 2, false), (.ldw, 4, true), (.ldwu, 4, false), (.ldd, 8, false)]

/-- The low n bytes of a value, sign- or zero-extended. -/
def extend (n : Nat) (sext : Bool) (v : Nat) : Word :=
  if sext then (BitVec.ofNat (8 * n) v).signExtend 64 else BitVec.ofNat 64 (v % 2 ^ (8 * n))

/-- Counters of a core that select an event of any slot, are enabled and supported, and whose VF no switch is ordered for, add one;
those that select another event stand (R250, R251). -/
def Counts (s t : State) (c ev : Nat) : Prop :=
  (s.core c).switchTo = none → ∀ j : Fin 8,
    ((s.cvf c).pmEn.getLsbD j = true → (s.cvf c).pmUnsup.getLsbD j = false → (s.cvf c).pmsel[j].toNat % 256 = ev →
      (s.cvf c).pmsel[j].getLsbD 12 = false → (t.cvf c).pmc[j] = (s.cvf c).pmc[j] + 1) ∧
    ((s.cvf c).pmsel[j].toNat % 256 ≠ ev → (t.cvf c).pmc[j] = (s.cvf c).pmc[j])

/-- The atomics with a scope, an order and a width: AMOs and CAS (R290, R294). -/
def atomicForms : List (BitVec 6 → BitVec 6 → BitVec 6 → BitVec 2 → BitVec 2 → BitVec 1 → Instr) :=
  [.amoadd, .amoand, .amoor, .amoxor, .amomin, .amomax, .amominu, .amomaxu, .amoswap, .cas]

/-- An ordered atomic of the own scratchpad leaves for its home (R158, R164): it acquires and releases as its order says, and a
releasing one carries the mark of the youngest entry of the PQ, if there is one. -/
def SentOrdered (i : Instr) (s : State) (va : Word) (n : Nat) (y o : BitVec 2) : Prop :=
  OwnSp s va n → (s.core s.cur.core).covered (ownKey s va) n = false → Answers i s fun t =>
    t.me = { s.me with mode := .parked, cWait := some (.request s.nextReq) } ∧ t.mem = s.mem ∧
    ∃ r op, FMap.find? t.reqs s.nextReq = some r ∧ r.kind = .mem op ∧ op.key = ownKey s va ∧ op.size = n ∧
      op.acq = o.getLsbD 0 ∧ op.sys = decide (y = 2) ∧
      op.mark = if o.getLsbD 1 then (s.core s.cur.core).pq.getLast?.map fun e =>
        { core := s.cur.core, seq := e.seq, sys := decide (y = 2), age := s.tick } else none

/-- The words that a core's L view still holds are ones that its PQ holds stores to. -/
def OwnedOnly (s t : State) (c : Nat) : Prop :=
  ∀ e ∈ (t.core c).l1, ∀ w ∈ e.2.words, (s.core c).owned (e.1 * 128 + w.1 * 4) = true

end Sys2Proof.Claims

/-- R161, R317, R318: loads of the own scratchpad write the little-endian value at home, extended as the form says, and change
nothing else; LDA at CORE scope is such a load. -/
def Sys2Proof.Claims.ScratchpadLoads : Prop :=
  ∀ (s : State) (d a : BitVec 6) (i : BitVec 12) (o : BitVec 1),
    let va := s.rg a + i.signExtend 64
    let k := ownKey s va
    let l := ownKey s (s.rg a)
    LoadsSp (.ldb d a i) s va 1 d ((s.mem.get k).signExtend 64) ∧ LoadsSp (.ldbu d a i) s va 1 d ((s.mem.get k).zeroExtend 64) ∧
    LoadsSp (.ldh d a i) s va 2 d ((le2 s.mem k).signExtend 64) ∧ LoadsSp (.ldhu d a i) s va 2 d ((le2 s.mem k).zeroExtend 64) ∧
    LoadsSp (.ldw d a i) s va 4 d ((le4 s.mem k).signExtend 64) ∧ LoadsSp (.ldwu d a i) s va 4 d ((le4 s.mem k).zeroExtend 64) ∧
    LoadsSp (.ldd d a i) s va 8 d (le8 s.mem k) ∧
    LoadsSp (.lda d a 1 0 0 o) s (s.rg a) 1 d ((s.mem.get l).signExtend 64) ∧
    LoadsSp (.lda d a 0 0 0 o) s (s.rg a) 1 d ((s.mem.get l).zeroExtend 64) ∧
    LoadsSp (.lda d a 1 1 0 o) s (s.rg a) 2 d ((le2 s.mem l).signExtend 64) ∧
    LoadsSp (.lda d a 0 1 0 o) s (s.rg a) 2 d ((le2 s.mem l).zeroExtend 64) ∧
    LoadsSp (.lda d a 1 2 0 o) s (s.rg a) 4 d ((le4 s.mem l).signExtend 64) ∧
    LoadsSp (.lda d a 0 2 0 o) s (s.rg a) 4 d ((le4 s.mem l).zeroExtend 64) ∧
    LoadsSp (.lda d a 0 3 0 o) s (s.rg a) 8 d (le8 s.mem l)

/-- R161 step 1: a load whose bytes all stand in the core's PQ takes each from its youngest covering entry, whatever is at home: every
plain load, extended as its form says. -/
def Sys2Proof.Claims.LoadsTakeTheYoungestStore : Prop :=
  ∀ (s : State) (d a : BitVec 6) (i : BitVec 12) (v : Word), ∀ f ∈ loadForms,
    let va := s.rg a + i.signExtend 64
    let n := f.2.1
    let covers (e : PqEntry) (k : Nat) : Prop := e.key ≤ k ∧ k < e.key + e.bytes.length
    OwnSp s va n →
    (∀ j, j < n → ∃ older e younger, (s.core s.cur.core).pq = older ++ e :: younger ∧ covers e (ownKey s va + j) ∧
      (∀ x ∈ younger, ¬ covers x (ownKey s va + j)) ∧ e.bytes[ownKey s va + j - e.key]? = some (v.extractLsb' (8 * j) 8)) →
    Result (f.1 d a i) s d (extend n f.2.2 v.toNat)

/-- R161, R162, R250, R251, R317: a plain load of a cached place in memory that hits the L view writes the value found there, extended as
its form says, and counts under L1HIT (event 4); one that misses while no request of its core waits in a slice's miss table (there it may
find its bytes covered, R153) parks for its sector; one of a place that is not cacheable goes
to its home. -/
def Sys2Proof.Claims.LoadsThroughTheLView : Prop :=
  ∀ (s u : State) (d a : BitVec 6) (i : BitVec 12) (key home : Nat) (cached : Bool), ∀ f ∈ loadForms,
    let c := s.cur.core
    let n := f.2.1
    s.resolve c 0 (s.rg a + i.signExtend 64) n false = (.at (.mem key cached home), u) →
    (u.core c).covered key n = false →
    (∀ (l : L1Line) (w w' : Half), cached = true → FMap.find? (u.core c).l1 (key / 128) = some l → key % n = 0 →
      FMap.find? l.words (key % 128 / 4) = some w → (n = 8 → FMap.find? l.words (key % 128 / 4 + 1) = some w') →
      l.poison = [] → Answers (f.1 d a i) s fun t =>
        Regs s.me t.me d (extend n f.2.2 ((w.toNat + 2 ^ 32 * w'.toNat) / 2 ^ (8 * (key % 4)))) ∧
        t.me.mode = s.me.mode ∧ t.me.cWait = s.me.cWait ∧ t.mem = s.mem ∧ Counts s t c 4) ∧
    (cached = true → FMap.find? (u.core c).l1 (key / 128) = none → (∀ q ∈ u.reqs, q.2.core = c → q.2.waiting = false) →
      Answers (f.1 d a i) s fun t => t.me.mode = .parked ∧ t.me.g = s.me.g ∧ t.mem = s.mem ∧ ∃ fid op x, t.me.cWait = some (.fill fid op) ∧
        (fid, x) ∈ (t.core c).fills ∧ x.line = key / 128 ∧ x.sector = key % 128 / 32) ∧
    (cached = false → Answers (f.1 d a i) s fun t =>
      t.me.mode = .parked ∧ t.me.g = s.me.g ∧ t.mem = s.mem ∧ t.me.cWait = some (.request s.nextReq) ∧
      ∃ r, FMap.find? t.reqs s.nextReq = some r ∧ r.key = key ∧ r.slice = some home ∧ r.cached = false)

/-- R153, R161, R162, R250, R251, R317, R318: loads from the own scratchpad, from the own stores still on their way, and through the L
view. -/
def Obligations.LoadsReadTheirValue : Prop :=
  Claims.ScratchpadLoads ∧ Claims.LoadsTakeTheYoungestStore ∧ Claims.LoadsThroughTheLView


/-- R157, R164, R334, R335: stores of the own scratchpad enter the PQ with the bytes of their register; a release at DEV or SYS carries the
mark of the youngest older entry. -/
def Sys2Proof.Claims.StoresEnterTheQueue : Prop :=
  ∀ (s : State) (d a : BitVec 6) (i : BitVec 12) (z : BitVec 2) (y : BitVec 2) (o : BitVec 1),
    let va := s.rg a + i.signExtend 64
    StoresSp (.stb d a i) s va 1 (s.rg d) none ∧ StoresSp (.sth d a i) s va 2 (s.rg d) none ∧
    StoresSp (.stw d a i) s va 4 (s.rg d) none ∧ StoresSp (.std d a i) s va 8 (s.rg d) none ∧
    ((o = 0 ∨ y = 0) → StoresSp (.str d a z y o) s (s.rg a) (2 ^ z.toNat) (s.rg d) none) ∧
    (y ≠ 0 → StoresSp (.str d a z y 1) s (s.rg a) (2 ^ z.toNat) (s.rg d)
      ((s.core s.cur.core).pq.getLast?.map fun e =>
        { core := s.cur.core, seq := e.seq, sys := decide (y = 2), age := s.tick }))

/-- R157, R164, R331, R334, R335, R336: a store of any form that finds the PQ full parks with its entry, the bytes and the mark that it
would have entered, and STORE_PQ_ENTRY enters the entry once there is room; with the last one entered the store is done, or waits for what
went on the fetch path. The stores of a SPAWN or SYNC run to their end so while their VF is switched out (R240). -/
def Sys2Proof.Claims.FullQueueHoldsTheStore : Prop :=
  (∀ (s : State) (d a : BitVec 6) (i : BitVec 12) (z : BitVec 2) (y : BitVec 2) (o : BitVec 1),
    let va := s.rg a + i.signExtend 64
    let parks := Claims.WaitsForRoom
    parks (.stb d a i) s va 1 (s.rg d) none ∧ parks (.sth d a i) s va 2 (s.rg d) none ∧
    parks (.stw d a i) s va 4 (s.rg d) none ∧ parks (.std d a i) s va 8 (s.rg d) none ∧
    ((o = 0 ∨ y = 0) → parks (.str d a z y o) s (s.rg a) (2 ^ z.toNat) (s.rg d) none) ∧
    (y ≠ 0 → parks (.str d a z y 1) s (s.rg a) (2 ^ z.toNat) (s.rg d)
      ((s.core s.cur.core).pq.getLast?.map fun e =>
        { core := s.cur.core, seq := e.seq, sys := decide (y = 2), age := s.tick }))) ∧
  (∀ (s : State) (c n v : Nat) (e : PqEntry) (es : List PqEntry) (ws : List Wr) (sent : List Nat),
    (s.slotV c v n).cWait = some (.pqFull (e :: es) ws sent) →
    (v = s.vk c ∨ ∀ k, k ≠ v → ∀ fs xs rs, (s.slotV c k n).cWait ≠ some (.pqFull fs xs rs)) →
    (s.core c).pq.length < 32 → Answers (.storePqEntry c n) s fun t =>
      let seq := ((s.core c).seq + 1).toNat
      let went := if State.remoteKey c e.key = true then sent ++ [seq] else sent
      (t.core c).pq = (s.core c).pq ++ [{ e with seq := seq }] ∧ t.mem = s.mem ∧
      t.slotV c v n = { s.slotV c v n with cWait := some (
        if es ≠ [] then .pqFull es ws went else if went = [] then .done ws else .landed went) } ∧
      ∀ k m, (k ≠ v ∨ m ≠ n) → t.slotV c k m = s.slotV c k m)

/-- R157, R164, R240, R331, R334-R336: stores enter the publication queue, and wait where it is full. -/
def Obligations.StoresQueue : Prop :=
  Claims.StoresEnterTheQueue ∧ Claims.FullQueueHoldsTheStore


/-- R163, R286, R290: the nine AMOs at CORE scope, or at DEV with RLX, on the own scratchpad: the old value, sign-extended, is
returned, and the home holds the operation's result and no other byte changes. -/
def Sys2Proof.Claims.AtomicsAtHome : Prop :=
  Amo .amoadd (· + ·) (· + ·) ∧ Amo .amoand (· &&& ·) (· &&& ·) ∧ Amo .amoor (· ||| ·) (· ||| ·) ∧
  Amo .amoxor (· ^^^ ·) (· ^^^ ·) ∧
  Amo .amomin (fun x y => if x.sle y then x else y) (fun x y => if x.sle y then x else y) ∧
  Amo .amomax (fun x y => if x.sle y then y else x) (fun x y => if x.sle y then y else x) ∧
  Amo .amominu (fun x y => if x ≤ y then x else y) (fun x y => if x ≤ y then x else y) ∧
  Amo .amomaxu (fun x y => if x ≤ y then y else x) (fun x y => if x ≤ y then y else x) ∧
  Amo .amoswap (fun _ y => y) (fun _ y => y)

/-- R291, R294: AMOFADD keeps the old value for an absent operand and takes the operand for an absent old value (0xFFFF_FFFF, R85);
CAS writes only where the word equals the expected value. -/
def Sys2Proof.Claims.CasAndFloatAddAtHome : Prop :=
  ∀ (s : State) (d a b : BitVec 6) (y o : BitVec 2), (y = 0 ∨ (y = 1 ∧ o = 0)) →
    let k := ownKey s (s.rg a)
    let old := le4 s.mem k
    AtHomeSp (.cas d a b y o 1) s (s.rg a) 8 d (le8 s.mem k)
      (if le8 s.mem k = s.rg d then some (s.rg b).toNat else none) ∧
    AtHomeSp (.cas d a b y o 0) s (s.rg a) 4 d (old.signExtend 64)
      (if old = lo (s.rg d) then some (lo (s.rg b)).toNat else none) ∧
    (lo (s.rg b) = 0xFFFFFFFF → AtHomeSp (.amofadd d a b y o) s (s.rg a) 4 d (old.zeroExtend 64) (some old.toNat)) ∧
    (lo (s.rg b) = 0x3F800000 → old = 0xFFFFFFFF →
      AtHomeSp (.amofadd d a b y o) s (s.rg a) 4 d (old.zeroExtend 64) (some 0x3F800000)) ∧
    (lo (s.rg b) = 0x3F800000 → old = 0x40000000 →
      AtHomeSp (.amofadd d a b y o) s (s.rg a) 4 d (old.zeroExtend 64) (some 0x40400000))

/-- R158, R160, R163-R166, R290, R291, R294: atomics of every order at DEV and SYS. They leave for their home with what their order asks
for; there the value and the marks change in one step, the mark of a releasing one joining those that stood on the word; an acquiring
one then forces the marks that it read before its own joined, or, with none, self-invalidates the L view at once; and one at SYS that
finds its line in the slice leaves it written to the memory behind. -/
def Sys2Proof.Claims.OrderedAtomics : Prop :=
  (∀ (s : State) (d a b : BitVec 6) (y o : BitVec 2), (y = 1 ∨ y = 2) →
    (∀ f ∈ atomicForms, SentOrdered (f d a b y o 0) s (s.rg a) 4 y o ∧ SentOrdered (f d a b y o 1) s (s.rg a) 8 y o) ∧
    SentOrdered (.amofadd d a b y o) s (s.rg a) 4 y o) ∧
  (∀ (s : State) (rid x : Nat) (r : Req) (op : MemOp) (k : AmoKind), FMap.find? s.reqs rid = some r → r.kind = .mem op →
    op.kind = .amo k → r.waiting = false → r.slice = none → op.slice = none → op.cached = false →
    s.bankReady r.key r.vf = true → s.poisoned op.key op.size = false → (s.core r.core).vf = some r.vf →
    (s.slot r.core r.slot).cWait = some (.request rid) →
    amoNew k op.size (s.home op.key op.size) op.arg.toNat op.cmp.toNat = some x →
    let ms := s.marksAt op.key
    (∀ m, op.mark = some m → (∃ z ∈ ms, z.core = m.core) ∨
      (ms.length < 4 ∧ (ms = [] → s.markVictim (State.spCore op.key) = none))) →
    let wrs : List Wr := [.g op.d (op.result (s.home op.key op.size))]
    Answers (.sliceRequest rid) s fun t =>
      t.mem.read op.key op.size = leBytes op.size x ∧
      (∀ z, z < op.key ∨ op.key + op.size ≤ z → t.mem.get z = s.mem.get z) ∧
      (op.mark = none → t.marksAt op.key = ms) ∧
      (∀ m, op.mark = some m → ∃ w, t.marksAt op.key = addMark ms { m with age := w }) ∧
      (op.acq = false → (t.slot r.core r.slot).cWait = some (.done wrs)) ∧
      (op.acq = true → ms ≠ [] → (t.slot r.core r.slot).cWait =
        some (.acquire (ms.map fun m => { mark := m, asked := false, acked := false }) op.sys wrs true)) ∧
      (op.acq = true → ms = [] → (t.slot r.core r.slot).cWait = some (.done wrs) ∧ OwnedOnly s t r.core)) ∧
  ∀ (s : State) (rid h x : Nat) (r : Req) (op : MemOp) (k : AmoKind) (l : L2Line), FMap.find? s.reqs rid = some r →
    r.kind = .mem op → op.kind = .amo k → r.waiting = false → r.slice = some h → r.cached = true → op.slice = some h →
    op.cached = true → op.sys = true → op.mark = none → r.key = op.key → State.isSp (op.key / 128 * 128) = false →
    s.poisoned op.key op.size = false →
    amoNew k op.size (s.home op.key op.size) op.arg.toNat op.cmp.toNat = some x →
    (s.slice (h / 256)).stalled = [] → (s.slice (h / 256)).line? (h % 256) (op.key / 128) = some l →
    l.sectors.getLsbD (op.key % 128 / 32) = true →
    (s.slice (h / 256)).wb.length < 4 → (s.slice (h / 256)).filter.length < 16 →
    Answers (.sliceRequest rid) s fun t => t.mem.read op.key op.size = leBytes op.size x ∧
      t.behind.read (op.key / 128 * 128) 128 = t.mem.read (op.key / 128 * 128) 128

/-- R85, R158, R160, R163-R166, R286, R290, R291, R294: atomics are performed at their home. -/
def Obligations.AtomicsArePerformedAtHome : Prop :=
  Claims.AtomicsAtHome ∧ Claims.CasAndFloatAddAtHome ∧ Claims.OrderedAtomics


/-- R168, R318: LDA at DEV or SYS without ACQ, and a WAITW whose word differs from the comparand, return the word at home; a WAITW whose
word equals it parks with wait code 1. -/
def Sys2Proof.Claims.ReadsAtHome : Prop :=
  ∀ (s : State) (d a b : BitVec 6) (y : BitVec 2), (y = 1 ∨ y = 2) →
    let k := ownKey s (s.rg a)
    AtHomeSp (.lda d a 0 3 y 0) s (s.rg a) 8 d (le8 s.mem k) none ∧
    AtHomeSp (.lda d a 1 2 y 0) s (s.rg a) 4 d ((le4 s.mem k).signExtend 64) none ∧
    (le8 s.mem k ≠ s.rg b → AtHomeSp (.waitw d a b y 0 1) s (s.rg a) 8 d (le8 s.mem k) none) ∧
    (le4 s.mem k ≠ lo (s.rg b) → AtHomeSp (.waitw d a b y 0 0) s (s.rg a) 4 d ((le4 s.mem k).zeroExtend 64) none) ∧
    (le8 s.mem k = s.rg b → OwnSpRead s (s.rg a) 8 → Answers (.waitw d a b y 0 1) s fun t =>
      t.waitCode s.cur.core t.me = some 1 ∧
      Answers (.sliceRequest s.nextReq) t fun u => u.me.mode = .parked ∧ u.waitCode s.cur.core u.me = some 1 ∧ u.mem = s.mem)

/-- R169: WAITWT watches its word at home with the time-out of a register in cycles; WAITWT_TIMEOUT sets its predicate once the cycle
has come, and before it changes nothing. -/
def Sys2Proof.Claims.WaitWithTimeout : Prop :=
  (∀ (s : State) (q : BitVec 3) (a b f : BitVec 6), OwnSpRead s (s.rg a) 8 →
    le8 s.mem (ownKey s (s.rg a)) = s.rg b → s.rg f ≠ 0 →
    Answers (.waitwt q a b f) s fun t => t.me.mode = .parked ∧ Answers (.sliceRequest s.nextReq) t fun u =>
      u.mem = s.mem ∧ ∃ op, u.me.cWait =
        some (.watch op (some ((s.core s.cur.core).cyc.toNat + (s.rg f).toNat)) q.toNat)) ∧
  (∀ (s : State) (c n u q : Nat) (op : MemOp), (s.slot c n).cWait = some (.watch op (some u) q) →
    Answers (.waitwtTimeout c n) s fun t => OnlySlot c n s t ∧
      t.slot c n = { s.slot c n with cWait :=
        if u ≤ (s.core c).cyc.toNat then some (.done [.p q true]) else (s.slot c n).cWait })

/-- R168, R169, R318: reads at home and waits on home words. -/
def Obligations.HomesAreReadAndAwaited : Prop :=
  Claims.ReadsAtHome ∧ Claims.WaitWithTimeout


/-- R144, R165, R167: FENCE.ACQ at DEV or SYS leaves in the core's L view only words that a store of its PQ owns; a fence at CORE scope
changes nothing; REL and FULL go on at once where the core's entries are home, and published for SYS, FULL with the self-invalidation of
ACQ; else they park until that is so, and then go on in the same way. -/
def Obligations.Fences : Prop :=
  (∀ (s : State) (y o : BitVec 2),
    let c := s.cur.core
    let drops (t : State) : Prop := OnlyCore c s t ∧
      t.core c = { s.core c with l1 := (t.core c).l1, fills := (t.core c).fills } ∧ OwnedOnly s t c
    (o ≠ 0 → Answers (.fence 0 o) s fun t => t = s) ∧
    (y ≠ 0 → Answers (.fence y 1) s drops) ∧
    ((s.core c).pq = [] → (y = 2 → (s.core c).unpub = []) → y ≠ 0 →
      Answers (.fence y 2) s (fun t => t = s) ∧ Answers (.fence y 3) s drops) ∧
    (∀ e, e ∈ (s.core c).pq → e.seq ≤ (s.core c).seq.toNat → y ≠ 0 → (o = 2 ∨ o = 3) →
      Answers (.fence y o) s fun t => Becomes s t { s.me with
        mode := .parked, cWait := some (.drain (s.core c).seq.toNat (decide (y = 2)) (decide (o = 3))) })) ∧
  ∀ (s : State) (c n seq : Nat) (sys acq : Bool), (s.slot c n).mode = .parked → (s.slot c n).aWait = none →
    (s.slot c n).cont = none → (s.slot c n).cWait = some (.drain seq sys acq) →
    (∀ e ∈ (s.core c).pq, seq < e.seq) → (sys = true → ∀ e ∈ (s.core c).unpub, seq < e.seq) →
    Answers (.parkReply c n false) s fun t =>
      (t.slot c n).mode = .ready ∧ (t.slot c n).pc = (s.slot c n).nextPc ∧ (t.slot c n).g = (s.slot c n).g ∧ t.mem = s.mem ∧
      (acq = true → OwnedOnly s t c)

/-- R138, R139, R286, R317, R334: a non-canonical address traps with cause 0x05, and a canonical one that is no multiple of the
access size with 0x04, before any other check and with the address in %TVAL. -/
def Obligations.BadAddressesTrap : Prop :=
  ∀ (s : State) (d a b f : BitVec 6) (i : BitVec 12) (z y o : BitVec 2) (e w x : BitVec 1) (q : BitVec 3),
    let off := s.rg a + i.signExtend 64
    let bad (j : Instr) (va : Word) (n : Nat) : Prop :=
      ((va.toNat / 2 ^ 56 ≠ 0 ∧ va.toNat / 2 ^ 56 ≠ 255) → Traps j s 0x05 va) ∧
      ((va.toNat / 2 ^ 56 = 0 ∨ va.toNat / 2 ^ 56 = 255) → va.toNat % n ≠ 0 → Traps j s 0x04 va)
    let n := if w = 1 then 8 else 4
    bad (.ldb d a i) off 1 ∧ bad (.ldbu d a i) off 1 ∧ bad (.ldh d a i) off 2 ∧ bad (.ldhu d a i) off 2 ∧
    bad (.ldw d a i) off 4 ∧ bad (.ldwu d a i) off 4 ∧ bad (.ldd d a i) off 8 ∧
    bad (.lda d a e z y x) (s.rg a) (2 ^ z.toNat) ∧
    bad (.stb d a i) off 1 ∧ bad (.sth d a i) off 2 ∧ bad (.stw d a i) off 4 ∧ bad (.std d a i) off 8 ∧
    bad (.str d a z y x) (s.rg a) (2 ^ z.toNat) ∧
    bad (.amoadd d a b y o w) (s.rg a) n ∧ bad (.amoand d a b y o w) (s.rg a) n ∧ bad (.amoor d a b y o w) (s.rg a) n ∧
    bad (.amoxor d a b y o w) (s.rg a) n ∧ bad (.amomin d a b y o w) (s.rg a) n ∧ bad (.amomax d a b y o w) (s.rg a) n ∧
    bad (.amominu d a b y o w) (s.rg a) n ∧ bad (.amomaxu d a b y o w) (s.rg a) n ∧ bad (.amoswap d a b y o w) (s.rg a) n ∧
    bad (.amofadd d a b y o) (s.rg a) 4 ∧ bad (.cas d a b y o w) (s.rg a) n ∧
    bad (.waitw d a b y x w) (s.rg a) n ∧ bad (.waitwt q a b f) (s.rg a) 8

/-! ### Homes, slices, publication -/

/-- R159, R160: a PQ entry for a place with no slice array, for one that is not cacheable, or for a line whose sector the slice holds,
reaches its home: its bytes stand there and no other byte changes, its mark replaces the word's marks, and it leaves the PQ; an entry
behind an older one that covers one of its bytes does not move. -/
def Sys2Proof.Claims.PqEntryReachesHome : Prop :=
  ∀ (s : State) (c : Nat) (e : PqEntry), (s.core c).pq.find? (·.seq = e.seq) = some e →
    ((e.slice = none ∨ e.cached = false ∨
        ∃ h l, e.slice = some h ∧ (s.slice (h / 256)).line? (h % 256) (e.key / 128) = some l ∧
          l.sectors.getLsbD (e.key % 128 / 32) = true ∧ (s.slice (h / 256)).entry? (e.key / 128) = none ∧
          (s.slice (h / 256)).stalled = []) → s.bankReady e.key e.vf = true →
      (∀ o ∈ (s.core c).pq, o.seq < e.seq → overlap o.key o.bytes.length e.key e.bytes.length = false) →
      (e.mark = none ∨ State.isSp e.key = false ∨ s.marksAt e.key ≠ []) →
      Answers (.pqDrain c e.seq) s fun t =>
        t.mem.read e.key e.bytes.length = e.bytes ∧
        (∀ a, a < e.key ∨ e.key + e.bytes.length ≤ a → t.mem.get a = s.mem.get a) ∧
        (∃ z, t.marksAt e.key = e.mark.toList.map fun m => { m with age := z }) ∧
        (t.core c).pq = (s.core c).pq.filter (·.seq ≠ e.seq)) ∧
    (∀ o ∈ (s.core c).pq, o.seq < e.seq → overlap o.key o.bytes.length e.key e.bytes.length = true →
      s.bankReady e.key e.vf = true → Answers (.pqDrain c e.seq) s fun t => t = s)

/-- R142, R156, R160: marks of one core merge into one with the larger seq and the wider scope; a mark of another core joins at the
end. -/
def Sys2Proof.Claims.MarksMerge : Prop :=
  ∀ (ms : List Mark) (m : Mark),
    ((∀ x ∈ ms, x.core ≠ m.core) → addMark ms m = ms ++ [m]) ∧
    ((∃ x ∈ ms, x.core = m.core) → (addMark ms m).length = ms.length ∧
      ∀ (i : Nat) (x : Mark), ms[i]? = some x → ∃ y, (addMark ms m)[i]? = some y ∧
        (x.core = m.core → y.core = m.core ∧ y.seq = max x.seq m.seq ∧ (y.sys = true ↔ x.sys = true ∨ m.sys = true)) ∧
        (x.core ≠ m.core → y = x))

/-- R142, R156, R159, R160: publication-queue entries reach their homes, and marks merge. -/
def Obligations.EntriesReachHomeWithTheirMarks : Prop :=
  Claims.PqEntryReachesHome ∧ Claims.MarksMerge


/-- R152, R166: SYS_PUBLISH writes the line of a store that has reached its home to the memory behind it, where an entry of the slice's
write-backs and a place of its filter are free: the memory behind then holds the home's 128 bytes, no other byte of it changes, the homes
stand, and no store to the line is unpublished on any core. -/
def Sys2Proof.Claims.PublicationWritesTheLine : Prop :=
  ∀ (s : State) (c : Nat) (e : PqEntry) (h : Nat), (s.core c).unpub.find? (·.seq = e.seq) = some e → e.slice = some h →
    State.isSp (e.key / 128 * 128) = false →
    (s.slice (h / 256)).wb.length < 4 → (s.slice (h / 256)).filter.length < 16 →
    Answers (.sysPublish c e.seq) s fun t =>
      t.mem = s.mem ∧ t.behind.read (e.key / 128 * 128) 128 = s.mem.read (e.key / 128 * 128) 128 ∧
      (∀ a, a / 128 ≠ e.key / 128 → t.behind.get a = s.behind.get a) ∧
      (∀ d, ∀ q ∈ (t.core d).unpub, q.key / 128 ≠ e.key / 128) ∧
      (t.slice (h / 256)).wb = (s.slice (h / 256)).wb ++ [e.key / 128] ∧
      (t.slice (h / 256)).filter = (s.slice (h / 256)).filter ++ [e.key / 128]

/-- R165: FORCE_REQUEST asks the mark's core, whose PQ alone may shrink; FORCE_ACK is given once the core's entries up to the mark are
home, and not before, and the last one leaves the acquirer with its result and an L view of owned words only. -/
def Sys2Proof.Claims.AcquireForcesMarks : Prop :=
  ∀ (s : State) (c n i : Nat) (fs : List Force) (f : Force) (sys keep : Bool) (ws : List Wr),
    (s.slot c n).cWait = some (.acquire fs sys ws keep) → fs[i]? = some f →
    Answers (.forceRequest c n i) s (fun t =>
      (t.slot c n).cWait = some (.acquire (fs.set i { f with asked := true }) sys ws keep) ∧
      (∀ d, d ≠ f.mark.core → (t.core d).pq = (s.core d).pq) ∧
      (t.core f.mark.core).pq.Sublist (s.core f.mark.core).pq) ∧
    ((f.asked = false ∨ ∃ e ∈ (s.core f.mark.core).pq, e.seq ≤ f.mark.seq) →
      Answers (.forceAck c n i) s fun t => t = s) ∧
    (f.asked = true → (∀ e ∈ (s.core f.mark.core).pq, f.mark.seq < e.seq) →
      ((f.mark.sys = true ∨ sys = true) → ∀ e ∈ (s.core f.mark.core).unpub, f.mark.seq < e.seq) →
      ((fs.set i { f with acked := true }).all (·.acked) = false → Answers (.forceAck c n i) s fun t => OnlySlot c n s t ∧
        (t.slot c n).cWait = some (.acquire (fs.set i { f with acked := true }) sys ws keep)) ∧
      ((fs.set i { f with acked := true }).all (·.acked) = true → Answers (.forceAck c n i) s fun t => OnlyCore c s t ∧
        (t.slot c n).cWait = some (.done ws) ∧
        ∀ e ∈ (t.core c).l1, ∀ w ∈ e.2.words, (s.core c).owned (e.1 * 128 + w.1 * 4) = true))

/-- R152, R165, R166: stores are published, and an acquire forces the marks it has read. -/
def Obligations.PublishingAndAcquiring : Prop :=
  Claims.PublicationWritesTheLine ∧ Claims.AcquireForcesMarks


/-- R162: a sector that returns ends its fill and gives a load that waits for a word of it that word, where nothing has touched the
words since the request. -/
def Sys2Proof.Claims.FillServesItsLoads : Prop :=
  ∀ (s : State) (c fid n : Nat) (f : Fill) (bs : List Byte) (op : MemOp),
    FMap.find? (s.core c).fills fid = some f → f.data = some bs → bs.length = 32 → f.blocked = [] → f.patched = [] →
    f.poison = [] → f.stored = [] → FMap.find? (s.core c).l1 f.line = none → n < 16 → (s.slot c n).cWait = some (.fill fid op) →
    op.size = 4 → op.key % 4 = 0 →
    Answers (.l1Fill c fid) s fun t => OnlyCore c s t ∧ FMap.find? (t.core c).fills fid = none ∧
      (t.slot c n).cWait = some (.done [.g op.d (op.result (leVal ((bs.drop (op.key % 32)).take 4)))])

/-- R152, R161 step 4: a fill's request that finds its sector in the slice reads the sector at home; one whose line is not there, with a
way and a miss-table entry free, waits in the entry of its line. -/
def Sys2Proof.Claims.RequestsMeetTheirSlice : Prop :=
  ∀ (s : State) (rid fid h : Nat) (r : Req) (f : Fill), FMap.find? s.reqs rid = some r → r.kind = .fill fid →
    r.waiting = false → r.cached = true → r.slice = some h →
    let k := s.slice (h / 256)
    k.stalled = [] →
    (∀ l, k.line? (h % 256) (r.key / 128) = some l → l.sectors.getLsbD (r.key % 128 / 32) = true →
      FMap.find? (s.core r.core).fills fid = some f → f.line = r.key / 128 → f.sector = r.key % 128 / 32 →
      Answers (.sliceRequest rid) s fun t =>
        FMap.find? t.reqs rid = none ∧ t.mem = s.mem ∧
        ∃ g, FMap.find? (t.core r.core).fills fid = some g ∧ g.data = some (s.mem.read r.key 32)) ∧
    (∀ w, k.line? (h % 256) (r.key / 128) = none → k.entry? (r.key / 128) = none → k.miss.length < 28 →
      w < 16 - k.resv → (∀ l ∈ k.lines (h % 256), l.way ≠ w) → Answers (.sliceRequest rid) s fun t =>
        FMap.find? t.reqs rid = some { r with waiting := true, tag := 1 } ∧ t.mem = s.mem ∧
        ∃ e, (t.slice (h / 256)).entry? (r.key / 128) = some e ∧ rid ∈ e.waiters ∧
          (FMap.find? e.pend (r.key % 128 / 32)).isSome = true)

/-- R152, R153: a sector's return makes it valid in its line and ends its fill; an entry with nothing outstanding is freed; a write's
acknowledgement frees its write-back entry and its place in the filter. -/
def Sys2Proof.Claims.SliceCompletions : Prop :=
  (∀ (s : State) (k line sector : Nat) (e : MissEntry) (m : BitVec 32), (s.slice k).entry? line = some e →
    FMap.find? e.pend sector = some m → sector < 4 → Answers (.l2FillReturn k line sector) s fun t =>
      (∀ set, ∀ l ∈ (t.slice k).lines set, l.line = line → l.sectors.getLsbD sector = true) ∧
      ∀ e', (t.slice k).entry? line = some e' → FMap.find? e'.pend sector = none) ∧
  (∀ (s : State) (k line : Nat) (e : MissEntry), (s.slice k).entry? line = some e → e.pend = [] → e.waiters = [] →
    (∀ x ∈ (s.slice k).miss, x.line = line → x = e) → (s.slice k).stalled = [] → Answers (.missEntryFree k line) s fun t =>
      (t.slice k).entry? line = none ∧ (t.slice k).sets = (s.slice k).sets ∧ t.mem = s.mem) ∧
  (∀ (s : State) (k line : Nat), line ∈ (s.slice k).filter → (s.slice k).filterWait = [] → (s.slice k).stalled = [] →
    Answers (.writebackAck k line) s fun t =>
      (t.slice k).wb = (s.slice k).wb.erase line ∧ (t.slice k).filter = (s.slice k).filter.erase line ∧ t.mem = s.mem)

/-- R152, R153, R161, R162: fills reach loads, requests meet their slice, and slices complete what is outstanding. -/
def Obligations.SlicesServe : Prop :=
  Claims.FillServesItsLoads ∧ Claims.RequestsMeetTheirSlice ∧ Claims.SliceCompletions

/-! ### Floating arithmetic, conversions, special registers -/

namespace Sys2Proof.Claims

/-- The widths of a binary floating layout: exponent and significand (R84, R86). -/
structure Layout where
  ew : Nat
  mw : Nat

/-- FP32 or, with D = 1, FP64 (R304). -/
def layout (x : BitVec 1) : Layout := if x = 1 then ⟨11, 52⟩ else ⟨8, 23⟩

namespace Layout

/-- All bits of the layout. -/
def bits (l : Layout) : Nat := l.ew + l.mw + 1
/-- The sign. -/
def neg (l : Layout) (b : Nat) : Bool := b.testBit (l.ew + l.mw)
/-- The exponent field. -/
def exp (l : Layout) (b : Nat) : Nat := b / 2 ^ l.mw % 2 ^ l.ew
/-- The significand field. -/
def sig (l : Layout) (b : Nat) : Nat := b % 2 ^ l.mw
/-- A pattern of a finite number. -/
def Finite (l : Layout) (b : Nat) : Prop := b < 2 ^ l.bits ∧ l.exp b ≠ 2 ^ l.ew - 1
/-- The absent pattern, all ones (R84, R86). -/
def absent (l : Layout) : Nat := 2 ^ l.bits - 1
/-- A NaN: present, with all exponent bits set and a significand other than 0 (R85). -/
def IsNan (l : Layout) (b : Nat) : Bool := l.exp b = 2 ^ l.ew - 1 && l.sig b ≠ 0 && b ≠ l.absent
/-- A signalling NaN: its quiet bit is clear (R303). -/
def IsSig (l : Layout) (b : Nat) : Bool := l.IsNan b && !b.testBit (l.mw - 1)
/-- The canonical NaN (R303). -/
def nan (l : Layout) : Nat := (2 ^ l.ew - 1) * 2 ^ l.mw + 2 ^ (l.mw - 1)
/-- The infinity of a sign. -/
def inf (l : Layout) (s : Bool) : Nat := (if s then 2 ^ (l.ew + l.mw) else 0) + (2 ^ l.ew - 1) * 2 ^ l.mw
/-- The largest finite pattern of a sign. -/
def maxFin (l : Layout) (s : Bool) : Nat := l.inf s - 1
/-- The zero of a sign. -/
def zero (l : Layout) (s : Bool) : Nat := if s then 2 ^ (l.ew + l.mw) else 0
/-- Exponent of the smallest quantum. -/
def emin (l : Layout) : Int := 2 - 2 ^ (l.ew - 1) - l.mw
/-- The value of a finite pattern: subnormals have exponent field 0. -/
def val (l : Layout) (b : Nat) : ℚ :=
  (if l.neg b then -1 else 1) *
    (if l.exp b = 0 then (l.sig b : ℚ) else ((2 ^ l.mw + l.sig b : Nat) : ℚ) * 2 ^ (l.exp b - 1)) * (2 : ℚ) ^ l.emin
/-- 2 to the exponent just above every finite value. -/
def top (l : Layout) : ℚ := (2 : ℚ) ^ (2 ^ (l.ew - 1) : Nat)
/-- The place of a pattern that is no NaN in the order of numbers, −0 just below +0. -/
def place (l : Layout) (b : Nat) : Int :=
  if l.neg b then -((b % 2 ^ (l.ew + l.mw) : Nat) : Int) - 1 else ((b % 2 ^ (l.ew + l.mw) : Nat) : Int)
/-- The place of a pattern that is no NaN in the order of numbers, −0 equal to +0. -/
def placeEq (l : Layout) (b : Nat) : Int :=
  if l.neg b then -((b % 2 ^ (l.ew + l.mw) : Nat) : Int) else ((b % 2 ^ (l.ew + l.mw) : Nat) : Int)

/-- A mode that cuts a magnitude off: towards zero, or away from the sign (R303: 0 RNE, 1 RTZ, 2 RDN, 3 RUP). -/
def cuts (m : Nat) (e : ℚ) : Bool := m = 1 || (m = 2 && decide (0 < e)) || (m = 3 && decide (e < 0))

/-- A magnitude whose rounding under a mode passes the largest finite value (R303). -/
def Overflows (l : Layout) (m : Nat) (e : ℚ) : Prop :=
  if m = 0 then (1 - (2 : ℚ) ^ (-(l.mw + 2 : Int))) * l.top ≤ |e|
  else (cuts m e = true ∧ l.top ≤ |e|) ∨ (cuts m e = false ∧ |l.val (l.maxFin false)| < |e|)

/-- A finite pattern is an exact number other than 0 rounded once under a mode (R303). -/
def Nearest (l : Layout) (m : Nat) (e : ℚ) (r : Nat) : Prop :=
  l.Finite r ∧ l.neg r = decide (e < 0) ∧
  (m = 0 → ∀ z, l.Finite z → |l.val r - e| ≤ |l.val z - e| ∧
    (|l.val z - e| = |l.val r - e| → l.val z ≠ l.val r → r % 2 = 0)) ∧
  (cuts m e = true → |l.val r| ≤ |e| ∧ ∀ z, l.Finite z → |l.val z| ≤ |e| → |l.val z| ≤ |l.val r|) ∧
  (m ≠ 0 → cuts m e = false → |e| ≤ |l.val r| ∧ ∀ z, l.Finite z → |e| ≤ |l.val z| → |l.val r| ≤ |l.val z|)

/-- The result and the flags of an exact number other than 0 under a mode (R303): bit 4 NV, 3 DZ, 2 OF, 1 UF, 0 NX. -/
def Rounds (l : Layout) (m : Nat) (e : ℚ) (r : Nat) (fl : BitVec 5) : Prop :=
  (l.Overflows m e → fl = 0b00101 ∧ r = if cuts m e then l.maxFin (decide (e < 0)) else l.inf (decide (e < 0))) ∧
  (¬ l.Overflows m e → l.Nearest m e r ∧ fl.extractLsb' 2 3 = 0 ∧ (fl.getLsbD 0 = true ↔ l.val r ≠ e) ∧
    (fl.getLsbD 1 = true ↔ l.val r ≠ e ∧ l.exp r = 0))

end Layout

/-- An instruction answers the state in which a register holds a floating result and %FFLAGS has gathered its flags, and nothing else
has changed. -/
def FResult (i : Instr) (s : State) (d : BitVec 6) (P : Nat → BitVec 5 → Prop) : Prop :=
  Answers i s fun t => ∃ r fl, P r fl ∧
    Becomes s t { s.me with
      g := t.me.g, fflags := s.me.fflags ||| fl.zeroExtend 64, raised := s.me.raised ||| fl.zeroExtend 64 } ∧
    Regs s.me t.me d (BitVec.ofNat 64 r)

/-- The low bits of a register as an operand of a layout (R303). -/
def operand (l : Layout) (v : Word) : Nat := v.toNat % 2 ^ l.bits

/-- The mode of %FRM as the bundle reads it (R28). -/
def frm (s : State) : Nat := s.src.slot.frm.toNat % 4

/-- Identity mode of %AMODE as the bundle reads it (R28, R108). -/
def identityMode (s : State) : Bool := s.src.slot.amode.getLsbD 0

/-- A sum of value 0 of two finite operands (R308): the sign both have, else minus under RDN and plus otherwise. -/
def zeroSum (l : Layout) (m : Nat) (a b : Bool) (r : Nat) (fl : BitVec 5) : Prop :=
  fl = 0 ∧ r = l.zero (if a = b then a else decide (m = 2))

/-- A rational rounded to an integer under a mode (R303, R311). -/
def IntRounds (m : Nat) (e : ℚ) (r : Int) : Prop :=
  (m = 0 → |(r : ℚ) - e| ≤ 1 / 2 ∧ (|(r : ℚ) - e| = 1 / 2 → r % 2 = 0)) ∧
  (m = 1 → |(r : ℚ)| ≤ |e| ∧ |e| < |(r : ℚ)| + 1 ∧ 0 ≤ (r : ℚ) * e) ∧
  (m = 2 → (r : ℚ) ≤ e ∧ e < r + 1) ∧ (m = 3 → (r : ℚ) - 1 < e ∧ e ≤ r)

end Sys2Proof.Claims

/-- R303, R308, R312: FADD, FSUB, FMUL, FMA and FMA.D of finite operands give the exact result rounded once under %FRM, with the
overflow results and the flags of R303, and the signs of R308 for exact zeros. -/
def Obligations.FloatArithmeticRoundsOnce : Prop :=
  ∀ (s : State) (d a b c : BitVec 6) (x : BitVec 1),
    let l := layout x
    let p := operand l (s.rg a); let q := operand l (s.rg b); let z := operand l (s.rg c)
    let m := frm s
    l.Finite p → l.Finite q →
    FResult (.fadd d a b x) s d (fun r fl => if l.val p + l.val q = 0 then zeroSum l m (l.neg p) (l.neg q) r fl
      else l.Rounds m (l.val p + l.val q) r fl) ∧
    FResult (.fsub d a b x) s d (fun r fl => if l.val p - l.val q = 0 then zeroSum l m (l.neg p) (!l.neg q) r fl
      else l.Rounds m (l.val p - l.val q) r fl) ∧
    FResult (.fmul d a b x) s d (fun r fl => if l.val p * l.val q = 0 then fl = 0 ∧ r = l.zero (l.neg p ^^ l.neg q)
      else l.Rounds m (l.val p * l.val q) r fl) ∧
    (l.Finite z → FResult (if x = 1 then .fmaD d a b c else .fma d a b c) s d fun r fl =>
      if l.val p * l.val q + l.val z = 0 then zeroSum l m (l.neg p ^^ l.neg q) (l.neg z) r fl
      else l.Rounds m (l.val p * l.val q + l.val z) r fl)

/-- R108, R303, R308, R312: absent, NaN and infinite operands: absent in strict mode gives absent, in identity mode the other operand;
a NaN gives the canonical NaN, with NV where it signals; ∞ − ∞ and 0 · ∞ are invalid. -/
def Sys2Proof.Claims.FloatSpecialOperands : Prop :=
  ∀ (s : State) (d a b c : BitVec 6) (x : BitVec 1),
    let l := layout x
    let p := operand l (s.rg a); let q := operand l (s.rg b)
    let pair (P : Nat → BitVec 5 → Prop) : Prop :=
      FResult (.fadd d a b x) s d P ∧ FResult (.fsub d a b x) s d P ∧ FResult (.fmul d a b x) s d P ∧
      FResult (.fmin d a b x) s d P ∧ FResult (.fmax d a b x) s d P
    ((p = l.absent ∨ q = l.absent) → identityMode s = false → pair fun r fl => r = l.absent ∧ fl = 0) ∧
    (p = l.absent → q = l.absent → pair fun r fl => r = l.absent ∧ fl = 0) ∧
    (p = l.absent → l.Finite q → identityMode s = true →
      FResult (.fadd d a b x) s d (fun r fl => r = q ∧ fl = 0) ∧ FResult (.fmul d a b x) s d (fun r fl => r = q ∧ fl = 0) ∧
      FResult (.fmin d a b x) s d (fun r fl => r = q ∧ fl = 0) ∧ FResult (.fmax d a b x) s d (fun r fl => r = q ∧ fl = 0) ∧
      FResult (.fsub d a b x) s d fun r fl => l.Finite r ∧ l.val r = -l.val q ∧ l.neg r = !l.neg q ∧ fl = 0) ∧
    (p ≠ l.absent → q ≠ l.absent → (l.IsNan p ∨ l.IsNan q) →
      pair fun r fl => r = l.nan ∧ (fl = 0b10000 ↔ l.IsSig p ∨ l.IsSig q) ∧ (fl = 0b10000 ∨ fl = 0)) ∧
    (p = l.inf false → q = l.inf true → FResult (.fadd d a b x) s d fun r fl => r = l.nan ∧ fl = 0b10000) ∧
    (p = l.zero false → q = l.inf true → FResult (.fmul d a b x) s d (fun r fl => r = l.nan ∧ fl = 0b10000) ∧
      (operand l (s.rg c) ≠ l.absent → FResult (if x = 1 then .fmaD d a b c else .fma d a b c) s d fun r fl =>
        r = l.nan ∧ fl = 0b10000)) ∧
    (p = l.absent → identityMode s = false → FResult (if x = 1 then .fmaD d a b c else .fma d a b c) s d fun r fl =>
      r = l.absent ∧ fl = 0)

/-- R309, R310, R313, R314: minimum and maximum, the sign operations, the class and the comparisons of present operands; an absent
operand makes every condition false and every sign operation absent. -/
def Sys2Proof.Claims.FloatSelections : Prop :=
  ∀ (s : State) (d a b : BitVec 6) (x : BitVec 1) (q' : BitVec 3),
    let l := layout x
    let p := operand l (s.rg a); let q := operand l (s.rg b)
    let body := p % 2 ^ (l.ew + l.mw)
    (p ≠ l.absent → q ≠ l.absent → ¬ l.IsNan p → ¬ l.IsNan q →
      FResult (.fmin d a b x) s d (fun r fl => fl = 0 ∧ r = if l.place p ≤ l.place q then p else q) ∧
      FResult (.fmax d a b x) s d (fun r fl => fl = 0 ∧ r = if l.place p ≤ l.place q then q else p)) ∧
    (p ≠ l.absent → q ≠ l.absent → ¬ l.IsNan p →
      Result (.fsgnj d a b x) s d (BitVec.ofNat 64 (l.zero (l.neg q) + body)) ∧
      Result (.fsgnjn d a b x) s d (BitVec.ofNat 64 (l.zero (!l.neg q) + body)) ∧
      Result (.fsgnjx d a b x) s d (BitVec.ofNat 64 (l.zero (l.neg p ^^ l.neg q) + body))) ∧
    (p ≠ l.absent → q ≠ l.absent → l.IsNan p →
      Result (.fsgnj d a b x) s d (BitVec.ofNat 64 l.nan) ∧ Result (.fsgnjn d a b x) s d (BitVec.ofNat 64 l.nan) ∧
      Result (.fsgnjx d a b x) s d (BitVec.ofNat 64 l.nan)) ∧
    ((p = l.absent ∨ q = l.absent) →
      Result (.fsgnj d a b x) s d (BitVec.ofNat 64 l.absent) ∧ Result (.fsgnjn d a b x) s d (BitVec.ofNat 64 l.absent) ∧
      Result (.fsgnjx d a b x) s d (BitVec.ofNat 64 l.absent)) ∧
    Result (.fclass d a x) s d (1 <<< (
      if p = l.absent then 10
      else if l.exp p = 2 ^ l.ew - 1 then
        (if l.sig p = 0 then (if l.neg p then 0 else 7) else if p.testBit (l.mw - 1) then 9 else 8)
      else if l.exp p ≠ 0 then (if l.neg p then 1 else 6)
      else if l.sig p ≠ 0 then (if l.neg p then 2 else 5) else if l.neg p then 3 else 4)) ∧
    (∀ cc : BitVec 2, Answers (.fcmp q' cc a b x) s fun t => ∃ v fl,
      Becomes s t { s.me with
        p := t.me.p, fflags := s.me.fflags ||| BitVec.zeroExtend 64 fl, raised := s.me.raised ||| BitVec.zeroExtend 64 fl } ∧
      Preds s.me t.me q' v ∧
      ((p = l.absent ∨ q = l.absent) → v = false ∧ fl = (0 : BitVec 5)) ∧
      (p ≠ l.absent → q ≠ l.absent → ¬ l.IsNan p → ¬ l.IsNan q → fl = 0 ∧
        v = (if cc = 0 then decide (l.placeEq p = l.placeEq q) else if cc = 1 then decide (l.placeEq p < l.placeEq q)
          else if cc = 2 then decide (l.placeEq p ≤ l.placeEq q) else false)) ∧
      (p ≠ l.absent → q ≠ l.absent → (l.IsNan p ∨ l.IsNan q) → v = decide (cc = 3) ∧
        fl = if cc = 1 ∨ cc = 2 ∨ l.IsSig p ∨ l.IsSig q then 0b10000 else 0))

/-- R108, R303, R308-R310, R312-R314: floating arithmetic on special operands, and the selections among floats. -/
def Obligations.FloatSpecialCases : Prop :=
  Claims.FloatSpecialOperands ∧ Claims.FloatSelections


/-- R311: the conversions between integers and floating numbers, and between the two layouts. -/
def Obligations.FloatConversions : Prop :=
  ∀ (s : State) (d a : BitVec 6),
    let m := frm s
    let v := s.rg a
    let p := operand (layout 0) v; let q := operand (layout 1) v
    let toInt (i : Instr) (l : Layout) (b : Nat) : Prop :=
      (b = l.absent → FResult i s d fun r fl => r = 2 ^ 63 ∧ fl = 0) ∧
      (l.IsNan b → FResult i s d fun r fl => r = 0 ∧ fl.getLsbD 4 = true) ∧
      (l.Finite b → ∃ k, IntRounds m (l.val b) k ∧ FResult i s d fun r fl =>
        if 2 ^ 63 - 1 < |k| then (BitVec.ofNat 64 r).toInt = (if 0 < k then 2 ^ 63 - 1 else -(2 ^ 63 - 1)) ∧ fl = 0b10000
        else (BitVec.ofNat 64 r).toInt = k ∧ fl = if (k : ℚ) = l.val b then 0 else 1)
    let ofInt (i : Instr) (l : Layout) (e : ℚ) : Prop := FResult i s d fun r fl =>
      if e = 0 then r = 0 ∧ fl = 0 else l.Rounds m e r fl
    (v ≠ 0x8000000000000000 → ofInt (.fcvtF32I64 d a) (layout 0) v.toInt ∧ ofInt (.fcvtF64I64 d a) (layout 1) v.toInt) ∧
    (v = 0x8000000000000000 → FResult (.fcvtF32I64 d a) s d (fun r fl => r = 0xFFFFFFFF ∧ fl = 0) ∧
      FResult (.fcvtF64I64 d a) s d fun r fl => r = 2 ^ 64 - 1 ∧ fl = 0) ∧
    ofInt (.fcvtF32I64u d a) (layout 0) v.toNat ∧
    toInt (.fcvtI64F32 d a) (layout 0) p ∧ toInt (.fcvtI64F64 d a) (layout 1) q ∧
    ((layout 0).Finite p → ∃ k, IntRounds m ((layout 0).val p) k ∧ FResult (.fcvtI64uF32 d a) s d fun r fl =>
      if k < 0 then r = 0 ∧ fl = 0b10000
      else if 2 ^ 64 - 1 < k then r = 2 ^ 64 - 1 ∧ fl = 0b10000
      else (r : Int) = k ∧ fl = if (k : ℚ) = (layout 0).val p then 0 else 1) ∧
    (p = 0xFFFFFFFF → FResult (.fcvtI64uF32 d a) s d fun r fl => r = 2 ^ 63 ∧ fl = 0) ∧
    ((layout 1).Finite q → (layout 1).val q ≠ 0 →
      FResult (.fcvtF32F64 d a) s d ((layout 0).Rounds m ((layout 1).val q))) ∧
    (q = (layout 1).absent → FResult (.fcvtF32F64 d a) s d fun r fl => r = 0xFFFFFFFF ∧ fl = 0) ∧
    ((layout 0).Finite p → FResult (.fcvtF64F32 d a) s d fun r fl =>
      (layout 1).Finite r ∧ (layout 1).val r = (layout 0).val p ∧ (layout 1).neg r = (layout 0).neg p ∧ fl = 0) ∧
    (p = 0xFFFFFFFF → FResult (.fcvtF64F32 d a) s d fun r fl => r = 2 ^ 64 - 1 ∧ fl = 0)

/-! ### Formats, the generator, special registers -/

namespace Sys2Proof.Claims

/-- The width and the absent code of the formats that name no table (R84). -/
def plainFormats : List (BitVec 4 × Nat × Nat) :=
  [(0, 32, 0xFFFFFFFF), (1, 16, 0xFFFF), (2, 16, 0xFFFF), (3, 32, 0x80000000), (4, 16, 0x8000), (5, 8, 0x80), (14, 4, 0x8)]

/-- The two's complement reading of a code of n bits (R5). -/
def intOf (n c : Nat) : Int := if c < 2 ^ (n - 1) then c else (c : Int) - 2 ^ n

/-- DEXP of %SCALE as the bundle reads it (R104). -/
def dexp (s : State) : Int := (s.src.slot.scale.extractLsb' 0 8).toInt
/-- EEXP of %SCALE as the bundle reads it (R104). -/
def eexp (s : State) : Int := (s.src.slot.scale.extractLsb' 8 8).toInt

/-- One output of xoshiro128** and the state it leaves (R100). -/
def nextRandom (v : Vector Half 4) : Half × Vector Half 4 :=
  let t := v[1] <<< 9
  let s2 := v[2] ^^^ v[0]
  let s3 := v[3] ^^^ v[1]
  (((v[1] * 5).rotateLeft 7) * 9, #v[v[0] ^^^ s3, v[1] ^^^ s2, s2 ^^^ t, s3.rotateLeft 11])

/-- No vector conversion under SR of the slot has still to draw (R100). -/
def NoDraws (s : State) : Prop := ∀ cl, s.src.slot.claim = some cl → cl.queue = []

end Sys2Proof.Claims

/-- R84, R287, R288: ABT tests and ABM writes the absent code of a format, of which only the low bits of its width count. -/
def Sys2Proof.Claims.AbsentTests : Prop :=
  ∀ (s : State) (q p : BitVec 3) (d a : BitVec 6), ∀ f ∈ plainFormats,
    let is : Bool := decide ((s.rg a).toNat % 2 ^ f.2.1 = f.2.2)
    PResult (.abtAbs q a f.1) s q is ∧ PResult (.abtPrs q a f.1) s q (!is) ∧
    Result (.abm d a p f.1) s d (if s.rp p then BitVec.ofNat 64 f.2.2 else s.rg a)

/-- R91, R242: a table format whose slot is empty makes the format instructions trap with cause 0x11 and the slot in %TVAL, bit 2 set
for a 4-bit one, where the running VF owns the slot's bank. -/
def Sys2Proof.Claims.EmptyTableTraps : Prop :=
  ∀ (s : State) (q p : BitVec 3) (d a : BitVec 6) (r : BitVec 2) (f : BitVec 4) (k : Nat), k < 4 →
    (f.toNat = 6 + k ∨ f.toNat = 10 + k) → FMap.getD (s.cvf s.cur.core).tables k [] = [] → s.src.slot.tabs = none →
    FMap.find? (s.core s.cur.core).tabTag k = some (s.runVf s.cur.core) →
    let v : Word := BitVec.ofNat 64 (if f.toNat = 6 + k then k else k + 4)
    Traps (.abtAbs q a f) s 0x11 v ∧ Traps (.abtPrs q a f) s 0x11 v ∧ Traps (.abm d a p f) s 0x11 v ∧
    Traps (.cvtd d a f) s 0x11 v ∧ Traps (.cvte d a r f) s 0x11 v

/-- R84, R91, R242, R287, R288: absence tests, and the trap of an empty decode table. -/
def Obligations.AbsenceAndTables : Prop :=
  Claims.AbsentTests ∧ Claims.EmptyTableTraps


/-- R93, R98, R102, R300: CVTD of the integer formats of 8 and 4 bits and of BF16 gives the code's value times 2^DEXP, rounded to FP32;
CVTE into the integer formats rounds x · 2^−EEXP to an integer within the format's bounds, and into FP16 and BF16 rounds it once where
%FMTD does not ask to saturate; the absent code maps to the absent code. -/
def Sys2Proof.Claims.ScalarConversions : Prop :=
  ∀ (s : State) (d a : BitVec 6),
    let v := s.rg a
    (∀ f ∈ plainFormats, v.toNat % 2 ^ f.2.1 = f.2.2 →
      FResult (.cvtd d a f.1) s d fun r fl => r = 0xFFFFFFFF ∧ fl = 0) ∧
    (∀ f ∈ [((5 : BitVec 4), 8), (14, 4)], v.toNat % 2 ^ f.2 ≠ 2 ^ (f.2 - 1) →
      let e : ℚ := (intOf f.2 (v.toNat % 2 ^ f.2) : ℚ) * (2 : ℚ) ^ dexp s
      FResult (.cvtd d a f.1) s d fun r fl => if e = 0 then r = 0 ∧ fl = 0 else (layout 0).Rounds 0 e r fl) ∧
    ((⟨8, 7⟩ : Layout).Finite (v.toNat % 2 ^ 16) → (⟨8, 7⟩ : Layout).val (v.toNat % 2 ^ 16) ≠ 0 →
      FResult (.cvtd d a 1) s d ((layout 0).Rounds 0 ((⟨8, 7⟩ : Layout).val (v.toNat % 2 ^ 16) * (2 : ℚ) ^ dexp s))) ∧
    (lo v = 0xFFFFFFFF → ∀ f ∈ plainFormats, ∀ r : BitVec 2, r.toNat < 2 →
      FResult (.cvte d a r f.1) s d fun c fl => c = f.2.2 ∧ fl = 0) ∧
    (∀ f ∈ [((4 : BitVec 4), 16), (5, 8), (14, 4)], ∀ r : BitVec 2, r.toNat < 2 → (layout 0).Finite (v.toNat % 2 ^ 32) →
      let e := (layout 0).val (v.toNat % 2 ^ 32) * (2 : ℚ) ^ (-eexp s)
      ∃ k, IntRounds r.toNat e k ∧ FResult (.cvte d a r f.1) s d fun c fl => c < 2 ^ f.2 ∧
        if 2 ^ (f.2 - 1) - 1 < |k| then intOf f.2 c = (if 0 < k then 2 ^ (f.2 - 1) - 1 else -(2 ^ (f.2 - 1) - 1)) ∧ fl.getLsbD 4 = true
        else intOf f.2 c = k ∧ fl = if (k : ℚ) = e then 0 else 1) ∧
    (∀ f ∈ [((1 : BitVec 4), (⟨8, 7⟩ : Layout)), (2, ⟨5, 10⟩)], ∀ r : BitVec 2, r.toNat < 2 →
      (layout 0).Finite (v.toNat % 2 ^ 32) → (layout 0).val (v.toNat % 2 ^ 32) ≠ 0 → s.src.slot.fmtd.getLsbD 17 = false →
      FResult (.cvte d a r f.1) s d (f.2.Rounds r.toNat ((layout 0).val (v.toNat % 2 ^ 32) * (2 : ℚ) ^ (-eexp s))))

/-- R100, R328: RAND gives the next output of xoshiro128** and advances the generator, also with destination `g0`. -/
def Sys2Proof.Claims.RandDrawsTheGenerator : Prop :=
  ∀ (s : State) (d : BitVec 6), NoDraws s → Answers (.rand d) s fun t =>
    Becomes s t { s.me with g := t.me.g, rseed := (nextRandom s.src.slot.rseed).2 } ∧
    Regs s.me t.me d ((nextRandom s.src.slot.rseed).1.zeroExtend 64)

/-- R93, R98, R100, R102, R300, R328: scalar conversions, and the generator. -/
def Obligations.ConversionsAndDraws : Prop :=
  Claims.ScalarConversions ∧ Claims.RandDrawsTheGenerator


/-- R28, R332: SRD of each program-level register of a compute core. That a selector of 0x800 or above holds what was last written is the
model's choice (assumption log entry 52). -/
def Obligations.SpecialRegisterReads : Prop :=
  ∀ (s : State) (d : BitVec 6), s.cur.core < 2048 →
    let x := s.src.slot
    let k := s.cvf s.cur.core
    let pos := s.physOf s.cur.core
    (∀ e ∈ ([(0x000, BitVec.ofNat 64 s.cur.slot), (0x001, BitVec.ofNat 64 s.cur.core),
      (0x002, BitVec.ofNat 64 (256 * (pos / 32) + pos % 32)), (0x003, BitVec.ofNat 64 (s.clusterOf s.cur.core)),
      (0x004, BitVec.ofNat 64 (s.runPid s.cur.core)), (0x005, BitVec.ofNat 64 (s.runVf s.cur.core)),
      (0x006, x.gtid.zeroExtend 64), (0x007, BitVec.ofNat 64 (1024 - s.fused.length)),
      (0x010, (s.core s.cur.core).cyc), (0x011, x.tcmp), (0x020, k.tvec), (0x021, x.tpc), (0x022, x.tcause),
      (0x023, x.tval), (0x024, x.tstat), (0x025, x.tscr), (0x030, x.fmtd), (0x031, x.scale), (0x032, x.frm),
      (0x033, x.fflags), (0x034, x.amode), (0x039, x.live), (0x040, k.dqbase),
      (0x120, k.pmUnsup.zeroExtend 64 <<< 8 ||| k.pmEn.zeroExtend 64), (0x121, k.pmOvf.zeroExtend 64),
      (0x122, k.pmTgt)] : List (BitVec 12 × Word)), Result (.srd d e.1) s d e.2) ∧
    (∀ n : Fin 8, Result (.srd d (BitVec.ofNat 12 (0x100 + n))) s d (k.pmc[n].zeroExtend 64) ∧
      Result (.srd d (BitVec.ofNat 12 (0x110 + n))) s d k.pmsel[n]) ∧
    (∀ cl, x.claim = some cl → Result (.srd d 0x03A) s d (BitVec.ofNat 64 (8 * cl.groups.length)) ∧
      Result (.srd d 0x03B) s d (BitVec.ofNat 64 cl.regs)) ∧
    (x.claim = none → Result (.srd d 0x03A) s d 0 ∧ Result (.srd d 0x03B) s d 0) ∧
    (NoDraws s → ∀ n : Fin 4, Result (.srd d (BitVec.ofNat 12 (0x035 + n))) s d (x.rseed[n].zeroExtend 64)) ∧
    (∀ y : BitVec 12, 0x800 ≤ y.toNat → Result (.srd d y) s d (FMap.getD (s.core s.cur.core).fwRegs y.toNat 0))

/-- R6, R28, R29, R333: SWR writes the writable fields of a register of the slot or the core, and nothing else; a read-only register
ignores it. That a selector of 0x800 or above keeps what is written is the model's choice (assumption log entry 52). -/
def Sys2Proof.Claims.SpecialRegisterWrites : Prop :=
  ∀ (s : State) (a : BitVec 6),
    let v := s.rg a
    let c := s.cur.core
    let slot (i : Instr) (x : Slot) : Prop := Answers i s fun t => Becomes s t x
    let core (i : Instr) (k : CoreVf) : Prop := Answers i s fun t => OnlyCvf c s t ∧ t.cvf c = k
    (∀ y ∈ ([0x000, 0x001, 0x002, 0x003, 0x004, 0x005, 0x006, 0x007, 0x010, 0x022, 0x023, 0x03A, 0x03B] : List (BitVec 12)),
      Answers (.swr a y) s fun t => t = s) ∧
    core (.swr a 0x020) { s.cvf c with tvec := v >>> 2 <<< 2 } ∧
    slot (.swr a 0x021) { s.me with tpc := v } ∧
    slot (.swr a 0x024) { s.me with tstat := v &&& 0xE ||| s.me.tstat &&& 1 } ∧
    slot (.swr a 0x025) { s.me with tscr := v } ∧ slot (.swr a 0x031) { s.me with scale := v &&& 0xFFFF } ∧
    slot (.swr a 0x032) { s.me with frm := v &&& 3 } ∧
    slot (.swr a 0x033) { s.me with fflags := v &&& 0x1F ||| s.me.raised } ∧
    slot (.swr a 0x034) { s.me with amode := v &&& 1 } ∧ slot (.swr a 0x039) { s.me with live := v } ∧
    core (.swr a 0x122) { s.cvf c with pmTgt := v &&& 0xF } ∧
    slot (.tcmpWrite a) { s.me with tcmp := v } ∧
    (∀ y : BitVec 12, 0x800 ≤ y.toNat → Answers (.swr a y) s fun t => OnlyCore c s t ∧
      ∀ m, FMap.getD (t.core c).fwRegs m 0 = if m = y.toNat then v else FMap.getD (s.core c).fwRegs m 0)

/-- R43, R103, R105, R250, R253, R332, R333: SWR of the registers with a write rule of their own. That EVENT 0 of a %PMSELn counts
nothing and clears the UNSUP bit is the model's reading (assumption log entry 26). -/
def Sys2Proof.Claims.GuardedRegisterWrites : Prop :=
  ∀ (s : State) (a : BitVec 6),
    let v := s.rg a
    let c := s.cur.core
    let k := s.cvf c
    let core (i : Instr) (P : CoreVf → Prop) : Prop := Answers i s fun t => OnlyCvf c s t ∧ P (t.cvf c)
    let fmtdOk : Prop := v.extractLsb' 14 2 ≠ 3 ∧ v.getLsbD 13 = false ∧ v.extractLsb' 0 4 ≠ 15 ∧ v.extractLsb' 4 4 ≠ 15 ∧
      v.extractLsb' 8 4 ≠ 15
    let room : Prop := 64 * ((v.extractLsb' 6 12).toNat + (v.extractLsb' 18 12).toNat) ≤ 262144
    (fmtdOk → Answers (.fmtdWrite a) s fun t => Becomes s t { s.me with fmtd := v &&& 0x3FFFF }) ∧
    (¬ fmtdOk → Traps (.fmtdWrite a) s 0x11 0) ∧
    (room → k.ringCount = 0 → core (.dqbaseWrite a) fun x =>
      x = { k with dqbase := v &&& 0x3FFFFFC0, ringHead := x.ringHead }) ∧
    ((¬ room ∨ k.ringCount ≠ 0) → Traps (.dqbaseWrite a) s 0x13 4) ∧
    (∀ n : BitVec 2, s.cur.pair = false → NoDraws s → Answers (.rseedWrite n a) s fun t =>
      Becomes s t { s.me with rseed := t.me.rseed } ∧
      ∀ m : Fin 4, t.me.rseed[m] = if m.val = n.toNat then v.setWidth 32 else s.me.rseed[m]) ∧
    (∀ n : BitVec 2, s.cur.pair = true → Traps (.rseedWrite n a) s 0x01 s.wordTval) ∧
    (∀ n : BitVec 3, core (.pmcWrite n a) fun x => x = { k with pmc := x.pmc } ∧ ∀ m : Fin 8, x.pmc[m] =
      if m.val = n.toNat ∧ k.pmUnsup.getLsbD n.toNat = false then v.setWidth 48 else k.pmc[m]) ∧
    (∀ n : BitVec 3,
      let listed : Bool := [0, 0x01, 0x02, 0x03, 0x04, 0x05, 0x10, 0x11, 0x12, 0x20, 0x21, 0x30, 0x31, 0x40, 0x41, 0x50].contains
        (v.extractLsb' 0 8).toNat
      core (.pmselWrite n a) fun x => x = { k with pmsel := x.pmsel, pmUnsup := x.pmUnsup, pmc := x.pmc } ∧
        ∀ m : Fin 8, x.pmsel[m] = (if m.val = n.toNat then v &&& 0x1FFF else k.pmsel[m]) ∧
          x.pmUnsup.getLsbD m.val = (if m.val = n.toNat then !listed else k.pmUnsup.getLsbD m.val) ∧
          x.pmc[m] = if m.val = n.toNat ∧ listed = false then 0 else k.pmc[m]) ∧
    core (.pmctlWrite a) (fun x => x = { k with pmEn := v.setWidth 8 }) ∧
    core (.pmovfWrite a) fun x => x = { k with pmOvf := x.pmOvf } ∧ ∀ m : Fin 8, x.pmOvf.getLsbD m.val =
      (k.pmOvf.getLsbD m.val && !v.getLsbD m.val)

/-- R6, R28, R29, R43, R103, R105, R250, R253, R332, R333: writes of special registers, and the traps of those that are refused. Selectors
of 0x800 and above, and EVENT 0 of a %PMSELn, are as the model reads them (assumption log entries 52 and 26). -/
def Obligations.SpecialRegistersAreWritten : Prop :=
  Claims.SpecialRegisterWrites ∧ Claims.GuardedRegisterWrites

/-! ### Tasks, messages, stealing, migration, populations -/

namespace Sys2Proof.Claims

/-- No partition has a trace ring (R260). -/
def Untraced (s : State) : Prop := ∀ pid p, s.part pid = some p → p.trace1.toNat % 2 ^ 32 = 0

/-- The deque of the running VF on the executing core holds no record of the slot's population (R44). -/
def NoRecord (s : State) : Prop :=
  ((s.cvf s.cur.core).deque = [] ∧ (s.cvf s.cur.core).ringCount = 0) ∨ (s.cvf s.cur.core).dqPop ≠ s.me.pop

/-- A slot runs the task of a record, its other registers as R41 gives them: `g2` stays, `g3`-`g6` come from the record. -/
def RunsRecord (x y : Slot) (r : TaskRec) : Prop :=
  y.mode = .ready ∧ y.pc = r.pc ∧ y.gtid = r.gtid ∧ y.fmtd = r.fmtd &&& 0x3FFFF ∧ y.scale = r.scale &&& 0xFFFF ∧
  y.pop = x.pop ∧ y.p = 1 ∧ y.fflags = 0 ∧ y.tstat = 2 ∧ y.live = BitVec.allOnes 64 ∧
  ∀ n : Fin 64, y.g[n] = if n.val = 2 then x.g[n] else if n.val = 3 then r.fp else if n.val = 4 then r.g4
    else if n.val = 5 then r.g5 else if n.val = 6 then r.g6 else 0

/-- The L view of a core holds only words that a store of its PQ owns: a self-invalidation has taken place (R165 step 2). -/
def OwnedView (k : Core) : Prop := ∀ e ∈ k.l1, ∀ w ∈ e.2.words, k.owned (e.1 * 128 + w.1 * 4) = true

end Sys2Proof.Claims

/-- R41, R46, R307: EXIT, and TEND of a task without a frame, dispatch the youngest record of the core's deque where it is of the
slot's population; without one EXIT frees the slot, and TEND sends it to search for work. Beside an A-word whose result is outstanding
they wait for it. -/
def Obligations.TaskEndTakesTheNextRecord : Prop :=
  ∀ (s : State) (i : Instr), (i = .exit ∨ (i = .tend ∧ s.rg 3 = 0)) → Untraced s → s.me.claim = none →
    let c := s.cur.core
    (s.me.aWait ≠ none → s.me.mode ≠ .halted → Answers i s fun t => Becomes s t { s.me with
      mode := .parked, cWait := some (.partner 0), cont := some (.ended (decide (i = .exit))) }) ∧
    (s.me.aWait = none →
    (∀ l r, (s.cvf c).deque = l ++ [r] → (s.cvf c).dqPop = s.me.pop → Answers i s fun t =>
      OnlyCvf c s t ∧ (t.cvf c).deque = l ∧ RunsRecord s.me t.me r) ∧
    (NoRecord s → i = .exit → Answers i s fun t => t.me.mode = .free ∧ t.me.pop = none ∧ t.mem = s.mem) ∧
    (NoRecord s → i = .tend → s.me.pop ≠ none → Answers i s fun t => OnlyCvf c s t ∧
      Becomes s t { s.me with
        mode := .idleSteal, cWait := none, cont := none, tcmp := 0
        steal := some { pos := 0, failed := 0, since := (s.core c).cyc.toNat, backoff := none, asked := none, answer := none } }))

/-- R39, R45, R51, R331: SPAWN pushes its continuation, with the parent's frame, as the youngest record, goes on as the child with a new
GTID and the child's frame in `g3`, and its stores of JOIN and PARENT enter the PQ: at once for a task without a frame, and for one with
a frame once 1 has been added to the frame's JOIN word at home, where no other byte changes. -/
def Sys2Proof.Claims.SpawnPushesTheContinuation : Prop :=
  ∀ (s : State) (a b : BitVec 6),
    let c := s.cur.core
    let k := s.cvf c
    let fp := s.rg b
    let pf := s.rg 3
    fp.toNat % 64 = 0 → (s.rg a).toNat % 4 = 0 → OwnSp s fp 8 → OwnSp s (fp + 8) 8 → Untraced s →
    (k.hasRecords = true → k.dqPop = s.src.slot.pop) → k.deque.length < 64 → (∀ m, (s.slot c m).cont = none) →
    (s.core c).pq.length + 2 ≤ 32 →
    let spawned (u t : State) : Prop :=
      (t.cvf c).deque = k.deque ++ [{
        pc := s.me.pc + (if s.cur.pair then 8 else 4), fp := pf, g4 := s.rg 4, g5 := s.rg 5, g6 := s.rg 6
        fmtd := s.src.slot.fmtd, scale := s.src.slot.scale, gtid := s.src.slot.gtid, stolen := false }] ∧
      t.me.nextPc = s.rg a ∧ Regs s.me t.me 3 fp ∧
      t.me.gtid = BitVec.ofNat 48 (c % 2 ^ 16 * 2 ^ 32 + k.taskSeq.toNat) ∧ (t.cvf c).taskSeq = k.taskSeq + 1 ∧
      t.mem = u.mem ∧ ∃ e f, (t.core c).pq = (s.core c).pq ++ [e, f] ∧
        e.key = ownKey s fp ∧ e.bytes = List.replicate 8 0 ∧ f.key = ownKey s fp + 8 ∧ f.bytes = leBytes 8 pf.toNat
    (pf = 0 → Answers (.spawn a b) s (spawned s)) ∧
    (pf ≠ 0 → pf.toNat % 64 = 0 → OwnSpRead s pf 8 → s.me.mode = .ready → s.me.fate = .ok → s.me.aWait = none →
      Answers (.spawn a b) s fun t => t.me.mode = .parked ∧ t.mem = s.mem ∧ (t.cvf c).deque = k.deque ∧
        Answers (.sliceRequest s.nextReq) t fun u =>
          le8 u.mem (ownKey s pf) = le8 s.mem (ownKey s pf) + 1 ∧
          (∀ z, z < ownKey s pf ∨ ownKey s pf + 8 ≤ z → u.mem.get z = s.mem.get z) ∧
          Answers (.parkReply c s.cur.slot false) u fun v => spawned u v ∧ v.me.mode = .ready ∧ v.me.pc = s.rg a)

/-- R46, R340: TEND in a frame with a parent takes 1 from the parent's JOIN word at home, or clears it where it stands at 1 with SUSP
set; no other byte changes. -/
def Sys2Proof.Claims.TendDecrementsTheJoinWord : Prop :=
  ∀ (s : State) (pf : Word), s.me.mode = .ready → s.rg 3 ≠ 0 → (s.rg 3).toNat % 64 = 0 → OwnSpRead s (s.rg 3 + 8) 8 →
    le8 s.mem (ownKey s (s.rg 3 + 8)) = pf → pf ≠ 0 → OwnSpRead s pf 8 → (s.core s.cur.core).pq = [] →
    let old := le8 s.mem (ownKey s pf)
    Answers .tend s fun t => t.me.mode = .parked ∧ t.mem = s.mem ∧ Answers (.sliceRequest s.nextReq) t fun u =>
      le8 u.mem (ownKey s pf) = (if old = 0x8000000000000001 then 0 else old - 1) ∧
      ∀ k, k < ownKey s pf ∨ ownKey s pf + 8 ≤ k → u.mem.get k = s.mem.get k

/-- R47, R336: SYNC without a frame goes on at once; with one it reads the JOIN word at home, and goes on where no child is left. With
children left it stores its continuation to the frame, and once those words are home its CAS sets SUSP where the JOIN word still is
what it read; the slot then takes the next task, and reads again where the word has changed. -/
def Sys2Proof.Claims.SyncWaitsForChildren : Prop :=
  (∀ s : State, (s.rg 3 = 0 → Answers .sync s fun t => t = s) ∧
    (s.me.mode = .ready → s.me.fate = .ok → s.rg 3 ≠ 0 → (s.rg 3).toNat % 64 = 0 → OwnSpRead s (s.rg 3) 8 → s.me.aWait = none →
      s.marksAt (ownKey s (s.rg 3)) = [] → (s.core s.cur.core).pq = [] →
      Answers .sync s fun t => t.me.mode = .parked ∧ Answers (.sliceRequest s.nextReq) t fun u =>
        u.mem = s.mem ∧ OwnedView (u.core s.cur.core) ∧
        (le8 s.mem (ownKey s (s.rg 3)) = 0 → Answers (.parkReply s.cur.core s.cur.slot false) u fun v =>
          v.me.mode = .ready ∧ v.me.g = s.me.g ∧ v.mem = s.mem) ∧
        (1 ≤ (le8 s.mem (ownKey s (s.rg 3))).toNat → (le8 s.mem (ownKey s (s.rg 3))).toNat < 2 ^ 63 →
          Answers (.parkReply s.cur.core s.cur.slot false) u fun v =>
            (v.core s.cur.core).pq.map (fun e => (e.key, e.bytes)) =
              ([s.me.pc + (if s.cur.pair then 8 else 4), s.rg 4, s.rg 5, s.src.slot.fmtd, s.src.slot.scale,
                s.src.slot.gtid.zeroExtend 64].zipIdx).map fun e =>
                  (ownKey s (s.rg 3) + 16 + 8 * e.2, leBytes 8 e.1.toNat)))) ∧
  ∀ (s : State) (c n seq off : Nat) (w : Word) (op : MemOp) (es : List PqEntry), (s.slot c n).mode = .parked →
    (s.slot c n).fate = .ok → (s.slot c n).aWait = none → (s.slot c n).claim = none →
    (s.slot c n).cWait = some (.drain seq false false) → (s.slot c n).cont = some (.syncStore op w es) → (s.core c).vf.isSome = true →
    c < 4096 → off % 64 = 0 → off < 2 ^ 18 → op.key = spKey (s.vk c) c off → op.size = 8 → op.slice = none → op.cached = false →
    s.spOwned c (s.runVf c) off = true → s.poisoned op.key 8 = false → (s.core c).pq = [] → Untraced s →
    Answers (.parkReply c n false) s fun t => (t.slot c n).mode = .parked ∧ t.mem = s.mem ∧
      Answers (.sliceRequest s.nextReq) t fun u =>
        u.mem.read op.key 8 = (if le8 s.mem op.key = w then leBytes 8 (w ||| 0x8000000000000000).toNat else s.mem.read op.key 8) ∧
        (∀ z, z < op.key ∨ op.key + 8 ≤ z → u.mem.get z = s.mem.get z) ∧
        (le8 s.mem op.key = w → (s.cvf c).holdsFor (s.slot c n).pop = false → (s.slot c n).pop ≠ none →
          Answers (.parkReply c n false) u fun v => (v.slot c n).mode = .idleSteal ∧ (v.slot c n).pop = (s.slot c n).pop) ∧
        (le8 s.mem op.key ≠ w → Answers (.parkReply c n false) u fun v => (v.slot c n).mode = .parked ∧
          ∃ q, FMap.find? v.reqs u.nextReq = some q ∧ q.key = op.key ∧ q.kind = .mem { op with kind := .home, acq := true })

/-- R39, R45-R47, R51, R331, R336, R340: SPAWN, TEND and SYNC on task frames. -/
def Obligations.FramesForkAndJoin : Prop :=
  Claims.SpawnPushesTheContinuation ∧ Claims.TendDecrementsTheJoinWord ∧ Claims.SyncWaitsForChildren


/-- R50, R51, R292: ASEND and ASEND.G send one packet to each target in order, with the payload registers, the sending core in `g12` and
GTIDs in sequence, once the PQ is empty; an unaligned pc traps with cause 0x04, a core outside the partition with 0x05 and an invalid
group with 0x14. -/
def Sys2Proof.Claims.AsendSendsPackets : Prop :=
  ∀ (s : State) (y a b : BitVec 6) (n : BitVec 4),
    let c := s.cur.core
    let t := (s.rg b).toNat
    let pid := s.runPid c
    let sent (i : Instr) (ts : List Nat) : Prop :=
      (s.core c).pq = [] → s.chanFull = [] → (∀ r ∈ s.me.served, r.1 ≠ s.me.pc) → y.toNat + n.toNat ≤ 64 → Answers i s fun u =>
        u.mem = s.mem ∧ u.me.mode = s.me.mode ∧ (u.cvf c).taskSeq = (s.cvf c).taskSeq + BitVec.ofNat 32 ts.length ∧
        ∃ ps : List (Nat × Packet), u.chan = s.chan ++ ps ∧ ps.map (·.1) = ts ∧ ∀ j (h : j < ps.length),
          ps[j].2.pc = s.rg a ∧ ps[j].2.payload = (List.range n.toNat).map (fun m => s.rg (BitVec.ofNat 6 (y.toNat + m))) ∧
          ps[j].2.g12 = BitVec.ofNat 64 c ∧ ps[j].2.sender = some c ∧ ps[j].2.pop = s.me.pop ∧ ps[j].2.vf = s.runVf c ∧
          ps[j].2.fmtd = s.me.fmtd ∧ ps[j].2.scale = s.me.scale ∧
          ps[j].2.gtid = BitVec.ofNat 48 (c % 2 ^ 16 * 2 ^ 32 + ((s.cvf c).taskSeq + BitVec.ofNat 32 j).toNat)
    ((s.rg a).toNat % 4 = 0 → t < 2 ^ 16 → s.coreIn pid t = true → sent (.asend y a b n) [t]) ∧
    ((s.rg a).toNat % 4 ≠ 0 → t < 2 ^ 8 →
      Traps (.asend y a b n) s 0x04 (s.rg a) ∧ Traps (.asendG y a b n) s 0x04 (s.rg a)) ∧
    ((s.rg a).toNat % 4 = 0 → t < 2 ^ 16 → s.coreIn pid t = false → Traps (.asend y a b n) s 0x05 (s.rg b)) ∧
    (∀ ms, (s.rg a).toNat % 4 = 0 → t < 2 ^ 8 → s.group pid t = some ms → ms ≠ [] → sent (.asendG y a b n) ms) ∧
    ((s.rg a).toNat % 4 = 0 → t < 2 ^ 8 → (s.group pid t = none ∨ s.group pid t = some []) → Traps (.asendG y a b n) s 0x14 (s.rg b))

/-- R26, R50, R292: a parked ASEND changes nothing while a store of its core is not home. Then its targets are the one it names, or the
members its group has at that moment, but for those it has served; it injects to the next where the channel admits a packet, and stays
where it does not; with none left it is done, and a group that has become invalid or empty gives trap 0x14. -/
def Sys2Proof.Claims.AsendInjectsWhenAdmitted : Prop :=
  ∀ (s : State) (c n seq : Nat) (pc : Word) (pay : List Word) (ts : List Nat) (g : Option Nat),
    (s.slot c n).cWait = some (.asend seq pc pay ts g) →
    let x := s.slot c n
    let all : List Nat := match g with
      | none => ts
      | some e => (s.group (s.runPid c) e).getD []
    let left := all.filter fun t => !x.served.contains (x.pc, t)
    ((∃ e ∈ (s.core c).pq, e.seq ≤ seq) → Answers (.asendInject c n) s fun u => u = s) ∧
    ((∀ e ∈ (s.core c).pq, seq < e.seq) →
      (∀ e, g = some e → all = [] → Answers (.asendInject c n) s fun u => OnlySlot c n s u ∧
        u.slot c n = { x with cWait := some (.trap 0x14 (BitVec.ofNat 64 e)) }) ∧
      (left = [] → (all ≠ [] ∨ g = none) → Answers (.asendInject c n) s fun u => OnlySlot c n s u ∧
        u.slot c n = { x with cWait := some (.done []) }) ∧
      (∀ t r, left = t :: r → t ∈ s.chanFull → Answers (.asendInject c n) s fun u => OnlySlot c n s u ∧
        u.slot c n = { x with cWait := some (.asend seq pc pay left none) }) ∧
      (∀ t r, left = t :: r → t ∉ s.chanFull → Answers (.asendInject c n) s fun u =>
        (∃ p, u.chan = s.chan ++ [(t, p)] ∧ p.pc = pc ∧ p.payload = pay ∧ p.sender = some c) ∧
        (u.slot c n).cWait = some (if r = [] then .done [] else .asend seq pc pay r none) ∧
        (u.slot c n).served = x.served ++ [(x.pc, t)] ∧ u.mem = s.mem))

/-- R26, R50, R51, R292: active messages leave at once or wait for the channel. -/
def Obligations.MessagesAreSent : Prop :=
  Claims.AsendSendsPackets ∧ Claims.AsendInjectsWhenAdmitted


/-- R34, R35, R36, R37, R239: a packet that reaches a core with a FREE slot and an empty buffer starts its task in the lowest one; a
launch packet gets its index and GTID on arrival; with no FREE slot it waits in the buffer, and for a VF that does not run it is kept. -/
def Sys2Proof.Claims.PacketsStartTasks : Prop :=
  ∀ (s : State) (c : Nat) (p : Packet) (r : List (Nat × Packet)), s.chan.filter (·.1 = c) = (c, p) :: r → Untraced s →
    let k := s.core c
    (∀ n, k.vf = some p.vf → k.switchTo = none → k.buf = [] → n < 16 → (s.slot c n).mode = .free →
      (∀ m, m < n → (s.slot c m).mode ≠ .free) → Answers (.activationPacket c 0) s fun t =>
        (t.slot c n).mode = .ready ∧ (t.slot c n).pc = p.pc ∧ (t.slot c n).pop = p.pop ∧ (t.slot c n).p = 1 ∧
        OwnedView (t.core c) ∧ t.mem = s.mem ∧
        (∀ i (h : i < p.payload.length), i < 8 → (t.slot c n).g[4 + i]? = some p.payload[i]) ∧
        (p.sender ≠ none → (t.slot c n).g[12] = p.g12 ∧ (t.slot c n).g[13] = p.g13 ∧ (t.slot c n).gtid = p.gtid) ∧
        (∀ q x, p.sender = none → p.pop = some q → FMap.find? s.pops q = some x →
          let j := FMap.getD x.seen c 0
          (t.slot c n).g[12] = BitVec.ofNat 64 (x.quota * x.cores.findIdx (· = c) + j) ∧
          (t.slot c n).g[13] = BitVec.ofNat 64 (x.quota * x.cores.length) ∧
          (t.slot c n).gtid.setWidth 32 = p.gtid.setWidth 32 + BitVec.ofNat 32 j)) ∧
    (k.vf = some p.vf → k.switchTo = none → (∀ m, m < 16 → (s.slot c m).mode ≠ .free) → k.buf.length < 4 → p.sender ≠ none →
      Answers (.activationPacket c 0) s fun t => (t.core c).buf = k.buf ++ [p] ∧ t.mem = s.mem) ∧
    (k.vf ≠ some p.vf → p.sender ≠ none → Answers (.activationPacket c 0) s fun t => t.mem = s.mem ∧ (t.core c).buf = k.buf ∧
      ∃ x, FMap.find? (t.core c).vfs (p.vf + 1) = some x ∧ p ∈ x.kept)

/-- R36: the oldest buffered packet starts in the lowest FREE slot. -/
def Sys2Proof.Claims.BufferedPacketsStart : Prop :=
  ∀ (s : State) (c n : Nat) (p : Packet) (r : List Packet), (s.core c).buf = p :: r → (s.core c).vf = some p.vf →
    (s.core c).switchTo = none → n < 16 → (s.slot c n).mode = .free → (∀ m, m < n → (s.slot c m).mode ≠ .free) →
    Untraced s → Answers (.activationBufferDispatch c) s fun t =>
      (t.slot c n).mode = .ready ∧ (t.slot c n).pc = p.pc ∧ (t.slot c n).gtid = p.gtid ∧ (t.slot c n).pop = p.pop ∧
      (t.core c).buf = r ++ (s.cvf c).kept.take 1 ∧ (t.cvf c).kept = (s.cvf c).kept.drop 1 ∧ OwnedView (t.core c)

/-- R30: a timer that has fallen due is pending with the value that fell due, which a later %TCMP does not replace; before, nothing
changes. -/
def Sys2Proof.Claims.TimersFallDue : Prop :=
  ∀ (s : State) (c n : Nat),
    let x := s.slot c n
    let due : Prop := x.mode ≠ .free ∧ x.tcmp ≠ 0 ∧ x.tcmp.toNat ≤ (s.core c).cyc.toNat
    (due → Answers (.timerExpiry c n) s fun t => OnlySlot c n s t ∧
      t.slot c n = { x with pendTimer := some (x.pendTimer.getD x.tcmp) }) ∧
    (¬ due → Answers (.timerExpiry c n) s fun t => t = s)

/-- R30, R34-R37, R239: packets start tasks, from the channel and from the buffer, and timers fall due. -/
def Obligations.PacketsAndTimers : Prop :=
  Claims.PacketsStartTasks ∧ Claims.BufferedPacketsStart ∧ Claims.TimersFallDue


/-- R48: the search order of a thief holds the other cores of its population, nearest first and the lower number first among equals. -/
def Sys2Proof.Claims.ThievesSearchByDistance : Prop :=
  ∀ (s : State) (c p : Nat) (x : Pop), FMap.find? s.pops p = some x →
    (s.victims c (some p)).Perm (x.cores.filter (· ≠ c)) ∧
    (s.victims c (some p)).Pairwise fun v w =>
      s.distance c v < s.distance c w ∨ (s.distance c v = s.distance c w ∧ v ≤ w)

/-- R48, R49: a thief asks the next victim of its order, or waits 1,024 cycles after the last; a victim whose stores are home and whose
deque is of the thief's population gives its oldest record, and FAIL otherwise; a record starts in the thief's slot after its L view
is self-invalidated, and a FAIL moves the search on; the back-off ends at its cycle. -/
def Sys2Proof.Claims.StealingMovesTheOldestRecord : Prop :=
  ∀ (s : State) (c n : Nat) (st : Steal), (s.slot c n).mode = .idleSteal → (s.slot c n).steal = some st → Untraced s →
    let pop := (s.slot c n).pop
    let becomes (i : Instr) (x : Steal) : Prop := Answers i s fun t => (t.slot c n).steal = some x ∧
      (t.slot c n).mode = .idleSteal ∧ t.mem = s.mem
    (∀ v, st.asked = none → st.backoff = none → (s.victims c pop)[st.pos]? = some v →
      becomes (.stealRequest c n) { st with asked := some v, answer := none }) ∧
    (st.asked = none → st.backoff = none → (s.victims c pop)[st.pos]? = none →
      becomes (.stealRequest c n) { st with backoff := some ((s.core c).cyc.toNat + 1024) }) ∧
    (∀ v, st.asked = some v → st.answer = none → ((s.core v).vf ≠ (s.core c).vf ∨ (s.cvf v).holdsFor pop = false) →
      becomes (.stealAnswer c n) { st with answer := some none }) ∧
    (∀ v r rest, st.asked = some v → st.answer = none → (s.core v).vf = (s.core c).vf → (s.cvf v).dqPop = pop →
      (s.cvf v).ringCount = 0 → (s.cvf v).deque = r :: rest → (s.core v).pq = [] → Answers (.stealAnswer c n) s fun t =>
        (t.slot c n).steal = some { st with answer := some (some r) } ∧ (t.cvf v).deque = rest ∧ t.mem = s.mem) ∧
    (∀ r, st.answer = some (some r) → Answers (.stealReply c n) s fun t =>
      RunsRecord (s.slot c n) (t.slot c n) r ∧ OwnedView (t.core c) ∧ t.mem = s.mem) ∧
    (st.answer = some none → becomes (.stealReply c n) { st with
      pos := st.pos + 1, failed := st.failed + 1, asked := none, answer := none
      backoff := if (s.victims c pop).length ≤ st.pos + 1 then some ((s.core c).cyc.toNat + 1024) else none }) ∧
    (∀ w, st.backoff = some w → w ≤ (s.core c).cyc.toNat →
      becomes (.stealBackoffExpiry c n) { st with pos := 0, backoff := none }) ∧
    (∀ w, st.backoff = some w → (s.core c).cyc.toNat < w → Answers (.stealBackoffExpiry c n) s fun t => t = s)

/-- R48, R49: slots without work search by distance and take the oldest record. -/
def Obligations.WorkIsStolen : Prop :=
  Claims.ThievesSearchByDistance ∧ Claims.StealingMovesTheOldestRecord


/-- R52, R53: an access to another core's scratchpad sends the slot there, with no effect of its bundle; the owner that runs the VF
loads the registers that %LIVE names, as the origin holds them at the departure, into its lowest FREE slot, the others 0, with the
causes then pending; and the origin becomes FREE; a refused bundle is executed again at the origin without migrating. -/
def Obligations.MigrationCarriesLiveRegisters : Prop :=
  (∀ (s : State) (d a : BitVec 6) (i : BitVec 12) (o off : Nat),
    let va := s.rg a + i.signExtend 64
    va = BitVec.ofNat 64 (0x01F000000000 + o * 2 ^ 18 + off) → o < 1024 → off < 2 ^ 18 → off % 8 = 0 → o ≠ s.cur.core →
    s.coreIn (s.runPid s.cur.core) o = true → s.me.tstat.getLsbD 1 = true → s.me.claim = none → s.me.noMig ≠ some s.me.pc →
    Answers (.ldd d a i) s fun t => t.mem = s.mem ∧ t.me.g = s.me.g ∧ t.me.mode = .parked ∧ t.me.fate = .replay ∧
      ∃ m, t.migs = s.migs ++ [m] ∧ m.core = s.cur.core ∧ m.slot = s.cur.slot ∧ m.owner = o ∧ m.image = s.me) ∧
  (∀ (s : State) (m : Mig) (n : Nat), s.migOf m.core m.slot = some m → m.reply = none → (s.core m.core).pq = [] →
    (s.core m.owner).vf = some m.vf → (s.core m.owner).switchTo = none → n < 16 → (s.slot m.owner n).mode = .free →
    (∀ j, j < n → (s.slot m.owner j).mode ≠ .free) → Untraced s → Answers (.migrationArrival m.core m.slot) s fun t =>
      let x := s.slotV m.core (m.vf + 1) m.slot
      let y := t.slot m.owner n
      y.mode = .ready ∧ y.pc = x.pc ∧ y.p = x.p ∧ y.gtid = x.gtid ∧ y.pop = x.pop ∧ y.stop = x.stop ∧
      y.pendEngine = x.pendEngine ∧ y.pendHang = x.pendHang ∧ y.pendVpoison = x.pendVpoison ∧
      (∀ j : Fin 64, y.g[j] = if x.live.getLsbD j.val then x.g[j] else 0) ∧ OwnedView (t.core m.owner) ∧
      { m with reply := some true } ∈ t.migs ∧ t.mem = s.mem) ∧
  (∀ (s : State) (m : Mig), s.migOf m.core m.slot = some m →
    (m.reply = some true → Answers (.migrationAck m.core m.slot) s fun t => t.migs = s.migs.erase m ∧
      (t.slotV m.core (m.vf + 1) m.slot).mode = .free) ∧
    (m.reply = some false → (s.slotV m.core (m.vf + 1) m.slot).mode = .parked →
      Answers (.migrationRefusal m.core m.slot) s fun t =>
        t.migs = s.migs.erase m ∧ (t.slotV m.core (m.vf + 1) m.slot).mode = .ready ∧
        (t.slotV m.core (m.vf + 1) m.slot).noMig = some (s.slotV m.core (m.vf + 1) m.slot).pc))

/-- R199, R327: a message for the slot is taken into four registers and out of the inbox, the core's L view being self-invalidated;
without one IBX parks with wait code 5, IBX.TRY gives 0 and PARK parks with wait code 6. -/
def Sys2Proof.Claims.InboxMessages : Prop :=
  ∀ (s : State) (d : BitVec 6), d.toNat ≤ 60 →
    let c := s.cur.core
    let mine (m : Msg) : Bool := m.slot = s.cur.slot && m.pop = s.me.pop && m.vf = s.runVf c
    (∀ m, (s.core c).inbox.find? mine = some m →
      (∀ i, (i = .ibx d ∨ i = .ibxTry d) → Answers i s fun t => OnlyCore c s t ∧ t.me = { s.me with g := t.me.g } ∧
        (t.core c).inbox = (s.core c).inbox.erase m ∧ OwnedView (t.core c) ∧
        ∀ n : Fin 64, t.me.g[n] = if n.val = 0 then s.me.g[n] else if n.val = d.toNat then m.w0
          else if n.val = d.toNat + 1 then m.w1 else if n.val = d.toNat + 2 then m.w2
          else if n.val = d.toNat + 3 then m.w3 else s.me.g[n]) ∧
      Answers .park s fun t => t = s) ∧
    ((s.core c).inbox.find? mine = none →
      Answers (.ibx d) s (fun t => Becomes s t { s.me with mode := .parked, cWait := some (.ibx d.toNat) } ∧
        t.me.waitCode = some 5) ∧
      Result (.ibxTry d) s d 0 ∧
      Answers .park s fun t => Becomes s t { s.me with mode := .parked, cWait := some .park } ∧ t.me.waitCode = some 6)

/-- R56, R174, R198: a running population with every slot searching, no record and nothing in flight for 65,536 cycles is complete, and its
slots become FREE; one that waits with nothing moved for as long is hung, and a waiting slot that asks for it (HANGTRAP) leaves its wait
with trap 0x10 pending and its wait code for %TVAL (in a handler it waits on, with the trap pending), the others stand; a complete one is
reported once its jobs, stores and remote operations are done. -/
def Sys2Proof.Claims.PopulationsAreJudged : Prop :=
  ∀ (s : State) (p : Nat) (x : Pop), FMap.find? s.pops p = some x →
    (x.status = .running → 65536 ≤ x.quiet → s.noRecords p = true →
      (∀ e ∈ s.popSlots p, s.unjudged e = false ∧ e.2.2.2.mode = .idleSteal) → Answers (.populationComplete p) s fun t =>
        FMap.find? t.pops p = some { x with status := .complete } ∧ (∀ c, ∀ m ∈ (t.core c).inbox, m.pop ≠ some p) ∧
        (∀ e ∈ s.popSlots p, (t.slot e.1 e.2.2.1).mode = .free) ∧
        (∀ q, q ≠ p → FMap.find? t.pops q = FMap.find? s.pops q) ∧ t.mem = s.mem) ∧
    ((x.status ≠ .running ∨ x.quiet < 65536) → Answers (.populationComplete p) s fun t => t = s) ∧
    (x.status = .running → 65536 ≤ x.still → (∃ e ∈ s.popSlots p, (s.waitCode e.1 e.2.2.2).isSome = true) →
      (∀ e ∈ s.popSlots p, s.unjudged e = false) →
      (∀ c n d m r, (s.slot c n).cWait = some (.request r) → (s.slot d m).cWait = some (.request r) → c = d ∧ n = m) → Answers (.populationHung p) s fun t =>
        FMap.find? t.pops p = some { x with hung := true, still := 0 } ∧ t.reports = s.reports ++ [.hung p] ∧ t.mem = s.mem ∧
        ∀ c n code, (c, s.vk c, n, s.slot c n) ∈ s.popSlots p → s.waitCode c (s.slot c n) = some code →
          ((s.slot c n).tstat.getLsbD 3 = true → (t.slot c n).pendHang = some (BitVec.ofNat 64 code) ∧
            (t.slot c n).pc = (s.slot c n).pc ∧ ((s.slot c n).inTrap = false → (t.slot c n).mode = .ready) ∧
            ((s.slot c n).inTrap = true → (t.slot c n).mode = .parked)) ∧
          ((s.slot c n).tstat.getLsbD 3 = false → t.slot c n = s.slot c n)) ∧
    ((x.status ≠ .running ∨ x.still < 65536) → Answers (.populationHung p) s fun t => t = s) ∧
    (x.status = .complete → (∀ k ∈ s.clusters, ∀ j ∈ k.2.queue ++ k.2.running, j.pop ≠ some p) →
      (∀ c ∈ s.cores, ∀ e ∈ c.2.pq ++ c.2.unpub, e.pop ≠ some p) → (∀ o ∈ s.peerOps, o.2.pop ≠ some p) →
      Answers (.completionReport p) s fun t => t = { s with pops := FMap.insert s.pops p { x with status := .reported } }) ∧
    (x.status ≠ .complete → Answers (.completionReport p) s fun t => t = s)

/-- R56, R174, R198, R199, R327: completion messages, and the judging of populations. -/
def Obligations.InboxesAndPopulations : Prop :=
  Claims.InboxMessages ∧ Claims.PopulationsAreJudged

/-! ### Issue, jobs, the copy unit, tables, the matrix engine -/

namespace Sys2Proof.Claims

/-- A slot may issue at a cycle (R31 items 1, 2). -/
def MayIssue (x : Slot) (now : Nat) : Prop :=
  x.mode = .ready ∧ x.readyAt ≤ now ∧ ∀ l, x.lastIssue = some l → l + 8 ≤ now

/-- The last issue of one slot is older than that of another, a slot that has never issued being oldest, ties to the lower number (R31
items 3-5). -/
def Before (x y : Slot) (n m : Nat) : Prop := match x.lastIssue, y.lastIssue with
  | none, none => n ≤ m
  | none, some _ => True
  | some _, none => False
  | some a, some b => a < b ∨ (a = b ∧ n ≤ m)

/-- A slot whose wait has a code of R54 while an asynchronous trap that wakes it is pending in it (R201, R354). -/
def WakeDue (s : State) (c n : Nat) : Prop :=
  let x := s.slot c n
  s.waitCode c x ≠ none ∧ x.inTrap = false ∧ (x.pendVpoison ≠ none ∨ x.pendHang ≠ none ∨ x.pendEngine ≠ [])

/-- A submission whose core's stores are home and published and that the queue admits enters the cluster's queue with the next job id and
what it captured, and the id stands in its register (R196, R197). -/
def Submits (i : Instr) (s : State) (d : BitVec 6) (kind mode : Nat) (a : BitVec 6) (n : Nat) : Prop :=
  let c := s.cur.core
  let cl := s.clusterOf c
  (s.core c).pq = [] → (s.core c).unpub = [] → (s.cluster cl).queue.length < 64 → s.outstanding c < 64 →
  s.admitNext cl = none → a.toNat + n ≤ 64 → Answers i s fun t =>
    t.mem = s.mem ∧ t.me.mode = s.me.mode ∧ ∃ j : Job, (t.cluster cl).queue = (s.cluster cl).queue ++ [j] ∧
      j.id = (s.cluster cl).nextJob ∧ j.kind = kind ∧ j.mode = mode ∧ j.core = c ∧ j.slot = s.cur.slot ∧
      j.pop = s.src.slot.pop ∧ j.vf = s.runVf c ∧ j.fmtd = s.src.slot.fmtd ∧ j.scale = s.src.slot.scale ∧
      j.regs = (List.range n).map (fun m => s.rg (BitVec.ofNat 6 (a.toNat + m))) ∧
      Regs s.me t.me d (j.id.zeroExtend 64) ∧
      (t.cluster cl).nextJob = if j.id + 1 = 0 then 1 else j.id + 1

/-- A submission that finds 64 jobs in the queue, or 64 of its core outstanding, parks and changes no register; it waits with code 7 where
its core's stores are home and published (R54, R196). -/
def Waits (i : Instr) (s : State) : Prop :=
  let c := s.cur.core
  (64 ≤ (s.cluster (s.clusterOf c)).queue.length ∨ (64 ≤ s.outstanding c ∧ s.admitNext (s.clusterOf c) = none)) → Answers i s fun t =>
    t.me.mode = .parked ∧ ((s.core c).pq = [] → (s.core c).unpub = [] → t.waitCode c t.me = some 7) ∧ t.me.g = s.me.g ∧ t.clusters = s.clusters ∧ t.mem = s.mem

/-- The formats an engine reads with name no decode table, and encoding draws nothing (R91, R100). -/
def PlainFormat (f : BitVec 4) : Prop := f ∈ plainFormats.map (·.1)

/-- A range in the own scratchpad of a job's core, whose banks its VF owns and which holds no poison (R141, R155, R242). -/
def JobSp (s : State) (j : Job) (va : Word) (n : Nat) : Prop :=
  0x01E000000000 ≤ va.toNat ∧ va.toNat + n ≤ 0x01E000040000 ∧ j.core < 2048 ∧
  ∀ i, i < n → s.spOwned j.core j.vf (va.toNat - 0x01E000000000 + i) = true ∧
    s.poisoned (spKey (j.vf + 1) j.core (va.toNat - 0x01E000000000 + i)) 1 = false

/-- The key of the first byte of such a range. -/
def jobKey (j : Job) (va : Word) : Nat := spKey (j.vf + 1) j.core (va.toNat - 0x01E000000000)

/-- The bytes at one place become some bytes and no other byte of the homes changes. -/
def Writes (s t : State) (key : Nat) (bs : List Byte) : Prop :=
  t.mem.read key bs.length = bs ∧ ∀ a, a < key ∨ key + bs.length ≤ a → t.mem.get a = s.mem.get a

/-- The element of a tile at a row and a column (R206). -/
def tileElem (t : Tile) (r c : Nat) : AcElem := FMap.getD t.elems (128 * r + c) { val := 0, cnt := 0, poison := false }

/-- The columns k of a k-block at which row r of A and column c of B are both present (R112). -/
def present (a b : KPart) (r c : Nat) : List Nat := (List.range 32).filter fun k =>
  (a.rows.getD r []).getD k 0 ≠ 0xFFFFFFFF ∧ (b.rows.getD k []).getD c 0 ≠ 0xFFFFFFFF

/-- The value of a product of a k-block under its two scale codes (R106, R112). -/
def product (a b : KPart) (r c k : Nat) : ℚ :=
  (layout 0).val ((a.rows.getD r []).getD k 0).toNat * (layout 0).val ((b.rows.getD k []).getD c 0).toNat *
    (2 : ℚ) ^ ((a.scales.getD r 127 : Int) - 127 + (b.scales.getD c 127 : Int) - 127)

end Sys2Proof.Claims

/-- R30, R31, R201, R226, R354: an issue cycle advances %CYC by 1; of the slots that may issue the one whose last issue is oldest does, and its
bundle is next, or it takes the asynchronous cause that is its turn and the handler's first bundle is next; with none that may, nothing
issues. A core that is being switched
issues nothing. A slot whose wait takes its code only after an engine, poison or hang trap became pending in it leaves the wait first
(R201, R354), and may then wait for its register bank alone. -/
def Obligations.IssueCyclePicksTheOldest : Prop :=
  ∀ (s : State) (c : Nat), s.exists_ c = true → s.issuing = none →
    let now := ((s.core c).cyc + 1).toNat
    Answers (.issueCycle c) s (fun t => (t.core c).cyc = (s.core c).cyc + 1) ∧
    ((s.core c).switchTo ≠ none → Answers (.issueCycle c) s fun t => t.issuing = none ∧ t.mem = s.mem) ∧
    (∀ m, m < 16 → WakeDue s c m → (∀ k, k < m → ¬ WakeDue s c k) → Answers (.issueCycle c) s fun t =>
      (t.slot c m).cWait = none ∨ (t.slot c m).cWait = some (.bank 0 c m)) ∧
    ((s.core c).switchTo = none → (∀ m, m < 16 → ¬ WakeDue s c m) →
      ((∀ n, n < 16 → ¬ MayIssue (s.slot c n) now) → Answers (.issueCycle c) s fun t => t.issuing = none ∧ t.mem = s.mem ∧
        ∀ n, (t.slot c n).pc = (s.slot c n).pc ∧ (t.slot c n).mode = (s.slot c n).mode) ∧
      (∀ n, n < 16 → MayIssue (s.slot c n) now →
        (∀ m, m < 16 → MayIssue (s.slot c m) now → Before (s.slot c n) (s.slot c m) n m) →
        (s.slot c n).stop = false → (c < 2048 → FMap.find? (s.core c).gprTag n = some (s.runVf c)) →
        (∀ p, s.part (s.runPid c) = some p → p.dbm = []) →
        let x := (s.slot c n).timer now
        (State.nextAsync x (s.cvf c).pmOvf = none → Answers (.issueCycle c) s fun t => t.issuing = some (c, n) ∧
          (t.slot c n).lastIssue = some now ∧ ∀ m, m ≠ n → (t.slot c m).lastIssue = (s.slot c m).lastIssue) ∧
        (∀ cause v y, State.nextAsync x (s.cvf c).pmOvf = some (cause, v, y) → (s.cvf c).tvec ≠ 0 →
          Answers (.issueCycle c) s fun t => t.issuing = some (c, n) ∧ (t.slot c n).pc = (s.cvf c).tvec ∧
            (t.slot c n).tpc = (s.slot c n).pc ∧ (t.slot c n).tcause = BitVec.ofNat 64 cause ∧ (t.slot c n).tval = v ∧
            (t.slot c n).inTrap = true)))

/-- R54, R91, R196, R197, R299, R321: the submissions of the copy unit and the matrix engine enter their cluster's queue and return the
job's id, for formats that name no table and without stochastic rounding; with 64 jobs in the queue, or 64 of the core, they park. -/
def Sys2Proof.Claims.SubmissionsEnterTheQueue : Prop :=
  ∀ (s : State) (d a : BitVec 6),
    let f := s.src.slot.fmtd
    let af := f.extractLsb' 0 4; let bf := f.extractLsb' 4 4; let of' := f.extractLsb' 8 4
    let both (i : Instr) (kind mode n : Nat) : Prop := Submits i s d kind mode a n ∧ Waits i s
    both (.cpy d a) 1 0 6 ∧ both (.cpyGather d a) 1 2 6 ∧ both (.cpyPeer d a) 1 3 6 ∧ both (.cpyFill d a) 1 4 6 ∧
    (PlainFormat af → PlainFormat of' → f.extractLsb' 14 2 ≠ 2 → both (.cpyCvt d a) 1 1 6) ∧
    (PlainFormat af → PlainFormat bf → both (.mxMul d a) 2 0 8) ∧ both (.mxRot d a) 3 0 2 ∧
    (PlainFormat of' → f.extractLsb' 14 2 ≠ 2 → both (.mxDrain d a) 4 0 3) ∧ both (.mxZero d a) 5 0 1 ∧
    (PlainFormat af → both (.mxLoad d a) 6 0 3)

/-- R196, R198, R200, R201, R204, R213: JOB_ADMIT queues the oldest parked submission whose drain is over; JOB_START moves the head of
the queue to its engine where that is free, faults a refused copy with REASON 4 and clears the tile of an MX.ZERO; JOB_COMPLETE sends the
message of a job that has ended; JPOLL reports a job's state. -/
def Sys2Proof.Claims.JobsRunToTheirMessage : Prop :=
  ∀ (s : State) (cl : Nat),
    let k := s.cluster cl
    (∀ c n d j, s.nextSubmission cl = some (c, n, d, j) → s.admits c = true → Answers (.jobAdmit cl) s fun t =>
      (t.cluster cl).queue = k.queue ++ [{ j with id := k.nextJob }] ∧
      t.slot c n = { s.slot c n with cWait := some (.done [.g d (k.nextJob.zeroExtend 64)]) } ∧ t.mem = s.mem) ∧
    (∀ j r, k.queue = j :: r → (∀ x ∈ k.running, x.id ≠ j.id) →
      (j.kind = 1 → (k.running.filter (·.kind = 1)).length < 4 → (∀ f, k.prefetched = some f → f.1 ≠ j.id) → Answers (.jobStart cl) s fun t =>
        (t.cluster cl).queue = r ∧ (t.cluster cl).running = k.running ++ [if j.cpyBad = true
          then { j with status := .faulted 4 0, buf := [] } else { j with status := .running }] ∧ t.mem = s.mem) ∧
      (j.kind = 1 → 4 ≤ (k.running.filter (·.kind = 1)).length → Answers (.jobStart cl) s fun t => t = s) ∧
      (j.kind = 5 → j.reg 0 = BitVec.ofNat 64 j.tile → (∀ x ∈ k.running, x.kind = 1) →
        FMap.find? k.tileTag j.tile = some j.vf → Answers (.jobStart cl) s fun t =>
          (t.cluster cl).queue = r ∧ t.tileOf cl j.vf j.tile = {} ∧ t.mem = s.mem ∧
          (t.cluster cl).running = k.running ++ [{ j with status := .finished, buf := [] }])) ∧
    (∀ (j : Job) (p : Nat) (x : Pop), s.jobAt cl j.id.toNat = some j → j.pop = some p → FMap.find? s.pops p = some x →
      x.status = .running → (j.status = .finished ∨ ∃ q v, j.status = .faulted q v) →
      Answers (.jobComplete cl j.id.toNat) s fun t =>
        (∀ y ∈ (t.cluster cl).running, y.id ≠ j.id) ∧ t.mem = s.mem ∧
        ∃ m : Msg, (t.core j.core).inbox = (s.core j.core).inbox ++ [m] ∧
          m.slot = j.slot ∧ m.pop = j.pop ∧ m.vf = j.vf ∧ m.cluster = cl ∧
          (j.status = .finished → m.w0 = BitVec.ofNat 64 (j.kind * 2 ^ 32 + j.id.toNat * 2 ^ 16) ∧
            m.w1 = (if j.csat then 1 else 0) ∧ m.w3 = BitVec.ofNat 64 (if j.kind = 1 then j.done else 0)) ∧
          (∀ q v, j.status = .faulted q v → m.w0 = BitVec.ofNat 64 (j.kind * 2 ^ 32 + j.id.toNat * 2 ^ 16 + 2) ∧
            m.w1 = BitVec.ofNat 64 q ∧ m.w2 = v)) ∧
    (∀ d a : BitVec 6,
      let v := s.rg a
      let q := s.cluster (s.clusterOf s.cur.core)
      ((v = 0 ∨ 2 ^ 16 ≤ v.toNat) → Result (.jpoll d a) s d 3) ∧
      (∀ j ∈ q.queue ++ q.running, v = j.id.zeroExtend 64 → v ≠ 0 → Result (.jpoll d a) s d 0) ∧
      ((∀ j ∈ q.queue ++ q.running, v ≠ j.id.zeroExtend 64) →
        (∀ e ∈ s.cores, ∀ m ∈ e.2.inbox, m.w0.toNat / 2 ^ 16 % 2 ^ 16 ≠ v.toNat) → Result (.jpoll d a) s d 3))

/-- R54, R91, R196-R198, R200, R201, R204, R213, R299, R321: submissions enter the queue, and jobs run to their message. -/
def Obligations.EnginesTakeTheirJobs : Prop :=
  Claims.SubmissionsEnterTheQueue ∧ Claims.JobsRunToTheirMessage


/-- R93-R99, R203, R205: a piece of a copy, a gather or a fill of up to 128 bytes in one row reads all its bytes and then writes them at
its destination, no other byte changes, and the job has ended with its count. A gather takes its source from its list. A converting copy
writes, for each element, what CVTE gives of what CVTD gives of it, packed in order, where its ranges do not overlap and its formats
name no table and round without draws. -/
def Sys2Proof.Claims.CopiesMoveTheirBytes : Prop :=
  ∀ (s : State) (cl n : Nat) (j : Job), s.jobAt cl j.id.toNat = some j → j.kind = 1 → j.status = .running → j.buf = [] →
    j.done = 0 → 0 < n → n ≤ 128 → j.reg 2 = BitVec.ofNat 64 (2 ^ 32 + n) → JobSp s j (j.reg 1) n →
    let ends (t : State) (n : Nat) : Prop := ∃ x, t.jobAt cl j.id.toNat = some x ∧ x.status = .finished ∧ x.done = n
    let src := le8 s.mem (jobKey j (j.reg 0))
    let af := fmtdAF j.fmtd; let of' := fmtdOF j.fmtd
    let wi := fmtWidth af; let wo := fmtWidth of'
    let count := 8 * n / wi
    let m := count * wo / 8
    (j.mode = 0 → JobSp s j (j.reg 0) n → Answers (.cpxPiece cl j.id.toNat) s fun t =>
      Writes s t (jobKey j (j.reg 1)) (s.mem.read (jobKey j (j.reg 0)) n) ∧ ends t n) ∧
    (j.mode = 4 → Answers (.cpxPiece cl j.id.toNat) s fun t =>
      Writes s t (jobKey j (j.reg 1)) ((List.range n).map fun i => (j.reg 0).extractLsb' (8 * (i % 8)) 8) ∧ ends t n) ∧
    (j.mode = 2 → JobSp s j (j.reg 0) 8 → JobSp s j src n → Answers (.cpxPiece cl j.id.toNat) s fun t =>
        Writes s t (jobKey j (j.reg 1)) (s.mem.read (jobKey j src) n) ∧ ends t n) ∧
    (j.mode = 1 → PlainFormat af → PlainFormat of' → fmtdRnd j.fmtd ≠ 2 → 8 * n % wi = 0 → count * wo % 8 = 0 →
      JobSp s j (j.reg 0) n → JobSp s j (j.reg 1) m → n ≤ (j.reg 1 - j.reg 0).toNat → m ≤ (j.reg 0 - j.reg 1).toNat →
      Answers (.cpxPiece cl j.id.toNat) s fun t =>
        (∀ i, i < count → element wo (t.mem.read (jobKey j (j.reg 1)) m) i =
          (encodeFmt of' [] (fmtdRnd j.fmtd) (fmtdSat j.fmtd) (scaleEexp j.scale) j.rng
            (decodeFmt af [] (scaleDexp j.scale) (element wi (s.mem.read (jobKey j (j.reg 0)) n) i)).bits).1.bits % 2 ^ wo) ∧
        (∀ a, a < jobKey j (j.reg 1) ∨ jobKey j (j.reg 1) + m ≤ a → t.mem.get a = s.mem.get a) ∧ ends t m)

/-- R89, R90, R306: DTLD of an aligned image parks for its 256 loads; with all of them returned, DTLD_COMPLETE of an image that R89
accepts replaces the slot's table and no other, and one that it refuses leaves the tables and makes trap 0x11 the reply; of two on one
slot the one issued first completes first, and a bundle executed again keeps its place; a misaligned address traps. An image in the own scratchpad is what stands there. -/
def Sys2Proof.Claims.TablesAreLoadedWhole : Prop :=
  let valid (image : List Half) : Prop := (∀ w ∈ image, w.toNat < 2 ^ 20 ∧ (w.getLsbD 19 = true → w.toNat = 2 ^ 19)) ∧
    (image.filter fun w => w.getLsbD 19).length = 1
  let loaded (s t : State) (c n y : Nat) (image : List Half) : Prop :=
    t.mem = s.mem ∧
    (valid image → (t.slot c n).cWait = some (.done []) ∧
      ∀ m, FMap.find? (t.cvf c).tables m = if m = y then some image else FMap.find? (s.cvf c).tables m) ∧
    (¬ valid image → (t.cvf c).tables = (s.cvf c).tables ∧ (t.slot c n).cWait = some (.trap 0x11 (BitVec.ofNat 64 y)))
  let older (s : State) (c y age : Nat) : Prop :=
    ∃ x ∈ (s.cvf c).slots, ∃ g, x.2.dtld = some (y, g) ∧ g < age
  (∀ (s u : State) (a : BitVec 6) (y : BitVec 2) (key home : Nat) (cached : Bool),
    ((s.rg a).toNat % 1024 ≠ 0 → Traps (.dtld a y) s 0x04 (s.rg a)) ∧
    ((s.rg a).toNat % 1024 = 0 → (s.issuesDtld y.toNat).resolve s.cur.core 0 (s.rg a) 4 false = (.at (.mem key cached home), u) →
      FMap.find? (u.core s.cur.core).tabTag y.toNat = some (u.runVf s.cur.core) → Answers (.dtld a y) s fun t =>
        t.me.mode = .parked ∧ t.me.g = s.me.g ∧ t.mem = s.mem ∧
        t.me.dtld = some (y.toNat, (s.me.dtld.map (·.2)).getD s.tick) ∧
        ∃ ops, t.me.cWait = some (.dtld y.toNat ops [] none none) ∧ ops.length = 256)) ∧
  (∀ (s : State) (c n y age : Nat) (image : List Half), (s.slot c n).cWait = some (.dtld y [] image none none) →
    (s.slot c n).dtld = some (y, age) →
    (¬ older s c y age → Answers (.dtldComplete c n) s fun t => loaded s t c n y image) ∧
    (older s c y age → Answers (.dtldComplete c n) s fun t => OnlySlot c n s t ∧ t.slot c n = s.slot c n)) ∧
  ∀ (s : State) (a : BitVec 6) (y : BitVec 2),
    let c := s.cur.core
    (s.rg a).toNat % 1024 = 0 → FMap.find? (s.core c).tabTag y.toNat = some (s.runVf c) → ¬ older s c y.toNat ((s.me.dtld.map (·.2)).getD s.tick) →
    (∀ i, i < 256 → OwnSpRead s (s.rg a + BitVec.ofNat 64 (4 * i)) 4) →
    Answers (.dtld a y) s fun t => t.me.mode = .parked ∧ t.mem = s.mem ∧ Answers (.dtldComplete c s.cur.slot) t fun u =>
      loaded s u c s.cur.slot y.toNat ((List.range 256).map fun i => le4 s.mem (ownKey s (s.rg a) + 4 * i))

/-- R89, R90, R93-R99, R203, R205, R306: copies move their bytes, and tables are loaded whole. -/
def Obligations.CopiesAndTables : Prop :=
  Claims.CopiesMoveTheirBytes ∧ Claims.TablesAreLoadedWhole


/-- R106, R112, R113, R209: a k-block of a multiply adds, to each element of the tile, the products whose two operands are present: the
count grows by their number up to 65,535, an element without one keeps its value, and one whose operands, scales and accumulator are finite
becomes the exact sum rounded once to nearest. The sign of a sum of exactly 0 is free: R112 states none, and that is the model's choice
(assumption log entry 33). -/
def Sys2Proof.Claims.MultiplyAddsItsBlock : Prop :=
  ∀ (s u : State) (cl : Nat) (j : Job) (bs : List Byte) (ls : List (Nat × Nat)),
    (s.cluster cl).running.find? (fun x => x.kind ≠ 1 && decide (x.status = .running)) = some j → j.kind = 2 →
    s.jobAt cl j.id.toNat = some j → (s.cluster cl).prefetched = none →
    s.readPinned cl j (State.piecesOf (State.kReads j j.row)) [] = (.bytes bs u, ls) → (∀ l ∈ ls, (u.slice (l.1 / 256)).stalled = []) →
    (∀ e ∈ (s.tileOf cl j.vf j.tile).elems, e.2.poison = false) →
    Answers (.mxeKblock cl) s fun t =>
      let a := (State.kParts j bs j.row).1; let b := (State.kParts j bs j.row).2
      t.mem = u.mem ∧
      (∃ x, t.jobAt cl j.id.toNat = some x ∧ x.row = j.row + 1 ∧
        x.status = if j.row + 1 = (j.reg 4).toNat % 2 ^ 13 / 32 then .finished else .running) ∧
      ∀ r c, r < 128 → c < 128 →
        let x := tileElem (s.tileOf cl j.vf j.tile) r c
        let y := tileElem (t.tileOf cl j.vf j.tile) r c
        let ks := present a b r c
        let e : ℚ := (layout 0).val x.val.toNat + (ks.map (product a b r c)).sum
        y.cnt = min (x.cnt + ks.length) 65535 ∧ y.poison = x.poison ∧
        (ks = [] → ((layout 0).exp x.val.toNat ≠ 255 ∨ (layout 0).sig x.val.toNat = 0) → y.val = x.val) ∧
        (ks ≠ [] → (layout 0).Finite x.val.toNat → a.scales.getD r 127 < 255 → b.scales.getD c 127 < 255 →
          (∀ k ∈ ks, (layout 0).Finite ((a.rows.getD r []).getD k 0).toNat ∧
            (layout 0).Finite ((b.rows.getD k []).getD c 0).toNat) →
          (e ≠ 0 → ∃ fl, (layout 0).Rounds 0 e y.val.toNat fl) ∧
          (e = 0 → y.val = 0 ∨ y.val = 0x80000000))

/-- R114, R196, R206, R210: a drained element without products is absent, else its value, divided by its count under NORM; MX.ROT sends
its kept blocks to the neighbours west and north; a block on a link is taken while the engine keeps a set of its VF and the other set has
room; a prefetch reads the first four k-blocks of the next multiply. -/
def Sys2Proof.Claims.BlocksTravelTheTorus : Prop :=
  (∀ (e : AcElem), (e.cnt = 0 → drained false e = 0xFFFFFFFF ∧ drained true e = 0xFFFFFFFF) ∧
    (0 < e.cnt → (layout 0).Finite e.val.toNat → drained false e = e.val.toNat ∧
      ((layout 0).val e.val.toNat ≠ 0 → ∃ fl, (layout 0).Rounds 0 ((layout 0).val e.val.toNat / e.cnt) (drained true e) fl))) ∧
  (∀ (s : State) (cl : Nat) (j : Job) (r : List Job) (a b : Block) (p : Part), (s.cluster cl).queue = j :: r → j.kind = 3 →
    (∀ x ∈ (s.cluster cl).running, x.kind = 1) → j.mxBad = false → FMap.find? (s.cluster cl).tileTag j.tile = some j.vf →
    FMap.find? (s.cluster cl).setTag 0 = some j.vf → FMap.find? (s.cluster cl).setTag 1 = some j.vf →
    FMap.find? (s.cluster cl).kept j.vf = some (a, b) → a.k = (j.reg 1).toNat % 256 → s.part (s.pidOf j.vf) = some p →
    Answers (.jobStart cl) s fun t =>
      let x := cl % 16 - p.cx0; let y := cl / 16 - p.cy0
      let west := 16 * (cl / 16) + p.cx0 + (x + p.cw - 1) % p.cw
      let north := 16 * (p.cy0 + (y + 1) % p.ch) + cl % 16
      (t.cluster west).linkA = (s.cluster west).linkA ++ [{ a with pop := j.pop }] ∧
      (t.cluster north).linkB = (s.cluster north).linkB ++ [{ b with pop := j.pop }] ∧
      ((s.cluster cl).pinned = [] → t.mem = s.mem)) ∧
  (∀ (s : State) (cl : Nat) (b : Block) (r : List Block),
    let k := s.cluster cl
    let room : Prop := (FMap.find? k.kept b.vf).isSome = true ∧ FMap.find? k.setTag 0 = some b.vf ∧ k.prefetched = none ∧
      (FMap.find? k.setTag 1 = some b.vf ∨ ∀ e ∈ k.gotA ++ k.gotB, e.1 = b.vf)
    let full (got : FMap Block) : Prop := FMap.find? k.kept b.vf = none ∨ FMap.find? got b.vf ≠ none ∨
      (FMap.find? k.setTag 1 ≠ some b.vf ∧ ∃ e ∈ k.gotA ++ k.gotB, e.1 ≠ b.vf)
    (k.linkA = b :: r → room → FMap.find? k.gotA b.vf = none → Answers (.rotBlockArrival cl 0) s fun t =>
      t.cluster cl = { k with linkA := r, gotA := FMap.insert k.gotA b.vf b } ∧ t.mem = s.mem) ∧
    (k.linkB = b :: r → room → FMap.find? k.gotB b.vf = none → Answers (.rotBlockArrival cl 1) s fun t =>
      t.cluster cl = { k with linkB := r, gotB := FMap.insert k.gotB b.vf b } ∧ t.mem = s.mem) ∧
    (k.linkA = b :: r → full k.gotA → Answers (.rotBlockArrival cl 0) s fun t => t = s) ∧
    (k.linkB = b :: r → full k.gotB → Answers (.rotBlockArrival cl 1) s fun t => t = s)) ∧
  (∀ (s u : State) (cl : Nat) (j : Job) (bs : List Byte) (ls : List (Nat × Nat)),
    let k := s.cluster cl
    let n := min 4 ((j.reg 4).toNat % 2 ^ 13 / 32)
    k.queue.find? (·.kind = 2) = some j → k.running ≠ [] → (∀ x ∈ k.running, x.kind = 1) → k.prefetched = none →
    k.gotA = [] → k.gotB = [] → j.mxBad = false → FMap.find? k.setTag 0 = some j.vf →
    s.readPinned cl j ((List.range n).map fun kb => State.piecesOf (State.kReads j kb)).flatten [] = (.bytes bs u, ls) →
    Answers (.mxePrefetch cl) s fun t => t.mem = u.mem ∧ (t.cluster cl).queue = k.queue ∧
      (t.cluster cl).pinned = ls ∧ ∃ a b, (t.cluster cl).prefetched = some (j.id, a, b) ∧ a.length = n ∧ b.length = n)

/-- R93, R114, R196, R211, R212: a load's row puts its decoded elements into the row of its tile, an absent one as value 0 with count 0,
and leaves the rows before; the last row of a drain writes its elements, encoded and packed, at its address and no other byte of the
homes (shown for a place that is not cacheable and an output format without table or draws), clears the tile where CLEAR asks for it,
and the job is over. -/
def Sys2Proof.Claims.TilesAreLoadedAndDrained : Prop :=
  ∀ (s : State) (cl : Nat) (j : Job), s.jobAt cl j.id.toNat = some j → j.status = .running → j.buf = [] →
    (∀ (u : State) (bs : List Byte) (ls : List (Nat × Nat)), j.kind = 6 → j.row < 128 →
      let f := fmtdAF j.fmtd
      let n := 16 * fmtWidth f
      s.readPinned cl j (wordPieces (j.reg 0 + BitVec.ofNat 64 j.row * j.reg 1) (n / 8 + 2) n) [] = (.bytes bs u, ls) →
      Answers (.jobComplete cl j.id.toNat) s fun t => ∀ c, c < 128 →
        let v := (decodeFmt f (j.table f) (scaleDexp j.scale) (element (fmtWidth f) bs c)).bits
        tileElem (t.tileOf cl j.vf j.tile) j.row c =
          (if v = 0xFFFFFFFF then { val := 0, cnt := 0, poison := false } else { val := BitVec.ofNat 32 v, cnt := 1, poison := false }) ∧
        ∀ r, r < j.row → tileElem (t.tileOf cl j.vf j.tile) r c = tileElem (s.tileOf cl j.vf j.tile) r c) ∧
    (∀ (e : TlbEntry) (key : Nat → Nat), j.kind = 4 → j.row = 127 → j.done = 0 →
      let f := fmtdOF j.fmtd
      let w := fmtWidth f
      let va := j.reg 0 + 127 * j.reg 1
      PlainFormat f → fmtdRnd j.fmtd ≠ 2 → va.toNat % 16 = 0 →
      (∀ c, c < 128 → (tileElem (s.tileOf cl j.vf j.tile) 127 c).poison = false) →
      (∀ i, i < 2 * w → (s.cluster cl).tlbGet j.vf (va + BitVec.ofNat 64 (8 * i)) = some e ∧
        ∃ h u, s.engLook cl j .mx 1 (va + BitVec.ofNat 64 (8 * i)) = .at (.mem (key i) false h) u) →
      (∀ i k, i < 2 * w → k < i → key i + 8 ≤ key k ∨ key k + 8 ≤ key i) →
      Answers (.jobComplete cl j.id.toNat) s fun t =>
        (∀ c, c < 128 → element w ((List.range (2 * w)).flatMap fun i => t.mem.read (key i) 8) c =
          (encodeFmt f [] (fmtdRnd j.fmtd) (fmtdSat j.fmtd) (scaleEexp j.scale) j.rng
            (drained (fmtdNorm j.fmtd) (tileElem (s.tileOf cl j.vf j.tile) 127 c))).1.bits % 2 ^ w) ∧
        (∀ a, (∀ i, i < 2 * w → a < key i ∨ key i + 8 ≤ a) → t.mem.get a = s.mem.get a) ∧
        t.tileOf cl j.vf j.tile = (if (j.reg 2).getLsbD 8 = true then {} else s.tileOf cl j.vf j.tile) ∧
        ∀ x ∈ (t.cluster cl).running, x.id ≠ j.id)

/-- R93, R106, R112-R114, R196, R206, R209-R212: k-blocks are added, with a free sign for a sum of exactly 0 (assumption log entry 33),
blocks travel the torus, and tiles are loaded and drained. -/
def Obligations.TheMatrixEngineWorks : Prop :=
  Claims.MultiplyAddsItsBlock ∧ Claims.BlocksTravelTheTorus ∧ Claims.TilesAreLoadedAndDrained

/-! ### Vector instructions, the pool, the special-function units -/

namespace Sys2Proof.Claims

/-- A vector operation with what its bundle captures (R337), and the cycle of its issue (R220). -/
def captured (s : State) (i : Instr) : VOp :=
  { op := i, fmtd := s.src.slot.fmtd, scale := s.src.slot.scale, amode := s.src.slot.amode, x := 0, y := 0, table := []
    cycle := s.here.cyc.toNat }

/-- An instruction that hands an operation to the vector queue (R218, R338): it traps without a claim and with a register past %VREGS, parks
while the queue is full, and otherwise adds the operation at the queue's end; `park` says that its slot waits for the answer. -/
def Queues (i : Instr) (s : State) (regs : List (BitVec 5)) (o : VOp) (park : Bool) : Prop :=
  (s.src.slot.claim = none → Traps i s 0x08 s.wordTval) ∧
  ∀ cl : Claim, s.src.slot.claim = some cl → s.me.claim = some cl →
    ((∃ r ∈ regs, cl.regs ≤ r.toNat) → Traps i s 0x07 s.wordTval) ∧
    ((∀ r ∈ regs, r.toNat < cl.regs) →
      (cl.queue.length < 8 → Answers i s fun t => Becomes s t { s.me with
        claim := some { cl with queue := cl.queue ++ [o] }
        mode := if park then .parked else s.me.mode, aWait := if park then some .vresult else s.me.aWait }) ∧
      (8 ≤ cl.queue.length → Answers i s fun t =>
        Becomes s t { s.me with
          mode := .parked, cWait := some .vroom, fate := .replay, tabs := some (s.me.tabs.getD (s.cvf s.cur.core).tables) }))

/-- An operation stands at the head of a slot's vector queue and may be performed: it is not held by its pair, no world switch is under
way, and the claim's lane groups, at most 32, are the running VF's (R62, R214, R239, R242). -/
def AtHead (s : State) (c n : Nat) (cl : Claim) (o : VOp) (rest : List VOp) : Prop :=
  (s.slot c n).claim = some cl ∧ cl.queue = o :: rest ∧ o.held = false ∧ (s.core c).switchTo = none ∧
  cl.groups.length ≤ 32 ∧ ∀ g ∈ cl.groups, FMap.find? (s.cluster (s.clusterOf c)).laneTag g = some (s.runVf c)

/-- A lane that an operation writes: below %VLEN, and with M in VM (R337). -/
def Enabled (cl : Claim) (m : BitVec 1) (l : Nat) : Prop := l < 8 * cl.groups.length ∧ (m = 0 ∨ cl.vm.getLsbD l = true)

/-- The operation at the head writes the enabled lanes of a register as `P` says, leaves the queue, and changes nothing else of the machine
but, where it draws, the slot's generator. -/
def Lanes (i : Instr) (m : BitVec 1) (d : BitVec 5) (P : VOp → Claim → Nat → Half → Prop) : Prop :=
  ∀ (s : State) (c n : Nat) (cl : Claim) (o : VOp) (rest : List VOp), AtHead s c n cl o rest → o.op = i →
    Answers (.vectorOpPerform c n) s fun t => OnlySlot c n s t ∧ ∃ k : Claim,
      t.slot c n = { s.slot c n with claim := some k, rseed := (t.slot c n).rseed } ∧
      k = { cl with v := k.v, queue := rest } ∧
      ∀ (r : BitVec 5) (l : Nat), l < 256 →
        (r = d → Enabled cl m l → P o cl l (k.lane r l)) ∧
        (¬ (r = d ∧ Enabled cl m l) → k.lane r l = cl.lane r l)

/-- The operation at the head sets the bits of VM of the enabled lanes, and changes nothing else. -/
def Masks (i : Instr) (m : BitVec 1) (P : VOp → Claim → Nat → Prop) : Prop :=
  ∀ (s : State) (c n : Nat) (cl : Claim) (o : VOp) (rest : List VOp), AtHead s c n cl o rest → o.op = i →
    Answers (.vectorOpPerform c n) s fun t => OnlySlot c n s t ∧ ∃ k : Claim,
      t.slot c n = { s.slot c n with claim := some k } ∧ k = { cl with vm := k.vm, queue := rest } ∧
      ∀ l, l < 256 → (Enabled cl m l → (k.vm.getLsbD l = true ↔ P o cl l)) ∧
        (¬ Enabled cl m l → k.vm.getLsbD l = cl.vm.getLsbD l)

/-- The operation at the head answers the slot that waits for it, and leaves the queue. -/
def Answering (i : Instr) (d : BitVec 6) (P : VOp → Claim → List Word → Prop) : Prop :=
  ∀ (s : State) (c n : Nat) (cl : Claim) (o : VOp) (rest : List VOp), AtHead s c n cl o rest → o.op = i →
    (s.slot c n).aWait = some .vresult → Answers (.vectorOpPerform c n) s fun t => ∃ vs, P o cl vs ∧
      OnlySlot c n s t ∧ t.slot c n = { s.slot c n with
        claim := some { cl with queue := rest }, aWait := some (.done (vs.zipIdx.map fun v => .g (d.toNat + v.2) v.1)) }

/-- Saturation to ±(2^(w−1) − 1) (R110). -/
def clampTo (w : Nat) (v : Int) : Int := max (-(2 ^ (w - 1) - 1)) (min (2 ^ (w - 1) - 1) v)

/-- An operation on I32 lanes (R108, R110): the absent code 0x8000_0000 gives absent in strict mode and stands for `unit` in identity
mode; the result saturates. -/
def i32 (f : Int → Int → Int) (unit : Int) (o : VOp) (x y : Half) : Half :=
  let abs : Half := 0x80000000
  let val (z : Half) : Int := if z = abs then unit else z.toInt
  if x = abs ∧ y = abs then abs else if (x = abs ∨ y = abs) ∧ o.amode.getLsbD 0 = false then abs
  else BitVec.ofInt 32 (clampTo 32 (f (val x) (val y)))

/-- The layout of a floating lane type: 2 FP32, 3 BF16, 4 FP16 (R214, R337). -/
def laneLayout (t : BitVec 3) : Layout := if t = 2 then ⟨8, 23⟩ else if t = 3 then ⟨8, 7⟩ else ⟨5, 10⟩

/-- Element i of a lane of elements of a layout. -/
def element (l : Layout) (v : Half) (i : Nat) : Nat := v.toNat / 2 ^ (l.bits * i) % 2 ^ l.bits

/-- A floating operation, element by element: where the operands are finite and the exact result is not 0, it is rounded once to
nearest (R339, R353). -/
def RoundsLanes (t : BitVec 3) (f : ℚ → ℚ → ℚ → ℚ) (x y z v : Half) : Prop :=
  let l := laneLayout t
  ∀ i, i < 32 / l.bits → l.Finite (element l x i) → l.Finite (element l y i) → l.Finite (element l z i) →
    let e := f (l.val (element l x i)) (l.val (element l y i)) (l.val (element l z i))
    e ≠ 0 → ∃ fl, l.Rounds 0 e (element l v i) fl

/-- The register bytes of a lane that a store moves. -/
def laneBytes (n : Nat) (v : Half) : List Byte := (List.range n).map fun j => v.extractLsb' (8 * j) 8

/-- The enabled lanes, ascending. -/
def enabledLanes (cl : Claim) (m : BitVec 1) : List Nat :=
  (List.range (8 * cl.groups.length)).filter fun l => m = 0 || cl.vm.getLsbD l

/-- A vector memory instruction whose slot's vector queue is empty and whose enabled lanes name aligned places of the own scratchpad that no
store in the PQ covers and that hold no poison; the groups are the VF's. -/
def VectorSp (s : State) (cl : Claim) (m : BitVec 1) (n : Nat) (va : Nat → Word) : Prop :=
  s.src.slot.claim = some cl ∧ s.me.claim = some cl ∧ cl.queue = [] ∧ cl.groups.length ≤ 32 ∧ s.here.switchTo = none ∧
  (∀ g ∈ cl.groups, FMap.find? (s.cluster (s.clusterOf s.cur.core)).laneTag g = some (s.runVf s.cur.core)) ∧
  ∀ l, Enabled cl m l → OwnSpRead s (va l) n

/-- A vector load: its operation enters the queue, and performed it writes each enabled lane with the element's bytes, zero-extended,
and no other lane. -/
def LoadsLanes (i : Instr) (s : State) (cl : Claim) (m : BitVec 1) (t : BitVec 5) (n : Nat) (va : Nat → Word) : Prop :=
  VectorSp s cl m n va → t.toNat < cl.regs → Answers i s fun u => OnlySlot s.cur.core s.cur.slot s u ∧
    Answers (.vectorOpPerform s.cur.core s.cur.slot) u fun v => v.mem = s.mem ∧ ∃ k : Claim, v.me.claim = some k ∧
      k = { cl with v := k.v } ∧ ∀ (r : BitVec 5) (l : Nat), l < 256 →
        (r = t → Enabled cl m l → k.lane r l = BitVec.ofNat 32 (s.home (ownKey s (va l)) n)) ∧
        (¬ (r = t ∧ Enabled cl m l) → k.lane r l = cl.lane r l)

/-- A vector store: performed it enters one store entry for each enabled lane into the PQ, in ascending order, with the low bytes of the
lane, where the PQ has room for all. -/
def StoresLanes (i : Instr) (s : State) (cl : Claim) (m : BitVec 1) (t : BitVec 5) (n : Nat) (va : Nat → Word) : Prop :=
  VectorSp s cl m n va → t.toNat < cl.regs → s.here.pq.length + (enabledLanes cl m).length ≤ 32 →
  Answers i s fun u => OnlySlot s.cur.core s.cur.slot s u ∧
    Answers (.vectorOpPerform s.cur.core s.cur.slot) u fun v => v.mem = s.mem ∧ v.me.claim = some cl ∧
      (v.core s.cur.core).pq.map (fun e => (e.key, e.bytes)) = s.here.pq.map (fun e => (e.key, e.bytes)) ++
        (enabledLanes cl m).map fun l => (ownKey s (va l), laneBytes n (cl.lane t l))

end Sys2Proof.Claims

/-- R218, R337, R338: the vector instructions enter the vector queue with what they captured, under the checks of R338; VEXT, VRED and VSFU
park for their answer. -/
def Obligations.VectorInstructionsEnterTheQueue : Prop :=
  ∀ (s : State) (m : BitVec 1) (d a b c : BitVec 5) (g h : BitVec 6) (t : BitVec 3) (cc : BitVec 2) (j : BitVec 1) (f : BitVec 4),
    (∀ i ∈ [Instr.vadd m d a b t, .vsub m d a b t, .vmul m d a b t, .vmin m d a b t, .vmax m d a b t, .vand m d a b t,
      .vor m d a b t, .vxor m d a b t, .vshl m d a b t, .vshr m d a b t, .vsra m d a b t, .vsel d a b t, .vperm m d a b t],
      Queues i s [d, a, b] (captured s i) false) ∧
    Queues (.vfma m d a b t c) s [d, a, b, c] (captured s (.vfma m d a b t c)) false ∧
    Queues (.vcmp m a b t cc) s [a, b] (captured s (.vcmp m a b t cc)) false ∧
    Queues (.viota m d j) s [d] (captured s (.viota m d j)) false ∧
    Queues (.vbc m d g t) s [d] { captured s (.vbc m d g t) with x := s.rg g } false ∧
    (PlainFormat f → Queues (.vcvtDec m d a t f) s [d, a] (captured s (.vcvtDec m d a t f)) false ∧
      Queues (.vcvtEnc m d a t f) s [d, a] (captured s (.vcvtEnc m d a t f)) false ∧
      Queues (.vabt m a f) s [a] (captured s (.vabt m a f)) false ∧ Queues (.vabm d a f) s [d, a] (captured s (.vabm d a f)) false) ∧
    Queues (.vext g a h t) s [a] { captured s (.vext g a h t) with y := s.rg h } true ∧
    (∀ i ∈ [Instr.vredAdd m g a t, .vredMin m g a t, .vredMax m g a t], Queues i s [a] (captured s i) true) ∧
    ∀ i ∈ [Instr.vsfuRcp m d a t, .vsfuSqrt m d a t, .vsfuRsqrt m d a t, .vsfuExp2 m d a t, .vsfuLog2 m d a t,
      .vsfuSinpi m d a t, .vsfuCospi m d a t], Queues i s [d, a] (captured s i) true

/-- R108, R110, R346, R347, R360: what the queue performs on integer lanes: I32 saturates and knows the absent code, U32 wraps. -/
def Sys2Proof.Claims.IntegerLanes : Prop :=
  ∀ (m : BitVec 1) (d a b : BitVec 5) (t : BitVec 3),
    let lanes (i : Instr) (f : VOp → Half → Half → Half) : Prop :=
      Lanes i m d fun o cl l v => v = f o (cl.lane a l) (cl.lane b l)
    lanes (.vand m d a b t) (fun _ x y => x &&& y) ∧ lanes (.vor m d a b t) (fun _ x y => x ||| y) ∧
    lanes (.vxor m d a b t) (fun _ x y => x ^^^ y) ∧
    lanes (.vadd m d a b 1) (fun _ x y => x + y) ∧ lanes (.vsub m d a b 1) (fun _ x y => x - y) ∧
    lanes (.vmul m d a b 1) (fun _ x y => x * y) ∧ lanes (.vmin m d a b 1) (fun _ x y => if x ≤ y then x else y) ∧
    lanes (.vmax m d a b 1) (fun _ x y => if x ≤ y then y else x) ∧
    lanes (.vadd m d a b 0) (i32 (· + ·) 0) ∧ lanes (.vsub m d a b 0) (i32 (· - ·) 0) ∧ lanes (.vmul m d a b 0) (i32 (· * ·) 1) ∧
    lanes (.vmin m d a b 0) (i32 min (2 ^ 31 - 1)) ∧ lanes (.vmax m d a b 0) (i32 max (-(2 ^ 31 - 1))) ∧
    (∀ u : BitVec 3, (u = 0 ∨ u = 1) → lanes (.vshl m d a b u) (fun _ x y => x <<< (y.toNat % 32)) ∧
      lanes (.vshr m d a b u) (fun _ x y => x >>> (y.toNat % 32)) ∧
      lanes (.vsra m d a b u) fun _ x y => x.sshiftRight (y.toNat % 32)) ∧
    lanes (.vshl m d a b 5) (fun _ x y => (x.extractLsb' 16 16 <<< (y.toNat / 2 ^ 16 % 16)) ++ (x.extractLsb' 0 16 <<< (y.toNat % 16)))

/-- R339, R353: floating lanes of FP32, BF16 and FP16 are rounded once to nearest, whatever %FRM holds. -/
def Sys2Proof.Claims.FloatLanes : Prop :=
  ∀ (m : BitVec 1) (d a b c : BitVec 5) (t : BitVec 3), (t = 2 ∨ t = 3 ∨ t = 4) →
    Lanes (.vadd m d a b t) m d (fun _ cl l v => RoundsLanes t (fun x y _ => x + y) (cl.lane a l) (cl.lane b l) 0 v) ∧
    Lanes (.vsub m d a b t) m d (fun _ cl l v => RoundsLanes t (fun x y _ => x - y) (cl.lane a l) (cl.lane b l) 0 v) ∧
    Lanes (.vmul m d a b t) m d (fun _ cl l v => RoundsLanes t (fun x y _ => x * y) (cl.lane a l) (cl.lane b l) 0 v) ∧
    Lanes (.vfma m d a b t c) m d fun _ cl l v => RoundsLanes t (fun x y z => x * y + z) (cl.lane a l) (cl.lane b l) (cl.lane c l) v

/-- R343, R344, R348, R350, R351, R355, R356, R358: selections, broadcasts, permutations, comparisons, absence tests and conversions of
lanes. -/
def Sys2Proof.Claims.LaneSelections : Prop :=
  ∀ (m : BitVec 1) (d a b : BitVec 5) (g : BitVec 6) (t : BitVec 3) (j : BitVec 1),
    Lanes (.vsel d a b t) 0 d (fun _ cl l v => v = if cl.vm.getLsbD l then cl.lane a l else cl.lane b l) ∧
    Lanes (.viota m d j) m d (fun _ _ l v => v = BitVec.ofNat 32 l) ∧
    (∀ u : BitVec 3, u.toNat ≤ 2 → Lanes (.vbc m d g u) m d (fun o _ _ v => v = lo o.x) ∧
      Lanes (.vperm m d a b u) m d fun _ cl l v =>
        v = if (cl.lane b l).toNat < 8 * cl.groups.length then cl.lane a (cl.lane b l).toNat else 0) ∧
    (∀ u : BitVec 3, (u = 3 ∨ u = 4 ∨ u = 5) → Lanes (.vbc m d g u) m d fun o _ _ v =>
      v = o.x.setWidth 16 ++ o.x.setWidth 16) ∧
    Masks (.vcmp m a b 1 0) m (fun _ cl l => cl.lane a l = cl.lane b l) ∧
    Masks (.vcmp m a b 1 1) m (fun _ cl l => cl.lane a l ≠ cl.lane b l) ∧
    Masks (.vcmp m a b 1 2) m (fun _ cl l => cl.lane a l < cl.lane b l) ∧
    Masks (.vcmp m a b 1 3) m (fun _ cl l => cl.lane a l ≤ cl.lane b l) ∧
    Masks (.vcmp m a b 0 2) m (fun _ cl l => cl.lane a l ≠ 0x80000000 ∧ cl.lane b l ≠ 0x80000000 ∧
      (cl.lane a l).toInt < (cl.lane b l).toInt) ∧
    (∀ f ∈ plainFormats, Masks (.vabt m a f.1) m (fun _ cl l => (cl.lane a l).toNat % 2 ^ f.2.1 = f.2.2) ∧
      Lanes (.vabm d a f.1) 0 d (fun _ cl l v =>
        if cl.vm.getLsbD l then ∀ i, i < 32 / f.2.1 → v.toNat / 2 ^ (f.2.1 * i) % 2 ^ f.2.1 = f.2.2 else v = cl.lane a l) ∧
      Lanes (.vcvtDec m d a 2 f.1) m d (fun _ cl l v => (cl.lane a l).toNat % 2 ^ f.2.1 = f.2.2 → v = 0xFFFFFFFF) ∧
      Lanes (.vcvtEnc m d a 2 f.1) m d fun _ cl l v => cl.lane a l = 0xFFFFFFFF → v = BitVec.ofNat 32 f.2.2) ∧
    ∀ f ∈ [((5 : BitVec 4), 8), (14, 4)], Lanes (.vcvtDec m d a 2 f.1) m d fun o cl l v =>
      let e : ℚ := (intOf f.2 ((cl.lane a l).toNat % 2 ^ f.2) : ℚ) * (2 : ℚ) ^ (o.scale.extractLsb' 0 8).toInt
      (cl.lane a l).toNat % 2 ^ f.2 ≠ 2 ^ (f.2 - 1) → e ≠ 0 → ∃ fl, (layout 0).Rounds 0 e v.toNat fl

/-- R108, R110, R339, R343, R344, R346-R348, R350, R351, R353, R355, R356, R358, R360: what vector operations do to the lanes. -/
def Obligations.LanesCompute : Prop :=
  Claims.IntegerLanes ∧ Claims.FloatLanes ∧ Claims.LaneSelections


/-- R352, R357: VEXT answers with a lane, 0 past %VLEN; VRED answers with the sum, least or greatest of the U32 elements of the enabled
lanes and with their number. -/
def Sys2Proof.Claims.ReductionsAnswer : Prop :=
  ∀ (m : BitVec 1) (d h : BitVec 6) (a : BitVec 5),
    let terms (cl : Claim) : List Word := (enabledLanes cl m).map fun l => (cl.lane a l).zeroExtend 64
    Answering (.vext d a h 0) d (fun o cl vs =>
      vs = [if o.y.toNat < 8 * cl.groups.length then (cl.lane a o.y.toNat).signExtend 64 else 0]) ∧
    Answering (.vext d a h 1) d (fun o cl vs =>
      vs = [if o.y.toNat < 8 * cl.groups.length then (cl.lane a o.y.toNat).zeroExtend 64 else 0]) ∧
    Answering (.vredAdd m d a 1) d (fun _ cl vs => vs = [(terms cl).sum, BitVec.ofNat 64 (terms cl).length]) ∧
    Answering (.vredMin m d a 1) d (fun _ cl vs => ∃ v, vs = [v, BitVec.ofNat 64 (terms cl).length] ∧
      (terms cl = [] → v = 0) ∧ (terms cl ≠ [] → v ∈ terms cl ∧ ∀ x ∈ terms cl, v ≤ x)) ∧
    Answering (.vredMax m d a 1) d fun _ cl vs => ∃ v, vs = [v, BitVec.ofNat 64 (terms cl).length] ∧
      (terms cl = [] → v = 0) ∧ (terms cl ≠ [] → v ∈ terms cl ∧ ∀ x ∈ terms cl, x ≤ v)

/-- R213, R345: VACC.TO writes the enabled lanes into a row of a tile, each with count 1, an absent one with count 0; VACC.FROM reads
them, an element without products as absent; a tile operand past its bounds traps with cause 0x01. -/
def Sys2Proof.Claims.TilesExchangeLanes : Prop :=
  ∀ (m : BitVec 1) (d : BitVec 5) (a : BitVec 6),
    (∀ (s : State) (cl : Claim), s.src.slot.claim = some cl → s.me.claim = some cl → d.toNat < cl.regs →
      let v := s.rg a
      let bad : Prop := v.toNat / 2 ^ 23 ≠ 0 ∨ v.extractLsb' 14 2 ≠ 0 ∨ v.getLsbD 7 = true ∨
        128 < (v.extractLsb' 16 7).toNat + 8 * cl.groups.length
      ∀ i, (i = .vaccFrom m d a ∨ i = .vaccTo m d a) →
        (bad → Traps i s 0x01 s.wordTval) ∧
        (¬ bad → cl.queue.length < 8 → Answers i s fun t => Becomes s t
          { s.me with claim := some { cl with queue := cl.queue ++ [{ captured s i with x := v }] } })) ∧
    (∀ (s : State) (c n : Nat) (cl : Claim) (o : VOp) (rest : List VOp), AtHead s c n cl o rest →
      let q := s.clusterOf c
      let tile := (o.x.extractLsb' 8 6).toNat
      let at_ (t : State) (l : Nat) : AcElem :=
        FMap.getD (t.tileOf q (s.runVf c) tile).elems (128 * (o.x.extractLsb' 0 7).toNat + (o.x.extractLsb' 16 7).toNat + l)
          { val := 0, cnt := 0, poison := false }
      (∀ j ∈ (s.cluster q).running, j.kind = 1 ∨ j.tile ≠ tile) → FMap.find? (s.cluster q).tileTag tile = some (s.runVf c) →
      (o.op = .vaccTo m d a → Answers (.vectorOpPerform c n) s fun t => t.mem = s.mem ∧
        t.slot c n = { s.slot c n with claim := some { cl with queue := rest } } ∧ ∀ l, Enabled cl m l →
          at_ t l = if cl.lane d l = 0xFFFFFFFF then { val := 0, cnt := 0, poison := false }
            else { val := cl.lane d l, cnt := 1, poison := false }) ∧
      (o.op = .vaccFrom m d a → (∀ l, Enabled cl m l → (at_ s l).poison = false) → Answers (.vectorOpPerform c n) s fun t =>
        OnlySlot c n s t ∧ ∃ k : Claim, (t.slot c n).claim = some k ∧ k = { cl with v := k.v, queue := rest } ∧
          ∀ (r : BitVec 5) (l : Nat), l < 256 →
            k.lane r l = if r = d ∧ l ∈ enabledLanes cl m then (if 0 < (at_ s l).cnt then (at_ s l).val else 0xFFFFFFFF)
              else cl.lane r l))

/-- R213, R345, R352, R357: reductions answer, and tiles exchange rows with lanes. -/
def Obligations.LanesMoveAndAnswer : Prop :=
  Claims.ReductionsAnswer ∧ Claims.TilesExchangeLanes


/-- R161, R172, R225, R354: vector loads and stores of the own scratchpad, strided and indexed, in ascending lane order, of all three
element sizes. -/
def Sys2Proof.Claims.VectorMemoryMovesLanes : Prop :=
  ∀ (s : State) (cl : Claim) (m : BitVec 1) (t v : BitVec 5) (a b : BitVec 6) (z : BitVec 3), z.toNat ≤ 2 →
    let n := 2 ^ z.toNat
    let strided (l : Nat) : Word := s.rg a + BitVec.ofNat 64 l * s.rg b
    let indexed (l : Nat) : Word := s.rg a + (cl.lane v l).signExtend 64
    LoadsLanes (.vld m t a b z) s cl m t n strided ∧ StoresLanes (.vst m t a b z) s cl m t n strided ∧
    (v.toNat < cl.regs → LoadsLanes (.vgth m t a v z) s cl m t n indexed ∧ StoresLanes (.vsct m t a v z) s cl m t n indexed)

/-- R215, R216, R217, R219, R349: VCLAIM joins the pool's list and traps where it asks wrongly; a grant gives the free groups, at most as
many as asked for, with every lane 0 and VM all ones; VRELS ends the claim, VRENEG returns the length and VFENCE goes on where the vector
queue is empty, and each waits where it is not. While a request waits VRENEG gives up the groups past its share, ⌈32/h⌉ of h slots that
hold a claim or wait. That the claims and requests of one VF alone share the groups is the model's choice (assumption log entry 14). -/
def Sys2Proof.Claims.ClaimsAreGrantedAndReleased : Prop :=
  (∀ (s : State) (d a b : BitVec 6),
    let q := s.clusterOf s.cur.core
    let ok : Prop := s.src.slot.claim = none ∧ 1 ≤ (s.rg a).toNat ∧ (s.rg a).toNat ≤ 8 ∧
      (s.rg b = 8 ∨ s.rg b = 16 ∨ s.rg b = 32)
    (ok → Answers (.vclaim d a b) s fun t =>
      t.me = { s.me with mode := .parked, cWait := some (.vclaim d.toNat (s.rg a).toNat (s.rg b).toNat) } ∧ t.mem = s.mem ∧
      (t.cluster q).claims = (s.cluster q).claims ++ [(s.cur.core, s.cur.slot, s.runVf s.cur.core)]) ∧
    (¬ ok → Traps (.vclaim d a b) s 0x01 s.wordTval)) ∧
  (∀ (s : State) (q c n v d g regs : Nat) (r : List (Nat × Nat × Nat)), (s.cluster q).claims = (c, n, v) :: r →
    (s.slot c n).cWait = some (.vclaim d g regs) → s.freeGroups q v ≠ [] → Answers (.vclaimGrant q) s fun t =>
      let gs := (s.freeGroups q v).take g
      (t.cluster q).claims = r ∧ t.mem = s.mem ∧ t.slot c n = { s.slot c n with
        claim := some { groups := gs, regs := regs, v := [], vm := BitVec.ofNat 256 (2 ^ (8 * gs.length) - 1), queue := [] }
        cWait := some (.done [.g d (BitVec.ofNat 64 (8 * gs.length))]) }) ∧
  (∀ (s : State) (d : BitVec 6) (cl : Claim), s.me.claim = some cl →
    (cl.queue = [] →
      Answers .vrels s (fun t => Becomes s t { s.me with claim := none, cWait := none, cont := none }) ∧
      (((s.cluster (s.clusterOf s.cur.core)).claims.filter fun r => r.2.2 = s.runVf s.cur.core) = [] →
        Answers (.vreneg d) s fun t => Becomes s t { s.me with g := t.me.g, cWait := none, cont := none } ∧
          Regs s.me t.me d (BitVec.ofNat 64 (8 * cl.groups.length))) ∧
      (let q := s.clusterOf s.cur.core
       let waiting := (s.cluster q).claims.filter fun r => r.2.2 = s.runVf s.cur.core
       let h := (s.claimsOf q (s.runVf s.cur.core)).length + waiting.length
       let n := min cl.groups.length ((32 + h - 1) / h)
       waiting ≠ [] → Answers (.vreneg d) s fun t => ∃ k : Claim,
        Becomes s t { s.me with g := t.me.g, cWait := none, cont := none, claim := some k } ∧
        Regs s.me t.me d (BitVec.ofNat 64 (8 * n)) ∧ k.groups = cl.groups.take n ∧ k.regs = cl.regs ∧ k.queue = [] ∧
        ∀ l, l < 8 * n → l < 256 → k.vm.getLsbD l = cl.vm.getLsbD l ∧ ∀ r : BitVec 5, k.lane r l = cl.lane r l) ∧
      Answers .vfence s fun t => t = s) ∧
    (cl.queue ≠ [] → s.me.mode = .ready → ∀ i, (i = .vrels ∨ i = .vreneg d ∨ i = .vfence) → Answers i s fun t =>
      t.me.mode = .parked ∧ t.me.cWait = some .vempty ∧ t.me.claim = some cl ∧ t.mem = s.mem)) ∧
  (∀ (s : State) (d : BitVec 6), s.me.claim = none → ∀ i, (i = .vrels ∨ i = .vreneg d ∨ i = .vfence) →
    Traps i s 0x08 s.wordTval)

/-- R161, R172, R215-R217, R219, R225, R349, R354: claims are granted and released, and vector memory moves lanes. -/
def Obligations.ClaimsAndVectorMemory : Prop :=
  Claims.VectorMemoryMovesLanes ∧ Claims.ClaimsAreGrantedAndReleased


namespace Sys2Proof.Claims

/-- The scalar special functions (R220). -/
def sfuForms : List ((BitVec 6 → BitVec 6 → Instr) × SfuFn) := [(.sfuRcp, .rcp), (.sfuSqrt, .sqrt), (.sfuRsqrt, .rsqrt),
  (.sfuExp2, .exp2), (.sfuLog2, .log2), (.sfuSinpi, .sinpi), (.sfuCospi, .cospi)]

/-- The special functions of lanes (R359). -/
def vsfuForms : List ((BitVec 1 → BitVec 5 → BitVec 5 → BitVec 3 → Instr) × SfuFn) := [(.vsfuRcp, .rcp), (.vsfuSqrt, .sqrt),
  (.vsfuRsqrt, .rsqrt), (.vsfuExp2, .exp2), (.vsfuLog2, .log2), (.vsfuSinpi, .sinpi), (.vsfuCospi, .cospi)]

/-- A request joins the queue of one of a cluster's two units; it waits at its core where the 16 entries there are taken (R220). -/
def JoinsUnit (s t : State) (q : Nat) (r : SfuReq) : Prop :=
  let room (l : List SfuReq) : Prop := (l.filter fun x => decide (x.served = none) && !x.atCore).length < 16
  (t.cluster q).sfu0 ++ (t.cluster q).sfu1 ∈ [(s.cluster q).sfu0 ++ [r] ++ (s.cluster q).sfu1,
    (s.cluster q).sfu0 ++ (s.cluster q).sfu1 ++ [r]] ∧
  (room (s.cluster q).sfu0 → room (s.cluster q).sfu1 → r.atCore = false) ∧
  (¬ room (s.cluster q).sfu0 → ¬ room (s.cluster q).sfu1 → r.atCore = true)

/-- A pattern is the square root of a positive number rounded once to nearest: no other is nearer, as the squares of the midpoints say. -/
def Root (q : ℚ) (r : Nat) (fl : BitVec 5) : Prop :=
  let l := layout 0
  l.Finite r ∧ l.neg r = false ∧ fl = (if l.val r * l.val r = q then 0 else 1) ∧
  ∀ z, l.Finite z → 0 ≤ l.val z →
    let w := (l.val r + l.val z) * (l.val r + l.val z)
    (l.val r < l.val z → 4 * q ≤ w) ∧ (l.val z < l.val r → w ≤ 4 * q) ∧ (w = 4 * q → l.val z ≠ l.val r → r % 2 = 0)

end Sys2Proof.Claims

/-- R116: the values and flags of the special functions of FP32: the special values; the reciprocal and the two roots rounded once to
nearest; the points at which the others are exact, and NX everywhere else; the ends of the range of EXP2, the sign of LOG2, SINPI odd and
COSPI even; and for EXP2, LOG2, SINPI and COSPI at ordinary operands the correctly rounded values, worked out from R116, of a list. -/
def Sys2Proof.Claims.SpecialFunctionValues : Prop :=
  (∀ x, x < 2 ^ 32 →
    let l := layout 0
    let one := 0x3F800000
    let is (g : SfuFn) (r : Nat) (f : BitVec 5) : Prop := sfu32 g x = ⟨r, f⟩
    let v (g : SfuFn) : Nat := (sfu32 g x).bits
    let fl (g : SfuFn) : BitVec 5 := (sfu32 g x).flags
    let nx (g : SfuFn) : Prop := (fl g).getLsbD 0 = true
    (∀ g, (x = l.absent → is g l.absent 0) ∧ (l.IsNan x = true → is g l.nan (if l.IsSig x then 0b10000 else 0))) ∧
    (x = l.inf false → is .rcp 0 0 ∧ is .sqrt x 0 ∧ is .rsqrt 0 0 ∧ is .exp2 x 0 ∧ is .log2 x 0) ∧
    (x = l.inf true → is .rcp (l.zero true) 0 ∧ is .sqrt l.nan 0b10000 ∧ is .rsqrt l.nan 0b10000 ∧ is .exp2 0 0 ∧
      is .log2 l.nan 0b10000) ∧
    ((x = l.inf false ∨ x = l.inf true) → is .sinpi l.nan 0b10000 ∧ is .cospi l.nan 0b10000) ∧
    (l.Finite x →
      (l.val x = 0 → is .rcp (l.inf (l.neg x)) 0b01000 ∧ is .sqrt x 0 ∧ is .rsqrt (l.inf (l.neg x)) 0b01000 ∧ is .exp2 one 0 ∧
        is .log2 (l.inf true) 0b01000) ∧
      (l.val x < 0 → is .sqrt l.nan 0b10000 ∧ is .rsqrt l.nan 0b10000 ∧ is .log2 l.nan 0b10000) ∧
      (l.val x ≠ 0 → l.Rounds 0 (1 / l.val x) (v .rcp) (fl .rcp)) ∧
      (0 < l.val x → Claims.Root (l.val x) (v .sqrt) (fl .sqrt) ∧ Claims.Root (1 / l.val x) (v .rsqrt) (fl .rsqrt)) ∧
      (∀ k : Int, l.val x = k → -149 ≤ k → k ≤ 127 →
        fl .exp2 = 0 ∧ l.Finite (v .exp2) ∧ l.neg (v .exp2) = false ∧ l.val (v .exp2) = (2 : ℚ) ^ k) ∧
      ((∀ k : Int, l.val x ≠ k) → nx .exp2) ∧
      (128 ≤ l.val x → is .exp2 (l.inf false) 0b00101) ∧ (l.val x ≤ -151 → is .exp2 0 0b00011) ∧
      (∀ k : Int, l.val x = (2 : ℚ) ^ k →
        fl .log2 = 0 ∧ l.Finite (v .log2) ∧ l.neg (v .log2) = decide (k < 0) ∧ l.val (v .log2) = k) ∧
      (0 < l.val x → (∀ k : Int, l.val x ≠ (2 : ℚ) ^ k) → nx .log2 ∧ l.neg (v .log2) = decide (l.val x < 1)) ∧
      (∀ k : Int, l.val x = k → is .sinpi (l.zero (l.neg x)) 0 ∧ is .cospi (l.zero (decide (k % 2 = 1)) + one) 0) ∧
      (∀ k : Int, l.val x = k + 1 / 2 → is .sinpi (l.zero (decide (k % 2 = 1)) + one) 0 ∧ is .cospi 0 0) ∧
      ((∀ k : Int, 2 * l.val x ≠ k) → nx .sinpi ∧ nx .cospi) ∧
      (l.neg x = false →
        let y := sfu32 .sinpi (l.zero true + x)
        sfu32 .cospi (l.zero true + x) = sfu32 .cospi x ∧ y.flags = fl .sinpi ∧ y.bits % 2 ^ 31 = v .sinpi % 2 ^ 31 ∧
        l.neg y.bits = !l.neg (v .sinpi)))) ∧
  let gives (g : SfuFn) (e : Nat × Nat × Nat) : Prop := sfu32 g e.1 = ⟨e.2.1, BitVec.ofNat 5 e.2.2⟩
  (∀ e ∈ [(0x3F000000, 0x3FB504F3, 1), (0xBF000000, 0x3F3504F3, 1), (0x3DCCCCCD, 0x3F892FDF, 1), (0x40490FDB, 0x410D331D, 1),
        (0xC2FE8000, 0x0035D13F, 3), (0x42FF3333, 0x7F4202F3, 1), (0x7F7FFFFF, 0x7F800000, 5), (0xFF7FFFFF, 0x00000000, 3),
        (0x00000001, 0x3F800000, 1), (0xC3158000, 0x00000001, 3)], gives .exp2 e) ∧
  (∀ e ∈ [(0x40400000, 0x3FCAE00D, 1), (0x41200000, 0x40549A78, 1), (0x3DCCCCCD, 0xC0549A78, 1), (0x3F800001, 0x3438AA3A, 1),
        (0x3F7FFFFF, 0xB3B8AA3C, 1), (0x7F7FFFFF, 0x43000000, 1), (0x00000003, 0xC3136A40, 1), (0x40490FDB, 0x3FD3643A, 1)], gives .log2 e) ∧
  (∀ e ∈ [(0x3E800000, 0x3F3504F3, 1), (0x3DCCCCCD, 0x3E9E377A, 1), (0xBF400000, 0xBF3504F3, 1), (0x3FA66666, 0xBF4F1BBB, 1),
        (0x3EAAAAAB, 0x3F5DB3D8, 1), (0x00000001, 0x00000003, 3), (0x447A1000, 0x3F3504F3, 1), (0xC0F33333, 0x3F737872, 1)], gives .sinpi e) ∧
  ∀ e ∈ [(0x3E800000, 0x3F3504F3, 1), (0x3DCCCCCD, 0x3F737871, 1), (0xBF400000, 0xBF3504F3, 1), (0x3FA66666, 0xBF16791A, 1),
        (0x3EAAAAAB, 0x3EFFFFFF, 1), (0x00000001, 0x3F800000, 1), (0x447A1000, 0x3F3504F3, 1), (0xC0F33333, 0x3E9E3770, 1)], gives .cospi e

/-- R116, R218, R220, R359: a VSFU at the head of its slot's vector queue sends one request, of ⌈e/8⌉ service cycles for e elements of enabled lanes
(one where no lane is enabled: the model's choice, assumption log entry 69), and waits for it. SFU_RESULT then writes each element of
the enabled lanes as the scalar function's value for it, in BF16 and FP16 that of the FP32 number it equals, rounded once more to the
lane's type, absent for absent; no flag is set, and the slot goes on. -/
def Sys2Proof.Claims.VectorFunctionsReturn : Prop :=
  ∀ f ∈ Claims.vsfuForms, ∀ (m : BitVec 1) (d a : BitVec 5) (t : BitVec 3), (t = 2 ∨ t = 3 ∨ t = 4) →
    (∀ (s : State) (c n : Nat) (cl : Claim) (o : VOp) (rest : List VOp), AtHead s c n cl o rest → o.op = f.1 m d a t →
      (o.sent = none → Answers (.vectorOpPerform c n) s fun u => u.mem = s.mem ∧
        u.slot c n = { s.slot c n with claim := some { cl with
          queue := { o with begun := true, sent := some s.tick } :: rest } } ∧
        ∃ r : SfuReq, Claims.JoinsUnit s u (s.clusterOf c) r ∧ r.id = s.tick ∧ r.core = c ∧ r.slot = n ∧ r.vf = s.runVf c ∧
          r.vec = true ∧ r.cycle = o.cycle ∧ r.served = none ∧
          r.n = max 1 (((if t = 2 then 1 else 2) * (enabledLanes cl m).length + 7) / 8)) ∧
      (o.sent ≠ none → Answers (.vectorOpPerform c n) s fun u => u = s)) ∧
    (∀ (s : State) (r : SfuReq) (u : Nat) (cl : Claim) (o : VOp) (rest : List VOp),
      let x := s.slotV r.core (r.vf + 1) r.slot
      let q := s.cluster (s.clusterOf r.core)
      q.sfu0 = [r] → q.sfu1 = [] → r.served = some u → u ≤ (s.core r.core).cyc.toNat → r.vec = true →
      x.claim = some cl → cl.queue = o :: rest → o.op = f.1 m d a t → o.sent = some r.id → x.cWait = none → x.mode = .parked →
      cl.groups.length ≤ 32 → Answers (.sfuResult r.core r.slot) s fun w => w.mem = s.mem ∧
        let y := w.slotV r.core (r.vf + 1) r.slot
        y.mode = .ready ∧ y.pc = x.nextPc ∧ y.g = x.g ∧ y.fflags = x.fflags ∧ ∃ k : Claim, y.claim = some k ∧
          k = { cl with v := k.v, queue := rest.map fun p => { p with held := false } } ∧
          ∀ (b : BitVec 5) (i : Nat), i < 256 →
            (¬ (b = d ∧ Enabled cl m i) → k.lane b i = cl.lane b i) ∧
            (b = d → Enabled cl m i →
              let l := laneLayout t
              ∀ j, j < 32 / l.bits →
                let e := element l (cl.lane a i) j
                let z := element l (k.lane b i) j
                (t = 2 → z = (sfu32 f.2 e).bits % 2 ^ 32) ∧ (e = l.absent → z = l.absent) ∧ (l.IsNan e = true → z = l.nan) ∧
                ∀ e', (l.Finite e ∧ (layout 0).Finite e' ∧ (layout 0).val e' = l.val e ∧ (layout 0).neg e' = l.neg e) ∨
                    (∃ n, e = l.inf n ∧ e' = (layout 0).inf n) →
                  let r := (sfu32 f.2 e').bits
                  ((layout 0).Finite r → (layout 0).val r ≠ 0 → ∃ fl, l.Rounds 0 ((layout 0).val r) z fl) ∧
                  ((layout 0).Finite r → (layout 0).val r = 0 → z = l.zero ((layout 0).neg r)) ∧
                  (∀ n, r = (layout 0).inf n → z = l.inf n) ∧ ((layout 0).IsNan r = true → z = l.nan)))

/-- R116, R220: a special function parks its slot with its result on the way, the value and the flags of SpecialFunctionValues; the request
enters its unit's queue of 16, or stays at its core while the queue is full; the unit serves the oldest request of its queue by issue
cycle, ties to the lower core, whose result comes 24 cycles after its last service cycle, and one that waits at its core then enters;
SFU_RESULT writes the result. -/
def Sys2Proof.Claims.SpecialFunctionsReturn : Prop :=
  (∀ (s : State) (d a : BitVec 6), ∀ f ∈ Claims.sfuForms, Answers (f.1 d a) s fun t =>
    let v := sfu32 f.2 (operand (layout 0) (s.rg a))
    t.me = { s.me with mode := .parked, aWait := some (.sfu s.tick) } ∧ t.mem = s.mem ∧
    ∃ r : SfuReq, Claims.JoinsUnit s t (s.clusterOf s.cur.core) r ∧ r.id = s.tick ∧ r.core = s.cur.core ∧ r.slot = s.cur.slot ∧
      r.vf = s.runVf s.cur.core ∧ r.vec = false ∧ r.n = 1 ∧ r.served = none ∧
      r.ws = [.g d.toNat (BitVec.ofNat 64 (v.bits % 2 ^ 32)), .flags (BitVec.zeroExtend 64 v.flags)]) ∧
  (∀ (s : State) (q : Nat) (x y : SfuReq), x.served = none → y.served = none → x.id ≠ y.id → x.atCore = false →
    let done (r : SfuReq) : SfuReq := { r with served := some ((s.core r.core).cyc.toNat + (r.n - 1) + 24) }
    let older (x y : SfuReq) : Prop := x.cycle < y.cycle ∨ (x.cycle = y.cycle ∧ x.core < y.core)
    let serves (l : List SfuReq) : Prop := Answers (.sfuService q 0) s fun t =>
      t.cluster q = { s.cluster q with sfu0 := l } ∧ t.mem = s.mem
    ((s.cluster q).sfu0 = [x] → serves [done x]) ∧
    ((s.cluster q).sfu0 = [x, y] → y.atCore = true → serves [done x, { y with atCore := false }]) ∧
    ((s.cluster q).sfu0 = [x, y] → y.atCore = false → (older y x → serves [x, done y]) ∧ (¬ older y x → serves [done x, y]))) ∧
  (∀ (s : State) (r : SfuReq) (u : Nat) (d : BitVec 6) (v fl : Word), (s.core r.core).vf = some r.vf →
    (s.cluster (s.clusterOf r.core)).sfu0 = [r] →
    (s.cluster (s.clusterOf r.core)).sfu1 = [] → r.served = some u → u ≤ (s.core r.core).cyc.toNat → r.vec = false →
    r.ws = [.g d.toNat v, .flags fl] → (s.slot r.core r.slot).aWait = some (.sfu r.id) →
    (s.slot r.core r.slot).cWait = none → (s.slot r.core r.slot).mode = .parked → Answers (.sfuResult r.core r.slot) s fun t =>
      Regs (s.slot r.core r.slot) (t.slot r.core r.slot) d v ∧ (t.slot r.core r.slot).mode = .ready ∧
      (t.slot r.core r.slot).fflags = (s.slot r.core r.slot).fflags ||| fl ∧
      (t.slot r.core r.slot).pc = (s.slot r.core r.slot).nextPc ∧ t.mem = s.mem)

/-- R116, R218, R220, R359: the special functions give their values and flags, to a scalar instruction and to lanes. That a VSFU of no
lane takes a cycle is the model's choice (assumption log entry 69). -/
def Obligations.SpecialFunctionsCompute : Prop :=
  Claims.SpecialFunctionValues ∧ Claims.SpecialFunctionsReturn ∧ Claims.VectorFunctionsReturn

/-! ### Counters and slice queues -/

namespace Sys2Proof.Claims

/-- The reasons for which R126 turns a counter operation away, for the value of its register; `m` lists the modes its form is allowed in. -/
def CidBad (s : State) (v : Word) (m : List Nat) : Nat → Prop
  | 1 => 4096 ≤ v.toNat ∨ (s.cid v.toNat).valid = false
  | 2 => (s.cid v.toNat).part ≠ s.runPid s.cur.core ∨ ((s.cid v.toNat).vf ≠ 0x1FF ∧ (s.cid v.toNat).vf ≠ s.runVf s.cur.core)
  | 3 => (s.cid v.toNat).mode ∉ m
  | 4 => (s.cid v.toNat).broken = true
  | 5 => (s.cid v.toNat).reconf = true
  | _ => False

/-- A counter form passes every check of R126. -/
def CidPasses (s : State) (v : Word) (m : List Nat) : Prop := ∀ r, ¬ CidBad s v m r

/-- The first check of R126 that fails gives trap 0x0D with its reason and the CID. -/
def CidTraps (i : Instr) (s : State) (v : Word) (m : List Nat) : Prop :=
  ∀ r, CidBad s v m r → (∀ q, q < r → ¬ CidBad s v m q) → Traps i s 0x0D (BitVec.ofNat 64 (r * 4096 + v.toNat % 4096))

/-- R123, R125, R126, R297: a counter form with a result sends a token from position SB + ((16n + s) mod 2^W) and parks. -/
def CounterFormsSendTokens : Prop :=
  ∀ (s : State) (d a b : BitVec 6),
    let v := s.rg a
    let e := s.cid v.toNat
    let c := s.cur.core
    let sent (i : Instr) (m : List Nat) (kind : TokKind) : Prop := CidTraps i s v m ∧ (CidPasses s v m → Answers i s fun t =>
      Becomes { s with tokens := t.tokens, nextTok := t.nextTok, pops := t.pops } t
        { s.me with mode := .parked, cWait := some (.counter s.nextTok) } ∧
      ∃ k, FMap.find? t.tokens s.nextTok = some k ∧ k.kind = kind ∧ k.cid = v.toNat ∧ k.core = c ∧ k.slot = s.cur.slot ∧
        k.vf = s.runVf c ∧ k.d = d.toNat ∧ k.layer = 0 ∧ k.pos = e.sb + (16 * c + s.cur.slot) % 2 ^ e.w)
    sent (.cntInc d a) [0] .inc ∧ sent (.cntDec d a) [0] .dec ∧ sent (.cntCan d a b) [0] (.can ((s.rg b).setWidth 32)) ∧
    sent (.cntRdq d a) [0, 1, 2, 3] (.rdq []) ∧
    sent (.cntSprd d a b) [2] (.sprd [(s.rg b).setWidth 32, (s.rg b >>> 32).setWidth 32,
      (s.rgn (b.toNat + 1)).setWidth 32, (s.rgn (b.toNat + 1) >>> 32).setWidth 32])

/-- R130, R131, R298: CNT.BAR parks until its core's PQ is home, and then its token leaves; one whose token has arrived sends none, and
goes on after its acquire where the release has come, and else parks again. That the mark left behind names the bundle as well as the CID,
and that a bundle which a handler has skipped is no longer executed again, is the model's reading (assumption log entry 32). -/
def BarriersSendTokens : Prop :=
  ∀ (s : State) (a : BitVec 6),
    let v := s.rg a
    let c := s.cur.core
    CidTraps (.cntBar a) s v [1] ∧ (CidPasses s v [1] →
      ((∀ m ∈ s.me.arrived, m.cid = v.toNat → m.pc = s.me.pc → m.again = false) →
        ((∃ e ∈ (s.core c).pq, e.seq ≤ (s.core c).seq.toNat) → Answers (.cntBar a) s fun t => t.tokens = s.tokens ∧
          Becomes s t { s.me with mode := .parked, cWait := some (.bar v.toNat (s.core c).seq.toNat none) }) ∧
        ((s.core c).pq = [] → Answers (.cntBar a) s fun t => t.mem = s.mem ∧
          t.me = { s.me with mode := .parked, cWait := some (.bar v.toNat (s.core c).seq.toNat (some s.nextTok)) } ∧
          ∃ k, FMap.find? t.tokens s.nextTok = some k ∧ k.kind = .bar ∧ k.cid = v.toNat ∧ k.core = c ∧ k.slot = s.cur.slot)) ∧
      (∀ m, s.me.arrived = [m] → m.cid = v.toNat → m.pc = s.me.pc → m.again = true →
        (m.released = true → Answers (.cntBar a) s fun t =>
          OnlyCore c s t ∧ OwnedView (t.core c) ∧ t.me = { s.me with arrived := [] } ∧ t.tokens = s.tokens) ∧
        (m.released = false → Answers (.cntBar a) s fun t => Becomes s t { s.me with
          mode := .parked, arrived := [], cWait := some (.bar v.toNat (s.core c).seq.toNat (some m.tok)) })))

/-- R122, R126: CNT.CFG with bits above the CID traps with reason 1, on a CID that is reconfiguring with reason 5, and of an entry that
is refused with reason 6 (that the first two apply to CNT.CFG is the model's reading, assumption log entry 55); an accepted one marks
the CID reconfiguring and parks, and is written, with the CID's counts at 0, once no earlier write of the CID waits and no operation on
it is in flight; the CID stays reconfiguring while a later write waits. -/
def EntriesAreWritten : Prop :=
  (∀ (s : State) (a b : BitVec 6),
    let cid := (s.rg a).toNat
    (4096 ≤ cid → Traps (.cntCfg a b) s 0x0D (BitVec.ofNat 64 (4096 + cid % 4096))) ∧
    (cid < 4096 → (s.cid cid).reconf = true → Traps (.cntCfg a b) s 0x0D (BitVec.ofNat 64 (5 * 4096 + cid))) ∧
    (cid < 4096 → (s.cid cid).reconf = false →
    let e : CidEntry := { e0 := s.rg b, e1 := s.rgn (b.toNat + 1), broken := false, reconf := false }
    (e.valid = true → (e.w = 7 ∨ e.mode = 3 ∨ e.sb % 2 ^ e.w ≠ 0 ∨ s.part e.part = none ∨ (e.mode = 1 ∧ e.n = 0) ∨
        (e.mode ≠ 1 ∧ e.n ≠ 0) ∨ (e.mode ≠ 2 ∧ e.sqix ≠ 0)) →
      Traps (.cntCfg a b) s 0x0D (BitVec.ofNat 64 (6 * 4096 + cid))) ∧
    (s.cfgRefused cid e.e0 e.e1 = false → Answers (.cntCfg a b) s fun t =>
      t.me.mode = .parked ∧ t.me.cWait = some (.cntCfg cid e.e0 e.e1) ∧ t.mem = s.mem ∧
      t.cfgs = s.cfgs ++ [{ cid := cid, by_ := .slot s.cur.core (s.vk s.cur.core) s.cur.slot, e0 := e.e0, e1 := e.e1 }] ∧
      FMap.find? t.cids cid = some { s.cid cid with reconf := true }))) ∧
  (∀ (s : State) (c vk n : Nat) (w : CfgWrite), w ∈ s.cfgs → w.by_ = .slot c vk n →
    (∀ x ∈ s.cfgs, (∃ k, x.by_ = .slot c k n) → x = w) →
    ((s.cfgs.find? (·.cid = w.cid) ≠ some w ∨ ∃ k ∈ s.tokens, k.2.cid = w.cid) → Answers (.cntCfgApply c n) s fun t => t = s) ∧
    (s.cfgs.find? (·.cid = w.cid) = some w → (∀ k ∈ s.tokens, k.2.cid ≠ w.cid) → Answers (.cntCfgApply c n) s fun t =>
      FMap.find? t.cids w.cid = some { e0 := w.e0, e1 := w.e1, broken := false, reconf := (s.cfgs.erase w).any (·.cid = w.cid) } ∧
      t.cfgs = s.cfgs.erase w ∧ (∀ p, p < 64 → t.countAt w.cid p = 0) ∧ t.mem = s.mem ∧
      ((s.slotV c vk n).cWait = some (.cntCfg w.cid w.e0 w.e1) → (t.slotV c vk n).cWait = some (.done []))))

/-- R124, R127, R130: at its exit a token takes the value BASE + j + 2^W·c and counts 1 up; an antitoken counts 1 down and frees the
value, with U where the count is negative, and REFILL where a CNT.CAN holds another; a barrier token that completes the phase clears the
counts, and one that overruns its quota traps with reason 7. -/
def ExitsCount : Prop :=
  ∀ (s : State) (tok : Nat) (k : Token), FMap.find? s.tokens tok = some k → s.atExit k = true →
    2 * (k.cid * 64 + k.pos) + 1 ∉ s.badParity →
    let e := s.cid k.cid
    let j := e.net.2.findIdx (· = k.pos)
    let c := s.countAt k.cid k.pos
    let val (c : BitVec 32) : BitVec 32 := BitVec.ofInt 32 (e.base + j + 2 ^ e.w * c.toInt)
    let ends (i : Instr) (c : BitVec 32) (r : Word) : Prop :=
      (s.slotV k.core (k.vf + 1) k.slot).cWait = some (.counter tok) → Answers i s fun t =>
        t.countAt k.cid k.pos = c ∧ FMap.find? t.tokens tok = none ∧ t.mem = s.mem ∧ t.toggles = s.toggles ∧
        (t.slotV k.core (k.vf + 1) k.slot).cWait = some (.done [.g k.d r])
    let freed (c : BitVec 32) : Word := (val c).zeroExtend 64 ||| if c.toInt < 0 then 0x8000000000000000 else 0
    (k.kind = .inc → ends (.exitToken tok) (c + 1) ((val c).zeroExtend 64)) ∧
    (k.kind = .dec → ends (.exitAntitoken tok) (c - 1) (freed (c - 1))) ∧
    (∀ v, k.kind = .can v → ends (.exitAntitoken tok) (c - 1)
      (freed (c - 1) ||| if val (c - 1) ≠ v then 0x4000000000000000 else 0)) ∧
    (∀ w, k.kind = .sprd w → Answers (.exitToken tok) s fun t => t.countAt k.cid k.pos = c + 1 ∧
      FMap.find? t.tokens tok = some { k with out := some (j, val c) } ∧ t.mem = s.mem) ∧
    (k.kind = .bar → e.reconf = false →
      (c.toNat < (e.n - j + 2 ^ e.w - 1) / 2 ^ e.w →
        ((∃ i, i < 2 ^ e.w ∧ e.exitOf i ≠ k.pos ∧ (s.countAt k.cid (e.exitOf i)).toNat < (e.n - i + 2 ^ e.w - 1) / 2 ^ e.w) →
          Answers (.exitToken tok) s fun t => t.countAt k.cid k.pos = c + 1 ∧ t.mem = s.mem ∧
            FMap.find? t.tokens tok = some { k with arrived := true }) ∧
        (e.w = 0 → e.sb = k.pos → c.toNat + 1 = e.n → Answers (.exitToken tok) s fun t => t.mem = s.mem ∧
          FMap.find? t.tokens tok = some { k with arrived := true, out := some (0, 0) } ∧
          ∀ p, p < 64 → t.countAt k.cid p = 0)) ∧
      ((e.n - j + 2 ^ e.w - 1) / 2 ^ e.w ≤ c.toNat → ∀ q,
        (s.slotV k.core (k.vf + 1) k.slot).cWait = some (.bar k.cid q (some tok)) → Answers (.exitToken tok) s fun t =>
          (t.slotV k.core (k.vf + 1) k.slot).cWait = some (.trap 0x0D (BitVec.ofNat 64 (7 * 4096 + k.cid % 4096))) ∧
          (t.cid k.cid).broken = true ∧ t.mem = s.mem))

/-- R127: the wave of a CNT.RDQ reads an output's count once, and with the last output the signed sum returns. -/
def SnapshotsSum : Prop :=
  ∀ (s : State) (tok : Nat) (k : Token) (got : FMap Int) (o : Nat), FMap.find? s.tokens tok = some k → k.kind = .rdq got →
    let e := s.cid k.cid
    let x := (s.countAt k.cid (e.exitOf o)).toInt
    o < 2 ^ e.w → FMap.find? got o = none → 2 * (k.cid * 64 + e.exitOf o) + 1 ∉ s.badParity →
    (got.length + 1 < 2 ^ e.w → Answers (.snapshot tok o) s fun t => t.counts = s.counts ∧ t.mem = s.mem ∧
      ∃ got', FMap.find? got' o = some x ∧ FMap.find? t.tokens tok = some { k with kind := .rdq got' }) ∧
    (got.length + 1 = 2 ^ e.w → (s.slotV k.core (k.vf + 1) k.slot).cWait = some (.counter tok) →
      Answers (.snapshot tok o) s fun t => t.counts = s.counts ∧ t.mem = s.mem ∧ FMap.find? t.tokens tok = none ∧
        (t.slotV k.core (k.vf + 1) k.slot).cWait =
          some (.done [.g k.d (BitVec.ofInt 64 ((got.map (·.2)).sum + x))]))

/-- R130, R131, R298: the release of a phase reaches a core: its slots that took part continue with an L view of owned words only; the mark
of one that a trap has taken from its barrier notes the release where its bundle is to be executed again, and else goes. -/
def PhasesRelease : Prop :=
  ∀ (s : State) (tok q : Nat) (k : Token), FMap.find? s.tokens tok = some k → k.kind = .bar → k.arrived = true →
    k.out ≠ none → Answers (.barrierRelease k.cid k.core) s fun t => OwnedView (t.core k.core) ∧ t.mem = s.mem ∧
      let x := s.slotV k.core (k.vf + 1) k.slot
      let y := t.slotV k.core (k.vf + 1) k.slot
      FMap.find? t.tokens tok = none ∧ (x.cWait = some (.bar k.cid q (some tok)) → y.cWait = some (.done [])) ∧
      ∀ m, x.arrived = [m] → m.tok = tok → (m.again = true → y.arrived = [{ m with released := true }]) ∧
        (m.again = false → y.arrived = [])

/-- R179: a queue instruction leaves its core for the slice of its QID and parks; a QID out of range traps with cause 0x0C and reason 1, a
slice of another partition with reason 2, a refused descriptor with reason 4. -/
def QueueFormsLeave : Prop :=
  ∀ (s : State) (d a b : BitVec 6),
    let v := (s.rg a).toNat
    let c := s.cur.core
    let inPart (sl : Nat) : Bool := (s.part (s.runPid c)).any (·.hasPos sl)
    let sent (i : Instr) (q : QOp) : Prop := Answers i s fun t =>
      Becomes { s with reqs := t.reqs, nextReq := t.nextReq } t
        { s.me with mode := .parked, cWait := some (.request s.nextReq) } ∧
      ∃ r, FMap.find? t.reqs s.nextReq = some r ∧ r.kind = .queue q ∧ r.core = c ∧ r.slot = s.cur.slot ∧ r.vf = s.runVf c ∧
        r.waiting = false
    let form (i : Instr) (q : QOp) : Prop :=
      (2 ^ 14 ≤ v → Traps i s 0x0C (BitVec.ofNat 64 (0x10000 + v % 2 ^ 14))) ∧
      (v < 2 ^ 14 → inPart (v / 16) = false → Traps i s 0x0C (BitVec.ofNat 64 (0x20000 + v))) ∧
      (v < 2 ^ 14 → inPart (v / 16) = true → sent i q)
    let e0 := s.rg b
    let e1 := s.rgn (b.toNat + 1)
    form (.qEnq d a b) { form := 0, qid := v, d := d.toNat, b := b.toNat, mark := s.releaseMark c false
                         regs := (List.range 9).map fun i => s.rgn (b.toNat + i) } ∧
    form (.qDeq d a) { form := 1, qid := v, d := d.toNat, b := 0, regs := [], mark := none } ∧
    form (.qWait a) { form := 2, qid := v, d := 0, b := 0, regs := [], mark := none } ∧
    form (.qFree a) { form := 4, qid := v, d := 0, b := 0, regs := [], mark := none } ∧
    form (.qStat d a) { form := 5, qid := v, d := d.toNat, b := 0, regs := [], mark := none } ∧
    (2 ^ 10 ≤ v → Traps (.qMake d a b) s 0x0C (BitVec.ofNat 64 (0x10000 + v % 2 ^ 10))) ∧
    (v < 2 ^ 10 → inPart v = false → Traps (.qMake d a b) s 0x0C (BitVec.ofNat 64 (0x20000 + v))) ∧
    (v < 2 ^ 10 → inPart v = true →
      ((e0.extractLsb' 0 4 = 0 ∨ 8 < (e0.extractLsb' 0 4).toNat ∨ e0.extractLsb' 32 8 = 0 ∨
          ((e0.extractLsb' 23 9).toNat ≠ 0x1FF ∧ (e0.extractLsb' 23 9).toNat ≠ s.runVf c) ∨
          (e0.getLsbD 20 = true ∧ e0.extractLsb' 16 4 ≠ 0) ∨ (e0.getLsbD 4 = false ∧ e1.extractLsb' 0 32 ≠ 0) ∨
          (∃ i : Fin 8, 10 ≤ (e1.extractLsb' (4 * i) 4).toNat ∨
            ((e0.extractLsb' 0 4).toNat ≤ i.val ∧ e1.extractLsb' (4 * i) 4 ≠ 0))) →
        Traps (.qMake d a b) s 0x0C (BitVec.ofNat 64 (0x40000 + v))) ∧
      (qBadDescriptor (s.runVf c) e0 e1 = false →
        sent (.qMake d a b) { form := 3, qid := 16 * v, d := d.toNat, b := b.toNat, regs := [e0, e1], mark := none }))

/-- The queue operation a request brings to its slice, whose slot waits for it, gives that slot a wait, and changes the queue to another or
leaves it. -/
def Served (s : State) (rid : Nat) (r : Req) (w : Wait) (P : State → Prop) : Prop :=
  FMap.find? s.reqs rid = some r → r.waiting = false → (s.slotV r.core (r.vf + 1) r.slot).cWait = some (.request rid) →
    Answers (.sliceRequest rid) s fun t => (t.slotV r.core (r.vf + 1) r.slot).cWait = some w ∧
      FMap.find? t.reqs rid = none ∧ t.mem = s.mem ∧ P t

/-- A queue admits the VF of a request (R179). -/
def Owns (k : Queue) (vf : Nat) : Prop := k.ownVf = 0x1FF ∨ k.ownVf = vf

/-- R179, R183, R186, R189, R190: what a queue operation does on its arrival at the slice. -/
def QueueOperationsArrive : Prop :=
  ∀ (s : State) (rid : Nat) (r : Req) (q : QOp), r.kind = .queue q → q.qid < 2 ^ 14 →
    let trap (reason : Nat) : Wait := .trap 0x0C (BitVec.ofNat 64 (reason * 65536 + q.qid))
    let same (t : State) : Prop := t.slices = s.slices
    (s.queue? q.qid = none → q.form ∈ [0, 1, 2, 4] → Served s rid r (trap 1) same) ∧
    (s.queue? q.qid = none → q.form = 5 → Served s rid r (.done [.g q.d 0]) same) ∧
    (∀ k, s.queue? q.qid = some k → q.form ∈ [0, 1, 2, 4, 5] →
      let at_ (k' : Queue) (t : State) : Prop := t.queue? q.qid = some k'
      (¬ Owns k r.vf → Served s rid r (trap 2) same) ∧
      (Owns k r.vf →
        (q.form = 0 → 63 < q.b + k.nw → Served s rid r (trap 3) same) ∧
        (q.form = 1 → 63 < q.d + 1 + k.nw → Served s rid r (trap 3) same) ∧
        (q.form = 5 → Served s rid r (.done [.g q.d (BitVec.ofNat 64 (2 ^ 63 + (if k.keyed then 2 ^ 62 else 0) + k.nw * 2 ^ 58 +
          k.waiters.length * 2 ^ 50 + k.cap * 2 ^ 32 + k.recs.length))]) same) ∧
        (q.form = 4 → (s.slice (q.qid / 16)).stalled = [] → Served s rid r (.done []) fun t => t.queue? q.qid = none ∧ ∀ w ∈ k.waiters,
          (s.slotV w.1 (w.2.2 + 1) w.2.1).cWait = some (.qWait q.qid) →
            (t.slotV w.1 (w.2.2 + 1) w.2.1).cWait = some (trap 6)) ∧
        (q.form = 2 → k.recs ≠ [] → Served s rid r (.done []) same) ∧
        (q.form = 2 → k.recs = [] → k.waiters.length < k.wlim → Served s rid r (.qWait q.qid) (at_ { k with
          waiters := k.waiters ++ [(r.core, r.slot, r.vf)] })) ∧
        (q.form = 2 → k.recs = [] → k.wlim ≤ k.waiters.length → Served s rid r (trap 5) same) ∧
        (q.form = 1 → q.d + 1 + k.nw ≤ 63 →
          (k.recs = [] → Served s rid r (.done [.g q.d 0]) same) ∧
          (∀ x xs, k.recs = x :: xs → x.poison = false → x.marks = [] → Served s rid r
            (.done (.g q.d (BitVec.ofNat 64 (2 ^ 63 + (if x.sealed then 2 ^ 62 else 0) + (if x.sat then 2 ^ 61 else 0) +
                (if x.ovf then 2 ^ 60 else 0) + x.fold)) ::
              .g (q.d + 1) (x.key.zeroExtend 64) ::
              x.words.mapIdx fun i w => .g (q.d + 2 + i) (BitVec.ofNat 64 (w.1 * 2 ^ 32 + w.2.toNat))))
            fun t => at_ { k with recs := xs } t ∧ OwnedView (t.core r.core)) ∧
          (∀ x xs, k.recs = x :: xs → x.poison = false → x.marks ≠ [] → Served s rid r
            (.acquire (x.marks.map fun m => { mark := m, asked := false, acked := false }) false (State.deqRegs q.d x) true)
            (at_ { k with recs := xs })) ∧
          (∀ x xs, k.recs = x :: xs → x.poison = true → Served s rid r (.trap 0x0B (BitVec.ofNat 64 q.qid))
            (at_ { k with recs := xs }))) ∧
        (q.form = 0 → q.b + k.nw ≤ 63 → k.keyed = false →
          let x (i : Nat) : Half := (q.regs.getD i 0).setWidth 32
          (k.cap ≤ k.recs.length → Served s rid r (.done [.g q.d 2]) same) ∧
          (k.recs.length < k.cap → Served s rid r (.done [.g q.d 0]) fun t =>
            at_ { k with
              waiters := k.waiters.tail
              recs := k.recs ++ [{ key := 0, fold := 0, sealed := false, sat := false, ovf := false, marks := q.mark.toList
                                   poison := false, words := (List.range k.nw).map fun i =>
                                     (if x i = 0xFFFFFFFF then 0 else 1, x i) }] } t ∧
            ∀ w, k.waiters.head? = some w → (s.slotV w.1 (w.2.2 + 1) w.2.1).cWait = some (.qWait q.qid) →
              (t.slotV w.1 (w.2.2 + 1) w.2.1).cWait = some (.done []))) ∧
        (q.form = 0 → q.b + k.nw ≤ 63 → k.keyed = true →
          let key := (q.regs.getD 0 0).setWidth 32
          let x (i : Nat) : Half := (q.regs.getD (i + 1) 0).setWidth 32
          ((∀ y ∈ k.recs, y.key = key → y.sealed = true) → k.cap ≤ k.recs.length → Served s rid r (.done [.g q.d 2]) same) ∧
          ((∀ y ∈ k.recs, y.key = key → y.sealed = true) → k.recs.length < k.cap →
            Served s rid r (.done [.g q.d 0]) (at_ { k with
              waiters := k.waiters.tail
              recs := k.recs ++ [{ key := key, fold := 0, sealed := false, sat := false, ovf := false, marks := q.mark.toList
                                   poison := false, words := (List.range k.nw).map fun i =>
                                     if x i = qAbsent (k.op i) then (0, x i) else (1, qCanon (k.op i) (x i)) }] })) ∧
          (∀ y l m w, k.recs = l ++ y :: m → (∀ z ∈ l, z.key = key → z.sealed = true) → y.key = key → y.sealed = false →
            y.fold < 65534 → k.nw = 1 → y.words = [w] → w.1 < 65534 → q.mark = none →
            Served s rid r (.done [.g q.d 1]) (at_ { k with recs := l ++ ({ y with
              fold := y.fold + 1
              words := [if x 0 = qAbsent (k.op 0) then w
                else if w.1 = 0 then (1, qCanon (k.op 0) (x 0)) else (w.1 + 1, (qFold (k.op 0) w.2 (x 0)).1)]
              sat := y.sat || (x 0 ≠ qAbsent (k.op 0) && w.1 ≠ 0 && (qFold (k.op 0) w.2 (x 0)).2.1)
              ovf := y.ovf || (x 0 ≠ qAbsent (k.op 0) && w.1 ≠ 0 && (qFold (k.op 0) w.2 (x 0)).2.2) } :: m) })))))

/-- R185: the operators of a keyed queue, on two present words: an integer sum clamps and tells, a NaN makes the float operators answer
0x7FC0_0000, a float sum is rounded once to nearest even, and of two floats the one that is greater, or less, is kept. -/
def QueueOperatorsFold : Prop :=
  ∀ y x : Half,
    let l := layout 0
    let f (op : Nat) := qFold op y x
    let sum := y.toInt + x.toInt
    f 0 = (x, false, false) ∧ f 1 = (y, false, false) ∧
    (sum ≤ 2147483647 → -2147483647 ≤ sum → f 2 = (y + x, false, false)) ∧
    (2147483647 < sum → f 2 = (0x7FFFFFFF, true, false)) ∧ (sum < -2147483647 → f 2 = (0x80000001, true, false)) ∧
    (f 4).1.toInt = max y.toInt x.toInt ∧ (f 5).1.toInt = min y.toInt x.toInt ∧
    f 8 = (y ||| x, false, false) ∧ f 9 = (y &&& x, false, false) ∧
    (y ≠ 0xFFFFFFFF → x ≠ 0xFFFFFFFF →
      ((l.IsNan y.toNat = true ∨ l.IsNan x.toNat = true) → ∀ op ∈ [3, 6, 7], f op = (0x7FC00000, false, false)) ∧
      (l.IsNan y.toNat = false → l.IsNan x.toNat = false →
        ((f 6).1 = y ∨ (f 6).1 = x) ∧ l.place (f 6).1.toNat = max (l.place y.toNat) (l.place x.toNat) ∧
        ((f 7).1 = y ∨ (f 7).1 = x) ∧ l.place (f 7).1.toNat = min (l.place y.toNat) (l.place x.toNat)) ∧
      (l.Finite y.toNat → l.Finite x.toNat →
        (l.val y.toNat + l.val x.toNat ≠ 0 → (∃ fl, l.Rounds 0 (l.val y.toNat + l.val x.toNat) (f 3).1.toNat fl) ∧
          (f 3).2 = (false, decide ((f 3).1.toNat % 2 ^ 31 = l.inf false))) ∧
        (l.val y.toNat + l.val x.toNat = 0 →
          f 3 = (if l.neg y.toNat && l.neg x.toNat then 0x80000000 else 0, false, false))))

/-- R177, R181, R182: Q.MAKE at its slice is refused with a code where the index asked for is in use; where it is not it takes the index
and the ways that all queues then need, 128 bytes a record and 32 KiB a way; its dirty lines are written back, it waits
while a line in the ways is pinned, being filled or without room to be written back; and once none stands there the queue exists, empty,
and its QID is returned. That the index is taken on arrival and the queue made
in one step is the model's choice (assumption log entry 38). -/
def QueuesAreMade : Prop :=
  (∀ (s : State) (rid : Nat) (r : Req) (q : QOp) (e0 e1 : Word), r.kind = .queue q → q.form = 3 → q.regs = [e0, e1] →
    let sl := q.qid / 16
    let i := (e0.extractLsb' 16 4).toNat
    (e0.getLsbD 20 = false → FMap.find? (s.slice sl).queues i ≠ none →
      Served s rid r (.done [.g q.d 0x8000000000000001]) fun t => t.slices = s.slices) ∧
    (e0.getLsbD 20 = true → (∀ j, j < 16 → FMap.find? (s.slice sl).queues j ≠ none) →
      Served s rid r (.done [.g q.d 0x8000000000000001]) fun t => t.slices = s.slices) ∧
    ((s.slice sl).refusal e0 e1 = none → ∃ i, i < 16 ∧ FMap.find? (s.slice sl).queues i = none ∧
      (e0.getLsbD 20 = false → i = (e0.extractLsb' 16 4).toNat) ∧ Served s rid r (.qMake sl i) fun t =>
        (t.slice sl).queues = (s.slice sl).queues ∧
        (t.slice sl).resv = (((t.slice sl).caps.map (128 * ·)).sum + 32767) / 32768 ∧
        (t.slice sl).making = (s.slice sl).making ++ [{ idx := i, core := r.core, slot := r.slot, vf := r.vf, d := q.d, queue := {
          ownVf := (e0.extractLsb' 23 9).toNat, keyed := e0.getLsbD 4, nw := (e0.extractLsb' 0 4).toNat
          ops := e1.setWidth 32, cap := 64 * ((e0.extractLsb' 8 3).toNat + 1)
          wlim := (e0.extractLsb' 32 8).toNat, recs := [], waiters := [] } }])) ∧
  (∀ (s : State) (c n sl : Nat) (m : Making), s.makingOf c n = some (sl, m) → m.core = c → m.slot = n → m.idx < 16 →
    let k := s.slice sl
    let room := k.wb.length < Config.wbEntries ∧ k.filter.length < Config.filterSize
    let made (t : State) : Prop := t.queue? (16 * sl + m.idx) = some m.queue ∧ (t.slice sl).making = k.making.erase m ∧ t.mem = s.mem ∧
      ((s.slotV c (m.vf + 1) n).cWait = some (.qMake sl m.idx) →
        (t.slotV c (m.vf + 1) n).cWait = some (.done [.g m.d (BitVec.ofNat 64 (16 * sl + m.idx))]))
    ((∃ l ∈ k.reservedLines, l.2.dirty = true ∨ l.2.pins ≠ 0 ∨ (k.entry? l.2.line).isSome = true) →
      (∀ l ∈ k.reservedLines, l.2.dirty = true → ¬ room) → Answers (.queueReservationDone c n) s fun t => t = s) ∧
    (∀ st l, k.sets = [(st, [l])] → 16 - k.resv ≤ l.way → l.dirty = true → l.pins = 0 → k.entry? l.line = none → room →
      Answers (.queueReservationDone c n) s fun t => made t ∧ (t.slice sl).wb = k.wb ++ [l.line] ∧
        (t.slice sl).filter = k.filter ++ [l.line]) ∧
    (k.reservedLines = [] → Answers (.queueReservationDone c n) s made))

/-- R127, R193: a spread record enters the FIFO of its output, and is dropped, with DROP in the result, where that queue is not there or
is full. -/
def SpreadRecordsReachTheirQueue : Prop :=
  ∀ (s : State) (tok j : Nat) (k : Token) (w : List Half) (v : BitVec 32) (p : Part),
    FMap.find? s.tokens tok = some k → k.kind = .sprd w → k.out = some (j, v) → s.part (s.cid k.cid).part = some p → w.length = 4 →
    (s.slotV k.core (k.vf + 1) k.slot).cWait = some (.counter tok) →
    let e := s.cid k.cid
    let qid := 16 * p.sliceAt ((e.spb + j) % p.slices) + e.sqix
    let ends (drop : Nat) (P : State → Prop) : Prop := Answers (.spreadRecord tok) s fun t =>
      (t.slotV k.core (k.vf + 1) k.slot).cWait =
        some (.done [.g k.d (BitVec.ofNat 64 (drop * 2 ^ 62 + qid * 2 ^ 48 + v.toNat))]) ∧
      FMap.find? t.tokens tok = none ∧ t.mem = s.mem ∧ P t
    (s.queue? qid = none → ends 1 fun t => t.slices = s.slices) ∧
    (∀ q, s.queue? qid = some q → (¬ Owns q k.vf ∨ q.keyed = true ∨ q.nw ≠ 5 ∨ q.cap ≤ q.recs.length) →
      ends 1 fun t => t.slices = s.slices) ∧
    (∀ q, s.queue? qid = some q → Owns q k.vf → q.keyed = false → q.nw = 5 → q.recs.length < q.cap → ends 0 fun t =>
      t.queue? qid = some { q with
        waiters := q.waiters.tail
        recs := q.recs ++ [{ key := 0, fold := 0, sealed := false, sat := false, ovf := false, marks := [], poison := false
                             words := (v :: w).map fun x => (if x = 0xFFFFFFFF then 0 else 1, x) }] })

end Sys2Proof.Claims

/-- R122-R127, R130, R131, R134, R297, R298: counter instructions send tokens and park, or trap with cause 0x0D and their reason;
exits count tokens and antitokens and answer, snapshots sum, phases end and release, and entries are rewritten. The mark of an abandoned
barrier and the checks of CNT.CFG are as the model reads them (assumption log entries 32 and 55). -/
def Obligations.CountersCount : Prop :=
  Claims.CounterFormsSendTokens ∧ Claims.BarriersSendTokens ∧ Claims.EntriesAreWritten ∧
  Claims.ExitsCount ∧ Claims.SnapshotsSum ∧ Claims.PhasesRelease

/-- R127, R177-R190, R193, R326: queue instructions go to their slice or trap with cause 0x0C and their reason; there records are made,
folded, taken and awaited, queues are made and freed, and spread records enter their FIFO. When a Q.MAKE takes its index is the model's
choice (assumption log entry 38). -/
def Obligations.SliceQueuesServe : Prop :=
  Claims.QueueFormsLeave ∧ Claims.QueueOperationsArrive ∧ Claims.QueueOperatorsFold ∧ Claims.QueuesAreMade ∧
  Claims.SpreadRecordsReachTheirQueue
/-! ### Translation, tenants, the host's queues -/

namespace Sys2Proof.Claims

/-- R233: what a table entry is at a level: no valid bit, a reserved bit, a pointer above level 0 to an aligned table, a page of the sizes
of the level with an aligned base, and a walk error everywhere else. -/
def TableEntriesRead : Prop :=
  ∀ level e : Nat, level ≤ 3 →
    let addr := e / 2 ^ 12 % 2 ^ 40 * 2 ^ 12
    let t := e.testBit 9
    let z := e / 2 ^ 7 % 4
    (e.testBit 0 = false → pteOf level e = .none) ∧
    (e.testBit 0 = true → (e.testBit 10 = true ∨ e.testBit 11 = true) → pteOf level e = .error) ∧
    (e.testBit 0 = true → e.testBit 10 = false → e.testBit 11 = false →
      (t = true → level = 0 → pteOf level e = .error) ∧
      (t = true → 1 ≤ level → pteOf level e = if addr % (if level = 1 then 2 ^ 17 else 2 ^ 12) = 0 then .table addr else .error) ∧
      (t = false → 2 ≤ level → pteOf level e = .error) ∧
      (t = false → level = 1 → pteOf level e = if z = 2 ∧ addr % 2 ^ 30 = 0 then .page addr 2 (e % 2 ^ 7) else .error) ∧
      (t = false → level = 0 → pteOf level e = if (z = 0 ∧ addr % 2 ^ 16 = 0) ∨ (z = 1 ∧ addr % 2 ^ 21 = 0)
        then .page addr z (e % 2 ^ 7) else .error))

/-- R232, R234, R240: WALK_DONE ends one of the first 16 walks of a cluster, and releases a slot of the walk's VF that waits for it and
has its permission, whether the VF runs on the core or not, with the entry in the core's TLB, unless a TLBW has written one for the page
there since the request (R341; the model's reading, assumption log entry 76); a slot whose walk fails, or that lacks the
permission, is blocked on a page fault whose record stands in the mailbox. No slot's fault is the fifth that follows a replay. -/
def WalksEnd : Prop :=
  ∀ (s : State) (cl idx : Nat) (w : Walk), (s.cluster cl).walks[idx]? = some w →
    (16 ≤ idx → Answers (.walkDone cl idx) s fun t => t = s) ∧
    (idx < 16 → (∀ c n, (s.slotV c (w.vf + 1) n).replay = none) →
      Answers (.walkDone cl idx) s (fun t => (t.cluster cl).walks = (s.cluster cl).walks.eraseIdx idx ∧ t.mem = s.mem) ∧
      ∀ c n va k, c ∈ s.coresOf cl → n < 16 → k < 4 → (s.slotV c (w.vf + 1) n).cWait = some (.walk va k) →
        va % 2 ^ 57 / 2 ^ 16 = w.vpn →
        let x := s.slotV c (w.vf + 1) n
        (∀ e, s.walkEntry w = .inl e → e.allows k = true → x.mode = .parked →
          Answers (.walkDone cl idx) s fun t => let y := t.slotV c (w.vf + 1) n
            y.mode = .ready ∧ y.pc = x.pc ∧ y.cWait = none ∧
            (c ∈ w.keep → (t.core c).tlb = (s.core c).tlb) ∧
            (c ∉ w.keep → (∀ z ∈ (s.core c).tlb, z.overlaps e = true → z.hits w.vf (BitVec.ofNat 64 va) = true) →
              (t.core c).tlb.head? = some e)) ∧
        ∀ cause, cause < 16 → (s.walkEntry w = .inr cause ∨ ∃ e, s.walkEntry w = .inl e ∧ e.allows k = false ∧
            cause = if k = 3 then 4 else if (k = 0 ∨ k = 2) ∧ e.r = false then 2 else 3) →
          Answers (.walkDone cl idx) s fun t => (t.slotV c (w.vf + 1) n).cWait = some .fault ∧ (t.slotV c (w.vf + 1) n).g = x.g ∧
            ∃ r ∈ (t.cluster (s.clusterOf c)).mailbox, r.w0 = BitVec.ofNat 64 va ∧ r.w1 = x.gtid.zeroExtend 64 ∧ r.w2.toNat % 128 = (s.placeInCluster c * 16 + n) % 128 ∧
              r.w2.toNat / 2 ^ 12 % 16 = cause % 16 ∧ r.w2.toNat / 2 ^ 20 % 8 = 0)

/-- The two words of a TLB entry that TLBW writes (R230, R231). -/
def GoodEntry (lo hi : Word) : Prop :=
  lo.extractLsb' 12 2 ≠ 3 ∧ lo.extractLsb' 4 7 = 0 ∧ hi.extractLsb' 52 12 = 0 ∧ hi.extractLsb' 3 13 = 0 ∧ hi.getLsbD 0 = false ∧
  (lo.extractLsb' 12 2 = 1 → lo.extractLsb' 23 5 = 0 ∧ hi.extractLsb' 16 5 = 0) ∧
  (lo.extractLsb' 12 2 = 2 → lo.extractLsb' 23 14 = 0 ∧ hi.extractLsb' 16 14 = 0)

/-- R231, R341: TLBW puts a well-formed entry into the core's TLB, or the cluster's, in place of one with its VPN, VF and SIZE, and traps
with cause 0x01 on a malformed one. A valid entry is the one that a look-up finds from then on: of the core, or of every core of the
cluster. That what it overlaps leaves those TLBs, and in which set of the cluster's it stands, is the model's choice (assumption log
entries 76 and 5). -/
def EntriesEnterTheTlb : Prop :=
  ∀ (s : State) (a b : BitVec 6),
    let e : TlbEntry := { lo := s.rg a, hi := s.rg b }
    let c := s.cur.core
    (¬ GoodEntry e.lo e.hi → Traps (.tlbwCore a b) s 0x01 s.wordTval ∧ Traps (.tlbwClus a b) s 0x01 s.wordTval) ∧
    (GoodEntry e.lo e.hi →
      Answers (.tlbwCore a b) s (fun t => t = { s with cores := t.cores, clusters := t.clusters } ∧
        (∀ d, d ≠ c → t.core d = s.core d) ∧ t.core c = { s.core c with tlb := (t.core c).tlb } ∧
        (∀ q, t.cluster q = { s.cluster q with walks := (t.cluster q).walks }) ∧
        (t.core c).tlb.head? = some e ∧ (t.core c).tlb.length ≤ 64 ∧
        (∀ x ∈ (t.core c).tlb.tail, x ∈ (s.core c).tlb ∧ ¬ (x.vpn = e.vpn ∧ x.vf = e.vf ∧ x.size = e.size)) ∧
        ∀ va, e.hits (t.runVf c) va = true → (t.tlbLook c va).1 = some e) ∧
      Answers (.tlbwClus a b) s fun t => t = { s with cores := t.cores, clusters := t.clusters } ∧
        (∀ d, t.core d = { s.core d with tlb := (t.core d).tlb } ∧ (d ∉ s.coresOf (s.clusterOf c) → t.core d = s.core d)) ∧
        (∀ q, q ≠ s.clusterOf c → t.cluster q = s.cluster q) ∧
        (∃ l, FMap.find? (t.cluster (s.clusterOf c)).tlb e.set = some l ∧ l.head? = some e ∧ l.length ≤ 4) ∧
        ∀ d ∈ s.coresOf (s.clusterOf c), s.clusterOf d = s.clusterOf c → ∀ va, e.hits (s.runVf d) va = true →
          (t.tlbLook d va).1 = some e)

/-- R237, R238: TLBI parks until every TLB of the partition has acknowledged; a TLB whose core has nothing in its PQ loses the entries
that match and acknowledges; with those of a core go the ones of its cluster's TLB, from which the core would take them again. -/
def ShootdownsReachEveryTlb : Prop :=
  (∀ (s : State) (a b : BitVec 6),
    let vf := (s.rg b).toNat % 512
    let sent (i : Instr) (form : Nat) (va : Word) (vf : Nat) : Prop := Answers i s fun t => ∃ left,
      Becomes s t { s.me with mode := .parked, cWait := some (.shoot form va vf left) } ∧
      ∀ p cl, s.part (s.pidAt s.cur.core) = some p → cl < 128 → p.hasCluster cl = true →
        4096 + cl ∈ left ∧ ∀ c ∈ s.coresOf cl, c ∈ left
    sent (.tlbiPage a b) 0 (s.rg a) vf ∧ sent (.tlbiVf b) 1 0 vf ∧ sent .tlbiAll 2 0 0) ∧
  (∀ (s : State) (c n tlb form vf : Nat) (va : Word) (left : List Nat),
    (s.slot c n).cWait = some (.shoot form va vf left) → (s.core tlb).pq = [] →
    (tlb ∉ left → Answers (.tlbShootdownAck c n tlb) s fun t => t = s) ∧
    (tlb ∈ left → Answers (.tlbShootdownAck c n tlb) s fun t => t.mem = s.mem ∧
      (t.slot c n).cWait = some (if left.filter (· ≠ tlb) = [] then .done [] else .shoot form va vf (left.filter (· ≠ tlb))) ∧
      (tlb < 4096 → (t.core tlb).tlb = (s.core tlb).tlb.filter fun e => !e.shot form va vf) ∧
      ∀ set l, FMap.find? (t.cluster (if tlb < 4096 then s.clusterOf tlb else tlb - 4096)).tlb set = some l → ∀ e ∈ l, e.shot form va vf = false))

/-- R235: FREP.RETRY makes the blocked slot execute its bundle again, FREP.KILL gives it trap 0x05 with the VA, and one that names no
fault has no effect. -/
def FaultsAreAnswered : Prop :=
  ∀ (s : State) (a : BitVec 6),
    let g := s.rg a
    ((s.faulted g = none ∨ 128 ≤ g.toNat) →
      Answers (.frepRetry a) s (fun t => t = s) ∧ Answers (.frepKill a) s fun t => t = s) ∧
    (∀ c n va cause m, s.faulted g = some (c, s.vk c, n) → (s.slot c n).replay = some (va, cause, m) →
      (s.slot c n).mode = .parked →
      Answers (.frepRetry a) s (fun t => (t.slot c n).mode = .ready ∧ (t.slot c n).pc = (s.slot c n).pc ∧
        (t.slot c n).cWait = none ∧ t.mem = s.mem ∧
        ∀ r ∈ (t.cluster (s.clusterOf s.cur.core)).mailbox, r.w2.toNat % 128 ≠ g.toNat) ∧
      ((s.cvf c).tvec ≠ 0 → (s.slot c n).inTrap = false → Answers (.frepKill a) s fun t =>
        (t.slot c n).pc = (s.cvf c).tvec ∧ (t.slot c n).tpc = (s.slot c n).pc ∧ (t.slot c n).tcause = 0x05 ∧
        (t.slot c n).tval = va ∧ (t.slot c n).inTrap = true ∧ t.mem = s.mem))

/-- R242: a bank exchange that no engine job hinders tags the bank to its toucher and releases the slots that touched it. -/
def BanksChangeHands : Prop :=
  ∀ (s : State) (x : Xfer), (s.xfers.find? fun y => y.kind = x.kind && y.unit = x.unit && y.idx = x.idx) = some x →
    (s.bankBusy x = true → Answers (.bankExchangeDone x.kind x.unit x.idx) s fun t => t = s) ∧
    (s.bankBusy x = false → Answers (.bankExchangeDone x.kind x.unit x.idx) s fun t =>
      t.mem = s.mem ∧ t.xfers = s.xfers.erase x ∧
      (x.kind = 0 → FMap.find? (t.core x.unit).gprTag x.idx = some x.vf) ∧
      (x.kind = 1 → FMap.find? (t.core x.unit).spTag x.idx = some x.vf) ∧
      (x.kind = 2 → FMap.find? (t.core x.unit).tabTag x.idx = some x.vf) ∧
      (x.kind = 3 → FMap.find? (t.cluster x.unit).laneTag x.idx = some x.vf) ∧
      (x.kind = 4 → FMap.find? (t.cluster x.unit).tileTag x.idx = some x.vf) ∧
      (x.kind = 5 → FMap.find? (t.cluster x.unit).setTag x.idx = some x.vf) ∧
      (x.kind < 3 → s.vk x.unit = x.vf + 1 → ∀ n, n < 16 → (s.slot x.unit n).mode = .parked →
        (s.slot x.unit n).cWait = some (.bank x.kind x.unit x.idx) →
        (t.slot x.unit n).mode = .ready ∧ (t.slot x.unit n).pc = (s.slot x.unit n).pc ∧ (t.slot x.unit n).cWait = none))

/-- R239, R241: the exchange of a world switch, once no vector operation is under way and the PQ is empty, gives the core to the incoming
VF with an empty L view and instruction cache; %CYC counts on, and what each VF's slots hold is kept. -/
def SwitchesExchange : Prop :=
  ∀ (s : State) (c : Nat) (v : Option Nat), (s.core c).switchTo = some v →
    (s.vectorBegun c = true → Answers (.worldSwitchExchange c) s fun t => t = s) ∧
    (s.vectorBegun c = false → (s.core c).pq = [] → Answers (.worldSwitchExchange c) s fun t => OnlyCore c s t ∧
      (t.core c).vf = v ∧ (t.core c).switchTo = none ∧ (t.core c).held = 0 ∧ (t.core c).l1i = [] ∧ OwnedView (t.core c) ∧
      (t.core c).cyc = (s.core c).cyc ∧ (t.core c).gprTag = (s.core c).gprTag ∧
      ∀ vk n, (t.slotV c vk n).g = (s.slotV c vk n).g ∧ (t.slotV c vk n).pc = (s.slotV c vk n).pc ∧
        (t.slotV c vk n).mode = (s.slotV c vk n).mode ∧ (t.slotV c vk n).cWait = (s.slotV c vk n).cWait)

/-- R244, R248: a quantum's expiry orders the whole core set of a domain to its next VF with work where every core has been held WEIGHT ×
42,000 cycles by a VF with work, and changes nothing before that or without such a VF. -/
def QuantaExpire : Prop :=
  ∀ (s : State) (d r w : Nat) (x : Vf),
    let set := s.coreSet d
    (s.core (set.headD 0)).vf = some r → s.vfRec r = some x → x.fatal = false → s.hasWork r = true →
    x.w0.toNat / 2 ^ 32 % 256 = w → set ≠ [] →
    (s.nextVf (s.domainOf d) (some r) = none → Answers (.quantumExpiry d) s fun t => t = s) ∧
    (∀ v, s.nextVf (s.domainOf d) (some r) = some v →
      ((∃ c ∈ set, (s.core c).held < w * 42000) → Answers (.quantumExpiry d) s fun t => t = s) ∧
      ((∀ c ∈ set, (s.core c).switchTo = none ∧ w * 42000 ≤ (s.core c).held) → Answers (.quantumExpiry d) s fun t =>
        ∀ c ∈ set, (t.core c).switchTo = some (some v) ∧ (t.core c).vf = (s.core c).vf))

/-- R268: an open that passes every check makes the next queue, with its negotiated version and STATE 1; a refused one opens none, in the
order of R268's cases. That an operand from 2^64 on names host memory, and that ACCEPT and CHEAD start at 0, are assumptions 16 and
42. -/
def QueuesOpen : Prop :=
  ∀ (s : State) (bell qcb : Nat),
    let host := decide (2 ^ 64 ≤ qcb)
    let a := qcb % 2 ^ 64
    let w := s.readWords host bell a 8
    let f (i lo n : Nat) : Nat := ((w.getD i 0).extractLsb' lo n).toNat
    let refused (r : Nat) : Prop := Answers (.queueOpen bell qcb) s fun t => t.queues = s.queues ∧
      t.nextQueue = s.nextQueue ∧ ∀ key, s.queueKey host bell (a + 40) = some key →
        le8 t.mem key = ((w.getD 5 0) &&& ~~~0xFF#64) ||| BitVec.ofNat 64 r
    let two : Prop := f 1 8 4 ≠ 1 ∨ f 1 0 4 < 4 ∨ f 1 41 23 ≠ 0 ∨ f 1 12 20 ≠ 0 ∨ f 2 32 32 ≠ 0 ∨ f 4 16 16 ≠ 0 ∨
      f 5 8 24 ≠ 0 ∨ f 6 0 64 ≠ 0 ∨ f 7 0 64 ≠ 0
    let five : Prop := f 0 0 7 ≠ 0 ∨ f 3 0 4 ≠ 0
    let six : Prop := f 1 32 9 ≠ bell ∨ (bell ≠ 0x1FF ∧ s.vfRec bell = none)
    (two → refused 2) ∧ (¬ two → five → refused 5) ∧ (¬ two → ¬ five → six → refused 6) ∧
    (¬ two → ¬ five → ¬ six → 1024 ≤ s.queues.length → refused 8) ∧
    (¬ two → ¬ five → ¬ six → s.queues.length < 1024 → Answers (.queueOpen bell qcb) s fun t =>
      t.nextQueue = s.nextQueue + 1 ∧ (∀ i, i ≠ s.nextQueue → t.cmdq i = s.cmdq i) ∧
      t.cmdq s.nextQueue = some { qcb := a, host := host, base := (w.getD 0 0).toNat, cbase := (w.getD 3 0).toNat
                                  sizelog := f 1 0 4, vf := bell, maj := 1, min := min (f 1 4 4) 1, state := 1, accept := 0
                                  tail := 0, chead := 0, head := none, live := [] })

/-- The 16 words of the packet after the last accepted one in a queue's ring; the packet with SEQ n stands at place n − 1 (assumption
18). -/
def nextWords (s : State) (q : CmdQueue) : List Word :=
  s.readWords q.host q.vf (q.base + 128 * (q.accept.toNat % 2 ^ q.sizelog)) 16

/-- R267, R271, R274: the first check of the header that fails rejects a packet with its REASON. -/
def HeadersAreJudged : Prop :=
  ∀ (s : State) (q : CmdQueue) (w : List Word),
    let f (lo n : Nat) : Nat := ((w.getD 0 0).extractLsb' lo n).toNat
    let op := f 40 8
    let one : Prop := op = 0 ∨ 0x10 < op ∨ (0x0E ≤ op ∧ q.min = 0)
    let two : Prop := f 36 4 ≠ q.maj ∨ f 32 4 ≠ q.min
    let three : Prop := f 56 8 ≠ 0 ∨ f 48 7 ≠ 0
    let four : Prop := f 0 32 ≠ (q.accept + 1).toNat
    let seven : Prop := (op = 1 ∧ q.vf = 0x1FF) ∨ (op ≠ 1 ∧ q.vf ≠ 0x1FF)
    (one → packetReason s q w = some 1) ∧ (¬ one → two → packetReason s q w = some 2) ∧
    (¬ one → ¬ two → three → packetReason s q w = some 3) ∧ (¬ one → ¬ two → ¬ three → four → packetReason s q w = some 4) ∧
    (¬ one → ¬ two → ¬ three → ¬ four → seven → packetReason s q w = some 7) ∧
    (op = 0x0C → ¬ two → ¬ three → ¬ four → ¬ seven → (∀ i, 2 ≤ i → w.getD i 0 = 0) → (w.getD 1 0).toNat < 2 ^ 12 →
      packetReason s q w = if 1200 ≤ (w.getD 1 0).toNat ∧ (w.getD 1 0).toNat ≤ 2700 then none else some 5)

/-- R268, R271: a tail doorbell publishes packets, and the next one of an open queue is read and checked, or rejected, and then the queue
halts; a release doorbell opens a halted or held queue again. -/
def DoorbellsRing : Prop :=
  ∀ (s : State) (n : Nat) (q : CmdQueue), s.cmdq n = some q →
    (∀ seq, Answers (.tailDoorbell n seq) s fun t => ∃ q', t.cmdq n = some q' ∧ q'.tail = BitVec.ofNat 32 seq ∧
      q'.accept = q.accept ∧ q'.live = q.live) ∧
    (∀ seq, q.state = 1 → q.head = none → q.accept ≠ BitVec.ofNat 32 seq → packetReason s q (nextWords s q) = none →
      Answers (.tailDoorbell n seq) s fun t => t.mem = s.mem ∧ ∃ q', t.cmdq n = some q' ∧ q'.state = 1 ∧
        q'.head = some { seq := (q.accept + 1).toNat, words := nextWords s q, stage := .checked, broken := false, passed := false }) ∧
    (∀ seq r, q.state = 1 → q.head = none → q.accept ≠ BitVec.ofNat 32 seq → packetReason s q (nextWords s q) = some r →
      Answers (.tailDoorbell n seq) s fun t => t.parts = s.parts ∧ t.vfs = s.vfs ∧ t.cids = s.cids ∧ t.windows = s.windows ∧
        ∃ q', t.cmdq n = some q' ∧ q'.state = 2 ∧ q'.head = none ∧ q'.chead = q.chead + 1) ∧
    (q.state ≠ 2 → q.state ≠ 3 → Answers (.releaseDoorbell n) s fun t => t = s) ∧
    ((q.state = 2 ∨ q.state = 3) → q.accept = q.tail → Answers (.releaseDoorbell n) s fun t =>
      t.cmdq n = some { q with state := 1 } ∧ ∀ m, m ≠ n → t.cmdq m = s.cmdq m)

/-- R25: the bitmap a GROUP packet names is read in the space of its queue (assumption 16), bit c for core c; a zero address names none. -/
def GroupBitmaps : Prop :=
  ∀ (s : State) (q : CmdQueue) (w : List Word),
    (w.getD 2 0 = 0 → groupCores s q w = none) ∧
    (w.getD 2 0 ≠ 0 → ∃ l, groupCores s q w = some l ∧ ∀ c, c ∈ l ↔ c < 1024 ∧
      ((s.readWords q.host q.vf (w.getD 2 0).toNat 16).getD (c / 64) 0).getLsbD (c % 64) = true)

/-- R258: an armed packet-break register of the queue's partition meets a packet: the queue's number, or a LAUNCH's PC. -/
def Meets (s : State) (n : Nat) (q : CmdQueue) (p : Pkt) : Prop :=
  q.vf ≠ 0x1FF ∧ ∃ x e, s.part (s.pidOf q.vf) = some x ∧ e ∈ x.brk ∧ e.2.getLsbD 63 = true ∧
    ((e.2.getLsbD 62 = true ∧ e.2.toNat % 2 ^ 16 = n) ∨
     (e.2.getLsbD 62 = false ∧ pkOp p.words = 1 ∧ e.2.toNat % 2 ^ 57 = (p.words.getD 1 0).toNat % 2 ^ 57))

/-- R22, R25, R273: a checked packet whose body still passes is accepted, with the group bitmap it names, and its record stands on both
stacks; one whose body no longer passes is rejected, and a management packet waits while another queue has one accepted and not yet
dispatched. -/
def PacketsAreAccepted : Prop :=
  ∀ (s : State) (n : Nat) (q : CmdQueue) (p : Pkt), s.cmdq n = some q → q.head = some p → p.stage = .checked →
    (pkOp p.words ≠ 1 → s.judging n = true → Answers (.acceptanceRecord n) s fun t => t = s) ∧
    ((pkOp p.words = 1 ∨ s.judging n = false) →
      (bodyReason s q p.words = none → Answers (.acceptanceRecord n) s fun t =>
        t.cmdq n = some { q with accept := BitVec.ofNat 32 p.seq
                                 head := some { p with
                                   stage := .accepted, cores := if pkOp p.words = 7 then groupCores s q p.words else none } } ∧
        t.parts = s.parts ∧ t.vfs = s.vfs ∧ t.pops = s.pops ∧ t.reports = s.reports ∧
        ∃ r : StackRec, t.stackA = s.stackA.map (· ++ [r]) ∧ t.stackB = s.stackB.map (· ++ [r]) ∧ r.queue = n ∧ r.seq = p.seq ∧
          r.fin = none ∧ r.restart = (p.words.getD 0 0).getLsbD 55) ∧
      (∀ r, bodyReason s q p.words = some r → Answers (.acceptanceRecord n) s fun t =>
        t.parts = s.parts ∧ t.vfs = s.vfs ∧ t.pops = s.pops ∧ ∃ q', t.cmdq n = some q' ∧ q'.state = 2 ∧ q'.head = none ∧
          q'.accept = q.accept ∧ q'.chead = q.chead + 1))

/-- R258: a LAUNCH at the head that an armed register meets is held when it is dispatched, and the host is told; none of its effect
happens until PACKET_BREAK_RESUME, after which it is compared no more. -/
def PacketBreaksHold : Prop :=
  ∀ (s : State) (n : Nat) (q : CmdQueue) (p : Pkt), s.cmdq n = some q → q.head = some p →
    (q.state = 1 → s.startable q.vf = true → p.stage = .accepted → pkOp p.words = 1 →
      (∀ y ∈ q.live, y.stage = .accepted → pkOp y.words ≠ 1) →
      (p.broken = true → Answers (.launch n) s fun t => t = s) ∧
      (p.broken = false → p.passed = false → Meets s n q p → Answers (.launch n) s fun t =>
        t = { s with queues := t.queues, reports := s.reports ++ [.breakHit n] } ∧
        t.cmdq n = some { q with head := some { p with broken := true } })) ∧
    (p.broken = true → Answers (.packetBreakResume n) s fun t => t = { s with queues := t.queues } ∧
      t.cmdq n = some { q with head := some { p with broken := false, passed := true } })

end Sys2Proof.Claims

/-- R230-R238, R240, R341: walks end in an entry or a page fault, TLB entries are written and shot down, and faults are answered. The set
index of the cluster's TLB is assumption 5. -/
def Obligations.TranslationsArrive : Prop :=
  Claims.TableEntriesRead ∧ Claims.WalksEnd ∧ Claims.EntriesEnterTheTlb ∧ Claims.ShootdownsReachEveryTlb ∧ Claims.FaultsAreAnswered

/-- R239, R241, R242, R244, R248: banks change hands, cores change their VF, and quanta expire. -/
def Obligations.TenantsTakeTurns : Prop := Claims.BanksChangeHands ∧ Claims.SwitchesExchange ∧ Claims.QuantaExpire

/-- R22, R25, R258, R267, R268, R271, R273: command queues open, doorbells publish and release, packets are judged, accepted and held. The
host's space, the place of a SEQ in the ring, and ACCEPT and CHEAD of a new queue are assumptions 16, 18 and 42. -/
def Obligations.CommandQueuesWork : Prop :=
  Claims.QueuesOpen ∧ Claims.HeadersAreJudged ∧ Claims.DoorbellsRing ∧ Claims.GroupBitmaps ∧ Claims.PacketsAreAccepted ∧
  Claims.PacketBreaksHold
/-! ### The host's packets, links, boot, debugger, errors -/

namespace Sys2Proof.Claims

/-- A queue holds an accepted packet of an opcode that is ready for dispatch, no packet-break register holds it, no packet of a recovery
comes before it, and nothing behind it is published. -/
def Ready (s : State) (n : Nat) (q : CmdQueue) (p : Pkt) (op : Nat) : Prop :=
  s.cmdq n = some q ∧ q.head = some p ∧ p.stage = .accepted ∧ p.broken = false ∧ (p.passed = true ∨ ¬ Meets s n q p) ∧ q.state = 1 ∧
  pkOp p.words = op ∧ q.accept = q.tail ∧ ∀ y ∈ q.live, y.stage = .accepted → pkOp y.words ≠ op

/-- A dispatch has its effect, and the packet is live. -/
def Dispatches (i : Instr) (s : State) (n : Nat) (q : CmdQueue) (p : Pkt) (P : State → Prop) : Prop := Answers i s fun t =>
  t.cmdq n = some { q with head := none, live := q.live.filter (·.seq ≠ p.seq) ++ [{ p with stage := .dispatched }] } ∧ P t

/-- The next record of a packet on both stacks (R273). -/
def Recorded (s t : State) (n seq : Nat) (fin : Option (Nat × Word)) : Prop :=
  ∃ r : StackRec, t.stackA = s.stackA.map (· ++ [r]) ∧ t.stackB = s.stackB.map (· ++ [r]) ∧ r.queue = n ∧ r.seq = seq ∧ r.fin = fin

/-- R36, R37, R51, R228, R254, R272, R273: LAUNCH starts a population with q packets to each core of its group, of the seeds and the
formats of its body, and sets the task counters of the VF; the packets are injected in their order as the channel admits them, none at a
core that it does not admit now, and all of them at once where it admits every core; one of a VF that is fatal, being reset, paused or moved waits. -/
def LaunchesStart : Prop :=
  ∀ (s : State) (n : Nat) (q : CmdQueue) (p : Pkt) (v : Vf) (cs : List Nat), Ready s n q p 1 → s.vfRec q.vf = some v →
    let w (i : Nat) : Word := p.words.getD i 0
    let f (lo k : Nat) : Nat := ((w 2).extractLsb' lo k).toNat
    ((v.fatal = true ∨ v.resetting = true ∨ v.paused = true ∨ v.moved = true) → Answers (.launch n) s fun t => t = s) ∧
    (v.fatal = false → v.resetting = false → v.paused = false → v.moved = false → s.group (s.pidOf q.vf) (f 16 8) = some cs → cs ≠ [] →
      Dispatches (.launch n) s n q p fun t =>
        t.mem = s.mem ∧ t.nextPop = s.nextPop + 1 ∧
        (∃ x, FMap.find? t.pops s.nextPop = some x ∧ x.vf = q.vf ∧ x.cores = cs ∧ x.quota = f 8 5 ∧ x.queue = n ∧ x.seq = p.seq ∧
          x.status = .running ∧ x.hung = false) ∧
        (∀ c ∈ cs, (FMap.getD (t.core c).vfs (q.vf + 1) {}).taskSeq = BitVec.ofNat 32 (f 32 32 + f 8 5)) ∧
        ∃ ps sent : List (Nat × Packet), ps.map (·.1) = cs.flatMap (fun c => List.replicate (f 8 5) c) ∧
          t.chan = s.chan ++ sent ∧ sent.Sublist (s.unsent ++ ps) ∧ t.unsent.Sublist (s.unsent ++ ps) ∧
          sent.length + t.unsent.length = s.unsent.length + ps.length ∧ (∀ e ∈ sent, e.1 ∉ s.chanFull) ∧
          (s.unsent = [] → (∀ c ∈ cs, c ∉ s.chanFull) → sent = ps) ∧
          ∀ e ∈ ps, e.2.pc = w 1 ∧ e.2.payload = (p.words.drop 5).take (f 0 4) ∧ e.2.fmtd = w 3 ∧ e.2.scale = w 4 ∧
            e.2.vf = q.vf ∧ e.2.pop = some s.nextPop ∧ e.2.sender = none ∧ e.2.gtid.setWidth 32 = (w 2).extractLsb' 32 32)

/-- R19, R22, R23, R25, R150, R245, R247, R258-R260, R273, R279, R280, R282: what the packets of a management queue do to partitions,
virtual functions, groups, limits, windows, ports, the power cap, and the debug and trace registers. -/
def TablesAreWritten : Prop :=
  ∀ (s : State) (n : Nat) (q : CmdQueue) (p : Pkt),
    let w (i : Nat) : Word := p.words.getD i 0
    let f (i lo k : Nat) : Nat := ((w i).extractLsb' lo k).toNat
    let does (i : Instr) (op : Nat) (P : State → Prop) : Prop := Ready s n q p op → Dispatches i s n q p fun t => t.mem = s.mem ∧ P t
    does (.pcreate n) 0x02 (fun t => t.part (f 1 0 4) = some { w0 := w 1, w1 := w 2, w2 := w 3, groups := [], limits := [], brk := []
                                                               dbm := [], trace0 := 0, trace1 := 0, traceHead := 0, debugger := false }) ∧
    does (.vcreate n) 0x04 (fun t => t.vfRec (f 1 23 9) =
      some { w0 := w 1, w1 := w 2, w2 := w 3, w3 := w 4, fatal := false, paused := false, moved := false }) ∧
    does (.window n) 0x0A (fun t => FMap.find? t.windows (f 1 0 6) =
      if w 2 = 0 then none else some { w1 := w 1, w2 := w 2, w3 := w 3 }) ∧
    does (.farport n) 0x0B (fun t => ∃ x, FMap.find? t.farPorts (f 1 0 4) = some x ∧ x.pid = some (f 1 8 4)) ∧
    does (.pcap n) 0x0C (fun t => t.pcap = f 1 0 12) ∧
    does (.pdestroy n) 0x03 (fun t => t.part (f 1 0 4) = none ∧ ∀ x c, s.part (f 1 0 4) = some x → x.hasCluster (s.clusterOf c) = true →
      FMap.find? s.cores c ≠ none → (t.core c).vf = none ∧ (t.core c).tlb = []) ∧
    (∀ x, s.part (f 1 8 4) = some x → does (.group n) 0x07 fun t => ∃ y, t.part (f 1 8 4) = some y ∧
      FMap.find? y.groups (f 1 0 8) = p.cores) ∧
    (∀ x, s.part (f 1 0 4) = some x →
      does (.occlim n) 0x09 (fun t => t.part (f 1 0 4) = some { x with limits := FMap.insert x.limits (f 2 0 9) (f 2 16 13) }) ∧
      does (.trace n) 0x0E (fun t => t.part (f 1 0 4) = some { x with trace0 := w 2, trace1 := w 3, traceHead := 0 }) ∧
      does (.debug n) 0x0D (fun t =>
        (f 2 0 4 < 4 → t.part (f 1 0 4) = some { x with brk := FMap.insert x.brk (f 2 0 4) (w 3) }) ∧
        (8 ≤ f 2 0 4 → t.part (f 1 0 4) = some { x with dbm := FMap.insert x.dbm (f 2 0 4 - 8) (w 3, w 4) })))

/-- R228, R249: a VF reset ends every population of the VF, which runs no new work until the reset completes; one that is destroyed is
fatal besides (R244: its quantum is cut short). It completes when no engine
job of the VF is left, and then what the VF holds on every core and its scratchpads is clear, its record, its queues and its counter IDs
kept; a destroy also releases its id, its slice queues and every core (here of slices in which no request waits for a way). -/
def FunctionsAreReset : Prop :=
  ∀ (s : State) (n : Nat) (q : CmdQueue) (p : Pkt) (x : Vf),
    let v := ((p.words.getD 1 0).extractLsb' 0 9).toNat
    s.vfRec v = some x →
    let begun (destroy : Bool) (t : State) : Prop := t.vfRec v = some { x with fatal := x.fatal || destroy, resetting := true } ∧ t.cids = s.cids ∧ t.parts = s.parts ∧
      ∀ e y, FMap.find? s.pops e = some y → y.vf = v → y.status = .running → ∃ z, FMap.find? t.pops e = some z ∧ z.status = .reset
    let cleared (t : State) : Prop := (∀ c m, t.slotV c (v + 1) m = {}) ∧ (∀ key, State.spOf v key = true → t.mem.get key = 0) ∧
      t.cids = s.cids ∧ t.parts = s.parts
    (Ready s n q p 5 → Dispatches (.vreset n) s n q p (begun false)) ∧
    (Ready s n q p 6 → Dispatches (.vdestroy n) s n q p (begun true)) ∧
    (s.cmdq n = some q → q.live.find? (·.seq = p.seq) = some p → q.host = true →
      ((pkOp p.words = 5 ∨ pkOp p.words = 6) → s.jobless v = false → Answers (.packetComplete n p.seq) s fun t => t = s) ∧
      (pkOp p.words = 5 → s.jobless v = true → Answers (.packetComplete n p.seq) s fun t => cleared t ∧
        Recorded s t n p.seq (some (0, 0)) ∧ t.vfRec v = some { x with fatal := false, resetting := false } ∧
        ∀ qid k, s.queue? qid = some k → ∃ k', t.queue? qid = some k' ∧ k'.recs = k.recs) ∧
      (pkOp p.words = 6 → s.jobless v = true → (∀ k, (s.slice k).stalled = []) → Answers (.packetComplete n p.seq) s fun t => cleared t ∧
        Recorded s t n p.seq (some (0, 0)) ∧ t.vfRec v = none ∧ ∀ c, c < s.ncore → (t.core c).vf ≠ some v))

/-- R244, R254: PAUSE orders the VF away from the cores on which it has run 42,000 cycles, from the others not yet. When nothing of the
VF is under way, its image stands at the address the packet names: its record, the state of its cores and their completions, and the
operations of peers held for it; and the VF has moved. -/
def FunctionsPause : Prop :=
  ∀ (s : State) (n : Nat) (q : CmdQueue) (p : Pkt) (x : Vf),
    let v := ((p.words.getD 1 0).extractLsb' 0 9).toNat
    s.vfRec v = some x →
    (Ready s n q p 0x0F → Dispatches (.pause n) s n q p fun t => t.vfRec v = some { x with paused := true } ∧
      ∀ c ∈ s.coreSet v, (s.core c).vf = some v → (s.core c).switchTo = none →
        ((x.fatal = true ∨ 42000 ≤ (s.core c).held) → (t.core c).switchTo = some none) ∧
        (x.fatal = false → (s.core c).held < 42000 → (t.core c).switchTo = none)) ∧
    (s.cmdq n = some q → q.live.find? (·.seq = p.seq) = some p → q.host = true → pkOp p.words = 0x0F →
      (∀ c ∈ s.coreSet v, (s.core c).vf ≠ some v ∧ (s.core c).switchTo ≠ some (some v)) →
      (s.pauseReady v = false → Answers (.packetComplete n p.seq) s fun t => t = s) ∧
      (s.pauseReady v = true → Answers (.packetComplete n p.seq) s fun t =>
        Recorded s t n p.seq (some (0, 0)) ∧ t.vfRec v = some { x with moved := true } ∧
        t.heldOps = s.heldOps.filter (·.vf ≠ v) ∧ (∀ b, b < 2 ^ 65 → t.mem.get b = s.mem.get b) ∧
        ∃ y, FMap.find? t.images (p.words.getD 2 0).toNat = some y ∧ y.vf = x ∧ y.held = s.heldOps.filter (·.vf = v) ∧
          y.cores = (s.coreSet v).map (fun c => FMap.getD (s.core c).vfs (v + 1) {}) ∧
          y.inbox = (s.coreSet v).map fun c => (s.core c).inbox.filter (·.vf = v)))

/-- R177, R254-R256: RESUME takes the image it names, once the image may be imported here (assumption 64): what has taken the place of a
queue of its since the packet was accepted holds the packet at the head. Each core of the VF's core set gets the registers, the pc and the mode of every slot that
the image holds at its place, a selection of an event this device does not list counts no more and has its UNSUP bit, and the VF runs
again; where the device has no record of the VF, it has the image's. -/
def FunctionsResume : Prop :=
  ∀ (s : State) (n : Nat) (q : CmdQueue) (p : Pkt) (y : Image),
    let v := ((p.words.getD 1 0).extractLsb' 0 9).toNat
    let img := (p.words.getD 2 0).toNat
    FMap.find? s.images img = some y → Ready s n q p 0x10 →
    (importable s v y = false → Answers (.resume n) s fun t => t = s) ∧
    (importable s v y = true → Dispatches (.resume n) s n q p fun t => FMap.find? t.images img = none ∧
      t.vfRec v = some { (s.vfRec v).getD y.vf with fatal := y.vf.fatal, resetting := false, paused := false, moved := false } ∧
      (∀ x, s.vfRec v = some x → (s.coreSet v).Nodup → y.cores.length = (s.coreSet v).length → y.inbox.length = y.cores.length →
        ∀ (i c : Nat) (k : CoreVf), (s.coreSet v)[i]? = some c → y.cores[i]? = some k →
          (∀ m, let z : Slot := FMap.getD k.slots m {}
            (t.slotV c (v + 1) m).g = z.g ∧ (t.slotV c (v + 1) m).pc = z.pc ∧ (t.slotV c (v + 1) m).mode = z.mode) ∧
          ∀ j, j < 8 → let e := (k.pmsel.getD j 0).toNat % 256
            e ≠ 0 → eventListed e = false → let u : CoreVf := FMap.getD (t.core c).vfs (v + 1) {}
              u.pmUnsup.getLsbD j = true ∧ u.pmc.getD j 0 = 0))

/-- R117, R121, R122, R273: CIDCFG marks its CID reconfiguring and takes its place behind the earlier writes of the CID; it ends, and writes
the entry, when it is the earliest and no operation of the CID is under way; every count and every toggle of the CID is then 0. -/
def EntriesComeFromPackets : Prop :=
  ∀ (s : State) (n : Nat) (q : CmdQueue) (p : Pkt),
    let w (i : Nat) : Word := p.words.getD i 0
    let cid := ((w 1).extractLsb' 0 12).toNat
    let c : CfgWrite := { cid := cid, by_ := .packet n p.seq, e0 := w 2, e1 := w 3 }
    (Ready s n q p 8 → Dispatches (.cidcfg n) s n q p fun t => t.mem = s.mem ∧ t.cfgs = s.cfgs ++ [c] ∧
      FMap.find? t.cids cid = some { s.cid cid with reconf := true }) ∧
    (s.cmdq n = some q → q.live.find? (·.seq = p.seq) = some p → pkOp p.words = 8 →
      (((∃ k ∈ s.tokens, k.2.cid = cid) ∨ s.cfgs.find? (·.cid = cid) ≠ some c) →
        Answers (.packetComplete n p.seq) s fun t => t = s) ∧
      ((∀ k ∈ s.tokens, k.2.cid ≠ cid) → s.cfgs.find? (·.cid = cid) = some c → Answers (.packetComplete n p.seq) s fun t =>
        (∃ r, FMap.find? t.cids cid = some { e0 := w 2, e1 := w 3, broken := false, reconf := r } ∧
          (r = true ↔ ∃ d ∈ s.cfgs.erase c, d.cid = cid)) ∧
        t.cfgs = s.cfgs.erase c ∧ (∀ k, k < 64 → t.countAt cid k = 0) ∧
        ∀ b : Bal, b.layer < 21 → b.low < 64 → FMap.getD t.toggles (State.togKey cid b) false = false))

/-- R267, R273, R274: the end of a packet of a queue in host memory leaves a completion entry on both stacks and a record in the ring at
CHEAD (its place there is assumption 18), which counts up; a LAUNCH ends with its population, with status 0, or 1 and the fatal report, or 4. -/
def PacketsEnd : Prop :=
  ∀ (s : State) (n : Nat) (q : CmdQueue) (p : Pkt), s.cmdq n = some q → q.live.find? (·.seq = p.seq) = some p →
    let a := q.cbase + 16 * (q.chead.toNat % 2 ^ q.sizelog)
    let key := 2 ^ 65
    let ends (status : Nat) (w1 : Word) : Prop := q.host = true → a + 16 < 2 ^ 64 → q.qcb + 40 < 2 ^ 64 →
      (q.qcb + 40 ≤ a ∨ a + 16 ≤ q.qcb + 32) → p.seq < 2 ^ 32 → Answers (.packetComplete n p.seq) s fun t =>
        t.cmdq n = some { q with chead := q.chead + 1, live := q.live.filter (·.seq ≠ p.seq) } ∧
        le8 t.mem (key + a) = BitVec.ofNat 64 (p.seq + status * 2 ^ 32 + pkOp p.words * 2 ^ 40) ∧ le8 t.mem (key + a + 8) = w1 ∧
        (le8 t.mem (key + q.qcb + 32)).extractLsb' 32 32 = q.chead + 1 ∧
        Recorded s t n p.seq (some (status, w1)) ∧
        ∀ b, b < key → t.mem.get b = s.mem.get b
    (pkOp p.words ∉ [1, 5, 6, 8, 0x0F] → ends 0 0) ∧
    (∀ e x, pkOp p.words = 1 → List.find? (fun (e : Nat × Pop) => e.2.queue = n && e.2.seq = p.seq) s.pops = some (e, x) →
      (x.status = .reported → ends 0 0) ∧ (x.status = .fatal → ends 1 x.report) ∧ (x.status = .reset → ends 4 0) ∧
      ((x.status = .running ∨ x.status = .complete) → Answers (.packetComplete n p.seq) s fun t => t = s))

/-- R275, R276: recovery leaves every queue held, with what it has accepted; a packet that was not accepted is to be parsed again, and an
accepted one stays at its queue's head only where a surviving record says that it may be run again; a live packet without such a record
and without a completion is reported aborted. -/
def QueuesRecover : Prop :=
  (∀ s : State, Answers .ochreMismatch s fun t => ∀ n q, s.cmdq n = some q →
    ∃ q', t.cmdq n = some q' ∧ q'.state = 3 ∧ q'.accept = q.accept ∧
      ∀ p, q'.head = some p → q.head = some p ∧ p.stage = .accepted ∧ (∃ r, s.stackOf n q p.seq = some r ∧ r.restart = true)) ∧
  (∀ (s : State) (n : Nat) (q : CmdQueue) (p : Pkt), s.queues = [(n, q)] → q.head = none → q.live = [p] →
    (∀ r, s.stackOf n q p.seq = some r → r.fin = none ∧ r.restart = false) → Answers .ochreMismatch s fun t =>
      Recorded s t n p.seq (some (2, 0)) ∧ ∃ q', t.cmdq n = some q' ∧ q'.state = 3 ∧ q'.live = [] ∧ q'.chead = q.chead + 1)

/-- No request is under way at any slice. -/
def QuietSlices (s : State) : Prop := ∀ k, (s.slice k).miss = [] ∧ (s.slice k).stalled = [] ∧ (s.slice k).filterWait = []

/-- No word of a range is poisoned, neither at home nor in the memory behind. -/
def Clean (s : State) (key n : Nat) : Prop := ∀ w, 8 * w < key + n → key < 8 * w + 8 →
  FMap.find? s.poison w = none ∧ FMap.find? s.hbmPoison w = none

/-- R149, R152, R255: a peer's read or write is performed at its home where the tables grant it, and answered: shown where no request is
under way at a slice. One that finds its line waited for at its slice's input is not performed yet (assumption 85). A write for a paused VF is
held in order, everything for one that has moved is answered MOVED, and a MOVED answer retargets the window. The numbers of operations and
the form of an address are assumption 19. -/
def PeersAreServed : Prop :=
  (∀ (s : State) (port op addr value : Nat) (v : Vf), s.vfRec (addr / 2 ^ 64) = some v →
    let o := peerOpOf port op addr value
    (v.moved = true → Answers (.peerOpHeld port op addr value) s (fun t => t = s.report (.peerMoved port)) ∧
      Answers (.peerRequest port op addr value) s fun t => t = s) ∧
    (v.moved = false → v.paused = true → op % 16 ≠ 0 →
      Answers (.peerOpHeld port op addr value) s (fun t => t = { s with heldOps := s.heldOps ++ [o] }) ∧
      Answers (.peerRequest port op addr value) s fun t => t = s) ∧
    (v.moved = false → (v.paused = false ∨ op % 16 = 0) → Answers (.peerOpHeld port op addr value) s fun t => t = s) ∧
    (∀ (key home q : Nat) (r : Req), v.moved = false → (v.paused = false ∨ op % 16 = 0) → s.peerPlace o = some (key, true, home) →
      q ∈ (s.slice (home / 256)).stalled → FMap.find? s.reqs q = some r → r.key / 128 = key / 128 → r.due = none →
      Answers (.peerRequest port op addr value) s fun t => t = s) ∧
    (∀ (key home : Nat) (cached : Bool), v.moved = false → s.peerPlace o = some (key, cached, home) → QuietSlices s → Clean s key o.size →
      (op % 16 = 0 → Answers (.peerRequest port op addr value) s fun t => t.mem = s.mem ∧
        t.reports = s.reports ++ [.peerReply port (BitVec.ofNat 64 (leVal (s.mem.read key o.size)))]) ∧
      (op % 16 = 1 → v.paused = false → Answers (.peerRequest port op addr value) s fun t =>
        Writes s t key (leBytes o.size (BitVec.ofNat 64 value).toNat) ∧ t.reports = s.reports ++ [.peerReply port 0]) ∧
      (op % 16 = 2 → op / 16 % 4 = 3 → v.paused = false → Answers (.peerRequest port op addr value) s fun t =>
        Writes s t key (leBytes 8 ((leVal (s.mem.read key 8) + value) % 2 ^ 64)) ∧
        t.reports = s.reports ++ [.peerReply port (BitVec.ofNat 64 (leVal (s.mem.read key 8)))]))) ∧
  (∀ (s : State) (win peer : Nat) (x : Window), FMap.find? s.windows win = some x → Answers (.peerMovedReply win peer) s fun t =>
    ∃ y, t = { s with windows := t.windows } ∧ FMap.find? t.windows win = some y ∧ y.w2 = x.w2 ∧ y.w3 = x.w3 ∧
      y.w1.extractLsb' 24 16 = BitVec.ofNat 16 peer ∧ y.w1.extractLsb' 40 24 = x.w1.extractLsb' 40 24 ∧
      y.w1.extractLsb' 0 24 = x.w1.extractLsb' 0 24)

/-- R16, R277, R278, R282, R362: a boot fails at the first step that is bad: one that the world makes fail, step 2 with an image that does
not verify or whose security version is below the fused minimum, step 4 with more fused cores than R16 allows or node (0,0) fused; it
leaves the device in recovery with that step reported. Else the device runs as after reset, with the part's fused map, a security version
not below the minimum, and reports its record, before it each Ubham port whose peer offered another major version. The record gives each port
as step 5 has trained it, and one that has not trained as down. No queue but the management queue was open before. That memory keeps what
stands behind the homes is assumption 45, the cap of 2,700 W assumption 4, and what the operands of the reset say, the training of the
ports among it, assumption 65. -/
def DevicesBoot : Prop :=
  ∀ (s : State) (fused : List Nat) (sv : Nat) (boot : Config.Boot),
    let f := (List.range 1024).filter (fused.contains ·)
    let m := max s.fuseMin boot.minver
    let bad (i : Nat) : Prop := i = boot.fail ∨ (i = 2 ∧ (boot.verified = false ∨ sv < m ∨ 2 ^ 16 ≤ sv)) ∨ (i = 4 ∧ (16 < f.length ∨ 0 ∈ fused))
    let refused : List Report := (boot.links.filter fun x => decide (x.1 < 24 ∧ x.2.1 ≠ 1)).map fun x => .portDown x.1
    (∀ step, 1 ≤ step → step ≤ 7 → bad step → (∀ i, 1 ≤ i → i < step → ¬ bad i) →
      Answers (.powerOnReset fused sv boot) s fun t => t.on = false ∧ t.issuing = none ∧ t.fuseMin = m ∧
        t.reports = s.reports ++ (if 5 < step then refused else []) ++ [.bootFailed step]) ∧
    ((∀ i, 1 ≤ i → i ≤ 7 → ¬ bad i) → (∀ e ∈ s.queues, e.1 = 0) →
      Answers (.powerOnReset fused sv boot) s fun t => t.on = true ∧ t.fused = f ∧ t.secver = sv ∧ t.fuseMin = m ∧
        t.fuseMin ≤ t.secver ∧ t.cores = [] ∧ t.clusters = [] ∧
        t.parts = State.reset.parts ∧ t.vfs = State.reset.vfs ∧ t.queues = State.reset.queues ∧ t.pcap = 2700 ∧
        (∀ a, 64 ≤ a → t.mem.get a = if State.isSp a then 0 else s.behind.get a) ∧
        (∀ a, a < 64 → t.mem.get a = Memory.boot.get a) ∧
        ∃ ws, t.reports = s.reports ++ refused ++ [.device ws] ∧ ws.length = 58 ∧
          ws.getD 0 0 = BitVec.ofNat 64 (sv * 2 ^ 32 + 2 ^ 24 + (1024 - f.length)) ∧
          (∀ p, p < 1024 → ((ws.getD (2 + p / 64) 0).getLsbD (p % 64) = true ↔ p ∈ f)) ∧
          (∀ p, p < 16 → ((∀ x ∈ boot.far, x.1 ≠ p) → ws.getD (18 + p) 0 = 0) ∧
            ∀ l r rate width cap, boot.far = l ++ (p, rate, width, cap) :: r → (∀ x ∈ r, x.1 ≠ p) → ws.getD (18 + p) 0 =
              if 1 ≤ rate ∧ rate ≤ 3 ∧ 1 ≤ width ∧ width ≤ 3 then BitVec.ofNat 64 (cap % 2 ^ 48 * 2 ^ 16 + width * 2 ^ 4 + rate) else 0) ∧
          ∀ u, u < 24 → ((∀ x ∈ boot.links, x.1 ≠ u) → ws.getD (34 + u) 0 = 0) ∧
            ∀ l r maj mn, boot.links = l ++ (u, maj, mn) :: r → (∀ x ∈ r, x.1 ≠ u) → ws.getD (34 + u) 0 =
              BitVec.ofNat 64 (if maj = 1 then 2 ^ 8 + 2 ^ 4 + min mn 1 else 3 * 2 ^ 8))

/-- R277: each SPDM request is answered; what the answer holds is a free value (the model's choice: the spec gives no encoding, assumption
46; the numbers of the requests are assumption 51). A request for measurements is answered with those of the boot, and with one taken now. -/
def AttestationAnswers : Prop :=
  ∀ (s : State) (nonce : Nat),
    let answered (i : Instr) (code : Nat) : Prop := Answers i s fun t => ∃ bs,
      t = { s with free := s.free + 1, reports := s.reports ++ [.spdm code bs] }
    answered (.spdmGetVersion nonce) 0 ∧ answered (.spdmGetCapabilities nonce) 1 ∧ answered (.spdmNegotiateAlgorithms nonce) 2 ∧
    answered (.spdmGetDigests nonce) 3 ∧ answered (.spdmGetCertificate nonce) 4 ∧ answered (.spdmChallenge nonce) 5 ∧
    (Answers (.spdmGetMeasurements nonce) s fun t => ∃ d bs,
      t = { s with free := s.free + 1, reports := s.reports ++ [.measured [s.meas1, s.meas2, d], .spdm 6 bs] })

/-- R279-R282 (the numbers of ports and sensors are assumption 51): links train, degrade and retry; second-tier ports train or are down; temperatures stretch the clock, double the refresh and
trip the device; the power cap is enforced window by window. -/
def LinksAndLimits : Prop :=
  ∀ s : State,
    (∀ port major minor, port < 24 →
      (major = 1 → Answers (.ubhamLinkTrain port major minor) s fun t => t = { s with uports := t.uports } ∧
        ∃ r, FMap.find? t.uports port = some { st := 1, maj := 1, min := min minor 1, retries := r }) ∧
      (major ≠ 1 → Answers (.ubhamLinkTrain port major minor) s fun t => t.reports = s.reports ++ [.portDown port] ∧
        ∃ r, FMap.find? t.uports port = some { st := 3, maj := 0, min := 0, retries := r })) ∧
    (∀ port x, FMap.find? s.uports port = some x →
      (x.st = 1 → Answers (.ubhamLaneLoss port) s fun t => FMap.find? t.uports port = some { x with st := 2 } ∧
        t.reports = s.reports ++ [.degraded port]) ∧
      ((x.st = 1 ∨ x.st = 2) → Answers (.ubhamFlitRetry port) s fun t =>
        t = { s with uports := FMap.insert s.uports port { x with retries := x.retries + 1 } })) ∧
    (∀ port rate width cap, port < 16 → Answers (.farportTrain port rate width cap) s fun t => t = { s with farPorts := t.farPorts } ∧
      ∃ x, FMap.find? t.farPorts port = some x ∧
        (1 ≤ rate → rate ≤ 3 → 1 ≤ width → width ≤ 3 → x.rate = rate ∧ x.width = width ∧ x.cap = cap) ∧
        ((rate = 0 ∨ 3 < rate ∨ width = 0 ∨ 3 < width) → x.rate = 0 ∧ x.width = 0 ∧ x.cap = 0)) ∧
    (∀ sensor temp, sensor < 20 → Answers (.temperatureInput sensor temp) s fun t => FMap.find? t.temps sensor = some temp ∧
      (sensor < 4 → 95 ≤ temp → t.stretch = true) ∧ (4 ≤ sensor → 85 ≤ temp → t.doubleRefresh = true) ∧ t.mem = s.mem) ∧
    (∀ sensor temp, FMap.find? s.temps sensor = some temp →
      ((sensor < 4 ∧ 110 ≤ temp) ∨ (4 ≤ sensor ∧ 100 ≤ temp) → Answers (.thermalTrip sensor) s fun t =>
        t = { s with on := false, issuing := none, reports := s.reports ++ [.thermalTrip sensor] }) ∧
      ((sensor < 4 ∧ temp < 110) ∨ (4 ≤ sensor ∧ temp < 100) → Answers (.thermalTrip sensor) s fun t => t = s)) ∧
    (∀ watts, Answers (.pcapWindow watts) s fun t => t = { s with stretch := t.stretch } ∧ (s.pcap < watts → t.stretch = true) ∧
      (watts ≤ s.pcap → s.hotDie = false → t.stretch = false))

/-- R257 (the numbers of registers are assumption 21): a debugger is attached and detached, resumes a HALTED slot to the state it left, and reads and writes its registers; of a slot
that is not HALTED it does nothing. -/
def DebuggersWork : Prop :=
  ∀ s : State,
    (∀ pid on p, s.part pid = some p → Answers (.debuggerAttach pid on) s fun t =>
      t.part pid = some { p with debugger := decide (on ≠ 0) } ∧ t = { s with parts := t.parts }) ∧
    (∀ c n, (s.slot c n).mode = .halted →
      (Answers (.debugResume c n) s fun t => OnlySlot c n s t ∧ t.slot c n = { s.slot c n with mode := (s.slot c n).haltFrom }) ∧
      (∀ (r : Fin 64) v, Answers (.debugRegisterAccess c n r.val 0 v) s fun t =>
        t = s.report (.debugValue (if r.val = 0 then 0 else (s.slot c n).g[r]))) ∧
      (∀ (r : Fin 64) w v, w ≠ 0 → Answers (.debugRegisterAccess c n r.val w v) s fun t => OnlySlot c n s t ∧
        Regs (s.slot c n) (t.slot c n) (BitVec.ofNat 6 r.val) (BitVec.ofNat 64 v) ∧ (t.slot c n).p = (s.slot c n).p)) ∧
    (∀ c n, (s.slot c n).mode ≠ .halted → Answers (.debugResume c n) s (fun t => t = s) ∧
      ∀ r w v, Answers (.debugRegisterAccess c n r w v) s fun t => t = s)

/-- R134, R154: a single flipped bit is corrected and logged and changes nothing else; an uncorrectable error poisons the word of the HBM or
of a slice (that of the HBM only, where a slice holds the line), the queue record, or the element of a tile, and no other element; a
flipped toggle or count of a counter has the wrong parity (the numbers of the stores are the model's: assumption 23). -/
def ErrorsArePoison : Prop :=
  ∀ (s : State) (unit idx bit : Nat),
    (∀ store, store ≠ 9 → bit < 2 ^ 16 → Answers (.softError store unit idx bit) s fun t => t = { s with errorLog := s.errorLog + 1 }) ∧
    (2 ^ 16 ≤ bit →
      (State.isSp (8 * idx) = false → s.holdsLine (idx / 16) = false → Answers (.softError 7 unit idx bit) s fun t =>
        t.poisoned (8 * idx) 8 = true ∧ t.mem = s.mem) ∧
      (State.isSp (8 * idx) = false → s.holdsLine (idx / 16) = true → Answers (.softError 7 unit idx bit) s fun t =>
        t = { s with hbmPoison := t.hbmPoison } ∧ FMap.find? t.hbmPoison idx = some ()) ∧
      (s.holdsWord idx = true → (∀ k ∈ s.slices, ∀ e ∈ k.2.sets, ∀ l ∈ e.2, l.line = idx / 16 → l.sectors.getLsbD (idx % 16 / 4) = true) →
        Answers (.softError 0 unit idx bit) s fun t => t.poisoned (8 * idx) 8 = true ∧ t.mem = s.mem) ∧
      (∀ q r, s.queue? unit = some q → q.recs[idx]? = some r → Answers (.softError 1 unit idx bit) s fun t =>
        ∃ q' r', t.queue? unit = some q' ∧ q'.recs[idx]? = some r' ∧ r'.poison = true ∧ r'.words = r.words) ∧
      Answers (.softError 4 unit idx bit) s fun t => t = { s with clusters := t.clusters } ∧
        (∀ cl, cl ≠ unit → t.cluster cl = s.cluster cl) ∧ t.cluster unit = { s.cluster unit with ac := (t.cluster unit).ac } ∧
        ∀ k m,
          let el (u : State) : AcElem := FMap.getD (FMap.getD (u.cluster unit).ac k {}).elems m { val := 0, cnt := 0, poison := false }
          el t = if k = idx / 2 ^ 14 ∧ m = idx % 2 ^ 14 then { el s with poison := true } else el s) ∧
    (Answers (.softError 9 0 idx bit) s fun t => FMap.find? t.toggles idx = some (!(FMap.getD s.toggles idx false)) ∧
      (2 * idx ∉ s.badParity → 2 * idx ∈ t.badParity)) ∧
    (Answers (.softError 9 1 idx bit) s fun t => t = { s with counts := t.counts, badParity := t.badParity } ∧
      FMap.getD t.counts idx 0 = FMap.getD s.counts idx 0 ^^^ (1#32 <<< (bit % 32)) ∧
      (∀ k, k ≠ idx → FMap.find? t.counts k = FMap.find? s.counts k) ∧ (2 * idx + 1 ∉ s.badParity → 2 * idx + 1 ∈ t.badParity))

end Sys2Proof.Claims

/-- R22, R25, R36, R37, R121, R122, R150, R228, R244, R245, R247, R249, R254-R256, R258-R260, R267, R272-R276, R279, R280, R282: packets
are dispatched with their effect and end with their record, and queues recover. The spaces of addresses, the place of a record in its
ring, what recovery keeps, images known by their address and what they hold are assumptions 16, 18, 20, 44 and 64. -/
def Obligations.PacketsHaveTheirEffect : Prop :=
  Claims.LaunchesStart ∧ Claims.TablesAreWritten ∧ Claims.FunctionsAreReset ∧ Claims.FunctionsPause ∧ Claims.FunctionsResume ∧
  Claims.EntriesComeFromPackets ∧ Claims.PacketsEnd ∧ Claims.QueuesRecover

/-- R16, R134, R149, R154, R255, R257, R277-R282, R362: peers are served, the device boots and attests, links, limits, the debugger and
soft errors act as the manual says. The memory after boot, the caps, the numbers of peer operations, debug registers and stores, what SPDM
answers hold, and the numbers of sensors and ports are assumptions 45, 4, 19, 21, 23, 46 and 51; the operands of a reset are assumption 65, and
a peer's operation at its slice assumption 85. -/
def Obligations.TheDeviceAnswersOutside : Prop :=
  Claims.PeersAreServed ∧ Claims.DevicesBoot ∧ Claims.AttestationAnswers ∧ Claims.LinksAndLimits ∧ Claims.DebuggersWork ∧
  Claims.ErrorsArePoison
/-! ### Rules stated whole, or nearly so -/

/-- R117 (whole): a token leaves on the output its balancer's toggle names and flips it; an antitoken flips it and leaves on the output the
new toggle names; no toggle of another CID or balancer changes; every toggle of a CID is 0 after the CNT.CFG that writes it. -/
def Obligations.BalancersRoute : Prop :=
  (∀ (s : State) (tok : Nat) (k : Token) (b : Bal), FMap.find? s.tokens tok = some k → k.out = none → k.arrived = false →
    s.balOf k = some b → 2 * State.togKey k.cid b ∉ s.badParity →
    let old := FMap.getD s.toggles (State.togKey k.cid b) false
    let goes (i : Instr) (bottom : Bool) : Prop := Answers i s fun t =>
      FMap.find? t.toggles (State.togKey k.cid b) = some (!old) ∧ t.counts = s.counts ∧ t.mem = s.mem ∧
      (∀ key, key ≠ State.togKey k.cid b → FMap.find? t.toggles key = FMap.find? s.toggles key) ∧
      FMap.find? t.tokens tok = some { k with layer := k.layer + 1, pos := if bottom then b.bottom else b.top }
    ((k.kind = .inc ∨ k.kind = .bar ∨ ∃ w, k.kind = .sprd w) → goes (.balancerToken tok) old) ∧
    ((k.kind = .dec ∨ ∃ v, k.kind = .can v) → goes (.balancerAntitoken tok) !old)) ∧
  (∀ (s : State) (c n cid : Nat) (e0 e1 : Word),
    let w : CfgWrite := { cid := cid, by_ := .slot c (s.vk c) n, e0 := e0, e1 := e1 }
    s.cfgs.find? (·.cid = cid) = some w → (∀ d ∈ s.cfgs, d ≠ w → ∀ vk, d.by_ ≠ .slot c vk n) →
    (∀ k ∈ s.tokens, k.2.cid ≠ cid) → Answers (.cntCfgApply c n) s fun t =>
      (t.cid cid).e0 = e0 ∧ (t.cid cid).e1 = e1 ∧ ∀ b : Bal, b.layer < 21 → b.low < 64 →
        FMap.getD t.toggles (State.togKey cid b) false = false)

/-- R183 (whole): Q.STAT writes the snapshot of the queue at its slice, and orders nothing: no mark, no store and no L view changes. -/
def Obligations.StatReadsTheQueue : Prop :=
  ∀ (s : State) (rid : Nat) (r : Req) (q : QOp), FMap.find? s.reqs rid = some r → r.kind = .queue q → q.form = 5 →
    r.waiting = false → (s.slotV r.core (r.vf + 1) r.slot).cWait = some (.request rid) →
    let answers (P : Word → Prop) : Prop := Answers (.sliceRequest rid) s fun t => ∃ w, P w ∧
      (t.slotV r.core (r.vf + 1) r.slot).cWait = some (.done [.g q.d w]) ∧ t.mem = s.mem ∧ t.marks = s.marks ∧
      t.slices = s.slices ∧ (t.core r.core).pq = (s.core r.core).pq ∧ (t.core r.core).l1 = (s.core r.core).l1
    (s.queue? q.qid = none → answers (· = 0)) ∧
    (∀ k, s.queue? q.qid = some k → (k.ownVf = 0x1FF ∨ k.ownVf = r.vf) → k.nw ≤ 8 → k.waiters.length ≤ 255 → 64 ≤ k.cap →
      k.cap ≤ 512 → k.recs.length ≤ k.cap → answers fun w =>
        w.getLsbD 63 = true ∧ w.getLsbD 62 = k.keyed ∧ (w.extractLsb' 58 4).toNat = k.nw ∧
        (w.extractLsb' 50 8).toNat = k.waiters.length ∧ w.extractLsb' 42 8 = 0 ∧ (w.extractLsb' 32 10).toNat = k.cap ∧
        w.extractLsb' 10 22 = 0 ∧ (w.extractLsb' 0 10).toNat = k.recs.length)

/-- R53: SETLIVE writes %LIVE; its word; a lone word of its major with a non-zero d, b or f traps with cause 0x01 (that of a pair's C-word
is IllegalAndPrivilegedWordsTrap's); and at the owner of a migration every register that %LIVE does not name becomes 0, shown where no
partition has a trace ring (R260). -/
def Obligations.SetliveWritesLive : Prop :=
  (∀ (s : State) (a : BitVec 6), Answers (.setlive a) s fun t => Becomes s t { s.me with live := s.rg a }) ∧
  decode 0xAA009000 = some (.setlive 9) ∧
  (∀ a : BitVec 6, decode (0xAA000000 + a.toNat * 2 ^ 12) = some (.setlive a) ∧ (Instr.setlive a).wellFormed = true) ∧
  (∀ (s u : State) (c n : Nat) (d a b f : BitVec 6), s.issuing = some (c, n) →
    let w := 0xAA000000 + d.toNat * 2 ^ 18 + a.toNat * 2 ^ 12 + b.toNat * 2 ^ 6 + f.toNat
    ({ s with issuing := none, cur := { core := c, slot := n } } : State).fetchWord c (s.slot c n).pc = .word w u →
    (d ≠ 0 ∨ b ≠ 0 ∨ f ≠ 0) → (u.cvf c).tvec ≠ 0 → (u.slot c n).inTrap = false →
    ∃ t, TookTrap c n 0x01 (BitVec.ofNat 64 w) u t ∧ step s = .next (t.commit c n)) ∧
  (∀ (s : State) (m : Mig) (n : Nat), s.migOf m.core m.slot = some m → m.reply = none → (s.core m.core).pq = [] →
    (s.core m.owner).vf = some m.vf → (s.core m.owner).switchTo = none → n < 16 → (s.slot m.owner n).mode = .free →
    (∀ j, j < n → (s.slot m.owner j).mode ≠ .free) → Claims.Untraced s → Answers (.migrationArrival m.core m.slot) s fun t =>
      let x := s.slotV m.core (m.vf + 1) m.slot
      (t.slot m.owner n).mode = .ready ∧ ∀ j : Fin 64, (t.slot m.owner n).g[j] = if x.live.getLsbD j.val then x.g[j] else 0)

/-- R362 (whole): the words of the device record, for a part with its fused map, whose security version is not below its fused minimum and
whose Ubham ports (R279) that are down, for whichever reason, have no version. -/
def Obligations.DeviceRecordSaysThePart : Prop :=
  ∀ s : State, s.fused = (List.range 1024).filter (s.fused.contains ·) → 0 ∉ s.fused → s.secver < 2 ^ 16 →
    s.fuseMin ≤ s.secver → (∀ u x, FMap.find? s.uports u = some x → x.st ≤ 3 ∧ (x.st = 0 ∨ x.st = 3 → x.maj = 0 ∧ x.min = 0)) →
    let ws := deviceRecord s
    let w (i : Nat) : Word := ws.getD i 0
    let f (i lo n : Nat) : Nat := ((w i).extractLsb' lo n).toNat
    ws.length = 58 ∧
    f 0 48 16 = 0 ∧ f 0 32 16 = s.secver ∧ s.fuseMin ≤ f 0 32 16 ∧ f 0 24 8 = 1 ∧ f 0 11 13 = 0 ∧ f 0 0 11 = s.ncore ∧
    (w 1).toNat = 512 * 3 * 2 ^ 30 ∧
    (∀ p, p < 1024 → ((w (2 + p / 64)).getLsbD (p % 64) = true ↔ p ∈ s.fused)) ∧
    (w 2).getLsbD 0 = false ∧ ((List.range 1024).filter fun p => (w (2 + p / 64)).getLsbD (p % 64)).length = 1024 - s.ncore ∧
    (∀ p, p < 16 → f (18 + p) 8 8 = 0 ∧
      (∀ x, FMap.find? s.farPorts p = some x → x.rate ≠ 0 → x.rate ≤ 3 → x.width ≤ 3 → x.cap < 2 ^ 48 →
        f (18 + p) 16 48 = x.cap ∧ f (18 + p) 4 4 = x.width ∧ f (18 + p) 0 4 = x.rate) ∧
      ((∀ x, FMap.find? s.farPorts p = some x → x.rate = 0) → w (18 + p) = 0)) ∧
    (∀ u, u < 24 → f (34 + u) 16 48 = 0 ∧
      (∀ x, FMap.find? s.uports u = some x → x.st ≤ 3 → x.maj < 16 → x.min < 16 →
        f (34 + u) 8 8 = x.st ∧ f (34 + u) 4 4 = x.maj ∧ f (34 + u) 0 4 = x.min) ∧
      (f (34 + u) 8 8 = 0 ∨ f (34 + u) 8 8 = 3 → f (34 + u) 4 4 = 0 ∧ f (34 + u) 0 4 = 0) ∧
      (FMap.find? s.uports u = none → w (34 + u) = 0))
end

