-- ==== Sys2Proof/Laws/FMap.lean ====
section
/-! SUPPORT. Laws of the sorted tables: reading after putting and after taking away, and that the keys keep rising. -/

namespace Sys2Proof.FMap

variable {α : Type}

@[simp] theorem find?_insert_self (m : FMap α) (n : Nat) (x : α) : find? (insert m n x) n = some x := by
  induction m with
  | nil => simp [insert, find?]
  | cons e r ih =>
    obtain ⟨k, v⟩ := e
    simp only [insert]
    split
    · simp [find?]
    · split
      · simp [find?]
      · simp [find?, ih]; omega

theorem find?_insert_ne (m : FMap α) {n j : Nat} (x : α) (h : j ≠ n) : find? (insert m n x) j = find? m j := by
  induction m with
  | nil => simp [insert, find?, h.symm]
  | cons e r ih =>
    obtain ⟨k, v⟩ := e
    simp only [insert]
    split
    · simp [find?, h.symm]
    · split
      · subst n; simp [find?, h.symm]
      · simp [find?, ih]

@[simp] theorem find?_erase_self (m : FMap α) (n : Nat) : find? (erase m n) n = none := by
  induction m with
  | nil => rfl
  | cons e r ih =>
    obtain ⟨k, v⟩ := e
    simp only [erase]
    split <;> simp_all [find?]

theorem find?_erase_ne (m : FMap α) {n j : Nat} (h : j ≠ n) : find? (erase m n) j = find? m j := by
  induction m with
  | nil => rfl
  | cons e r ih =>
    obtain ⟨k, v⟩ := e
    simp only [erase]
    split
    · subst n; simp [find?, h.symm, ih]
    · simp [find?, ih]

@[simp] theorem getD_insert_self (m : FMap α) (n : Nat) (x d : α) : getD (insert m n x) n d = x := by simp [getD]

theorem getD_insert_ne (m : FMap α) {n j : Nat} (x d : α) (h : j ≠ n) : getD (insert m n x) j d = getD m j d := by
  simp [getD, find?_insert_ne m x h]

@[simp] theorem getD_erase_self (m : FMap α) (n : Nat) (d : α) : getD (erase m n) n d = d := by simp [getD]

theorem getD_erase_ne (m : FMap α) {n j : Nat} (d : α) (h : j ≠ n) : getD (erase m n) j d = getD m j d := by
  simp [getD, find?_erase_ne m h]

/-- Every key of a table is at least a number. -/
def above (m : FMap α) (n : Nat) : Prop := ∀ e ∈ m, n < e.1

theorem sorted_cons (k : Nat) (v : α) (r : FMap α) : sorted ((k, v) :: r) = true ↔ above r k ∧ sorted r = true := by
  induction r generalizing k v with
  | nil => simp [sorted, above]
  | cons e r ih =>
    obtain ⟨j, w⟩ := e
    simp only [sorted, Bool.and_eq_true, decide_eq_true_eq]
    rw [ih j w]
    constructor
    · rintro ⟨h, ha, hs⟩
      refine ⟨?_, ha, hs⟩
      intro e he
      rcases List.mem_cons.1 he with rfl | he
      · exact h
      · exact Nat.lt_trans h (ha e he)
    · rintro ⟨h, ha, hs⟩
      exact ⟨h _ (List.mem_cons_self ..), ha, hs⟩

theorem mem_insert {m : FMap α} {n : Nat} {x : α} {e : Nat × α} (h : e ∈ insert m n x) : e = (n, x) ∨ e ∈ m := by
  induction m with
  | nil => simpa [insert] using h
  | cons f r ih =>
    obtain ⟨k, v⟩ := f
    simp only [insert] at h
    split at h
    · exact List.mem_cons.1 h
    · split at h
      · rcases List.mem_cons.1 h with h | h
        · exact .inl h
        · exact .inr (List.mem_cons_of_mem _ h)
      · rcases List.mem_cons.1 h with rfl | h
        · exact .inr (List.mem_cons_self ..)
        · exact (ih h).imp_right (List.mem_cons_of_mem _)

theorem mem_erase {m : FMap α} {n : Nat} {e : Nat × α} (h : e ∈ erase m n) : e ∈ m := by
  induction m with
  | nil => simp [erase] at h
  | cons f r ih =>
    obtain ⟨k, v⟩ := f
    simp only [erase] at h
    split at h
    · exact List.mem_cons_of_mem _ (ih h)
    · rcases List.mem_cons.1 h with rfl | h
      · exact List.mem_cons_self ..
      · exact List.mem_cons_of_mem _ (ih h)

theorem sorted_insert {m : FMap α} (n : Nat) (x : α) (h : sorted m = true) : sorted (insert m n x) = true := by
  induction m with
  | nil => rfl
  | cons e r ih =>
    obtain ⟨k, v⟩ := e
    have ⟨ha, hs⟩ := (sorted_cons k v r).1 h
    simp only [insert]
    split
    case isTrue hn =>
      refine (sorted_cons ..).2 ⟨?_, h⟩
      intro e he
      rcases List.mem_cons.1 he with rfl | he
      · exact hn
      · exact Nat.lt_trans hn (ha e he)
    case isFalse hn =>
      split
      case isTrue he => subst he; exact (sorted_cons ..).2 ⟨ha, hs⟩
      case isFalse he =>
        refine (sorted_cons ..).2 ⟨?_, ih hs⟩
        intro e h
        rcases mem_insert h with rfl | h
        · show k < n; omega
        · exact ha e h

theorem sorted_erase {m : FMap α} (n : Nat) (h : sorted m = true) : sorted (erase m n) = true := by
  induction m with
  | nil => rfl
  | cons e r ih =>
    obtain ⟨k, v⟩ := e
    have ⟨ha, hs⟩ := (sorted_cons k v r).1 h
    simp only [erase]
    split
    · exact ih hs
    · exact (sorted_cons ..).2 ⟨fun e he => ha e (mem_erase he), ih hs⟩

end Sys2Proof.FMap
end

