-- ==== Sys2Proof/Laws/State.lean ====
section
/-! SUPPORT. Laws of the state: what each named update leaves alone, field by field, and what reading a core or a slot gives
after an update. -/

namespace Sys2Proof.Machine.Core

@[simp] theorem cvf_setCvf (k : Core) (x : CoreVf) : (k.setCvf x).cvf = x := by simp [cvf, setCvf, vkey]
@[simp] theorem vkey_setCvf (k : Core) (x : CoreVf) : (k.setCvf x).vkey = k.vkey := rfl
@[simp] theorem vkey_setSlot (k : Core) (n : Nat) (x : Slot) : (k.setSlot n x).vkey = k.vkey := rfl
@[simp] theorem slot_setSlot (k : Core) (n : Nat) (x : Slot) : (k.setSlot n x).slot n = x := by simp [slot, setSlot]
theorem slot_setSlot_ne (k : Core) {n m : Nat} (x : Slot) (h : m ≠ n) : (k.setSlot n x).slot m = k.slot m := by
  simp [slot, setSlot, FMap.getD_insert_ne _ _ _ h]

end Sys2Proof.Machine.Core

namespace Sys2Proof.Machine.Slot

@[simp] theorem wg_mode (x : Slot) (d : BitVec 6) (v : Word) : (x.wg d v).mode = x.mode := by unfold wg; split <;> rfl
@[simp] theorem wg_haltFrom (x : Slot) (d : BitVec 6) (v : Word) : (x.wg d v).haltFrom = x.haltFrom := by unfold wg; split <;> rfl
@[simp] theorem wg_pc (x : Slot) (d : BitVec 6) (v : Word) : (x.wg d v).pc = x.pc := by unfold wg; split <;> rfl
@[simp] theorem wg_nextPc (x : Slot) (d : BitVec 6) (v : Word) : (x.wg d v).nextPc = x.nextPc := by unfold wg; split <;> rfl
@[simp] theorem wg_p (x : Slot) (d : BitVec 6) (v : Word) : (x.wg d v).p = x.p := by unfold wg; split <;> rfl
@[simp] theorem wg_gtid (x : Slot) (d : BitVec 6) (v : Word) : (x.wg d v).gtid = x.gtid := by unfold wg; split <;> rfl
@[simp] theorem wg_tcmp (x : Slot) (d : BitVec 6) (v : Word) : (x.wg d v).tcmp = x.tcmp := by unfold wg; split <;> rfl
@[simp] theorem wg_tpc (x : Slot) (d : BitVec 6) (v : Word) : (x.wg d v).tpc = x.tpc := by unfold wg; split <;> rfl
@[simp] theorem wg_tcause (x : Slot) (d : BitVec 6) (v : Word) : (x.wg d v).tcause = x.tcause := by unfold wg; split <;> rfl
@[simp] theorem wg_tval (x : Slot) (d : BitVec 6) (v : Word) : (x.wg d v).tval = x.tval := by unfold wg; split <;> rfl
@[simp] theorem wg_tstat (x : Slot) (d : BitVec 6) (v : Word) : (x.wg d v).tstat = x.tstat := by unfold wg; split <;> rfl
@[simp] theorem wg_tscr (x : Slot) (d : BitVec 6) (v : Word) : (x.wg d v).tscr = x.tscr := by unfold wg; split <;> rfl
@[simp] theorem wg_fmtd (x : Slot) (d : BitVec 6) (v : Word) : (x.wg d v).fmtd = x.fmtd := by unfold wg; split <;> rfl
@[simp] theorem wg_scale (x : Slot) (d : BitVec 6) (v : Word) : (x.wg d v).scale = x.scale := by unfold wg; split <;> rfl
@[simp] theorem wg_frm (x : Slot) (d : BitVec 6) (v : Word) : (x.wg d v).frm = x.frm := by unfold wg; split <;> rfl
@[simp] theorem wg_fflags (x : Slot) (d : BitVec 6) (v : Word) : (x.wg d v).fflags = x.fflags := by unfold wg; split <;> rfl
@[simp] theorem wg_amode (x : Slot) (d : BitVec 6) (v : Word) : (x.wg d v).amode = x.amode := by unfold wg; split <;> rfl
@[simp] theorem wg_rseed (x : Slot) (d : BitVec 6) (v : Word) : (x.wg d v).rseed = x.rseed := by unfold wg; split <;> rfl
@[simp] theorem wg_live (x : Slot) (d : BitVec 6) (v : Word) : (x.wg d v).live = x.live := by unfold wg; split <;> rfl
@[simp] theorem wg_pop (x : Slot) (d : BitVec 6) (v : Word) : (x.wg d v).pop = x.pop := by unfold wg; split <;> rfl
@[simp] theorem wg_fw (x : Slot) (d : BitVec 6) (v : Word) : (x.wg d v).fw = x.fw := by unfold wg; split <;> rfl
@[simp] theorem wg_lastIssue (x : Slot) (d : BitVec 6) (v : Word) : (x.wg d v).lastIssue = x.lastIssue := by unfold wg; split <;> rfl
@[simp] theorem wg_readyAt (x : Slot) (d : BitVec 6) (v : Word) : (x.wg d v).readyAt = x.readyAt := by unfold wg; split <;> rfl
@[simp] theorem wg_pendVpoison (x : Slot) (d : BitVec 6) (v : Word) : (x.wg d v).pendVpoison = x.pendVpoison := by unfold wg; split <;> rfl
@[simp] theorem wg_pendHang (x : Slot) (d : BitVec 6) (v : Word) : (x.wg d v).pendHang = x.pendHang := by unfold wg; split <;> rfl
@[simp] theorem wg_pendEngine (x : Slot) (d : BitVec 6) (v : Word) : (x.wg d v).pendEngine = x.pendEngine := by unfold wg; split <;> rfl
@[simp] theorem wg_pendOvf (x : Slot) (d : BitVec 6) (v : Word) : (x.wg d v).pendOvf = x.pendOvf := by unfold wg; split <;> rfl
@[simp] theorem wg_pendTimer (x : Slot) (d : BitVec 6) (v : Word) : (x.wg d v).pendTimer = x.pendTimer := by unfold wg; split <;> rfl
@[simp] theorem wg_cWait (x : Slot) (d : BitVec 6) (v : Word) : (x.wg d v).cWait = x.cWait := by unfold wg; split <;> rfl
@[simp] theorem wg_aWait (x : Slot) (d : BitVec 6) (v : Word) : (x.wg d v).aWait = x.aWait := by unfold wg; split <;> rfl
@[simp] theorem wg_cont (x : Slot) (d : BitVec 6) (v : Word) : (x.wg d v).cont = x.cont := by unfold wg; split <;> rfl
@[simp] theorem wg_fate (x : Slot) (d : BitVec 6) (v : Word) : (x.wg d v).fate = x.fate := by unfold wg; split <;> rfl
@[simp] theorem wg_raised (x : Slot) (d : BitVec 6) (v : Word) : (x.wg d v).raised = x.raised := by unfold wg; split <;> rfl
@[simp] theorem wg_prior (x : Slot) (d : BitVec 6) (v : Word) : (x.wg d v).prior = x.prior := by unfold wg; split <;> rfl
@[simp] theorem wg_arrived (x : Slot) (d : BitVec 6) (v : Word) : (x.wg d v).arrived = x.arrived := by unfold wg; split <;> rfl
@[simp] theorem wg_served (x : Slot) (d : BitVec 6) (v : Word) : (x.wg d v).served = x.served := by unfold wg; split <;> rfl
@[simp] theorem wg_replay (x : Slot) (d : BitVec 6) (v : Word) : (x.wg d v).replay = x.replay := by unfold wg; split <;> rfl
@[simp] theorem wg_noMig (x : Slot) (d : BitVec 6) (v : Word) : (x.wg d v).noMig = x.noMig := by unfold wg; split <;> rfl
@[simp] theorem wg_stop (x : Slot) (d : BitVec 6) (v : Word) : (x.wg d v).stop = x.stop := by unfold wg; split <;> rfl
@[simp] theorem wg_steal (x : Slot) (d : BitVec 6) (v : Word) : (x.wg d v).steal = x.steal := by unfold wg; split <;> rfl
@[simp] theorem wg_owed (x : Slot) (d : BitVec 6) (v : Word) : (x.wg d v).owed = x.owed := by unfold wg; split <;> rfl
@[simp] theorem wg_tabs (x : Slot) (d : BitVec 6) (v : Word) : (x.wg d v).tabs = x.tabs := by unfold wg; split <;> rfl
@[simp] theorem wg_matched (x : Slot) (d : BitVec 6) (v : Word) : (x.wg d v).matched = x.matched := by unfold wg; split <;> rfl
@[simp] theorem wg_dtld (x : Slot) (d : BitVec 6) (v : Word) : (x.wg d v).dtld = x.dtld := by unfold wg; split <;> rfl
@[simp] theorem wg_claim (x : Slot) (d : BitVec 6) (v : Word) : (x.wg d v).claim = x.claim := by unfold wg; split <;> rfl
@[simp] theorem wp_mode (x : Slot) (n : BitVec 3) (v : Bool) : (x.wp n v).mode = x.mode := by unfold wp; split <;> rfl
@[simp] theorem wp_haltFrom (x : Slot) (n : BitVec 3) (v : Bool) : (x.wp n v).haltFrom = x.haltFrom := by unfold wp; split <;> rfl
@[simp] theorem wp_pc (x : Slot) (n : BitVec 3) (v : Bool) : (x.wp n v).pc = x.pc := by unfold wp; split <;> rfl
@[simp] theorem wp_nextPc (x : Slot) (n : BitVec 3) (v : Bool) : (x.wp n v).nextPc = x.nextPc := by unfold wp; split <;> rfl
@[simp] theorem wp_g (x : Slot) (n : BitVec 3) (v : Bool) : (x.wp n v).g = x.g := by unfold wp; split <;> rfl
@[simp] theorem wp_gtid (x : Slot) (n : BitVec 3) (v : Bool) : (x.wp n v).gtid = x.gtid := by unfold wp; split <;> rfl
@[simp] theorem wp_tcmp (x : Slot) (n : BitVec 3) (v : Bool) : (x.wp n v).tcmp = x.tcmp := by unfold wp; split <;> rfl
@[simp] theorem wp_tpc (x : Slot) (n : BitVec 3) (v : Bool) : (x.wp n v).tpc = x.tpc := by unfold wp; split <;> rfl
@[simp] theorem wp_tcause (x : Slot) (n : BitVec 3) (v : Bool) : (x.wp n v).tcause = x.tcause := by unfold wp; split <;> rfl
@[simp] theorem wp_tval (x : Slot) (n : BitVec 3) (v : Bool) : (x.wp n v).tval = x.tval := by unfold wp; split <;> rfl
@[simp] theorem wp_tstat (x : Slot) (n : BitVec 3) (v : Bool) : (x.wp n v).tstat = x.tstat := by unfold wp; split <;> rfl
@[simp] theorem wp_tscr (x : Slot) (n : BitVec 3) (v : Bool) : (x.wp n v).tscr = x.tscr := by unfold wp; split <;> rfl
@[simp] theorem wp_fmtd (x : Slot) (n : BitVec 3) (v : Bool) : (x.wp n v).fmtd = x.fmtd := by unfold wp; split <;> rfl
@[simp] theorem wp_scale (x : Slot) (n : BitVec 3) (v : Bool) : (x.wp n v).scale = x.scale := by unfold wp; split <;> rfl
@[simp] theorem wp_frm (x : Slot) (n : BitVec 3) (v : Bool) : (x.wp n v).frm = x.frm := by unfold wp; split <;> rfl
@[simp] theorem wp_fflags (x : Slot) (n : BitVec 3) (v : Bool) : (x.wp n v).fflags = x.fflags := by unfold wp; split <;> rfl
@[simp] theorem wp_amode (x : Slot) (n : BitVec 3) (v : Bool) : (x.wp n v).amode = x.amode := by unfold wp; split <;> rfl
@[simp] theorem wp_rseed (x : Slot) (n : BitVec 3) (v : Bool) : (x.wp n v).rseed = x.rseed := by unfold wp; split <;> rfl
@[simp] theorem wp_live (x : Slot) (n : BitVec 3) (v : Bool) : (x.wp n v).live = x.live := by unfold wp; split <;> rfl
@[simp] theorem wp_pop (x : Slot) (n : BitVec 3) (v : Bool) : (x.wp n v).pop = x.pop := by unfold wp; split <;> rfl
@[simp] theorem wp_fw (x : Slot) (n : BitVec 3) (v : Bool) : (x.wp n v).fw = x.fw := by unfold wp; split <;> rfl
@[simp] theorem wp_lastIssue (x : Slot) (n : BitVec 3) (v : Bool) : (x.wp n v).lastIssue = x.lastIssue := by unfold wp; split <;> rfl
@[simp] theorem wp_readyAt (x : Slot) (n : BitVec 3) (v : Bool) : (x.wp n v).readyAt = x.readyAt := by unfold wp; split <;> rfl
@[simp] theorem wp_pendVpoison (x : Slot) (n : BitVec 3) (v : Bool) : (x.wp n v).pendVpoison = x.pendVpoison := by unfold wp; split <;> rfl
@[simp] theorem wp_pendHang (x : Slot) (n : BitVec 3) (v : Bool) : (x.wp n v).pendHang = x.pendHang := by unfold wp; split <;> rfl
@[simp] theorem wp_pendEngine (x : Slot) (n : BitVec 3) (v : Bool) : (x.wp n v).pendEngine = x.pendEngine := by unfold wp; split <;> rfl
@[simp] theorem wp_pendOvf (x : Slot) (n : BitVec 3) (v : Bool) : (x.wp n v).pendOvf = x.pendOvf := by unfold wp; split <;> rfl
@[simp] theorem wp_pendTimer (x : Slot) (n : BitVec 3) (v : Bool) : (x.wp n v).pendTimer = x.pendTimer := by unfold wp; split <;> rfl
@[simp] theorem wp_cWait (x : Slot) (n : BitVec 3) (v : Bool) : (x.wp n v).cWait = x.cWait := by unfold wp; split <;> rfl
@[simp] theorem wp_aWait (x : Slot) (n : BitVec 3) (v : Bool) : (x.wp n v).aWait = x.aWait := by unfold wp; split <;> rfl
@[simp] theorem wp_cont (x : Slot) (n : BitVec 3) (v : Bool) : (x.wp n v).cont = x.cont := by unfold wp; split <;> rfl
@[simp] theorem wp_fate (x : Slot) (n : BitVec 3) (v : Bool) : (x.wp n v).fate = x.fate := by unfold wp; split <;> rfl
@[simp] theorem wp_raised (x : Slot) (n : BitVec 3) (v : Bool) : (x.wp n v).raised = x.raised := by unfold wp; split <;> rfl
@[simp] theorem wp_prior (x : Slot) (n : BitVec 3) (v : Bool) : (x.wp n v).prior = x.prior := by unfold wp; split <;> rfl
@[simp] theorem wp_arrived (x : Slot) (n : BitVec 3) (v : Bool) : (x.wp n v).arrived = x.arrived := by unfold wp; split <;> rfl
@[simp] theorem wp_served (x : Slot) (n : BitVec 3) (v : Bool) : (x.wp n v).served = x.served := by unfold wp; split <;> rfl
@[simp] theorem wp_replay (x : Slot) (n : BitVec 3) (v : Bool) : (x.wp n v).replay = x.replay := by unfold wp; split <;> rfl
@[simp] theorem wp_noMig (x : Slot) (n : BitVec 3) (v : Bool) : (x.wp n v).noMig = x.noMig := by unfold wp; split <;> rfl
@[simp] theorem wp_stop (x : Slot) (n : BitVec 3) (v : Bool) : (x.wp n v).stop = x.stop := by unfold wp; split <;> rfl
@[simp] theorem wp_steal (x : Slot) (n : BitVec 3) (v : Bool) : (x.wp n v).steal = x.steal := by unfold wp; split <;> rfl
@[simp] theorem wp_owed (x : Slot) (n : BitVec 3) (v : Bool) : (x.wp n v).owed = x.owed := by unfold wp; split <;> rfl
@[simp] theorem wp_tabs (x : Slot) (n : BitVec 3) (v : Bool) : (x.wp n v).tabs = x.tabs := by unfold wp; split <;> rfl
@[simp] theorem wp_matched (x : Slot) (n : BitVec 3) (v : Bool) : (x.wp n v).matched = x.matched := by unfold wp; split <;> rfl
@[simp] theorem wp_dtld (x : Slot) (n : BitVec 3) (v : Bool) : (x.wp n v).dtld = x.dtld := by unfold wp; split <;> rfl
@[simp] theorem wp_claim (x : Slot) (n : BitVec 3) (v : Bool) : (x.wp n v).claim = x.claim := by unfold wp; split <;> rfl

/-- Writing `g0` has no effect (R5). -/
@[simp] theorem wg_zero (x : Slot) (v : Word) : x.wg 0 v = x := rfl
/-- A general register holds what was written. -/
theorem wg_self (x : Slot) {d : BitVec 6} (v : Word) (h : d ≠ 0) : (x.wg d v).g[d.toNat] = v := by
  unfold wg; rw [if_neg h]; simp
/-- Every other general register stands. -/
theorem wg_ne (x : Slot) (d : BitVec 6) (v : Word) {n : Nat} (hn : n < 64) (h : n ≠ d.toNat) :
    (x.wg d v).g[n] = x.g[n] := by
  unfold wg
  split
  · rfl
  · simp [h.symm]
/-- Writing `p0` has no effect (R5). -/
@[simp] theorem wp_zero (x : Slot) (v : Bool) : x.wp 0 v = x := rfl

end Sys2Proof.Machine.Slot

namespace Sys2Proof.Machine.State

section Fields

@[simp] theorem setCore_fused (s : State) (c : Nat) (k : Core) : (s.setCore c k).fused = s.fused := rfl
@[simp] theorem setCore_cur (s : State) (c : Nat) (k : Core) : (s.setCore c k).cur = s.cur := rfl
@[simp] theorem setCore_issuing (s : State) (c : Nat) (k : Core) : (s.setCore c k).issuing = s.issuing := rfl
@[simp] theorem setCore_turn (s : State) (c : Nat) (k : Core) : (s.setCore c k).turn = s.turn := rfl
@[simp] theorem setCore_agenda (s : State) (c : Nat) (k : Core) : (s.setCore c k).agenda = s.agenda := rfl
@[simp] theorem setCore_free (s : State) (c : Nat) (k : Core) : (s.setCore c k).free = s.free := rfl
@[simp] theorem setCore_tick (s : State) (c : Nat) (k : Core) : (s.setCore c k).tick = s.tick := rfl
@[simp] theorem setCore_clusters (s : State) (c : Nat) (k : Core) : (s.setCore c k).clusters = s.clusters := rfl
@[simp] theorem setCore_slices (s : State) (c : Nat) (k : Core) : (s.setCore c k).slices = s.slices := rfl
@[simp] theorem setCore_reqs (s : State) (c : Nat) (k : Core) : (s.setCore c k).reqs = s.reqs := rfl
@[simp] theorem setCore_nextReq (s : State) (c : Nat) (k : Core) : (s.setCore c k).nextReq = s.nextReq := rfl
@[simp] theorem setCore_mem (s : State) (c : Nat) (k : Core) : (s.setCore c k).mem = s.mem := rfl
@[simp] theorem setCore_behind (s : State) (c : Nat) (k : Core) : (s.setCore c k).behind = s.behind := rfl
@[simp] theorem setCore_marks (s : State) (c : Nat) (k : Core) : (s.setCore c k).marks = s.marks := rfl
@[simp] theorem setCore_poison (s : State) (c : Nat) (k : Core) : (s.setCore c k).poison = s.poison := rfl
@[simp] theorem setCore_hbmPoison (s : State) (c : Nat) (k : Core) : (s.setCore c k).hbmPoison = s.hbmPoison := rfl
@[simp] theorem setCore_chan (s : State) (c : Nat) (k : Core) : (s.setCore c k).chan = s.chan := rfl
@[simp] theorem setCore_chanFull (s : State) (c : Nat) (k : Core) : (s.setCore c k).chanFull = s.chanFull := rfl
@[simp] theorem setCore_migs (s : State) (c : Nat) (k : Core) : (s.setCore c k).migs = s.migs := rfl
@[simp] theorem setCore_xfers (s : State) (c : Nat) (k : Core) : (s.setCore c k).xfers = s.xfers := rfl
@[simp] theorem setCore_cids (s : State) (c : Nat) (k : Core) : (s.setCore c k).cids = s.cids := rfl
@[simp] theorem setCore_toggles (s : State) (c : Nat) (k : Core) : (s.setCore c k).toggles = s.toggles := rfl
@[simp] theorem setCore_counts (s : State) (c : Nat) (k : Core) : (s.setCore c k).counts = s.counts := rfl
@[simp] theorem setCore_badParity (s : State) (c : Nat) (k : Core) : (s.setCore c k).badParity = s.badParity := rfl
@[simp] theorem setCore_tokens (s : State) (c : Nat) (k : Core) : (s.setCore c k).tokens = s.tokens := rfl
@[simp] theorem setCore_nextTok (s : State) (c : Nat) (k : Core) : (s.setCore c k).nextTok = s.nextTok := rfl
@[simp] theorem setCore_pops (s : State) (c : Nat) (k : Core) : (s.setCore c k).pops = s.pops := rfl
@[simp] theorem setCore_nextPop (s : State) (c : Nat) (k : Core) : (s.setCore c k).nextPop = s.nextPop := rfl
@[simp] theorem setCore_parts (s : State) (c : Nat) (k : Core) : (s.setCore c k).parts = s.parts := rfl
@[simp] theorem setCore_vfs (s : State) (c : Nat) (k : Core) : (s.setCore c k).vfs = s.vfs := rfl
@[simp] theorem setCore_queues (s : State) (c : Nat) (k : Core) : (s.setCore c k).queues = s.queues := rfl
@[simp] theorem setCore_nextQueue (s : State) (c : Nat) (k : Core) : (s.setCore c k).nextQueue = s.nextQueue := rfl
@[simp] theorem setCore_stackA (s : State) (c : Nat) (k : Core) : (s.setCore c k).stackA = s.stackA := rfl
@[simp] theorem setCore_stackB (s : State) (c : Nat) (k : Core) : (s.setCore c k).stackB = s.stackB := rfl
@[simp] theorem setCore_unsent (s : State) (c : Nat) (k : Core) : (s.setCore c k).unsent = s.unsent := rfl
@[simp] theorem setCore_images (s : State) (c : Nat) (k : Core) : (s.setCore c k).images = s.images := rfl
@[simp] theorem setCore_cfgs (s : State) (c : Nat) (k : Core) : (s.setCore c k).cfgs = s.cfgs := rfl
@[simp] theorem setCore_fuseMin (s : State) (c : Nat) (k : Core) : (s.setCore c k).fuseMin = s.fuseMin := rfl
@[simp] theorem setCore_meas1 (s : State) (c : Nat) (k : Core) : (s.setCore c k).meas1 = s.meas1 := rfl
@[simp] theorem setCore_meas2 (s : State) (c : Nat) (k : Core) : (s.setCore c k).meas2 = s.meas2 := rfl
@[simp] theorem setCore_windows (s : State) (c : Nat) (k : Core) : (s.setCore c k).windows = s.windows := rfl
@[simp] theorem setCore_farPorts (s : State) (c : Nat) (k : Core) : (s.setCore c k).farPorts = s.farPorts := rfl
@[simp] theorem setCore_uports (s : State) (c : Nat) (k : Core) : (s.setCore c k).uports = s.uports := rfl
@[simp] theorem setCore_peerOps (s : State) (c : Nat) (k : Core) : (s.setCore c k).peerOps = s.peerOps := rfl
@[simp] theorem setCore_nextPeer (s : State) (c : Nat) (k : Core) : (s.setCore c k).nextPeer = s.nextPeer := rfl
@[simp] theorem setCore_heldOps (s : State) (c : Nat) (k : Core) : (s.setCore c k).heldOps = s.heldOps := rfl
@[simp] theorem setCore_reports (s : State) (c : Nat) (k : Core) : (s.setCore c k).reports = s.reports := rfl
@[simp] theorem setCore_errorLog (s : State) (c : Nat) (k : Core) : (s.setCore c k).errorLog = s.errorLog := rfl
@[simp] theorem setCore_pcap (s : State) (c : Nat) (k : Core) : (s.setCore c k).pcap = s.pcap := rfl
@[simp] theorem setCore_stretch (s : State) (c : Nat) (k : Core) : (s.setCore c k).stretch = s.stretch := rfl
@[simp] theorem setCore_temps (s : State) (c : Nat) (k : Core) : (s.setCore c k).temps = s.temps := rfl
@[simp] theorem setCore_doubleRefresh (s : State) (c : Nat) (k : Core) : (s.setCore c k).doubleRefresh = s.doubleRefresh := rfl
@[simp] theorem setCore_on (s : State) (c : Nat) (k : Core) : (s.setCore c k).on = s.on := rfl
@[simp] theorem setCore_secver (s : State) (c : Nat) (k : Core) : (s.setCore c k).secver = s.secver := rfl

@[simp] theorem updCore_fused (s : State) (c : Nat) (f : Core → Core) : (s.updCore c f).fused = s.fused := rfl
@[simp] theorem updCore_cur (s : State) (c : Nat) (f : Core → Core) : (s.updCore c f).cur = s.cur := rfl
@[simp] theorem updCore_issuing (s : State) (c : Nat) (f : Core → Core) : (s.updCore c f).issuing = s.issuing := rfl
@[simp] theorem updCore_turn (s : State) (c : Nat) (f : Core → Core) : (s.updCore c f).turn = s.turn := rfl
@[simp] theorem updCore_agenda (s : State) (c : Nat) (f : Core → Core) : (s.updCore c f).agenda = s.agenda := rfl
@[simp] theorem updCore_free (s : State) (c : Nat) (f : Core → Core) : (s.updCore c f).free = s.free := rfl
@[simp] theorem updCore_tick (s : State) (c : Nat) (f : Core → Core) : (s.updCore c f).tick = s.tick := rfl
@[simp] theorem updCore_clusters (s : State) (c : Nat) (f : Core → Core) : (s.updCore c f).clusters = s.clusters := rfl
@[simp] theorem updCore_slices (s : State) (c : Nat) (f : Core → Core) : (s.updCore c f).slices = s.slices := rfl
@[simp] theorem updCore_reqs (s : State) (c : Nat) (f : Core → Core) : (s.updCore c f).reqs = s.reqs := rfl
@[simp] theorem updCore_nextReq (s : State) (c : Nat) (f : Core → Core) : (s.updCore c f).nextReq = s.nextReq := rfl
@[simp] theorem updCore_mem (s : State) (c : Nat) (f : Core → Core) : (s.updCore c f).mem = s.mem := rfl
@[simp] theorem updCore_behind (s : State) (c : Nat) (f : Core → Core) : (s.updCore c f).behind = s.behind := rfl
@[simp] theorem updCore_marks (s : State) (c : Nat) (f : Core → Core) : (s.updCore c f).marks = s.marks := rfl
@[simp] theorem updCore_poison (s : State) (c : Nat) (f : Core → Core) : (s.updCore c f).poison = s.poison := rfl
@[simp] theorem updCore_hbmPoison (s : State) (c : Nat) (f : Core → Core) : (s.updCore c f).hbmPoison = s.hbmPoison := rfl
@[simp] theorem updCore_chan (s : State) (c : Nat) (f : Core → Core) : (s.updCore c f).chan = s.chan := rfl
@[simp] theorem updCore_chanFull (s : State) (c : Nat) (f : Core → Core) : (s.updCore c f).chanFull = s.chanFull := rfl
@[simp] theorem updCore_migs (s : State) (c : Nat) (f : Core → Core) : (s.updCore c f).migs = s.migs := rfl
@[simp] theorem updCore_xfers (s : State) (c : Nat) (f : Core → Core) : (s.updCore c f).xfers = s.xfers := rfl
@[simp] theorem updCore_cids (s : State) (c : Nat) (f : Core → Core) : (s.updCore c f).cids = s.cids := rfl
@[simp] theorem updCore_toggles (s : State) (c : Nat) (f : Core → Core) : (s.updCore c f).toggles = s.toggles := rfl
@[simp] theorem updCore_counts (s : State) (c : Nat) (f : Core → Core) : (s.updCore c f).counts = s.counts := rfl
@[simp] theorem updCore_badParity (s : State) (c : Nat) (f : Core → Core) : (s.updCore c f).badParity = s.badParity := rfl
@[simp] theorem updCore_tokens (s : State) (c : Nat) (f : Core → Core) : (s.updCore c f).tokens = s.tokens := rfl
@[simp] theorem updCore_nextTok (s : State) (c : Nat) (f : Core → Core) : (s.updCore c f).nextTok = s.nextTok := rfl
@[simp] theorem updCore_pops (s : State) (c : Nat) (f : Core → Core) : (s.updCore c f).pops = s.pops := rfl
@[simp] theorem updCore_nextPop (s : State) (c : Nat) (f : Core → Core) : (s.updCore c f).nextPop = s.nextPop := rfl
@[simp] theorem updCore_parts (s : State) (c : Nat) (f : Core → Core) : (s.updCore c f).parts = s.parts := rfl
@[simp] theorem updCore_vfs (s : State) (c : Nat) (f : Core → Core) : (s.updCore c f).vfs = s.vfs := rfl
@[simp] theorem updCore_queues (s : State) (c : Nat) (f : Core → Core) : (s.updCore c f).queues = s.queues := rfl
@[simp] theorem updCore_nextQueue (s : State) (c : Nat) (f : Core → Core) : (s.updCore c f).nextQueue = s.nextQueue := rfl
@[simp] theorem updCore_stackA (s : State) (c : Nat) (f : Core → Core) : (s.updCore c f).stackA = s.stackA := rfl
@[simp] theorem updCore_stackB (s : State) (c : Nat) (f : Core → Core) : (s.updCore c f).stackB = s.stackB := rfl
@[simp] theorem updCore_unsent (s : State) (c : Nat) (f : Core → Core) : (s.updCore c f).unsent = s.unsent := rfl
@[simp] theorem updCore_images (s : State) (c : Nat) (f : Core → Core) : (s.updCore c f).images = s.images := rfl
@[simp] theorem updCore_cfgs (s : State) (c : Nat) (f : Core → Core) : (s.updCore c f).cfgs = s.cfgs := rfl
@[simp] theorem updCore_fuseMin (s : State) (c : Nat) (f : Core → Core) : (s.updCore c f).fuseMin = s.fuseMin := rfl
@[simp] theorem updCore_meas1 (s : State) (c : Nat) (f : Core → Core) : (s.updCore c f).meas1 = s.meas1 := rfl
@[simp] theorem updCore_meas2 (s : State) (c : Nat) (f : Core → Core) : (s.updCore c f).meas2 = s.meas2 := rfl
@[simp] theorem updCore_windows (s : State) (c : Nat) (f : Core → Core) : (s.updCore c f).windows = s.windows := rfl
@[simp] theorem updCore_farPorts (s : State) (c : Nat) (f : Core → Core) : (s.updCore c f).farPorts = s.farPorts := rfl
@[simp] theorem updCore_uports (s : State) (c : Nat) (f : Core → Core) : (s.updCore c f).uports = s.uports := rfl
@[simp] theorem updCore_peerOps (s : State) (c : Nat) (f : Core → Core) : (s.updCore c f).peerOps = s.peerOps := rfl
@[simp] theorem updCore_nextPeer (s : State) (c : Nat) (f : Core → Core) : (s.updCore c f).nextPeer = s.nextPeer := rfl
@[simp] theorem updCore_heldOps (s : State) (c : Nat) (f : Core → Core) : (s.updCore c f).heldOps = s.heldOps := rfl
@[simp] theorem updCore_reports (s : State) (c : Nat) (f : Core → Core) : (s.updCore c f).reports = s.reports := rfl
@[simp] theorem updCore_errorLog (s : State) (c : Nat) (f : Core → Core) : (s.updCore c f).errorLog = s.errorLog := rfl
@[simp] theorem updCore_pcap (s : State) (c : Nat) (f : Core → Core) : (s.updCore c f).pcap = s.pcap := rfl
@[simp] theorem updCore_stretch (s : State) (c : Nat) (f : Core → Core) : (s.updCore c f).stretch = s.stretch := rfl
@[simp] theorem updCore_temps (s : State) (c : Nat) (f : Core → Core) : (s.updCore c f).temps = s.temps := rfl
@[simp] theorem updCore_doubleRefresh (s : State) (c : Nat) (f : Core → Core) : (s.updCore c f).doubleRefresh = s.doubleRefresh := rfl
@[simp] theorem updCore_on (s : State) (c : Nat) (f : Core → Core) : (s.updCore c f).on = s.on := rfl
@[simp] theorem updCore_secver (s : State) (c : Nat) (f : Core → Core) : (s.updCore c f).secver = s.secver := rfl

@[simp] theorem updCvf_fused (s : State) (c : Nat) (f : CoreVf → CoreVf) : (s.updCvf c f).fused = s.fused := rfl
@[simp] theorem updCvf_cur (s : State) (c : Nat) (f : CoreVf → CoreVf) : (s.updCvf c f).cur = s.cur := rfl
@[simp] theorem updCvf_issuing (s : State) (c : Nat) (f : CoreVf → CoreVf) : (s.updCvf c f).issuing = s.issuing := rfl
@[simp] theorem updCvf_turn (s : State) (c : Nat) (f : CoreVf → CoreVf) : (s.updCvf c f).turn = s.turn := rfl
@[simp] theorem updCvf_agenda (s : State) (c : Nat) (f : CoreVf → CoreVf) : (s.updCvf c f).agenda = s.agenda := rfl
@[simp] theorem updCvf_free (s : State) (c : Nat) (f : CoreVf → CoreVf) : (s.updCvf c f).free = s.free := rfl
@[simp] theorem updCvf_tick (s : State) (c : Nat) (f : CoreVf → CoreVf) : (s.updCvf c f).tick = s.tick := rfl
@[simp] theorem updCvf_clusters (s : State) (c : Nat) (f : CoreVf → CoreVf) : (s.updCvf c f).clusters = s.clusters := rfl
@[simp] theorem updCvf_slices (s : State) (c : Nat) (f : CoreVf → CoreVf) : (s.updCvf c f).slices = s.slices := rfl
@[simp] theorem updCvf_reqs (s : State) (c : Nat) (f : CoreVf → CoreVf) : (s.updCvf c f).reqs = s.reqs := rfl
@[simp] theorem updCvf_nextReq (s : State) (c : Nat) (f : CoreVf → CoreVf) : (s.updCvf c f).nextReq = s.nextReq := rfl
@[simp] theorem updCvf_mem (s : State) (c : Nat) (f : CoreVf → CoreVf) : (s.updCvf c f).mem = s.mem := rfl
@[simp] theorem updCvf_behind (s : State) (c : Nat) (f : CoreVf → CoreVf) : (s.updCvf c f).behind = s.behind := rfl
@[simp] theorem updCvf_marks (s : State) (c : Nat) (f : CoreVf → CoreVf) : (s.updCvf c f).marks = s.marks := rfl
@[simp] theorem updCvf_poison (s : State) (c : Nat) (f : CoreVf → CoreVf) : (s.updCvf c f).poison = s.poison := rfl
@[simp] theorem updCvf_hbmPoison (s : State) (c : Nat) (f : CoreVf → CoreVf) : (s.updCvf c f).hbmPoison = s.hbmPoison := rfl
@[simp] theorem updCvf_chan (s : State) (c : Nat) (f : CoreVf → CoreVf) : (s.updCvf c f).chan = s.chan := rfl
@[simp] theorem updCvf_chanFull (s : State) (c : Nat) (f : CoreVf → CoreVf) : (s.updCvf c f).chanFull = s.chanFull := rfl
@[simp] theorem updCvf_migs (s : State) (c : Nat) (f : CoreVf → CoreVf) : (s.updCvf c f).migs = s.migs := rfl
@[simp] theorem updCvf_xfers (s : State) (c : Nat) (f : CoreVf → CoreVf) : (s.updCvf c f).xfers = s.xfers := rfl
@[simp] theorem updCvf_cids (s : State) (c : Nat) (f : CoreVf → CoreVf) : (s.updCvf c f).cids = s.cids := rfl
@[simp] theorem updCvf_toggles (s : State) (c : Nat) (f : CoreVf → CoreVf) : (s.updCvf c f).toggles = s.toggles := rfl
@[simp] theorem updCvf_counts (s : State) (c : Nat) (f : CoreVf → CoreVf) : (s.updCvf c f).counts = s.counts := rfl
@[simp] theorem updCvf_badParity (s : State) (c : Nat) (f : CoreVf → CoreVf) : (s.updCvf c f).badParity = s.badParity := rfl
@[simp] theorem updCvf_tokens (s : State) (c : Nat) (f : CoreVf → CoreVf) : (s.updCvf c f).tokens = s.tokens := rfl
@[simp] theorem updCvf_nextTok (s : State) (c : Nat) (f : CoreVf → CoreVf) : (s.updCvf c f).nextTok = s.nextTok := rfl
@[simp] theorem updCvf_pops (s : State) (c : Nat) (f : CoreVf → CoreVf) : (s.updCvf c f).pops = s.pops := rfl
@[simp] theorem updCvf_nextPop (s : State) (c : Nat) (f : CoreVf → CoreVf) : (s.updCvf c f).nextPop = s.nextPop := rfl
@[simp] theorem updCvf_parts (s : State) (c : Nat) (f : CoreVf → CoreVf) : (s.updCvf c f).parts = s.parts := rfl
@[simp] theorem updCvf_vfs (s : State) (c : Nat) (f : CoreVf → CoreVf) : (s.updCvf c f).vfs = s.vfs := rfl
@[simp] theorem updCvf_queues (s : State) (c : Nat) (f : CoreVf → CoreVf) : (s.updCvf c f).queues = s.queues := rfl
@[simp] theorem updCvf_nextQueue (s : State) (c : Nat) (f : CoreVf → CoreVf) : (s.updCvf c f).nextQueue = s.nextQueue := rfl
@[simp] theorem updCvf_stackA (s : State) (c : Nat) (f : CoreVf → CoreVf) : (s.updCvf c f).stackA = s.stackA := rfl
@[simp] theorem updCvf_stackB (s : State) (c : Nat) (f : CoreVf → CoreVf) : (s.updCvf c f).stackB = s.stackB := rfl
@[simp] theorem updCvf_unsent (s : State) (c : Nat) (f : CoreVf → CoreVf) : (s.updCvf c f).unsent = s.unsent := rfl
@[simp] theorem updCvf_images (s : State) (c : Nat) (f : CoreVf → CoreVf) : (s.updCvf c f).images = s.images := rfl
@[simp] theorem updCvf_cfgs (s : State) (c : Nat) (f : CoreVf → CoreVf) : (s.updCvf c f).cfgs = s.cfgs := rfl
@[simp] theorem updCvf_fuseMin (s : State) (c : Nat) (f : CoreVf → CoreVf) : (s.updCvf c f).fuseMin = s.fuseMin := rfl
@[simp] theorem updCvf_meas1 (s : State) (c : Nat) (f : CoreVf → CoreVf) : (s.updCvf c f).meas1 = s.meas1 := rfl
@[simp] theorem updCvf_meas2 (s : State) (c : Nat) (f : CoreVf → CoreVf) : (s.updCvf c f).meas2 = s.meas2 := rfl
@[simp] theorem updCvf_windows (s : State) (c : Nat) (f : CoreVf → CoreVf) : (s.updCvf c f).windows = s.windows := rfl
@[simp] theorem updCvf_farPorts (s : State) (c : Nat) (f : CoreVf → CoreVf) : (s.updCvf c f).farPorts = s.farPorts := rfl
@[simp] theorem updCvf_uports (s : State) (c : Nat) (f : CoreVf → CoreVf) : (s.updCvf c f).uports = s.uports := rfl
@[simp] theorem updCvf_peerOps (s : State) (c : Nat) (f : CoreVf → CoreVf) : (s.updCvf c f).peerOps = s.peerOps := rfl
@[simp] theorem updCvf_nextPeer (s : State) (c : Nat) (f : CoreVf → CoreVf) : (s.updCvf c f).nextPeer = s.nextPeer := rfl
@[simp] theorem updCvf_heldOps (s : State) (c : Nat) (f : CoreVf → CoreVf) : (s.updCvf c f).heldOps = s.heldOps := rfl
@[simp] theorem updCvf_reports (s : State) (c : Nat) (f : CoreVf → CoreVf) : (s.updCvf c f).reports = s.reports := rfl
@[simp] theorem updCvf_errorLog (s : State) (c : Nat) (f : CoreVf → CoreVf) : (s.updCvf c f).errorLog = s.errorLog := rfl
@[simp] theorem updCvf_pcap (s : State) (c : Nat) (f : CoreVf → CoreVf) : (s.updCvf c f).pcap = s.pcap := rfl
@[simp] theorem updCvf_stretch (s : State) (c : Nat) (f : CoreVf → CoreVf) : (s.updCvf c f).stretch = s.stretch := rfl
@[simp] theorem updCvf_temps (s : State) (c : Nat) (f : CoreVf → CoreVf) : (s.updCvf c f).temps = s.temps := rfl
@[simp] theorem updCvf_doubleRefresh (s : State) (c : Nat) (f : CoreVf → CoreVf) : (s.updCvf c f).doubleRefresh = s.doubleRefresh := rfl
@[simp] theorem updCvf_on (s : State) (c : Nat) (f : CoreVf → CoreVf) : (s.updCvf c f).on = s.on := rfl
@[simp] theorem updCvf_secver (s : State) (c : Nat) (f : CoreVf → CoreVf) : (s.updCvf c f).secver = s.secver := rfl

@[simp] theorem setSlot_fused (s : State) (c n : Nat) (x : Slot) : (s.setSlot c n x).fused = s.fused := rfl
@[simp] theorem setSlot_cur (s : State) (c n : Nat) (x : Slot) : (s.setSlot c n x).cur = s.cur := rfl
@[simp] theorem setSlot_issuing (s : State) (c n : Nat) (x : Slot) : (s.setSlot c n x).issuing = s.issuing := rfl
@[simp] theorem setSlot_turn (s : State) (c n : Nat) (x : Slot) : (s.setSlot c n x).turn = s.turn := rfl
@[simp] theorem setSlot_agenda (s : State) (c n : Nat) (x : Slot) : (s.setSlot c n x).agenda = s.agenda := rfl
@[simp] theorem setSlot_free (s : State) (c n : Nat) (x : Slot) : (s.setSlot c n x).free = s.free := rfl
@[simp] theorem setSlot_tick (s : State) (c n : Nat) (x : Slot) : (s.setSlot c n x).tick = s.tick := rfl
@[simp] theorem setSlot_clusters (s : State) (c n : Nat) (x : Slot) : (s.setSlot c n x).clusters = s.clusters := rfl
@[simp] theorem setSlot_slices (s : State) (c n : Nat) (x : Slot) : (s.setSlot c n x).slices = s.slices := rfl
@[simp] theorem setSlot_reqs (s : State) (c n : Nat) (x : Slot) : (s.setSlot c n x).reqs = s.reqs := rfl
@[simp] theorem setSlot_nextReq (s : State) (c n : Nat) (x : Slot) : (s.setSlot c n x).nextReq = s.nextReq := rfl
@[simp] theorem setSlot_mem (s : State) (c n : Nat) (x : Slot) : (s.setSlot c n x).mem = s.mem := rfl
@[simp] theorem setSlot_behind (s : State) (c n : Nat) (x : Slot) : (s.setSlot c n x).behind = s.behind := rfl
@[simp] theorem setSlot_marks (s : State) (c n : Nat) (x : Slot) : (s.setSlot c n x).marks = s.marks := rfl
@[simp] theorem setSlot_poison (s : State) (c n : Nat) (x : Slot) : (s.setSlot c n x).poison = s.poison := rfl
@[simp] theorem setSlot_hbmPoison (s : State) (c n : Nat) (x : Slot) : (s.setSlot c n x).hbmPoison = s.hbmPoison := rfl
@[simp] theorem setSlot_chan (s : State) (c n : Nat) (x : Slot) : (s.setSlot c n x).chan = s.chan := rfl
@[simp] theorem setSlot_chanFull (s : State) (c n : Nat) (x : Slot) : (s.setSlot c n x).chanFull = s.chanFull := rfl
@[simp] theorem setSlot_migs (s : State) (c n : Nat) (x : Slot) : (s.setSlot c n x).migs = s.migs := rfl
@[simp] theorem setSlot_xfers (s : State) (c n : Nat) (x : Slot) : (s.setSlot c n x).xfers = s.xfers := rfl
@[simp] theorem setSlot_cids (s : State) (c n : Nat) (x : Slot) : (s.setSlot c n x).cids = s.cids := rfl
@[simp] theorem setSlot_toggles (s : State) (c n : Nat) (x : Slot) : (s.setSlot c n x).toggles = s.toggles := rfl
@[simp] theorem setSlot_counts (s : State) (c n : Nat) (x : Slot) : (s.setSlot c n x).counts = s.counts := rfl
@[simp] theorem setSlot_badParity (s : State) (c n : Nat) (x : Slot) : (s.setSlot c n x).badParity = s.badParity := rfl
@[simp] theorem setSlot_tokens (s : State) (c n : Nat) (x : Slot) : (s.setSlot c n x).tokens = s.tokens := rfl
@[simp] theorem setSlot_nextTok (s : State) (c n : Nat) (x : Slot) : (s.setSlot c n x).nextTok = s.nextTok := rfl
@[simp] theorem setSlot_pops (s : State) (c n : Nat) (x : Slot) : (s.setSlot c n x).pops = s.pops := rfl
@[simp] theorem setSlot_nextPop (s : State) (c n : Nat) (x : Slot) : (s.setSlot c n x).nextPop = s.nextPop := rfl
@[simp] theorem setSlot_parts (s : State) (c n : Nat) (x : Slot) : (s.setSlot c n x).parts = s.parts := rfl
@[simp] theorem setSlot_vfs (s : State) (c n : Nat) (x : Slot) : (s.setSlot c n x).vfs = s.vfs := rfl
@[simp] theorem setSlot_queues (s : State) (c n : Nat) (x : Slot) : (s.setSlot c n x).queues = s.queues := rfl
@[simp] theorem setSlot_nextQueue (s : State) (c n : Nat) (x : Slot) : (s.setSlot c n x).nextQueue = s.nextQueue := rfl
@[simp] theorem setSlot_stackA (s : State) (c n : Nat) (x : Slot) : (s.setSlot c n x).stackA = s.stackA := rfl
@[simp] theorem setSlot_stackB (s : State) (c n : Nat) (x : Slot) : (s.setSlot c n x).stackB = s.stackB := rfl
@[simp] theorem setSlot_unsent (s : State) (c n : Nat) (x : Slot) : (s.setSlot c n x).unsent = s.unsent := rfl
@[simp] theorem setSlot_images (s : State) (c n : Nat) (x : Slot) : (s.setSlot c n x).images = s.images := rfl
@[simp] theorem setSlot_cfgs (s : State) (c n : Nat) (x : Slot) : (s.setSlot c n x).cfgs = s.cfgs := rfl
@[simp] theorem setSlot_fuseMin (s : State) (c n : Nat) (x : Slot) : (s.setSlot c n x).fuseMin = s.fuseMin := rfl
@[simp] theorem setSlot_meas1 (s : State) (c n : Nat) (x : Slot) : (s.setSlot c n x).meas1 = s.meas1 := rfl
@[simp] theorem setSlot_meas2 (s : State) (c n : Nat) (x : Slot) : (s.setSlot c n x).meas2 = s.meas2 := rfl
@[simp] theorem setSlot_windows (s : State) (c n : Nat) (x : Slot) : (s.setSlot c n x).windows = s.windows := rfl
@[simp] theorem setSlot_farPorts (s : State) (c n : Nat) (x : Slot) : (s.setSlot c n x).farPorts = s.farPorts := rfl
@[simp] theorem setSlot_uports (s : State) (c n : Nat) (x : Slot) : (s.setSlot c n x).uports = s.uports := rfl
@[simp] theorem setSlot_peerOps (s : State) (c n : Nat) (x : Slot) : (s.setSlot c n x).peerOps = s.peerOps := rfl
@[simp] theorem setSlot_nextPeer (s : State) (c n : Nat) (x : Slot) : (s.setSlot c n x).nextPeer = s.nextPeer := rfl
@[simp] theorem setSlot_heldOps (s : State) (c n : Nat) (x : Slot) : (s.setSlot c n x).heldOps = s.heldOps := rfl
@[simp] theorem setSlot_reports (s : State) (c n : Nat) (x : Slot) : (s.setSlot c n x).reports = s.reports := rfl
@[simp] theorem setSlot_errorLog (s : State) (c n : Nat) (x : Slot) : (s.setSlot c n x).errorLog = s.errorLog := rfl
@[simp] theorem setSlot_pcap (s : State) (c n : Nat) (x : Slot) : (s.setSlot c n x).pcap = s.pcap := rfl
@[simp] theorem setSlot_stretch (s : State) (c n : Nat) (x : Slot) : (s.setSlot c n x).stretch = s.stretch := rfl
@[simp] theorem setSlot_temps (s : State) (c n : Nat) (x : Slot) : (s.setSlot c n x).temps = s.temps := rfl
@[simp] theorem setSlot_doubleRefresh (s : State) (c n : Nat) (x : Slot) : (s.setSlot c n x).doubleRefresh = s.doubleRefresh := rfl
@[simp] theorem setSlot_on (s : State) (c n : Nat) (x : Slot) : (s.setSlot c n x).on = s.on := rfl
@[simp] theorem setSlot_secver (s : State) (c n : Nat) (x : Slot) : (s.setSlot c n x).secver = s.secver := rfl

@[simp] theorem updSlot_fused (s : State) (c n : Nat) (f : Slot → Slot) : (s.updSlot c n f).fused = s.fused := rfl
@[simp] theorem updSlot_cur (s : State) (c n : Nat) (f : Slot → Slot) : (s.updSlot c n f).cur = s.cur := rfl
@[simp] theorem updSlot_issuing (s : State) (c n : Nat) (f : Slot → Slot) : (s.updSlot c n f).issuing = s.issuing := rfl
@[simp] theorem updSlot_turn (s : State) (c n : Nat) (f : Slot → Slot) : (s.updSlot c n f).turn = s.turn := rfl
@[simp] theorem updSlot_agenda (s : State) (c n : Nat) (f : Slot → Slot) : (s.updSlot c n f).agenda = s.agenda := rfl
@[simp] theorem updSlot_free (s : State) (c n : Nat) (f : Slot → Slot) : (s.updSlot c n f).free = s.free := rfl
@[simp] theorem updSlot_tick (s : State) (c n : Nat) (f : Slot → Slot) : (s.updSlot c n f).tick = s.tick := rfl
@[simp] theorem updSlot_clusters (s : State) (c n : Nat) (f : Slot → Slot) : (s.updSlot c n f).clusters = s.clusters := rfl
@[simp] theorem updSlot_slices (s : State) (c n : Nat) (f : Slot → Slot) : (s.updSlot c n f).slices = s.slices := rfl
@[simp] theorem updSlot_reqs (s : State) (c n : Nat) (f : Slot → Slot) : (s.updSlot c n f).reqs = s.reqs := rfl
@[simp] theorem updSlot_nextReq (s : State) (c n : Nat) (f : Slot → Slot) : (s.updSlot c n f).nextReq = s.nextReq := rfl
@[simp] theorem updSlot_mem (s : State) (c n : Nat) (f : Slot → Slot) : (s.updSlot c n f).mem = s.mem := rfl
@[simp] theorem updSlot_behind (s : State) (c n : Nat) (f : Slot → Slot) : (s.updSlot c n f).behind = s.behind := rfl
@[simp] theorem updSlot_marks (s : State) (c n : Nat) (f : Slot → Slot) : (s.updSlot c n f).marks = s.marks := rfl
@[simp] theorem updSlot_poison (s : State) (c n : Nat) (f : Slot → Slot) : (s.updSlot c n f).poison = s.poison := rfl
@[simp] theorem updSlot_hbmPoison (s : State) (c n : Nat) (f : Slot → Slot) : (s.updSlot c n f).hbmPoison = s.hbmPoison := rfl
@[simp] theorem updSlot_chan (s : State) (c n : Nat) (f : Slot → Slot) : (s.updSlot c n f).chan = s.chan := rfl
@[simp] theorem updSlot_chanFull (s : State) (c n : Nat) (f : Slot → Slot) : (s.updSlot c n f).chanFull = s.chanFull := rfl
@[simp] theorem updSlot_migs (s : State) (c n : Nat) (f : Slot → Slot) : (s.updSlot c n f).migs = s.migs := rfl
@[simp] theorem updSlot_xfers (s : State) (c n : Nat) (f : Slot → Slot) : (s.updSlot c n f).xfers = s.xfers := rfl
@[simp] theorem updSlot_cids (s : State) (c n : Nat) (f : Slot → Slot) : (s.updSlot c n f).cids = s.cids := rfl
@[simp] theorem updSlot_toggles (s : State) (c n : Nat) (f : Slot → Slot) : (s.updSlot c n f).toggles = s.toggles := rfl
@[simp] theorem updSlot_counts (s : State) (c n : Nat) (f : Slot → Slot) : (s.updSlot c n f).counts = s.counts := rfl
@[simp] theorem updSlot_badParity (s : State) (c n : Nat) (f : Slot → Slot) : (s.updSlot c n f).badParity = s.badParity := rfl
@[simp] theorem updSlot_tokens (s : State) (c n : Nat) (f : Slot → Slot) : (s.updSlot c n f).tokens = s.tokens := rfl
@[simp] theorem updSlot_nextTok (s : State) (c n : Nat) (f : Slot → Slot) : (s.updSlot c n f).nextTok = s.nextTok := rfl
@[simp] theorem updSlot_pops (s : State) (c n : Nat) (f : Slot → Slot) : (s.updSlot c n f).pops = s.pops := rfl
@[simp] theorem updSlot_nextPop (s : State) (c n : Nat) (f : Slot → Slot) : (s.updSlot c n f).nextPop = s.nextPop := rfl
@[simp] theorem updSlot_parts (s : State) (c n : Nat) (f : Slot → Slot) : (s.updSlot c n f).parts = s.parts := rfl
@[simp] theorem updSlot_vfs (s : State) (c n : Nat) (f : Slot → Slot) : (s.updSlot c n f).vfs = s.vfs := rfl
@[simp] theorem updSlot_queues (s : State) (c n : Nat) (f : Slot → Slot) : (s.updSlot c n f).queues = s.queues := rfl
@[simp] theorem updSlot_nextQueue (s : State) (c n : Nat) (f : Slot → Slot) : (s.updSlot c n f).nextQueue = s.nextQueue := rfl
@[simp] theorem updSlot_stackA (s : State) (c n : Nat) (f : Slot → Slot) : (s.updSlot c n f).stackA = s.stackA := rfl
@[simp] theorem updSlot_stackB (s : State) (c n : Nat) (f : Slot → Slot) : (s.updSlot c n f).stackB = s.stackB := rfl
@[simp] theorem updSlot_unsent (s : State) (c n : Nat) (f : Slot → Slot) : (s.updSlot c n f).unsent = s.unsent := rfl
@[simp] theorem updSlot_images (s : State) (c n : Nat) (f : Slot → Slot) : (s.updSlot c n f).images = s.images := rfl
@[simp] theorem updSlot_cfgs (s : State) (c n : Nat) (f : Slot → Slot) : (s.updSlot c n f).cfgs = s.cfgs := rfl
@[simp] theorem updSlot_fuseMin (s : State) (c n : Nat) (f : Slot → Slot) : (s.updSlot c n f).fuseMin = s.fuseMin := rfl
@[simp] theorem updSlot_meas1 (s : State) (c n : Nat) (f : Slot → Slot) : (s.updSlot c n f).meas1 = s.meas1 := rfl
@[simp] theorem updSlot_meas2 (s : State) (c n : Nat) (f : Slot → Slot) : (s.updSlot c n f).meas2 = s.meas2 := rfl
@[simp] theorem updSlot_windows (s : State) (c n : Nat) (f : Slot → Slot) : (s.updSlot c n f).windows = s.windows := rfl
@[simp] theorem updSlot_farPorts (s : State) (c n : Nat) (f : Slot → Slot) : (s.updSlot c n f).farPorts = s.farPorts := rfl
@[simp] theorem updSlot_uports (s : State) (c n : Nat) (f : Slot → Slot) : (s.updSlot c n f).uports = s.uports := rfl
@[simp] theorem updSlot_peerOps (s : State) (c n : Nat) (f : Slot → Slot) : (s.updSlot c n f).peerOps = s.peerOps := rfl
@[simp] theorem updSlot_nextPeer (s : State) (c n : Nat) (f : Slot → Slot) : (s.updSlot c n f).nextPeer = s.nextPeer := rfl
@[simp] theorem updSlot_heldOps (s : State) (c n : Nat) (f : Slot → Slot) : (s.updSlot c n f).heldOps = s.heldOps := rfl
@[simp] theorem updSlot_reports (s : State) (c n : Nat) (f : Slot → Slot) : (s.updSlot c n f).reports = s.reports := rfl
@[simp] theorem updSlot_errorLog (s : State) (c n : Nat) (f : Slot → Slot) : (s.updSlot c n f).errorLog = s.errorLog := rfl
@[simp] theorem updSlot_pcap (s : State) (c n : Nat) (f : Slot → Slot) : (s.updSlot c n f).pcap = s.pcap := rfl
@[simp] theorem updSlot_stretch (s : State) (c n : Nat) (f : Slot → Slot) : (s.updSlot c n f).stretch = s.stretch := rfl
@[simp] theorem updSlot_temps (s : State) (c n : Nat) (f : Slot → Slot) : (s.updSlot c n f).temps = s.temps := rfl
@[simp] theorem updSlot_doubleRefresh (s : State) (c n : Nat) (f : Slot → Slot) : (s.updSlot c n f).doubleRefresh = s.doubleRefresh := rfl
@[simp] theorem updSlot_on (s : State) (c n : Nat) (f : Slot → Slot) : (s.updSlot c n f).on = s.on := rfl
@[simp] theorem updSlot_secver (s : State) (c n : Nat) (f : Slot → Slot) : (s.updSlot c n f).secver = s.secver := rfl

@[simp] theorem updSlotV_fused (s : State) (c v n : Nat) (f : Slot → Slot) : (s.updSlotV c v n f).fused = s.fused := rfl
@[simp] theorem updSlotV_cur (s : State) (c v n : Nat) (f : Slot → Slot) : (s.updSlotV c v n f).cur = s.cur := rfl
@[simp] theorem updSlotV_issuing (s : State) (c v n : Nat) (f : Slot → Slot) : (s.updSlotV c v n f).issuing = s.issuing := rfl
@[simp] theorem updSlotV_turn (s : State) (c v n : Nat) (f : Slot → Slot) : (s.updSlotV c v n f).turn = s.turn := rfl
@[simp] theorem updSlotV_agenda (s : State) (c v n : Nat) (f : Slot → Slot) : (s.updSlotV c v n f).agenda = s.agenda := rfl
@[simp] theorem updSlotV_free (s : State) (c v n : Nat) (f : Slot → Slot) : (s.updSlotV c v n f).free = s.free := rfl
@[simp] theorem updSlotV_tick (s : State) (c v n : Nat) (f : Slot → Slot) : (s.updSlotV c v n f).tick = s.tick := rfl
@[simp] theorem updSlotV_clusters (s : State) (c v n : Nat) (f : Slot → Slot) : (s.updSlotV c v n f).clusters = s.clusters := rfl
@[simp] theorem updSlotV_slices (s : State) (c v n : Nat) (f : Slot → Slot) : (s.updSlotV c v n f).slices = s.slices := rfl
@[simp] theorem updSlotV_reqs (s : State) (c v n : Nat) (f : Slot → Slot) : (s.updSlotV c v n f).reqs = s.reqs := rfl
@[simp] theorem updSlotV_nextReq (s : State) (c v n : Nat) (f : Slot → Slot) : (s.updSlotV c v n f).nextReq = s.nextReq := rfl
@[simp] theorem updSlotV_mem (s : State) (c v n : Nat) (f : Slot → Slot) : (s.updSlotV c v n f).mem = s.mem := rfl
@[simp] theorem updSlotV_behind (s : State) (c v n : Nat) (f : Slot → Slot) : (s.updSlotV c v n f).behind = s.behind := rfl
@[simp] theorem updSlotV_marks (s : State) (c v n : Nat) (f : Slot → Slot) : (s.updSlotV c v n f).marks = s.marks := rfl
@[simp] theorem updSlotV_poison (s : State) (c v n : Nat) (f : Slot → Slot) : (s.updSlotV c v n f).poison = s.poison := rfl
@[simp] theorem updSlotV_hbmPoison (s : State) (c v n : Nat) (f : Slot → Slot) : (s.updSlotV c v n f).hbmPoison = s.hbmPoison := rfl
@[simp] theorem updSlotV_chan (s : State) (c v n : Nat) (f : Slot → Slot) : (s.updSlotV c v n f).chan = s.chan := rfl
@[simp] theorem updSlotV_chanFull (s : State) (c v n : Nat) (f : Slot → Slot) : (s.updSlotV c v n f).chanFull = s.chanFull := rfl
@[simp] theorem updSlotV_migs (s : State) (c v n : Nat) (f : Slot → Slot) : (s.updSlotV c v n f).migs = s.migs := rfl
@[simp] theorem updSlotV_xfers (s : State) (c v n : Nat) (f : Slot → Slot) : (s.updSlotV c v n f).xfers = s.xfers := rfl
@[simp] theorem updSlotV_cids (s : State) (c v n : Nat) (f : Slot → Slot) : (s.updSlotV c v n f).cids = s.cids := rfl
@[simp] theorem updSlotV_toggles (s : State) (c v n : Nat) (f : Slot → Slot) : (s.updSlotV c v n f).toggles = s.toggles := rfl
@[simp] theorem updSlotV_counts (s : State) (c v n : Nat) (f : Slot → Slot) : (s.updSlotV c v n f).counts = s.counts := rfl
@[simp] theorem updSlotV_badParity (s : State) (c v n : Nat) (f : Slot → Slot) : (s.updSlotV c v n f).badParity = s.badParity := rfl
@[simp] theorem updSlotV_tokens (s : State) (c v n : Nat) (f : Slot → Slot) : (s.updSlotV c v n f).tokens = s.tokens := rfl
@[simp] theorem updSlotV_nextTok (s : State) (c v n : Nat) (f : Slot → Slot) : (s.updSlotV c v n f).nextTok = s.nextTok := rfl
@[simp] theorem updSlotV_pops (s : State) (c v n : Nat) (f : Slot → Slot) : (s.updSlotV c v n f).pops = s.pops := rfl
@[simp] theorem updSlotV_nextPop (s : State) (c v n : Nat) (f : Slot → Slot) : (s.updSlotV c v n f).nextPop = s.nextPop := rfl
@[simp] theorem updSlotV_parts (s : State) (c v n : Nat) (f : Slot → Slot) : (s.updSlotV c v n f).parts = s.parts := rfl
@[simp] theorem updSlotV_vfs (s : State) (c v n : Nat) (f : Slot → Slot) : (s.updSlotV c v n f).vfs = s.vfs := rfl
@[simp] theorem updSlotV_queues (s : State) (c v n : Nat) (f : Slot → Slot) : (s.updSlotV c v n f).queues = s.queues := rfl
@[simp] theorem updSlotV_nextQueue (s : State) (c v n : Nat) (f : Slot → Slot) : (s.updSlotV c v n f).nextQueue = s.nextQueue := rfl
@[simp] theorem updSlotV_stackA (s : State) (c v n : Nat) (f : Slot → Slot) : (s.updSlotV c v n f).stackA = s.stackA := rfl
@[simp] theorem updSlotV_stackB (s : State) (c v n : Nat) (f : Slot → Slot) : (s.updSlotV c v n f).stackB = s.stackB := rfl
@[simp] theorem updSlotV_unsent (s : State) (c v n : Nat) (f : Slot → Slot) : (s.updSlotV c v n f).unsent = s.unsent := rfl
@[simp] theorem updSlotV_images (s : State) (c v n : Nat) (f : Slot → Slot) : (s.updSlotV c v n f).images = s.images := rfl
@[simp] theorem updSlotV_cfgs (s : State) (c v n : Nat) (f : Slot → Slot) : (s.updSlotV c v n f).cfgs = s.cfgs := rfl
@[simp] theorem updSlotV_fuseMin (s : State) (c v n : Nat) (f : Slot → Slot) : (s.updSlotV c v n f).fuseMin = s.fuseMin := rfl
@[simp] theorem updSlotV_meas1 (s : State) (c v n : Nat) (f : Slot → Slot) : (s.updSlotV c v n f).meas1 = s.meas1 := rfl
@[simp] theorem updSlotV_meas2 (s : State) (c v n : Nat) (f : Slot → Slot) : (s.updSlotV c v n f).meas2 = s.meas2 := rfl
@[simp] theorem updSlotV_windows (s : State) (c v n : Nat) (f : Slot → Slot) : (s.updSlotV c v n f).windows = s.windows := rfl
@[simp] theorem updSlotV_farPorts (s : State) (c v n : Nat) (f : Slot → Slot) : (s.updSlotV c v n f).farPorts = s.farPorts := rfl
@[simp] theorem updSlotV_uports (s : State) (c v n : Nat) (f : Slot → Slot) : (s.updSlotV c v n f).uports = s.uports := rfl
@[simp] theorem updSlotV_peerOps (s : State) (c v n : Nat) (f : Slot → Slot) : (s.updSlotV c v n f).peerOps = s.peerOps := rfl
@[simp] theorem updSlotV_nextPeer (s : State) (c v n : Nat) (f : Slot → Slot) : (s.updSlotV c v n f).nextPeer = s.nextPeer := rfl
@[simp] theorem updSlotV_heldOps (s : State) (c v n : Nat) (f : Slot → Slot) : (s.updSlotV c v n f).heldOps = s.heldOps := rfl
@[simp] theorem updSlotV_reports (s : State) (c v n : Nat) (f : Slot → Slot) : (s.updSlotV c v n f).reports = s.reports := rfl
@[simp] theorem updSlotV_errorLog (s : State) (c v n : Nat) (f : Slot → Slot) : (s.updSlotV c v n f).errorLog = s.errorLog := rfl
@[simp] theorem updSlotV_pcap (s : State) (c v n : Nat) (f : Slot → Slot) : (s.updSlotV c v n f).pcap = s.pcap := rfl
@[simp] theorem updSlotV_stretch (s : State) (c v n : Nat) (f : Slot → Slot) : (s.updSlotV c v n f).stretch = s.stretch := rfl
@[simp] theorem updSlotV_temps (s : State) (c v n : Nat) (f : Slot → Slot) : (s.updSlotV c v n f).temps = s.temps := rfl
@[simp] theorem updSlotV_doubleRefresh (s : State) (c v n : Nat) (f : Slot → Slot) : (s.updSlotV c v n f).doubleRefresh = s.doubleRefresh := rfl
@[simp] theorem updSlotV_on (s : State) (c v n : Nat) (f : Slot → Slot) : (s.updSlotV c v n f).on = s.on := rfl
@[simp] theorem updSlotV_secver (s : State) (c v n : Nat) (f : Slot → Slot) : (s.updSlotV c v n f).secver = s.secver := rfl

@[simp] theorem updMe_fused (s : State) (f : Slot → Slot) : (s.updMe f).fused = s.fused := rfl
@[simp] theorem updMe_cur (s : State) (f : Slot → Slot) : (s.updMe f).cur = s.cur := rfl
@[simp] theorem updMe_issuing (s : State) (f : Slot → Slot) : (s.updMe f).issuing = s.issuing := rfl
@[simp] theorem updMe_turn (s : State) (f : Slot → Slot) : (s.updMe f).turn = s.turn := rfl
@[simp] theorem updMe_agenda (s : State) (f : Slot → Slot) : (s.updMe f).agenda = s.agenda := rfl
@[simp] theorem updMe_free (s : State) (f : Slot → Slot) : (s.updMe f).free = s.free := rfl
@[simp] theorem updMe_tick (s : State) (f : Slot → Slot) : (s.updMe f).tick = s.tick := rfl
@[simp] theorem updMe_clusters (s : State) (f : Slot → Slot) : (s.updMe f).clusters = s.clusters := rfl
@[simp] theorem updMe_slices (s : State) (f : Slot → Slot) : (s.updMe f).slices = s.slices := rfl
@[simp] theorem updMe_reqs (s : State) (f : Slot → Slot) : (s.updMe f).reqs = s.reqs := rfl
@[simp] theorem updMe_nextReq (s : State) (f : Slot → Slot) : (s.updMe f).nextReq = s.nextReq := rfl
@[simp] theorem updMe_mem (s : State) (f : Slot → Slot) : (s.updMe f).mem = s.mem := rfl
@[simp] theorem updMe_behind (s : State) (f : Slot → Slot) : (s.updMe f).behind = s.behind := rfl
@[simp] theorem updMe_marks (s : State) (f : Slot → Slot) : (s.updMe f).marks = s.marks := rfl
@[simp] theorem updMe_poison (s : State) (f : Slot → Slot) : (s.updMe f).poison = s.poison := rfl
@[simp] theorem updMe_hbmPoison (s : State) (f : Slot → Slot) : (s.updMe f).hbmPoison = s.hbmPoison := rfl
@[simp] theorem updMe_chan (s : State) (f : Slot → Slot) : (s.updMe f).chan = s.chan := rfl
@[simp] theorem updMe_chanFull (s : State) (f : Slot → Slot) : (s.updMe f).chanFull = s.chanFull := rfl
@[simp] theorem updMe_migs (s : State) (f : Slot → Slot) : (s.updMe f).migs = s.migs := rfl
@[simp] theorem updMe_xfers (s : State) (f : Slot → Slot) : (s.updMe f).xfers = s.xfers := rfl
@[simp] theorem updMe_cids (s : State) (f : Slot → Slot) : (s.updMe f).cids = s.cids := rfl
@[simp] theorem updMe_toggles (s : State) (f : Slot → Slot) : (s.updMe f).toggles = s.toggles := rfl
@[simp] theorem updMe_counts (s : State) (f : Slot → Slot) : (s.updMe f).counts = s.counts := rfl
@[simp] theorem updMe_badParity (s : State) (f : Slot → Slot) : (s.updMe f).badParity = s.badParity := rfl
@[simp] theorem updMe_tokens (s : State) (f : Slot → Slot) : (s.updMe f).tokens = s.tokens := rfl
@[simp] theorem updMe_nextTok (s : State) (f : Slot → Slot) : (s.updMe f).nextTok = s.nextTok := rfl
@[simp] theorem updMe_pops (s : State) (f : Slot → Slot) : (s.updMe f).pops = s.pops := rfl
@[simp] theorem updMe_nextPop (s : State) (f : Slot → Slot) : (s.updMe f).nextPop = s.nextPop := rfl
@[simp] theorem updMe_parts (s : State) (f : Slot → Slot) : (s.updMe f).parts = s.parts := rfl
@[simp] theorem updMe_vfs (s : State) (f : Slot → Slot) : (s.updMe f).vfs = s.vfs := rfl
@[simp] theorem updMe_queues (s : State) (f : Slot → Slot) : (s.updMe f).queues = s.queues := rfl
@[simp] theorem updMe_nextQueue (s : State) (f : Slot → Slot) : (s.updMe f).nextQueue = s.nextQueue := rfl
@[simp] theorem updMe_stackA (s : State) (f : Slot → Slot) : (s.updMe f).stackA = s.stackA := rfl
@[simp] theorem updMe_stackB (s : State) (f : Slot → Slot) : (s.updMe f).stackB = s.stackB := rfl
@[simp] theorem updMe_unsent (s : State) (f : Slot → Slot) : (s.updMe f).unsent = s.unsent := rfl
@[simp] theorem updMe_images (s : State) (f : Slot → Slot) : (s.updMe f).images = s.images := rfl
@[simp] theorem updMe_cfgs (s : State) (f : Slot → Slot) : (s.updMe f).cfgs = s.cfgs := rfl
@[simp] theorem updMe_fuseMin (s : State) (f : Slot → Slot) : (s.updMe f).fuseMin = s.fuseMin := rfl
@[simp] theorem updMe_meas1 (s : State) (f : Slot → Slot) : (s.updMe f).meas1 = s.meas1 := rfl
@[simp] theorem updMe_meas2 (s : State) (f : Slot → Slot) : (s.updMe f).meas2 = s.meas2 := rfl
@[simp] theorem updMe_windows (s : State) (f : Slot → Slot) : (s.updMe f).windows = s.windows := rfl
@[simp] theorem updMe_farPorts (s : State) (f : Slot → Slot) : (s.updMe f).farPorts = s.farPorts := rfl
@[simp] theorem updMe_uports (s : State) (f : Slot → Slot) : (s.updMe f).uports = s.uports := rfl
@[simp] theorem updMe_peerOps (s : State) (f : Slot → Slot) : (s.updMe f).peerOps = s.peerOps := rfl
@[simp] theorem updMe_nextPeer (s : State) (f : Slot → Slot) : (s.updMe f).nextPeer = s.nextPeer := rfl
@[simp] theorem updMe_heldOps (s : State) (f : Slot → Slot) : (s.updMe f).heldOps = s.heldOps := rfl
@[simp] theorem updMe_reports (s : State) (f : Slot → Slot) : (s.updMe f).reports = s.reports := rfl
@[simp] theorem updMe_errorLog (s : State) (f : Slot → Slot) : (s.updMe f).errorLog = s.errorLog := rfl
@[simp] theorem updMe_pcap (s : State) (f : Slot → Slot) : (s.updMe f).pcap = s.pcap := rfl
@[simp] theorem updMe_stretch (s : State) (f : Slot → Slot) : (s.updMe f).stretch = s.stretch := rfl
@[simp] theorem updMe_temps (s : State) (f : Slot → Slot) : (s.updMe f).temps = s.temps := rfl
@[simp] theorem updMe_doubleRefresh (s : State) (f : Slot → Slot) : (s.updMe f).doubleRefresh = s.doubleRefresh := rfl
@[simp] theorem updMe_on (s : State) (f : Slot → Slot) : (s.updMe f).on = s.on := rfl
@[simp] theorem updMe_secver (s : State) (f : Slot → Slot) : (s.updMe f).secver = s.secver := rfl

@[simp] theorem wg_fused (s : State) (d : BitVec 6) (v : Word) : (s.wg d v).fused = s.fused := rfl
@[simp] theorem wg_cur (s : State) (d : BitVec 6) (v : Word) : (s.wg d v).cur = s.cur := rfl
@[simp] theorem wg_issuing (s : State) (d : BitVec 6) (v : Word) : (s.wg d v).issuing = s.issuing := rfl
@[simp] theorem wg_turn (s : State) (d : BitVec 6) (v : Word) : (s.wg d v).turn = s.turn := rfl
@[simp] theorem wg_agenda (s : State) (d : BitVec 6) (v : Word) : (s.wg d v).agenda = s.agenda := rfl
@[simp] theorem wg_free (s : State) (d : BitVec 6) (v : Word) : (s.wg d v).free = s.free := rfl
@[simp] theorem wg_tick (s : State) (d : BitVec 6) (v : Word) : (s.wg d v).tick = s.tick := rfl
@[simp] theorem wg_clusters (s : State) (d : BitVec 6) (v : Word) : (s.wg d v).clusters = s.clusters := rfl
@[simp] theorem wg_slices (s : State) (d : BitVec 6) (v : Word) : (s.wg d v).slices = s.slices := rfl
@[simp] theorem wg_reqs (s : State) (d : BitVec 6) (v : Word) : (s.wg d v).reqs = s.reqs := rfl
@[simp] theorem wg_nextReq (s : State) (d : BitVec 6) (v : Word) : (s.wg d v).nextReq = s.nextReq := rfl
@[simp] theorem wg_mem (s : State) (d : BitVec 6) (v : Word) : (s.wg d v).mem = s.mem := rfl
@[simp] theorem wg_behind (s : State) (d : BitVec 6) (v : Word) : (s.wg d v).behind = s.behind := rfl
@[simp] theorem wg_marks (s : State) (d : BitVec 6) (v : Word) : (s.wg d v).marks = s.marks := rfl
@[simp] theorem wg_poison (s : State) (d : BitVec 6) (v : Word) : (s.wg d v).poison = s.poison := rfl
@[simp] theorem wg_hbmPoison (s : State) (d : BitVec 6) (v : Word) : (s.wg d v).hbmPoison = s.hbmPoison := rfl
@[simp] theorem wg_chan (s : State) (d : BitVec 6) (v : Word) : (s.wg d v).chan = s.chan := rfl
@[simp] theorem wg_chanFull (s : State) (d : BitVec 6) (v : Word) : (s.wg d v).chanFull = s.chanFull := rfl
@[simp] theorem wg_migs (s : State) (d : BitVec 6) (v : Word) : (s.wg d v).migs = s.migs := rfl
@[simp] theorem wg_xfers (s : State) (d : BitVec 6) (v : Word) : (s.wg d v).xfers = s.xfers := rfl
@[simp] theorem wg_cids (s : State) (d : BitVec 6) (v : Word) : (s.wg d v).cids = s.cids := rfl
@[simp] theorem wg_toggles (s : State) (d : BitVec 6) (v : Word) : (s.wg d v).toggles = s.toggles := rfl
@[simp] theorem wg_counts (s : State) (d : BitVec 6) (v : Word) : (s.wg d v).counts = s.counts := rfl
@[simp] theorem wg_badParity (s : State) (d : BitVec 6) (v : Word) : (s.wg d v).badParity = s.badParity := rfl
@[simp] theorem wg_tokens (s : State) (d : BitVec 6) (v : Word) : (s.wg d v).tokens = s.tokens := rfl
@[simp] theorem wg_nextTok (s : State) (d : BitVec 6) (v : Word) : (s.wg d v).nextTok = s.nextTok := rfl
@[simp] theorem wg_pops (s : State) (d : BitVec 6) (v : Word) : (s.wg d v).pops = s.pops := rfl
@[simp] theorem wg_nextPop (s : State) (d : BitVec 6) (v : Word) : (s.wg d v).nextPop = s.nextPop := rfl
@[simp] theorem wg_parts (s : State) (d : BitVec 6) (v : Word) : (s.wg d v).parts = s.parts := rfl
@[simp] theorem wg_vfs (s : State) (d : BitVec 6) (v : Word) : (s.wg d v).vfs = s.vfs := rfl
@[simp] theorem wg_queues (s : State) (d : BitVec 6) (v : Word) : (s.wg d v).queues = s.queues := rfl
@[simp] theorem wg_nextQueue (s : State) (d : BitVec 6) (v : Word) : (s.wg d v).nextQueue = s.nextQueue := rfl
@[simp] theorem wg_stackA (s : State) (d : BitVec 6) (v : Word) : (s.wg d v).stackA = s.stackA := rfl
@[simp] theorem wg_stackB (s : State) (d : BitVec 6) (v : Word) : (s.wg d v).stackB = s.stackB := rfl
@[simp] theorem wg_unsent (s : State) (d : BitVec 6) (v : Word) : (s.wg d v).unsent = s.unsent := rfl
@[simp] theorem wg_images (s : State) (d : BitVec 6) (v : Word) : (s.wg d v).images = s.images := rfl
@[simp] theorem wg_cfgs (s : State) (d : BitVec 6) (v : Word) : (s.wg d v).cfgs = s.cfgs := rfl
@[simp] theorem wg_fuseMin (s : State) (d : BitVec 6) (v : Word) : (s.wg d v).fuseMin = s.fuseMin := rfl
@[simp] theorem wg_meas1 (s : State) (d : BitVec 6) (v : Word) : (s.wg d v).meas1 = s.meas1 := rfl
@[simp] theorem wg_meas2 (s : State) (d : BitVec 6) (v : Word) : (s.wg d v).meas2 = s.meas2 := rfl
@[simp] theorem wg_windows (s : State) (d : BitVec 6) (v : Word) : (s.wg d v).windows = s.windows := rfl
@[simp] theorem wg_farPorts (s : State) (d : BitVec 6) (v : Word) : (s.wg d v).farPorts = s.farPorts := rfl
@[simp] theorem wg_uports (s : State) (d : BitVec 6) (v : Word) : (s.wg d v).uports = s.uports := rfl
@[simp] theorem wg_peerOps (s : State) (d : BitVec 6) (v : Word) : (s.wg d v).peerOps = s.peerOps := rfl
@[simp] theorem wg_nextPeer (s : State) (d : BitVec 6) (v : Word) : (s.wg d v).nextPeer = s.nextPeer := rfl
@[simp] theorem wg_heldOps (s : State) (d : BitVec 6) (v : Word) : (s.wg d v).heldOps = s.heldOps := rfl
@[simp] theorem wg_reports (s : State) (d : BitVec 6) (v : Word) : (s.wg d v).reports = s.reports := rfl
@[simp] theorem wg_errorLog (s : State) (d : BitVec 6) (v : Word) : (s.wg d v).errorLog = s.errorLog := rfl
@[simp] theorem wg_pcap (s : State) (d : BitVec 6) (v : Word) : (s.wg d v).pcap = s.pcap := rfl
@[simp] theorem wg_stretch (s : State) (d : BitVec 6) (v : Word) : (s.wg d v).stretch = s.stretch := rfl
@[simp] theorem wg_temps (s : State) (d : BitVec 6) (v : Word) : (s.wg d v).temps = s.temps := rfl
@[simp] theorem wg_doubleRefresh (s : State) (d : BitVec 6) (v : Word) : (s.wg d v).doubleRefresh = s.doubleRefresh := rfl
@[simp] theorem wg_on (s : State) (d : BitVec 6) (v : Word) : (s.wg d v).on = s.on := rfl
@[simp] theorem wg_secver (s : State) (d : BitVec 6) (v : Word) : (s.wg d v).secver = s.secver := rfl

@[simp] theorem wp_fused (s : State) (n : BitVec 3) (v : Bool) : (s.wp n v).fused = s.fused := rfl
@[simp] theorem wp_cur (s : State) (n : BitVec 3) (v : Bool) : (s.wp n v).cur = s.cur := rfl
@[simp] theorem wp_issuing (s : State) (n : BitVec 3) (v : Bool) : (s.wp n v).issuing = s.issuing := rfl
@[simp] theorem wp_turn (s : State) (n : BitVec 3) (v : Bool) : (s.wp n v).turn = s.turn := rfl
@[simp] theorem wp_agenda (s : State) (n : BitVec 3) (v : Bool) : (s.wp n v).agenda = s.agenda := rfl
@[simp] theorem wp_free (s : State) (n : BitVec 3) (v : Bool) : (s.wp n v).free = s.free := rfl
@[simp] theorem wp_tick (s : State) (n : BitVec 3) (v : Bool) : (s.wp n v).tick = s.tick := rfl
@[simp] theorem wp_clusters (s : State) (n : BitVec 3) (v : Bool) : (s.wp n v).clusters = s.clusters := rfl
@[simp] theorem wp_slices (s : State) (n : BitVec 3) (v : Bool) : (s.wp n v).slices = s.slices := rfl
@[simp] theorem wp_reqs (s : State) (n : BitVec 3) (v : Bool) : (s.wp n v).reqs = s.reqs := rfl
@[simp] theorem wp_nextReq (s : State) (n : BitVec 3) (v : Bool) : (s.wp n v).nextReq = s.nextReq := rfl
@[simp] theorem wp_mem (s : State) (n : BitVec 3) (v : Bool) : (s.wp n v).mem = s.mem := rfl
@[simp] theorem wp_behind (s : State) (n : BitVec 3) (v : Bool) : (s.wp n v).behind = s.behind := rfl
@[simp] theorem wp_marks (s : State) (n : BitVec 3) (v : Bool) : (s.wp n v).marks = s.marks := rfl
@[simp] theorem wp_poison (s : State) (n : BitVec 3) (v : Bool) : (s.wp n v).poison = s.poison := rfl
@[simp] theorem wp_hbmPoison (s : State) (n : BitVec 3) (v : Bool) : (s.wp n v).hbmPoison = s.hbmPoison := rfl
@[simp] theorem wp_chan (s : State) (n : BitVec 3) (v : Bool) : (s.wp n v).chan = s.chan := rfl
@[simp] theorem wp_chanFull (s : State) (n : BitVec 3) (v : Bool) : (s.wp n v).chanFull = s.chanFull := rfl
@[simp] theorem wp_migs (s : State) (n : BitVec 3) (v : Bool) : (s.wp n v).migs = s.migs := rfl
@[simp] theorem wp_xfers (s : State) (n : BitVec 3) (v : Bool) : (s.wp n v).xfers = s.xfers := rfl
@[simp] theorem wp_cids (s : State) (n : BitVec 3) (v : Bool) : (s.wp n v).cids = s.cids := rfl
@[simp] theorem wp_toggles (s : State) (n : BitVec 3) (v : Bool) : (s.wp n v).toggles = s.toggles := rfl
@[simp] theorem wp_counts (s : State) (n : BitVec 3) (v : Bool) : (s.wp n v).counts = s.counts := rfl
@[simp] theorem wp_badParity (s : State) (n : BitVec 3) (v : Bool) : (s.wp n v).badParity = s.badParity := rfl
@[simp] theorem wp_tokens (s : State) (n : BitVec 3) (v : Bool) : (s.wp n v).tokens = s.tokens := rfl
@[simp] theorem wp_nextTok (s : State) (n : BitVec 3) (v : Bool) : (s.wp n v).nextTok = s.nextTok := rfl
@[simp] theorem wp_pops (s : State) (n : BitVec 3) (v : Bool) : (s.wp n v).pops = s.pops := rfl
@[simp] theorem wp_nextPop (s : State) (n : BitVec 3) (v : Bool) : (s.wp n v).nextPop = s.nextPop := rfl
@[simp] theorem wp_parts (s : State) (n : BitVec 3) (v : Bool) : (s.wp n v).parts = s.parts := rfl
@[simp] theorem wp_vfs (s : State) (n : BitVec 3) (v : Bool) : (s.wp n v).vfs = s.vfs := rfl
@[simp] theorem wp_queues (s : State) (n : BitVec 3) (v : Bool) : (s.wp n v).queues = s.queues := rfl
@[simp] theorem wp_nextQueue (s : State) (n : BitVec 3) (v : Bool) : (s.wp n v).nextQueue = s.nextQueue := rfl
@[simp] theorem wp_stackA (s : State) (n : BitVec 3) (v : Bool) : (s.wp n v).stackA = s.stackA := rfl
@[simp] theorem wp_stackB (s : State) (n : BitVec 3) (v : Bool) : (s.wp n v).stackB = s.stackB := rfl
@[simp] theorem wp_unsent (s : State) (n : BitVec 3) (v : Bool) : (s.wp n v).unsent = s.unsent := rfl
@[simp] theorem wp_images (s : State) (n : BitVec 3) (v : Bool) : (s.wp n v).images = s.images := rfl
@[simp] theorem wp_cfgs (s : State) (n : BitVec 3) (v : Bool) : (s.wp n v).cfgs = s.cfgs := rfl
@[simp] theorem wp_fuseMin (s : State) (n : BitVec 3) (v : Bool) : (s.wp n v).fuseMin = s.fuseMin := rfl
@[simp] theorem wp_meas1 (s : State) (n : BitVec 3) (v : Bool) : (s.wp n v).meas1 = s.meas1 := rfl
@[simp] theorem wp_meas2 (s : State) (n : BitVec 3) (v : Bool) : (s.wp n v).meas2 = s.meas2 := rfl
@[simp] theorem wp_windows (s : State) (n : BitVec 3) (v : Bool) : (s.wp n v).windows = s.windows := rfl
@[simp] theorem wp_farPorts (s : State) (n : BitVec 3) (v : Bool) : (s.wp n v).farPorts = s.farPorts := rfl
@[simp] theorem wp_uports (s : State) (n : BitVec 3) (v : Bool) : (s.wp n v).uports = s.uports := rfl
@[simp] theorem wp_peerOps (s : State) (n : BitVec 3) (v : Bool) : (s.wp n v).peerOps = s.peerOps := rfl
@[simp] theorem wp_nextPeer (s : State) (n : BitVec 3) (v : Bool) : (s.wp n v).nextPeer = s.nextPeer := rfl
@[simp] theorem wp_heldOps (s : State) (n : BitVec 3) (v : Bool) : (s.wp n v).heldOps = s.heldOps := rfl
@[simp] theorem wp_reports (s : State) (n : BitVec 3) (v : Bool) : (s.wp n v).reports = s.reports := rfl
@[simp] theorem wp_errorLog (s : State) (n : BitVec 3) (v : Bool) : (s.wp n v).errorLog = s.errorLog := rfl
@[simp] theorem wp_pcap (s : State) (n : BitVec 3) (v : Bool) : (s.wp n v).pcap = s.pcap := rfl
@[simp] theorem wp_stretch (s : State) (n : BitVec 3) (v : Bool) : (s.wp n v).stretch = s.stretch := rfl
@[simp] theorem wp_temps (s : State) (n : BitVec 3) (v : Bool) : (s.wp n v).temps = s.temps := rfl
@[simp] theorem wp_doubleRefresh (s : State) (n : BitVec 3) (v : Bool) : (s.wp n v).doubleRefresh = s.doubleRefresh := rfl
@[simp] theorem wp_on (s : State) (n : BitVec 3) (v : Bool) : (s.wp n v).on = s.on := rfl
@[simp] theorem wp_secver (s : State) (n : BitVec 3) (v : Bool) : (s.wp n v).secver = s.secver := rfl

@[simp] theorem orFlags_fused (s : State) (f : BitVec 5) : (s.orFlags f).fused = s.fused := rfl
@[simp] theorem orFlags_cur (s : State) (f : BitVec 5) : (s.orFlags f).cur = s.cur := rfl
@[simp] theorem orFlags_issuing (s : State) (f : BitVec 5) : (s.orFlags f).issuing = s.issuing := rfl
@[simp] theorem orFlags_turn (s : State) (f : BitVec 5) : (s.orFlags f).turn = s.turn := rfl
@[simp] theorem orFlags_agenda (s : State) (f : BitVec 5) : (s.orFlags f).agenda = s.agenda := rfl
@[simp] theorem orFlags_free (s : State) (f : BitVec 5) : (s.orFlags f).free = s.free := rfl
@[simp] theorem orFlags_tick (s : State) (f : BitVec 5) : (s.orFlags f).tick = s.tick := rfl
@[simp] theorem orFlags_clusters (s : State) (f : BitVec 5) : (s.orFlags f).clusters = s.clusters := rfl
@[simp] theorem orFlags_slices (s : State) (f : BitVec 5) : (s.orFlags f).slices = s.slices := rfl
@[simp] theorem orFlags_reqs (s : State) (f : BitVec 5) : (s.orFlags f).reqs = s.reqs := rfl
@[simp] theorem orFlags_nextReq (s : State) (f : BitVec 5) : (s.orFlags f).nextReq = s.nextReq := rfl
@[simp] theorem orFlags_mem (s : State) (f : BitVec 5) : (s.orFlags f).mem = s.mem := rfl
@[simp] theorem orFlags_behind (s : State) (f : BitVec 5) : (s.orFlags f).behind = s.behind := rfl
@[simp] theorem orFlags_marks (s : State) (f : BitVec 5) : (s.orFlags f).marks = s.marks := rfl
@[simp] theorem orFlags_poison (s : State) (f : BitVec 5) : (s.orFlags f).poison = s.poison := rfl
@[simp] theorem orFlags_hbmPoison (s : State) (f : BitVec 5) : (s.orFlags f).hbmPoison = s.hbmPoison := rfl
@[simp] theorem orFlags_chan (s : State) (f : BitVec 5) : (s.orFlags f).chan = s.chan := rfl
@[simp] theorem orFlags_chanFull (s : State) (f : BitVec 5) : (s.orFlags f).chanFull = s.chanFull := rfl
@[simp] theorem orFlags_migs (s : State) (f : BitVec 5) : (s.orFlags f).migs = s.migs := rfl
@[simp] theorem orFlags_xfers (s : State) (f : BitVec 5) : (s.orFlags f).xfers = s.xfers := rfl
@[simp] theorem orFlags_cids (s : State) (f : BitVec 5) : (s.orFlags f).cids = s.cids := rfl
@[simp] theorem orFlags_toggles (s : State) (f : BitVec 5) : (s.orFlags f).toggles = s.toggles := rfl
@[simp] theorem orFlags_counts (s : State) (f : BitVec 5) : (s.orFlags f).counts = s.counts := rfl
@[simp] theorem orFlags_badParity (s : State) (f : BitVec 5) : (s.orFlags f).badParity = s.badParity := rfl
@[simp] theorem orFlags_tokens (s : State) (f : BitVec 5) : (s.orFlags f).tokens = s.tokens := rfl
@[simp] theorem orFlags_nextTok (s : State) (f : BitVec 5) : (s.orFlags f).nextTok = s.nextTok := rfl
@[simp] theorem orFlags_pops (s : State) (f : BitVec 5) : (s.orFlags f).pops = s.pops := rfl
@[simp] theorem orFlags_nextPop (s : State) (f : BitVec 5) : (s.orFlags f).nextPop = s.nextPop := rfl
@[simp] theorem orFlags_parts (s : State) (f : BitVec 5) : (s.orFlags f).parts = s.parts := rfl
@[simp] theorem orFlags_vfs (s : State) (f : BitVec 5) : (s.orFlags f).vfs = s.vfs := rfl
@[simp] theorem orFlags_queues (s : State) (f : BitVec 5) : (s.orFlags f).queues = s.queues := rfl
@[simp] theorem orFlags_nextQueue (s : State) (f : BitVec 5) : (s.orFlags f).nextQueue = s.nextQueue := rfl
@[simp] theorem orFlags_stackA (s : State) (f : BitVec 5) : (s.orFlags f).stackA = s.stackA := rfl
@[simp] theorem orFlags_stackB (s : State) (f : BitVec 5) : (s.orFlags f).stackB = s.stackB := rfl
@[simp] theorem orFlags_unsent (s : State) (f : BitVec 5) : (s.orFlags f).unsent = s.unsent := rfl
@[simp] theorem orFlags_images (s : State) (f : BitVec 5) : (s.orFlags f).images = s.images := rfl
@[simp] theorem orFlags_cfgs (s : State) (f : BitVec 5) : (s.orFlags f).cfgs = s.cfgs := rfl
@[simp] theorem orFlags_fuseMin (s : State) (f : BitVec 5) : (s.orFlags f).fuseMin = s.fuseMin := rfl
@[simp] theorem orFlags_meas1 (s : State) (f : BitVec 5) : (s.orFlags f).meas1 = s.meas1 := rfl
@[simp] theorem orFlags_meas2 (s : State) (f : BitVec 5) : (s.orFlags f).meas2 = s.meas2 := rfl
@[simp] theorem orFlags_windows (s : State) (f : BitVec 5) : (s.orFlags f).windows = s.windows := rfl
@[simp] theorem orFlags_farPorts (s : State) (f : BitVec 5) : (s.orFlags f).farPorts = s.farPorts := rfl
@[simp] theorem orFlags_uports (s : State) (f : BitVec 5) : (s.orFlags f).uports = s.uports := rfl
@[simp] theorem orFlags_peerOps (s : State) (f : BitVec 5) : (s.orFlags f).peerOps = s.peerOps := rfl
@[simp] theorem orFlags_nextPeer (s : State) (f : BitVec 5) : (s.orFlags f).nextPeer = s.nextPeer := rfl
@[simp] theorem orFlags_heldOps (s : State) (f : BitVec 5) : (s.orFlags f).heldOps = s.heldOps := rfl
@[simp] theorem orFlags_reports (s : State) (f : BitVec 5) : (s.orFlags f).reports = s.reports := rfl
@[simp] theorem orFlags_errorLog (s : State) (f : BitVec 5) : (s.orFlags f).errorLog = s.errorLog := rfl
@[simp] theorem orFlags_pcap (s : State) (f : BitVec 5) : (s.orFlags f).pcap = s.pcap := rfl
@[simp] theorem orFlags_stretch (s : State) (f : BitVec 5) : (s.orFlags f).stretch = s.stretch := rfl
@[simp] theorem orFlags_temps (s : State) (f : BitVec 5) : (s.orFlags f).temps = s.temps := rfl
@[simp] theorem orFlags_doubleRefresh (s : State) (f : BitVec 5) : (s.orFlags f).doubleRefresh = s.doubleRefresh := rfl
@[simp] theorem orFlags_on (s : State) (f : BitVec 5) : (s.orFlags f).on = s.on := rfl
@[simp] theorem orFlags_secver (s : State) (f : BitVec 5) : (s.orFlags f).secver = s.secver := rfl

@[simp] theorem updCluster_fused (s : State) (k : Nat) (f : Cluster → Cluster) : (s.updCluster k f).fused = s.fused := rfl
@[simp] theorem updCluster_cur (s : State) (k : Nat) (f : Cluster → Cluster) : (s.updCluster k f).cur = s.cur := rfl
@[simp] theorem updCluster_issuing (s : State) (k : Nat) (f : Cluster → Cluster) : (s.updCluster k f).issuing = s.issuing := rfl
@[simp] theorem updCluster_turn (s : State) (k : Nat) (f : Cluster → Cluster) : (s.updCluster k f).turn = s.turn := rfl
@[simp] theorem updCluster_agenda (s : State) (k : Nat) (f : Cluster → Cluster) : (s.updCluster k f).agenda = s.agenda := rfl
@[simp] theorem updCluster_free (s : State) (k : Nat) (f : Cluster → Cluster) : (s.updCluster k f).free = s.free := rfl
@[simp] theorem updCluster_tick (s : State) (k : Nat) (f : Cluster → Cluster) : (s.updCluster k f).tick = s.tick := rfl
@[simp] theorem updCluster_cores (s : State) (k : Nat) (f : Cluster → Cluster) : (s.updCluster k f).cores = s.cores := rfl
@[simp] theorem updCluster_slices (s : State) (k : Nat) (f : Cluster → Cluster) : (s.updCluster k f).slices = s.slices := rfl
@[simp] theorem updCluster_reqs (s : State) (k : Nat) (f : Cluster → Cluster) : (s.updCluster k f).reqs = s.reqs := rfl
@[simp] theorem updCluster_nextReq (s : State) (k : Nat) (f : Cluster → Cluster) : (s.updCluster k f).nextReq = s.nextReq := rfl
@[simp] theorem updCluster_mem (s : State) (k : Nat) (f : Cluster → Cluster) : (s.updCluster k f).mem = s.mem := rfl
@[simp] theorem updCluster_behind (s : State) (k : Nat) (f : Cluster → Cluster) : (s.updCluster k f).behind = s.behind := rfl
@[simp] theorem updCluster_marks (s : State) (k : Nat) (f : Cluster → Cluster) : (s.updCluster k f).marks = s.marks := rfl
@[simp] theorem updCluster_poison (s : State) (k : Nat) (f : Cluster → Cluster) : (s.updCluster k f).poison = s.poison := rfl
@[simp] theorem updCluster_hbmPoison (s : State) (k : Nat) (f : Cluster → Cluster) : (s.updCluster k f).hbmPoison = s.hbmPoison := rfl
@[simp] theorem updCluster_chan (s : State) (k : Nat) (f : Cluster → Cluster) : (s.updCluster k f).chan = s.chan := rfl
@[simp] theorem updCluster_chanFull (s : State) (k : Nat) (f : Cluster → Cluster) : (s.updCluster k f).chanFull = s.chanFull := rfl
@[simp] theorem updCluster_migs (s : State) (k : Nat) (f : Cluster → Cluster) : (s.updCluster k f).migs = s.migs := rfl
@[simp] theorem updCluster_xfers (s : State) (k : Nat) (f : Cluster → Cluster) : (s.updCluster k f).xfers = s.xfers := rfl
@[simp] theorem updCluster_cids (s : State) (k : Nat) (f : Cluster → Cluster) : (s.updCluster k f).cids = s.cids := rfl
@[simp] theorem updCluster_toggles (s : State) (k : Nat) (f : Cluster → Cluster) : (s.updCluster k f).toggles = s.toggles := rfl
@[simp] theorem updCluster_counts (s : State) (k : Nat) (f : Cluster → Cluster) : (s.updCluster k f).counts = s.counts := rfl
@[simp] theorem updCluster_badParity (s : State) (k : Nat) (f : Cluster → Cluster) : (s.updCluster k f).badParity = s.badParity := rfl
@[simp] theorem updCluster_tokens (s : State) (k : Nat) (f : Cluster → Cluster) : (s.updCluster k f).tokens = s.tokens := rfl
@[simp] theorem updCluster_nextTok (s : State) (k : Nat) (f : Cluster → Cluster) : (s.updCluster k f).nextTok = s.nextTok := rfl
@[simp] theorem updCluster_pops (s : State) (k : Nat) (f : Cluster → Cluster) : (s.updCluster k f).pops = s.pops := rfl
@[simp] theorem updCluster_nextPop (s : State) (k : Nat) (f : Cluster → Cluster) : (s.updCluster k f).nextPop = s.nextPop := rfl
@[simp] theorem updCluster_parts (s : State) (k : Nat) (f : Cluster → Cluster) : (s.updCluster k f).parts = s.parts := rfl
@[simp] theorem updCluster_vfs (s : State) (k : Nat) (f : Cluster → Cluster) : (s.updCluster k f).vfs = s.vfs := rfl
@[simp] theorem updCluster_queues (s : State) (k : Nat) (f : Cluster → Cluster) : (s.updCluster k f).queues = s.queues := rfl
@[simp] theorem updCluster_nextQueue (s : State) (k : Nat) (f : Cluster → Cluster) : (s.updCluster k f).nextQueue = s.nextQueue := rfl
@[simp] theorem updCluster_stackA (s : State) (k : Nat) (f : Cluster → Cluster) : (s.updCluster k f).stackA = s.stackA := rfl
@[simp] theorem updCluster_stackB (s : State) (k : Nat) (f : Cluster → Cluster) : (s.updCluster k f).stackB = s.stackB := rfl
@[simp] theorem updCluster_unsent (s : State) (k : Nat) (f : Cluster → Cluster) : (s.updCluster k f).unsent = s.unsent := rfl
@[simp] theorem updCluster_images (s : State) (k : Nat) (f : Cluster → Cluster) : (s.updCluster k f).images = s.images := rfl
@[simp] theorem updCluster_cfgs (s : State) (k : Nat) (f : Cluster → Cluster) : (s.updCluster k f).cfgs = s.cfgs := rfl
@[simp] theorem updCluster_fuseMin (s : State) (k : Nat) (f : Cluster → Cluster) : (s.updCluster k f).fuseMin = s.fuseMin := rfl
@[simp] theorem updCluster_meas1 (s : State) (k : Nat) (f : Cluster → Cluster) : (s.updCluster k f).meas1 = s.meas1 := rfl
@[simp] theorem updCluster_meas2 (s : State) (k : Nat) (f : Cluster → Cluster) : (s.updCluster k f).meas2 = s.meas2 := rfl
@[simp] theorem updCluster_windows (s : State) (k : Nat) (f : Cluster → Cluster) : (s.updCluster k f).windows = s.windows := rfl
@[simp] theorem updCluster_farPorts (s : State) (k : Nat) (f : Cluster → Cluster) : (s.updCluster k f).farPorts = s.farPorts := rfl
@[simp] theorem updCluster_uports (s : State) (k : Nat) (f : Cluster → Cluster) : (s.updCluster k f).uports = s.uports := rfl
@[simp] theorem updCluster_peerOps (s : State) (k : Nat) (f : Cluster → Cluster) : (s.updCluster k f).peerOps = s.peerOps := rfl
@[simp] theorem updCluster_nextPeer (s : State) (k : Nat) (f : Cluster → Cluster) : (s.updCluster k f).nextPeer = s.nextPeer := rfl
@[simp] theorem updCluster_heldOps (s : State) (k : Nat) (f : Cluster → Cluster) : (s.updCluster k f).heldOps = s.heldOps := rfl
@[simp] theorem updCluster_reports (s : State) (k : Nat) (f : Cluster → Cluster) : (s.updCluster k f).reports = s.reports := rfl
@[simp] theorem updCluster_errorLog (s : State) (k : Nat) (f : Cluster → Cluster) : (s.updCluster k f).errorLog = s.errorLog := rfl
@[simp] theorem updCluster_pcap (s : State) (k : Nat) (f : Cluster → Cluster) : (s.updCluster k f).pcap = s.pcap := rfl
@[simp] theorem updCluster_stretch (s : State) (k : Nat) (f : Cluster → Cluster) : (s.updCluster k f).stretch = s.stretch := rfl
@[simp] theorem updCluster_temps (s : State) (k : Nat) (f : Cluster → Cluster) : (s.updCluster k f).temps = s.temps := rfl
@[simp] theorem updCluster_doubleRefresh (s : State) (k : Nat) (f : Cluster → Cluster) : (s.updCluster k f).doubleRefresh = s.doubleRefresh := rfl
@[simp] theorem updCluster_on (s : State) (k : Nat) (f : Cluster → Cluster) : (s.updCluster k f).on = s.on := rfl
@[simp] theorem updCluster_secver (s : State) (k : Nat) (f : Cluster → Cluster) : (s.updCluster k f).secver = s.secver := rfl

@[simp] theorem updSlice_fused (s : State) (k : Nat) (f : Slice → Slice) : (s.updSlice k f).fused = s.fused := rfl
@[simp] theorem updSlice_cur (s : State) (k : Nat) (f : Slice → Slice) : (s.updSlice k f).cur = s.cur := rfl
@[simp] theorem updSlice_issuing (s : State) (k : Nat) (f : Slice → Slice) : (s.updSlice k f).issuing = s.issuing := rfl
@[simp] theorem updSlice_turn (s : State) (k : Nat) (f : Slice → Slice) : (s.updSlice k f).turn = s.turn := rfl
@[simp] theorem updSlice_agenda (s : State) (k : Nat) (f : Slice → Slice) : (s.updSlice k f).agenda = s.agenda := rfl
@[simp] theorem updSlice_free (s : State) (k : Nat) (f : Slice → Slice) : (s.updSlice k f).free = s.free := rfl
@[simp] theorem updSlice_tick (s : State) (k : Nat) (f : Slice → Slice) : (s.updSlice k f).tick = s.tick := rfl
@[simp] theorem updSlice_cores (s : State) (k : Nat) (f : Slice → Slice) : (s.updSlice k f).cores = s.cores := rfl
@[simp] theorem updSlice_clusters (s : State) (k : Nat) (f : Slice → Slice) : (s.updSlice k f).clusters = s.clusters := rfl
@[simp] theorem updSlice_reqs (s : State) (k : Nat) (f : Slice → Slice) : (s.updSlice k f).reqs = s.reqs := rfl
@[simp] theorem updSlice_nextReq (s : State) (k : Nat) (f : Slice → Slice) : (s.updSlice k f).nextReq = s.nextReq := rfl
@[simp] theorem updSlice_mem (s : State) (k : Nat) (f : Slice → Slice) : (s.updSlice k f).mem = s.mem := rfl
@[simp] theorem updSlice_behind (s : State) (k : Nat) (f : Slice → Slice) : (s.updSlice k f).behind = s.behind := rfl
@[simp] theorem updSlice_marks (s : State) (k : Nat) (f : Slice → Slice) : (s.updSlice k f).marks = s.marks := rfl
@[simp] theorem updSlice_poison (s : State) (k : Nat) (f : Slice → Slice) : (s.updSlice k f).poison = s.poison := rfl
@[simp] theorem updSlice_hbmPoison (s : State) (k : Nat) (f : Slice → Slice) : (s.updSlice k f).hbmPoison = s.hbmPoison := rfl
@[simp] theorem updSlice_chan (s : State) (k : Nat) (f : Slice → Slice) : (s.updSlice k f).chan = s.chan := rfl
@[simp] theorem updSlice_chanFull (s : State) (k : Nat) (f : Slice → Slice) : (s.updSlice k f).chanFull = s.chanFull := rfl
@[simp] theorem updSlice_migs (s : State) (k : Nat) (f : Slice → Slice) : (s.updSlice k f).migs = s.migs := rfl
@[simp] theorem updSlice_xfers (s : State) (k : Nat) (f : Slice → Slice) : (s.updSlice k f).xfers = s.xfers := rfl
@[simp] theorem updSlice_cids (s : State) (k : Nat) (f : Slice → Slice) : (s.updSlice k f).cids = s.cids := rfl
@[simp] theorem updSlice_toggles (s : State) (k : Nat) (f : Slice → Slice) : (s.updSlice k f).toggles = s.toggles := rfl
@[simp] theorem updSlice_counts (s : State) (k : Nat) (f : Slice → Slice) : (s.updSlice k f).counts = s.counts := rfl
@[simp] theorem updSlice_badParity (s : State) (k : Nat) (f : Slice → Slice) : (s.updSlice k f).badParity = s.badParity := rfl
@[simp] theorem updSlice_tokens (s : State) (k : Nat) (f : Slice → Slice) : (s.updSlice k f).tokens = s.tokens := rfl
@[simp] theorem updSlice_nextTok (s : State) (k : Nat) (f : Slice → Slice) : (s.updSlice k f).nextTok = s.nextTok := rfl
@[simp] theorem updSlice_pops (s : State) (k : Nat) (f : Slice → Slice) : (s.updSlice k f).pops = s.pops := rfl
@[simp] theorem updSlice_nextPop (s : State) (k : Nat) (f : Slice → Slice) : (s.updSlice k f).nextPop = s.nextPop := rfl
@[simp] theorem updSlice_parts (s : State) (k : Nat) (f : Slice → Slice) : (s.updSlice k f).parts = s.parts := rfl
@[simp] theorem updSlice_vfs (s : State) (k : Nat) (f : Slice → Slice) : (s.updSlice k f).vfs = s.vfs := rfl
@[simp] theorem updSlice_queues (s : State) (k : Nat) (f : Slice → Slice) : (s.updSlice k f).queues = s.queues := rfl
@[simp] theorem updSlice_nextQueue (s : State) (k : Nat) (f : Slice → Slice) : (s.updSlice k f).nextQueue = s.nextQueue := rfl
@[simp] theorem updSlice_stackA (s : State) (k : Nat) (f : Slice → Slice) : (s.updSlice k f).stackA = s.stackA := rfl
@[simp] theorem updSlice_stackB (s : State) (k : Nat) (f : Slice → Slice) : (s.updSlice k f).stackB = s.stackB := rfl
@[simp] theorem updSlice_unsent (s : State) (k : Nat) (f : Slice → Slice) : (s.updSlice k f).unsent = s.unsent := rfl
@[simp] theorem updSlice_images (s : State) (k : Nat) (f : Slice → Slice) : (s.updSlice k f).images = s.images := rfl
@[simp] theorem updSlice_cfgs (s : State) (k : Nat) (f : Slice → Slice) : (s.updSlice k f).cfgs = s.cfgs := rfl
@[simp] theorem updSlice_fuseMin (s : State) (k : Nat) (f : Slice → Slice) : (s.updSlice k f).fuseMin = s.fuseMin := rfl
@[simp] theorem updSlice_meas1 (s : State) (k : Nat) (f : Slice → Slice) : (s.updSlice k f).meas1 = s.meas1 := rfl
@[simp] theorem updSlice_meas2 (s : State) (k : Nat) (f : Slice → Slice) : (s.updSlice k f).meas2 = s.meas2 := rfl
@[simp] theorem updSlice_windows (s : State) (k : Nat) (f : Slice → Slice) : (s.updSlice k f).windows = s.windows := rfl
@[simp] theorem updSlice_farPorts (s : State) (k : Nat) (f : Slice → Slice) : (s.updSlice k f).farPorts = s.farPorts := rfl
@[simp] theorem updSlice_uports (s : State) (k : Nat) (f : Slice → Slice) : (s.updSlice k f).uports = s.uports := rfl
@[simp] theorem updSlice_peerOps (s : State) (k : Nat) (f : Slice → Slice) : (s.updSlice k f).peerOps = s.peerOps := rfl
@[simp] theorem updSlice_nextPeer (s : State) (k : Nat) (f : Slice → Slice) : (s.updSlice k f).nextPeer = s.nextPeer := rfl
@[simp] theorem updSlice_heldOps (s : State) (k : Nat) (f : Slice → Slice) : (s.updSlice k f).heldOps = s.heldOps := rfl
@[simp] theorem updSlice_reports (s : State) (k : Nat) (f : Slice → Slice) : (s.updSlice k f).reports = s.reports := rfl
@[simp] theorem updSlice_errorLog (s : State) (k : Nat) (f : Slice → Slice) : (s.updSlice k f).errorLog = s.errorLog := rfl
@[simp] theorem updSlice_pcap (s : State) (k : Nat) (f : Slice → Slice) : (s.updSlice k f).pcap = s.pcap := rfl
@[simp] theorem updSlice_stretch (s : State) (k : Nat) (f : Slice → Slice) : (s.updSlice k f).stretch = s.stretch := rfl
@[simp] theorem updSlice_temps (s : State) (k : Nat) (f : Slice → Slice) : (s.updSlice k f).temps = s.temps := rfl
@[simp] theorem updSlice_doubleRefresh (s : State) (k : Nat) (f : Slice → Slice) : (s.updSlice k f).doubleRefresh = s.doubleRefresh := rfl
@[simp] theorem updSlice_on (s : State) (k : Nat) (f : Slice → Slice) : (s.updSlice k f).on = s.on := rfl
@[simp] theorem updSlice_secver (s : State) (k : Nat) (f : Slice → Slice) : (s.updSlice k f).secver = s.secver := rfl

@[simp] theorem report_fused (s : State) (r : Report) : (s.report r).fused = s.fused := rfl
@[simp] theorem report_cur (s : State) (r : Report) : (s.report r).cur = s.cur := rfl
@[simp] theorem report_issuing (s : State) (r : Report) : (s.report r).issuing = s.issuing := rfl
@[simp] theorem report_turn (s : State) (r : Report) : (s.report r).turn = s.turn := rfl
@[simp] theorem report_agenda (s : State) (r : Report) : (s.report r).agenda = s.agenda := rfl
@[simp] theorem report_free (s : State) (r : Report) : (s.report r).free = s.free := rfl
@[simp] theorem report_tick (s : State) (r : Report) : (s.report r).tick = s.tick := rfl
@[simp] theorem report_cores (s : State) (r : Report) : (s.report r).cores = s.cores := rfl
@[simp] theorem report_clusters (s : State) (r : Report) : (s.report r).clusters = s.clusters := rfl
@[simp] theorem report_slices (s : State) (r : Report) : (s.report r).slices = s.slices := rfl
@[simp] theorem report_reqs (s : State) (r : Report) : (s.report r).reqs = s.reqs := rfl
@[simp] theorem report_nextReq (s : State) (r : Report) : (s.report r).nextReq = s.nextReq := rfl
@[simp] theorem report_mem (s : State) (r : Report) : (s.report r).mem = s.mem := rfl
@[simp] theorem report_behind (s : State) (r : Report) : (s.report r).behind = s.behind := rfl
@[simp] theorem report_marks (s : State) (r : Report) : (s.report r).marks = s.marks := rfl
@[simp] theorem report_poison (s : State) (r : Report) : (s.report r).poison = s.poison := rfl
@[simp] theorem report_hbmPoison (s : State) (r : Report) : (s.report r).hbmPoison = s.hbmPoison := rfl
@[simp] theorem report_chan (s : State) (r : Report) : (s.report r).chan = s.chan := rfl
@[simp] theorem report_chanFull (s : State) (r : Report) : (s.report r).chanFull = s.chanFull := rfl
@[simp] theorem report_migs (s : State) (r : Report) : (s.report r).migs = s.migs := rfl
@[simp] theorem report_xfers (s : State) (r : Report) : (s.report r).xfers = s.xfers := rfl
@[simp] theorem report_cids (s : State) (r : Report) : (s.report r).cids = s.cids := rfl
@[simp] theorem report_toggles (s : State) (r : Report) : (s.report r).toggles = s.toggles := rfl
@[simp] theorem report_counts (s : State) (r : Report) : (s.report r).counts = s.counts := rfl
@[simp] theorem report_badParity (s : State) (r : Report) : (s.report r).badParity = s.badParity := rfl
@[simp] theorem report_tokens (s : State) (r : Report) : (s.report r).tokens = s.tokens := rfl
@[simp] theorem report_nextTok (s : State) (r : Report) : (s.report r).nextTok = s.nextTok := rfl
@[simp] theorem report_pops (s : State) (r : Report) : (s.report r).pops = s.pops := rfl
@[simp] theorem report_nextPop (s : State) (r : Report) : (s.report r).nextPop = s.nextPop := rfl
@[simp] theorem report_parts (s : State) (r : Report) : (s.report r).parts = s.parts := rfl
@[simp] theorem report_vfs (s : State) (r : Report) : (s.report r).vfs = s.vfs := rfl
@[simp] theorem report_queues (s : State) (r : Report) : (s.report r).queues = s.queues := rfl
@[simp] theorem report_nextQueue (s : State) (r : Report) : (s.report r).nextQueue = s.nextQueue := rfl
@[simp] theorem report_stackA (s : State) (r : Report) : (s.report r).stackA = s.stackA := rfl
@[simp] theorem report_stackB (s : State) (r : Report) : (s.report r).stackB = s.stackB := rfl
@[simp] theorem report_unsent (s : State) (r : Report) : (s.report r).unsent = s.unsent := rfl
@[simp] theorem report_images (s : State) (r : Report) : (s.report r).images = s.images := rfl
@[simp] theorem report_cfgs (s : State) (r : Report) : (s.report r).cfgs = s.cfgs := rfl
@[simp] theorem report_fuseMin (s : State) (r : Report) : (s.report r).fuseMin = s.fuseMin := rfl
@[simp] theorem report_meas1 (s : State) (r : Report) : (s.report r).meas1 = s.meas1 := rfl
@[simp] theorem report_meas2 (s : State) (r : Report) : (s.report r).meas2 = s.meas2 := rfl
@[simp] theorem report_windows (s : State) (r : Report) : (s.report r).windows = s.windows := rfl
@[simp] theorem report_farPorts (s : State) (r : Report) : (s.report r).farPorts = s.farPorts := rfl
@[simp] theorem report_uports (s : State) (r : Report) : (s.report r).uports = s.uports := rfl
@[simp] theorem report_peerOps (s : State) (r : Report) : (s.report r).peerOps = s.peerOps := rfl
@[simp] theorem report_nextPeer (s : State) (r : Report) : (s.report r).nextPeer = s.nextPeer := rfl
@[simp] theorem report_heldOps (s : State) (r : Report) : (s.report r).heldOps = s.heldOps := rfl
@[simp] theorem report_errorLog (s : State) (r : Report) : (s.report r).errorLog = s.errorLog := rfl
@[simp] theorem report_pcap (s : State) (r : Report) : (s.report r).pcap = s.pcap := rfl
@[simp] theorem report_stretch (s : State) (r : Report) : (s.report r).stretch = s.stretch := rfl
@[simp] theorem report_temps (s : State) (r : Report) : (s.report r).temps = s.temps := rfl
@[simp] theorem report_doubleRefresh (s : State) (r : Report) : (s.report r).doubleRefresh = s.doubleRefresh := rfl
@[simp] theorem report_on (s : State) (r : Report) : (s.report r).on = s.on := rfl
@[simp] theorem report_secver (s : State) (r : Report) : (s.report r).secver = s.secver := rfl

@[simp] theorem setMarks_fused (s : State) (k : Nat) (m : List Mark) : (s.setMarks k m).fused = s.fused := rfl
@[simp] theorem setMarks_cur (s : State) (k : Nat) (m : List Mark) : (s.setMarks k m).cur = s.cur := rfl
@[simp] theorem setMarks_issuing (s : State) (k : Nat) (m : List Mark) : (s.setMarks k m).issuing = s.issuing := rfl
@[simp] theorem setMarks_turn (s : State) (k : Nat) (m : List Mark) : (s.setMarks k m).turn = s.turn := rfl
@[simp] theorem setMarks_agenda (s : State) (k : Nat) (m : List Mark) : (s.setMarks k m).agenda = s.agenda := rfl
@[simp] theorem setMarks_free (s : State) (k : Nat) (m : List Mark) : (s.setMarks k m).free = s.free := rfl
@[simp] theorem setMarks_tick (s : State) (k : Nat) (m : List Mark) : (s.setMarks k m).tick = s.tick := rfl
@[simp] theorem setMarks_cores (s : State) (k : Nat) (m : List Mark) : (s.setMarks k m).cores = s.cores := rfl
@[simp] theorem setMarks_clusters (s : State) (k : Nat) (m : List Mark) : (s.setMarks k m).clusters = s.clusters := rfl
@[simp] theorem setMarks_slices (s : State) (k : Nat) (m : List Mark) : (s.setMarks k m).slices = s.slices := rfl
@[simp] theorem setMarks_reqs (s : State) (k : Nat) (m : List Mark) : (s.setMarks k m).reqs = s.reqs := rfl
@[simp] theorem setMarks_nextReq (s : State) (k : Nat) (m : List Mark) : (s.setMarks k m).nextReq = s.nextReq := rfl
@[simp] theorem setMarks_mem (s : State) (k : Nat) (m : List Mark) : (s.setMarks k m).mem = s.mem := rfl
@[simp] theorem setMarks_behind (s : State) (k : Nat) (m : List Mark) : (s.setMarks k m).behind = s.behind := rfl
@[simp] theorem setMarks_poison (s : State) (k : Nat) (m : List Mark) : (s.setMarks k m).poison = s.poison := rfl
@[simp] theorem setMarks_hbmPoison (s : State) (k : Nat) (m : List Mark) : (s.setMarks k m).hbmPoison = s.hbmPoison := rfl
@[simp] theorem setMarks_chan (s : State) (k : Nat) (m : List Mark) : (s.setMarks k m).chan = s.chan := rfl
@[simp] theorem setMarks_chanFull (s : State) (k : Nat) (m : List Mark) : (s.setMarks k m).chanFull = s.chanFull := rfl
@[simp] theorem setMarks_migs (s : State) (k : Nat) (m : List Mark) : (s.setMarks k m).migs = s.migs := rfl
@[simp] theorem setMarks_xfers (s : State) (k : Nat) (m : List Mark) : (s.setMarks k m).xfers = s.xfers := rfl
@[simp] theorem setMarks_cids (s : State) (k : Nat) (m : List Mark) : (s.setMarks k m).cids = s.cids := rfl
@[simp] theorem setMarks_toggles (s : State) (k : Nat) (m : List Mark) : (s.setMarks k m).toggles = s.toggles := rfl
@[simp] theorem setMarks_counts (s : State) (k : Nat) (m : List Mark) : (s.setMarks k m).counts = s.counts := rfl
@[simp] theorem setMarks_badParity (s : State) (k : Nat) (m : List Mark) : (s.setMarks k m).badParity = s.badParity := rfl
@[simp] theorem setMarks_tokens (s : State) (k : Nat) (m : List Mark) : (s.setMarks k m).tokens = s.tokens := rfl
@[simp] theorem setMarks_nextTok (s : State) (k : Nat) (m : List Mark) : (s.setMarks k m).nextTok = s.nextTok := rfl
@[simp] theorem setMarks_pops (s : State) (k : Nat) (m : List Mark) : (s.setMarks k m).pops = s.pops := rfl
@[simp] theorem setMarks_nextPop (s : State) (k : Nat) (m : List Mark) : (s.setMarks k m).nextPop = s.nextPop := rfl
@[simp] theorem setMarks_parts (s : State) (k : Nat) (m : List Mark) : (s.setMarks k m).parts = s.parts := rfl
@[simp] theorem setMarks_vfs (s : State) (k : Nat) (m : List Mark) : (s.setMarks k m).vfs = s.vfs := rfl
@[simp] theorem setMarks_queues (s : State) (k : Nat) (m : List Mark) : (s.setMarks k m).queues = s.queues := rfl
@[simp] theorem setMarks_nextQueue (s : State) (k : Nat) (m : List Mark) : (s.setMarks k m).nextQueue = s.nextQueue := rfl
@[simp] theorem setMarks_stackA (s : State) (k : Nat) (m : List Mark) : (s.setMarks k m).stackA = s.stackA := rfl
@[simp] theorem setMarks_stackB (s : State) (k : Nat) (m : List Mark) : (s.setMarks k m).stackB = s.stackB := rfl
@[simp] theorem setMarks_unsent (s : State) (k : Nat) (m : List Mark) : (s.setMarks k m).unsent = s.unsent := rfl
@[simp] theorem setMarks_images (s : State) (k : Nat) (m : List Mark) : (s.setMarks k m).images = s.images := rfl
@[simp] theorem setMarks_cfgs (s : State) (k : Nat) (m : List Mark) : (s.setMarks k m).cfgs = s.cfgs := rfl
@[simp] theorem setMarks_fuseMin (s : State) (k : Nat) (m : List Mark) : (s.setMarks k m).fuseMin = s.fuseMin := rfl
@[simp] theorem setMarks_meas1 (s : State) (k : Nat) (m : List Mark) : (s.setMarks k m).meas1 = s.meas1 := rfl
@[simp] theorem setMarks_meas2 (s : State) (k : Nat) (m : List Mark) : (s.setMarks k m).meas2 = s.meas2 := rfl
@[simp] theorem setMarks_windows (s : State) (k : Nat) (m : List Mark) : (s.setMarks k m).windows = s.windows := rfl
@[simp] theorem setMarks_farPorts (s : State) (k : Nat) (m : List Mark) : (s.setMarks k m).farPorts = s.farPorts := rfl
@[simp] theorem setMarks_uports (s : State) (k : Nat) (m : List Mark) : (s.setMarks k m).uports = s.uports := rfl
@[simp] theorem setMarks_peerOps (s : State) (k : Nat) (m : List Mark) : (s.setMarks k m).peerOps = s.peerOps := rfl
@[simp] theorem setMarks_nextPeer (s : State) (k : Nat) (m : List Mark) : (s.setMarks k m).nextPeer = s.nextPeer := rfl
@[simp] theorem setMarks_heldOps (s : State) (k : Nat) (m : List Mark) : (s.setMarks k m).heldOps = s.heldOps := rfl
@[simp] theorem setMarks_reports (s : State) (k : Nat) (m : List Mark) : (s.setMarks k m).reports = s.reports := rfl
@[simp] theorem setMarks_errorLog (s : State) (k : Nat) (m : List Mark) : (s.setMarks k m).errorLog = s.errorLog := rfl
@[simp] theorem setMarks_pcap (s : State) (k : Nat) (m : List Mark) : (s.setMarks k m).pcap = s.pcap := rfl
@[simp] theorem setMarks_stretch (s : State) (k : Nat) (m : List Mark) : (s.setMarks k m).stretch = s.stretch := rfl
@[simp] theorem setMarks_temps (s : State) (k : Nat) (m : List Mark) : (s.setMarks k m).temps = s.temps := rfl
@[simp] theorem setMarks_doubleRefresh (s : State) (k : Nat) (m : List Mark) : (s.setMarks k m).doubleRefresh = s.doubleRefresh := rfl
@[simp] theorem setMarks_on (s : State) (k : Nat) (m : List Mark) : (s.setMarks k m).on = s.on := rfl
@[simp] theorem setMarks_secver (s : State) (k : Nat) (m : List Mark) : (s.setMarks k m).secver = s.secver := rfl

@[simp] theorem putHome_fused (s : State) (k : Nat) (b : List Byte) : (s.putHome k b).fused = s.fused := rfl
@[simp] theorem putHome_cur (s : State) (k : Nat) (b : List Byte) : (s.putHome k b).cur = s.cur := rfl
@[simp] theorem putHome_issuing (s : State) (k : Nat) (b : List Byte) : (s.putHome k b).issuing = s.issuing := rfl
@[simp] theorem putHome_turn (s : State) (k : Nat) (b : List Byte) : (s.putHome k b).turn = s.turn := rfl
@[simp] theorem putHome_agenda (s : State) (k : Nat) (b : List Byte) : (s.putHome k b).agenda = s.agenda := rfl
@[simp] theorem putHome_free (s : State) (k : Nat) (b : List Byte) : (s.putHome k b).free = s.free := rfl
@[simp] theorem putHome_tick (s : State) (k : Nat) (b : List Byte) : (s.putHome k b).tick = s.tick := rfl
@[simp] theorem putHome_cores (s : State) (k : Nat) (b : List Byte) : (s.putHome k b).cores = s.cores := rfl
@[simp] theorem putHome_clusters (s : State) (k : Nat) (b : List Byte) : (s.putHome k b).clusters = s.clusters := rfl
@[simp] theorem putHome_slices (s : State) (k : Nat) (b : List Byte) : (s.putHome k b).slices = s.slices := rfl
@[simp] theorem putHome_reqs (s : State) (k : Nat) (b : List Byte) : (s.putHome k b).reqs = s.reqs := rfl
@[simp] theorem putHome_nextReq (s : State) (k : Nat) (b : List Byte) : (s.putHome k b).nextReq = s.nextReq := rfl
@[simp] theorem putHome_behind (s : State) (k : Nat) (b : List Byte) : (s.putHome k b).behind = s.behind := rfl
@[simp] theorem putHome_marks (s : State) (k : Nat) (b : List Byte) : (s.putHome k b).marks = s.marks := rfl
@[simp] theorem putHome_chan (s : State) (k : Nat) (b : List Byte) : (s.putHome k b).chan = s.chan := rfl
@[simp] theorem putHome_chanFull (s : State) (k : Nat) (b : List Byte) : (s.putHome k b).chanFull = s.chanFull := rfl
@[simp] theorem putHome_migs (s : State) (k : Nat) (b : List Byte) : (s.putHome k b).migs = s.migs := rfl
@[simp] theorem putHome_xfers (s : State) (k : Nat) (b : List Byte) : (s.putHome k b).xfers = s.xfers := rfl
@[simp] theorem putHome_cids (s : State) (k : Nat) (b : List Byte) : (s.putHome k b).cids = s.cids := rfl
@[simp] theorem putHome_toggles (s : State) (k : Nat) (b : List Byte) : (s.putHome k b).toggles = s.toggles := rfl
@[simp] theorem putHome_counts (s : State) (k : Nat) (b : List Byte) : (s.putHome k b).counts = s.counts := rfl
@[simp] theorem putHome_badParity (s : State) (k : Nat) (b : List Byte) : (s.putHome k b).badParity = s.badParity := rfl
@[simp] theorem putHome_tokens (s : State) (k : Nat) (b : List Byte) : (s.putHome k b).tokens = s.tokens := rfl
@[simp] theorem putHome_nextTok (s : State) (k : Nat) (b : List Byte) : (s.putHome k b).nextTok = s.nextTok := rfl
@[simp] theorem putHome_pops (s : State) (k : Nat) (b : List Byte) : (s.putHome k b).pops = s.pops := rfl
@[simp] theorem putHome_nextPop (s : State) (k : Nat) (b : List Byte) : (s.putHome k b).nextPop = s.nextPop := rfl
@[simp] theorem putHome_parts (s : State) (k : Nat) (b : List Byte) : (s.putHome k b).parts = s.parts := rfl
@[simp] theorem putHome_vfs (s : State) (k : Nat) (b : List Byte) : (s.putHome k b).vfs = s.vfs := rfl
@[simp] theorem putHome_queues (s : State) (k : Nat) (b : List Byte) : (s.putHome k b).queues = s.queues := rfl
@[simp] theorem putHome_nextQueue (s : State) (k : Nat) (b : List Byte) : (s.putHome k b).nextQueue = s.nextQueue := rfl
@[simp] theorem putHome_stackA (s : State) (k : Nat) (b : List Byte) : (s.putHome k b).stackA = s.stackA := rfl
@[simp] theorem putHome_stackB (s : State) (k : Nat) (b : List Byte) : (s.putHome k b).stackB = s.stackB := rfl
@[simp] theorem putHome_unsent (s : State) (k : Nat) (b : List Byte) : (s.putHome k b).unsent = s.unsent := rfl
@[simp] theorem putHome_images (s : State) (k : Nat) (b : List Byte) : (s.putHome k b).images = s.images := rfl
@[simp] theorem putHome_cfgs (s : State) (k : Nat) (b : List Byte) : (s.putHome k b).cfgs = s.cfgs := rfl
@[simp] theorem putHome_fuseMin (s : State) (k : Nat) (b : List Byte) : (s.putHome k b).fuseMin = s.fuseMin := rfl
@[simp] theorem putHome_meas1 (s : State) (k : Nat) (b : List Byte) : (s.putHome k b).meas1 = s.meas1 := rfl
@[simp] theorem putHome_meas2 (s : State) (k : Nat) (b : List Byte) : (s.putHome k b).meas2 = s.meas2 := rfl
@[simp] theorem putHome_windows (s : State) (k : Nat) (b : List Byte) : (s.putHome k b).windows = s.windows := rfl
@[simp] theorem putHome_farPorts (s : State) (k : Nat) (b : List Byte) : (s.putHome k b).farPorts = s.farPorts := rfl
@[simp] theorem putHome_uports (s : State) (k : Nat) (b : List Byte) : (s.putHome k b).uports = s.uports := rfl
@[simp] theorem putHome_peerOps (s : State) (k : Nat) (b : List Byte) : (s.putHome k b).peerOps = s.peerOps := rfl
@[simp] theorem putHome_nextPeer (s : State) (k : Nat) (b : List Byte) : (s.putHome k b).nextPeer = s.nextPeer := rfl
@[simp] theorem putHome_heldOps (s : State) (k : Nat) (b : List Byte) : (s.putHome k b).heldOps = s.heldOps := rfl
@[simp] theorem putHome_reports (s : State) (k : Nat) (b : List Byte) : (s.putHome k b).reports = s.reports := rfl
@[simp] theorem putHome_errorLog (s : State) (k : Nat) (b : List Byte) : (s.putHome k b).errorLog = s.errorLog := rfl
@[simp] theorem putHome_pcap (s : State) (k : Nat) (b : List Byte) : (s.putHome k b).pcap = s.pcap := rfl
@[simp] theorem putHome_stretch (s : State) (k : Nat) (b : List Byte) : (s.putHome k b).stretch = s.stretch := rfl
@[simp] theorem putHome_temps (s : State) (k : Nat) (b : List Byte) : (s.putHome k b).temps = s.temps := rfl
@[simp] theorem putHome_doubleRefresh (s : State) (k : Nat) (b : List Byte) : (s.putHome k b).doubleRefresh = s.doubleRefresh := rfl
@[simp] theorem putHome_on (s : State) (k : Nat) (b : List Byte) : (s.putHome k b).on = s.on := rfl
@[simp] theorem putHome_secver (s : State) (k : Nat) (b : List Byte) : (s.putHome k b).secver = s.secver := rfl

end Fields

/-! ### Reading a core, a slot, the executing slot -/

@[simp] theorem core_setCore (s : State) (c : Nat) (k : Core) : (s.setCore c k).core c = k := by simp [core, setCore]
theorem core_setCore_ne (s : State) {c j : Nat} (k : Core) (h : j ≠ c) : (s.setCore c k).core j = s.core j := by
  simp [core, setCore, FMap.getD_insert_ne _ _ _ h]
@[simp] theorem core_updCore (s : State) (c : Nat) (f : Core → Core) : (s.updCore c f).core c = f (s.core c) := by
  simp [updCore]
theorem core_updCore_ne (s : State) {c j : Nat} (f : Core → Core) (h : j ≠ c) :
    (s.updCore c f).core j = s.core j := by simp [updCore, core_setCore_ne s _ h]

@[simp] theorem core_setSlot (s : State) (c n : Nat) (x : Slot) : (s.setSlot c n x).core c = (s.core c).setSlot n x := by
  simp [setSlot]
theorem core_setSlot_ne (s : State) {c j : Nat} (n : Nat) (x : Slot) (h : j ≠ c) :
    (s.setSlot c n x).core j = s.core j := by simp [setSlot, core_setCore_ne s _ h]

@[simp] theorem slot_setSlot (s : State) (c n : Nat) (x : Slot) : (s.setSlot c n x).slot c n = x := by
  simp [slot]
theorem slot_setSlot_ne (s : State) {c n d m : Nat} (x : Slot) (h : (d, m) ≠ (c, n)) :
    (s.setSlot c n x).slot d m = s.slot d m := by
  by_cases hc : d = c
  · subst hc
    have hm : m ≠ n := fun e => h (by rw [e])
    simp [slot, Core.slot_setSlot_ne _ _ hm]
  · simp [slot, core_setSlot_ne s n x hc]
@[simp] theorem slot_updSlot (s : State) (c n : Nat) (f : Slot → Slot) : (s.updSlot c n f).slot c n = f (s.slot c n) := by
  simp [updSlot]
theorem slot_updSlot_ne (s : State) {c n d m : Nat} (f : Slot → Slot) (h : (d, m) ≠ (c, n)) :
    (s.updSlot c n f).slot d m = s.slot d m := slot_setSlot_ne s _ h

@[simp] theorem me_updMe (s : State) (f : Slot → Slot) : (s.updMe f).me = f s.me := by simp [me, updMe]
theorem slot_updMe_ne (s : State) {d m : Nat} (f : Slot → Slot) (h : (d, m) ≠ (s.cur.core, s.cur.slot)) :
    (s.updMe f).slot d m = s.slot d m := slot_updSlot_ne s f h
@[simp] theorem slot_updMe (s : State) (f : Slot → Slot) :
    (s.updMe f).slot s.cur.core s.cur.slot = f (s.slot s.cur.core s.cur.slot) := by simp [updMe]

@[simp] theorem cluster_updCluster (s : State) (k : Nat) (f : Cluster → Cluster) :
    (s.updCluster k f).cluster k = f (s.cluster k) := by simp [cluster, updCluster]
theorem cluster_updCluster_ne (s : State) {k j : Nat} (f : Cluster → Cluster) (h : j ≠ k) :
    (s.updCluster k f).cluster j = s.cluster j := by simp [cluster, updCluster, FMap.getD_insert_ne _ _ _ h]
@[simp] theorem slice_updSlice (s : State) (k : Nat) (f : Slice → Slice) :
    (s.updSlice k f).slice k = f (s.slice k) := by simp [slice, updSlice]
theorem slice_updSlice_ne (s : State) {k j : Nat} (f : Slice → Slice) (h : j ≠ k) :
    (s.updSlice k f).slice j = s.slice j := by simp [slice, updSlice, FMap.getD_insert_ne _ _ _ h]

/-! ### Registers -/

/-- `g0` reads 0 (R5). -/
@[simp] theorem rg_zero (s : State) : s.rg 0 = 0 := rfl
/-- `p0` reads 1 (R5). -/
@[simp] theorem rp_zero (s : State) : s.rp 0 = true := rfl
/-- The executing slot after a write of a general register. -/
@[simp] theorem me_wg (s : State) (d : BitVec 6) (v : Word) : (s.wg d v).me = s.me.wg d v := by simp [wg]
/-- The executing slot after a write of a predicate. -/
@[simp] theorem me_wp (s : State) (n : BitVec 3) (v : Bool) : (s.wp n v).me = s.me.wp n v := by simp [wp]

end Sys2Proof.Machine.State
end

