-- ==== Sys2Proof/Laws/Frame.lean ====
section
/-! SUPPORT. What the shared updates of the executing slot leave alone. -/

namespace Sys2Proof.Machine

theorem Core.find?_setCvf_ne (k : Core) (x : CoreVf) {v : Nat} (h : v ≠ k.vkey) :
    FMap.find? (k.setCvf x).vfs v = FMap.find? k.vfs v := FMap.find?_insert_ne _ _ h

/-- A change of one core changes nothing else. -/
theorem onlyCore_updCore (s : State) (c : Nat) (f : Core → Core) : OnlyCore c s (s.updCore c f) :=
  ⟨rfl, fun _ h => State.core_updCore_ne s f h⟩

/-- A change of what a core holds for its running VF changes nothing else. -/
theorem onlyCvf_updCvf (s : State) (c : Nat) (f : CoreVf → CoreVf) : OnlyCvf c s (s.updCvf c f) :=
  ⟨onlyCore_updCore s c _, by simp [State.updCvf, Core.setCvf],
    fun vk h => by simpa [State.updCvf] using Core.find?_setCvf_ne _ _ h⟩

/-- What a core holds for its running VF, after a change. -/
theorem cvf_updCvf (s : State) (c : Nat) (f : CoreVf → CoreVf) : (s.updCvf c f).cvf c = f (s.cvf c) := by
  simp [State.cvf, State.updCvf]

/-- A change of a slot is a change of what its core holds for the running VF. -/
theorem updSlot_eq (s : State) (c n : Nat) (f : Slot → Slot) : s.updSlot c n f =
    s.updCvf c fun x => { x with slots := FMap.insert x.slots n (f (FMap.getD x.slots n {})) } := rfl

/-- A change of one slot changes nothing else. -/
theorem onlySlot_updSlot (s : State) (c n : Nat) (f : Slot → Slot) : OnlySlot c n s (s.updSlot c n f) :=
  ⟨by rw [updSlot_eq]; exact onlyCvf_updCvf s c _, by rw [updSlot_eq, cvf_updCvf],
    fun _ h => State.slot_updSlot_ne s f (by simp [h])⟩

/-- A change of the executing slot changes nothing else. -/
theorem becomes_updMe (s : State) (f : Slot → Slot) : Becomes s (s.updMe f) (f s.me) :=
  ⟨onlySlot_updSlot s _ _ f, State.me_updMe s f⟩

/-- The registers of a slot after a write (R5). -/
theorem Slot.regs_wg (x : Slot) (d : BitVec 6) (v : Word) : Regs x (x.wg d v) d v := by
  intro n
  by_cases h : d = 0
  · subst h; rw [if_neg (by simp)]; rfl
  · by_cases hn : n.val = d.toNat
    · have h0 : n.val ≠ 0 := fun e => h (BitVec.eq_of_toNat_eq (by simp [← hn, e]))
      rw [if_pos ⟨hn, h0⟩]
      simp only [Fin.getElem_fin, hn]
      exact Slot.wg_self x v h
    · simp only [hn, false_and, if_false]
      exact Slot.wg_ne x d v n.isLt hn

/-- The predicates of a slot after a write (R5). -/
theorem Slot.preds_wp (x : Slot) (q : BitVec 3) (v : Bool) : Preds x (x.wp q v) q v := by
  intro n
  unfold Slot.wp
  by_cases h : q = 0
  · subst h; simp
  · rw [if_neg h]
    have hq : q.toNat ≠ 0 := fun e => h (BitVec.eq_of_toNat_eq (by simp [e]))
    have hq8 : q.toNat < 8 := q.isLt
    by_cases hn : n.val = q.toNat
    · rw [if_pos ⟨hn, by omega⟩]
      cases v <;> simp [setBit8, hn, hq8]
    · rw [if_neg (by tauto)]
      have hlt := n.isLt
      cases v <;> simp [setBit8, hlt] <;> omega

/-- What a write of a general register of the executing slot does. -/
theorem writesG_wg (s : State) (d : BitVec 6) (v : Word) : WritesG s d v (s.wg d v) := by
  refine ⟨⟨by unfold State.wg State.updMe; exact onlySlot_updSlot s _ _ _, ?_⟩, by simpa using Slot.regs_wg s.me d v⟩
  rw [State.me_wg]; unfold Slot.wg; split <;> rfl

/-- What a write of a predicate of the executing slot does. -/
theorem writesP_wp (s : State) (q : BitVec 3) (v : Bool) : WritesP s q v (s.wp q v) := by
  refine ⟨⟨by unfold State.wp State.updMe; exact onlySlot_updSlot s _ _ _, ?_⟩, by simpa using Slot.preds_wp s.me q v⟩
  rw [State.me_wp]; unfold Slot.wp; split <;> rfl

/-- Taking a synchronous trap that is not fatal (R224, R228). -/
theorem takeTrap_tookTrap (s : State) (c n : Nat) (cause : Nat) (val : Word)
    (ht : (s.cvf c).tvec ≠ 0) (hs : (s.slot c n).inTrap = false) :
    TookTrap c n cause val s (s.takeTrap c n true cause val) := by
  unfold State.takeTrap
  simp only [hs, Bool.and_false, Bool.false_or, decide_eq_true_eq, ht, if_false]
  refine ⟨onlySlot_updSlot s c n _, ?_⟩
  simp [Slot.enter, Slot.trapped]

/-- A core keeps its running VF where nothing but what it holds for that VF is different. -/
theorem OnlyCvf.vk {c : Nat} {s t : State} (h : OnlyCvf c s t) : t.vk c = s.vk c := by
  have := congrArg Core.vf h.rest
  simp only at this
  simp [State.vk, Core.vkey, this]

theorem OnlyCores.trans {s t u : State} (h : OnlyCores s t) (g : OnlyCores t u) : OnlyCores s u := by
  have e := congrArg (fun v : State => { v with cores := s.cores }) g
  exact e.trans h

/-- Two changes of one slot. -/
theorem OnlySlot.trans {c n : Nat} {s t u : State} (h : OnlySlot c n s t) (g : OnlySlot c n t u) : OnlySlot c n s u where
  cvf := ⟨⟨h.cvf.core.rest.trans g.cvf.core.rest, fun d hd => (g.cvf.core.cores d hd).trans (h.cvf.core.cores d hd)⟩,
    g.cvf.rest.trans h.cvf.rest,
    fun vk hv => (g.cvf.vfs vk (by rwa [h.cvf.vk])).trans (h.cvf.vfs vk hv)⟩
  rest := g.rest.trans h.rest
  slots := fun m hm => (g.slots m hm).trans (h.slots m hm)

theorem OnlySlot.cur {c n : Nat} {s t : State} (h : OnlySlot c n s t) : t.cur = s.cur :=
  (congrArg State.cur h.cvf.core.rest : { t with cores := s.cores }.cur = s.cur)

/-- A table load takes its place in issue order in its slot alone; the order's clock goes on (R90). -/
theorem issuesDtld_becomes (s : State) (y : Nat) : Becomes s { s.issuesDtld y with tick := s.tick }
    { s.me with dtld := some (y, (s.me.dtld.map (·.2)).getD s.tick) } :=
  becomes_updMe s fun x => { x with dtld := some (y, (x.dtld.map (·.2)).getD s.tick) }

/-- A synchronous trap of the executing bundle that is not fatal (R224, R225). -/
theorem raise_tookTrap (s : State) (cause : Nat) (val : Word) (h : CanTrap s) :
    TookTrap s.cur.core s.cur.slot cause val s (s.raise cause val) := by
  have ⟨h1, h2⟩ := takeTrap_tookTrap s s.cur.core s.cur.slot cause val h.1 h.2
  have hc := h1.cur
  unfold State.raise
  generalize s.takeTrap s.cur.core s.cur.slot true cause val = t at *
  have h3 := (becomes_updMe t fun x => { x with fate := .trap cause val }).1
  rw [hc] at h3
  refine ⟨h1.trans h3, ?_⟩
  have h4 : (t.updMe fun x => { x with fate := .trap cause val }).slot s.cur.core s.cur.slot =
      { t.slot s.cur.core s.cur.slot with fate := .trap cause val } := by rw [← hc]; simp
  rw [h4, h2]

/-- A trap of an instruction whose meaning raises it. -/
theorem traps_of_raise {i : Instr} {s : State} {cause : Nat} {val : Word} (h : exec i s = .next (s.raise cause val)) :
    Traps i s cause val := fun hc => ⟨_, h, raise_tookTrap s cause val hc⟩

end Sys2Proof.Machine
end

