-- ==== Sys2Proof/Laws/Memory.lean ====
section
/-! SUPPORT. Laws of memory: a read after a write, and that every write keeps the canonical form. -/

namespace Sys2Proof.Machine.Memory

/-- A read of the byte written gives it. -/
@[simp] theorem get_set_self (m : Memory) (a : Nat) (b : Byte) : (m.set a b).get a = b := by
  unfold Memory.get Memory.set
  split
  · rename_i h; simp [h]
  · simp

/-- A write of one byte leaves every other byte alone. -/
theorem get_set_ne (m : Memory) {a c : Nat} (b : Byte) (h : c ≠ a) : (m.set a b).get c = m.get c := by
  unfold Memory.get Memory.set
  split
  · exact FMap.getD_erase_ne m _ h
  · exact FMap.getD_insert_ne m _ _ h

/-- A write leaves every byte outside it alone. -/
theorem get_write_outside (m : Memory) (a c : Nat) (bs : List Byte) (h : c < a ∨ a + bs.length ≤ c) :
    (m.write a bs).get c = m.get c := by
  induction bs generalizing m a with
  | nil => rfl
  | cons b r ih =>
    simp only [List.length_cons] at h
    rw [Memory.write, ih _ _ (by omega), get_set_ne _ _ (by omega)]

/-- A read inside a write gives the byte written there. -/
theorem get_write_inside (m : Memory) (a i : Nat) (bs : List Byte) (h : i < bs.length) :
    (m.write a bs).get (a + i) = bs[i] := by
  induction bs generalizing m a i with
  | nil => simp at h
  | cons b r ih =>
    rw [Memory.write]
    cases i with
    | zero => rw [get_write_outside _ _ _ _ (by omega)]; simp
    | succ i =>
      have := ih (m.set a b) (a + 1) i (by simpa using h)
      rw [show a + (i + 1) = a + 1 + i by omega, this]
      rfl

/-- A read of n bytes has n bytes. -/
@[simp] theorem length_read (m : Memory) (a n : Nat) : (m.read a n).length = n := by
  induction n generalizing a with
  | zero => rfl
  | succ n ih => simp [Memory.read, ih]

/-- A read of the range written gives the bytes written. -/
theorem read_write (m : Memory) (a : Nat) (bs : List Byte) : (m.write a bs).read a bs.length = bs := by
  suffices h : ∀ (n k : Nat), k + n = bs.length → (m.write a bs).read (a + k) n = bs.drop k by
    simpa using h bs.length 0 (by omega)
  intro n
  induction n with
  | zero => intro k hk; simp [Memory.read, show bs.length ≤ k by omega]
  | succ n ih =>
    intro k hk
    rw [Memory.read, get_write_inside m a k bs (by omega), Nat.add_assoc, ih (k + 1) (by omega)]
    exact (List.drop_eq_getElem_cons (by omega)).symm

/-- A read outside a write gives what it gave before. -/
theorem read_write_outside (m : Memory) (a : Nat) (bs : List Byte) (c n : Nat)
    (h : c + n ≤ a ∨ a + bs.length ≤ c) : (m.write a bs).read c n = m.read c n := by
  induction n generalizing c with
  | zero => rfl
  | succ n ih => rw [Memory.read, Memory.read, get_write_outside _ _ _ _ (by omega), ih _ (by omega)]

/-- A write of one byte keeps the canonical form. -/
theorem wf_set {m : Memory} (a : Nat) (b : Byte) (h : m.wf = true) : (m.set a b).wf = true := by
  simp only [Memory.wf, Bool.and_eq_true, List.all_eq_true, decide_eq_true_eq] at *
  unfold Memory.set
  split
  · exact ⟨FMap.sorted_erase a h.1, fun e he => h.2 e (FMap.mem_erase he)⟩
  · refine ⟨FMap.sorted_insert a b h.1, fun e he => ?_⟩
    rcases FMap.mem_insert he with rfl | he
    · assumption
    · exact h.2 e he

/-- A write keeps the canonical form. -/
theorem wf_write {m : Memory} (a : Nat) (bs : List Byte) (h : m.wf = true) : (m.write a bs).wf = true := by
  induction bs generalizing m a with
  | nil => exact h
  | cons b r ih => exact ih _ (wf_set a b h)

/-- The memory after reset has the canonical form. -/
theorem wf_boot : Memory.boot.wf = true := by decide

end Sys2Proof.Machine.Memory
end

