-- ==== Sys2Proof/Laws/PerInstr.lean ====
section
/-! SUPPORT. A family of laws over all instructions: the word of an instruction leaves bit 31 to its bundle, and a privileged instruction
is a C-word (R58, R59, R231). -/

namespace Sys2Proof.Laws.Encodes

set_option Elab.async false

/-- The word of an instruction lies below bit 31, and that of a privileged one below bit 30. -/
def Statement (i : Instr) : Prop := ∀ w, encode i = some w → w < 2 ^ 31 ∧ (i.privileged = true → w < 2 ^ 30)

/-- The fields of a word of this shape lie in its 24 low bits. -/
theorem enc0_lt (m : Nat) (x : BitVec 3) (y : BitVec 20) : enc0 m x y < m + 2 ^ 24 := by
  have hx := x.isLt
  have hy := y.isLt
  simp only [enc0]; omega

/-- The fields of a word of this shape lie in its 24 low bits. -/
theorem enc1_lt (m : Nat) (x : BitVec 6) (y : BitVec 18) : enc1 m x y < m + 2 ^ 24 := by
  have hx := x.isLt
  have hy := y.isLt
  simp only [enc1]; omega

/-- The fields of a word of this shape lie in its 24 low bits. -/
theorem enc2_lt (m : Nat) (x : BitVec 6) (y : BitVec 6) (z : BitVec 12) : enc2 m x y z < m + 2 ^ 24 := by
  have hx := x.isLt
  have hy := y.isLt
  have hz := z.isLt
  simp only [enc2]; omega

/-- The fields of a word of this shape lie in its 24 low bits. -/
theorem enc3_lt (m : Nat) (x : BitVec 18) : enc3 m x < m + 2 ^ 24 := by
  have hx := x.isLt
  simp only [enc3]; omega

/-- The fields of a word of this shape lie in its 24 low bits. -/
theorem enc4_lt (m : Nat) (x : BitVec 6) (y : BitVec 6) (z : BitVec 1) (u : BitVec 2) (v : BitVec 2) (t : BitVec 1) : enc4 m x y z u v t < m + 2 ^ 24 := by
  have hx := x.isLt
  have hy := y.isLt
  have hz := z.isLt
  have hu := u.isLt
  have hv := v.isLt
  have ht := t.isLt
  simp only [enc4]; omega

/-- The fields of a word of this shape lie in its 24 low bits. -/
theorem enc5_lt (m : Nat) (x : BitVec 6) (y : BitVec 6) (z : BitVec 2) (u : BitVec 2) (v : BitVec 1) : enc5 m x y z u v < m + 2 ^ 24 := by
  have hx := x.isLt
  have hy := y.isLt
  have hz := z.isLt
  have hu := u.isLt
  have hv := v.isLt
  simp only [enc5]; omega

/-- The fields of a word of this shape lie in its 24 low bits. -/
theorem enc6_lt (m : Nat) (x : BitVec 6) (y : BitVec 6) (z : BitVec 6) (u : BitVec 2) (v : BitVec 2) (t : BitVec 1) : enc6 m x y z u v t < m + 2 ^ 24 := by
  have hx := x.isLt
  have hy := y.isLt
  have hz := z.isLt
  have hu := u.isLt
  have hv := v.isLt
  have ht := t.isLt
  simp only [enc6]; omega

/-- The fields of a word of this shape lie in its 24 low bits. -/
theorem enc7_lt (m : Nat) (x : BitVec 6) (y : BitVec 6) (z : BitVec 6) (u : BitVec 2) (v : BitVec 2) : enc7 m x y z u v < m + 2 ^ 24 := by
  have hx := x.isLt
  have hy := y.isLt
  have hz := z.isLt
  have hu := u.isLt
  have hv := v.isLt
  simp only [enc7]; omega

/-- The fields of a word of this shape lie in its 24 low bits. -/
theorem enc8_lt (m : Nat) (x : BitVec 2) (y : BitVec 2) : enc8 m x y < m + 2 ^ 24 := by
  have hx := x.isLt
  have hy := y.isLt
  simp only [enc8]; omega

/-- The fields of a word of this shape lie in its 24 low bits. -/
theorem enc9_lt (m : Nat) (x : BitVec 6) (y : BitVec 6) (z : BitVec 6) (u : BitVec 2) (v : BitVec 1) (t : BitVec 1) : enc9 m x y z u v t < m + 2 ^ 24 := by
  have hx := x.isLt
  have hy := y.isLt
  have hz := z.isLt
  have hu := u.isLt
  have hv := v.isLt
  have ht := t.isLt
  simp only [enc9]; omega

/-- The fields of a word of this shape lie in its 24 low bits. -/
theorem enc10_lt (m : Nat) (x : BitVec 3) (y : BitVec 6) (z : BitVec 6) (u : BitVec 6) : enc10 m x y z u < m + 2 ^ 24 := by
  have hx := x.isLt
  have hy := y.isLt
  have hz := z.isLt
  have hu := u.isLt
  simp only [enc10]; omega

/-- The fields of a word of this shape lie in its 24 low bits. -/
theorem enc11_lt (m : Nat) (x : BitVec 4) : enc11 m x < m + 2 ^ 24 := by
  have hx := x.isLt
  simp only [enc11]; omega

/-- The fields of a word of this shape lie in its 24 low bits. -/
theorem enc12_lt (m : Nat) (x : BitVec 6) (y : BitVec 6) : enc12 m x y < m + 2 ^ 24 := by
  have hx := x.isLt
  have hy := y.isLt
  simp only [enc12]; omega

/-- The fields of a word of this shape lie in its 24 low bits. -/
theorem enc13_lt (m : Nat) (x : BitVec 6) (y : BitVec 6) (z : BitVec 6) : enc13 m x y z < m + 2 ^ 24 := by
  have hx := x.isLt
  have hy := y.isLt
  have hz := z.isLt
  simp only [enc13]; omega

/-- The fields of a word of this shape lie in its 24 low bits. -/
theorem enc14_lt (m : Nat) (x : BitVec 6) : enc14 m x < m + 2 ^ 24 := by
  have hx := x.isLt
  simp only [enc14]; omega

/-- The fields of a word of this shape lie in its 24 low bits. -/
theorem enc15_lt (m : Nat) (x : BitVec 6) (y : BitVec 6) : enc15 m x y < m + 2 ^ 24 := by
  have hx := x.isLt
  have hy := y.isLt
  simp only [enc15]; omega

/-- The fields of a word of this shape lie in its 24 low bits. -/
theorem enc16_lt (m : Nat) (x : BitVec 6) (y : BitVec 6) (z : BitVec 6) (u : BitVec 4) : enc16 m x y z u < m + 2 ^ 24 := by
  have hx := x.isLt
  have hy := y.isLt
  have hz := z.isLt
  have hu := u.isLt
  simp only [enc16]; omega

/-- The fields of a word of this shape lie in its 24 low bits. -/
theorem enc17_lt (m : Nat) (x : BitVec 6) : enc17 m x < m + 2 ^ 24 := by
  have hx := x.isLt
  simp only [enc17]; omega

/-- The fields of a word of this shape lie in its 24 low bits. -/
theorem enc18_lt (m : Nat) (x : BitVec 6) (y : BitVec 2) : enc18 m x y < m + 2 ^ 24 := by
  have hx := x.isLt
  have hy := y.isLt
  simp only [enc18]; omega

/-- The fields of a word of this shape lie in its 24 low bits. -/
theorem enc19_lt (m : Nat) (x : BitVec 1) (y : BitVec 5) (z : BitVec 6) (u : BitVec 6) (v : BitVec 3) : enc19 m x y z u v < m + 2 ^ 24 := by
  have hx := x.isLt
  have hy := y.isLt
  have hz := z.isLt
  have hu := u.isLt
  have hv := v.isLt
  simp only [enc19]; omega

/-- The fields of a word of this shape lie in its 24 low bits. -/
theorem enc20_lt (m : Nat) (x : BitVec 1) (y : BitVec 5) (z : BitVec 6) (u : BitVec 5) (v : BitVec 3) : enc20 m x y z u v < m + 2 ^ 24 := by
  have hx := x.isLt
  have hy := y.isLt
  have hz := z.isLt
  have hu := u.isLt
  have hv := v.isLt
  simp only [enc20]; omega

/-- The fields of a word of this shape lie in its 24 low bits. -/
theorem enc21_lt (m : Nat) (x : BitVec 6) (y : BitVec 12) : enc21 m x y < m + 2 ^ 24 := by
  have hx := x.isLt
  have hy := y.isLt
  simp only [enc21]; omega

/-- The fields of a word of this shape lie in its 24 low bits. -/
theorem enc22_lt (m : Nat) (x : BitVec 6) (y : BitVec 12) : enc22 m x y < m + 2 ^ 24 := by
  have hx := x.isLt
  have hy := y.isLt
  simp only [enc22]; omega

/-- The fields of a word of this shape lie in its 24 low bits. -/
theorem enc23_lt (m : Nat) (x : BitVec 6) : enc23 m x < m + 2 ^ 24 := by
  have hx := x.isLt
  simp only [enc23]; omega

/-- The fields of a word of this shape lie in its 24 low bits. -/
theorem enc24_lt (m : Nat) (x : BitVec 6) (y : BitVec 6) (z : BitVec 6) (u : BitVec 1) : enc24 m x y z u < m + 2 ^ 24 := by
  have hx := x.isLt
  have hy := y.isLt
  have hz := z.isLt
  have hu := u.isLt
  simp only [enc24]; omega

/-- The fields of a word of this shape lie in its 24 low bits. -/
theorem enc25_lt (m : Nat) (x : BitVec 6) (y : BitVec 6) (z : BitVec 1) : enc25 m x y z < m + 2 ^ 24 := by
  have hx := x.isLt
  have hy := y.isLt
  have hz := z.isLt
  simp only [enc25]; omega

/-- The fields of a word of this shape lie in its 24 low bits. -/
theorem enc26_lt (m : Nat) (x : BitVec 6) (y : BitVec 6) (z : BitVec 1) (u : BitVec 6) : enc26 m x y z u < m + 2 ^ 24 := by
  have hx := x.isLt
  have hy := y.isLt
  have hz := z.isLt
  have hu := u.isLt
  simp only [enc26]; omega

/-- The fields of a word of this shape lie in its 24 low bits. -/
theorem enc27_lt (m : Nat) (x : BitVec 3) (y : BitVec 3) (z : BitVec 6) (u : BitVec 6) (v : BitVec 1) : enc27 m x y z u v < m + 2 ^ 24 := by
  have hx := x.isLt
  have hy := y.isLt
  have hz := z.isLt
  have hu := u.isLt
  have hv := v.isLt
  simp only [enc27]; omega

/-- The fields of a word of this shape lie in its 24 low bits. -/
theorem enc28_lt (m : Nat) (x : BitVec 3) (y : BitVec 3) (z : BitVec 6) (u : BitVec 12) : enc28 m x y z u < m + 2 ^ 24 := by
  have hx := x.isLt
  have hy := y.isLt
  have hz := z.isLt
  have hu := u.isLt
  simp only [enc28]; omega

/-- The fields of a word of this shape lie in its 24 low bits. -/
theorem enc29_lt (m : Nat) (x : BitVec 3) (y : BitVec 3) (z : BitVec 3) (u : BitVec 1) (v : BitVec 1) : enc29 m x y z u v < m + 2 ^ 24 := by
  have hx := x.isLt
  have hy := y.isLt
  have hz := z.isLt
  have hu := u.isLt
  have hv := v.isLt
  simp only [enc29]; omega

/-- The fields of a word of this shape lie in its 24 low bits. -/
theorem enc30_lt (m : Nat) (x : BitVec 6) (y : BitVec 6) (z : BitVec 6) (u : BitVec 3) : enc30 m x y z u < m + 2 ^ 24 := by
  have hx := x.isLt
  have hy := y.isLt
  have hz := z.isLt
  have hu := u.isLt
  simp only [enc30]; omega

/-- The fields of a word of this shape lie in its 24 low bits. -/
theorem enc31_lt (m : Nat) (x : BitVec 6) (y : BitVec 6) (z : BitVec 6) (u : BitVec 6) : enc31 m x y z u < m + 2 ^ 24 := by
  have hx := x.isLt
  have hy := y.isLt
  have hz := z.isLt
  have hu := u.isLt
  simp only [enc31]; omega

/-- The fields of a word of this shape lie in its 24 low bits. -/
theorem enc32_lt (m : Nat) (x : BitVec 3) (y : BitVec 2) (z : BitVec 6) (u : BitVec 6) (v : BitVec 1) : enc32 m x y z u v < m + 2 ^ 24 := by
  have hx := x.isLt
  have hy := y.isLt
  have hz := z.isLt
  have hu := u.isLt
  have hv := v.isLt
  simp only [enc32]; omega

/-- The fields of a word of this shape lie in its 24 low bits. -/
theorem enc33_lt (m : Nat) (x : BitVec 3) (y : BitVec 6) (z : BitVec 4) : enc33 m x y z < m + 2 ^ 24 := by
  have hx := x.isLt
  have hy := y.isLt
  have hz := z.isLt
  simp only [enc33]; omega

/-- The fields of a word of this shape lie in its 24 low bits. -/
theorem enc34_lt (m : Nat) (x : BitVec 6) (y : BitVec 6) (z : BitVec 3) (u : BitVec 4) : enc34 m x y z u < m + 2 ^ 24 := by
  have hx := x.isLt
  have hy := y.isLt
  have hz := z.isLt
  have hu := u.isLt
  simp only [enc34]; omega

/-- The fields of a word of this shape lie in its 24 low bits. -/
theorem enc35_lt (m : Nat) (x : BitVec 6) (y : BitVec 6) (z : BitVec 4) : enc35 m x y z < m + 2 ^ 24 := by
  have hx := x.isLt
  have hy := y.isLt
  have hz := z.isLt
  simp only [enc35]; omega

/-- The fields of a word of this shape lie in its 24 low bits. -/
theorem enc36_lt (m : Nat) (x : BitVec 6) (y : BitVec 6) (z : BitVec 2) (u : BitVec 4) : enc36 m x y z u < m + 2 ^ 24 := by
  have hx := x.isLt
  have hy := y.isLt
  have hz := z.isLt
  have hu := u.isLt
  simp only [enc36]; omega

/-- The fields of a word of this shape lie in its 24 low bits. -/
theorem enc37_lt (m : Nat) (x : BitVec 1) (y : BitVec 5) (z : BitVec 5) (u : BitVec 5) (v : BitVec 3) : enc37 m x y z u v < m + 2 ^ 24 := by
  have hx := x.isLt
  have hy := y.isLt
  have hz := z.isLt
  have hu := u.isLt
  have hv := v.isLt
  simp only [enc37]; omega

/-- The fields of a word of this shape lie in its 24 low bits. -/
theorem enc38_lt (m : Nat) (x : BitVec 1) (y : BitVec 5) (z : BitVec 5) (u : BitVec 5) (v : BitVec 3) (t : BitVec 5) : enc38 m x y z u v t < m + 2 ^ 24 := by
  have hx := x.isLt
  have hy := y.isLt
  have hz := z.isLt
  have hu := u.isLt
  have hv := v.isLt
  have ht := t.isLt
  simp only [enc38]; omega

/-- The fields of a word of this shape lie in its 24 low bits. -/
theorem enc39_lt (m : Nat) (x : BitVec 1) (y : BitVec 5) (z : BitVec 5) (u : BitVec 3) (v : BitVec 2) : enc39 m x y z u v < m + 2 ^ 24 := by
  have hx := x.isLt
  have hy := y.isLt
  have hz := z.isLt
  have hu := u.isLt
  have hv := v.isLt
  simp only [enc39]; omega

/-- The fields of a word of this shape lie in its 24 low bits. -/
theorem enc40_lt (m : Nat) (x : BitVec 5) (y : BitVec 5) (z : BitVec 5) (u : BitVec 3) : enc40 m x y z u < m + 2 ^ 24 := by
  have hx := x.isLt
  have hy := y.isLt
  have hz := z.isLt
  have hu := u.isLt
  simp only [enc40]; omega

/-- The fields of a word of this shape lie in its 24 low bits. -/
theorem enc41_lt (m : Nat) (x : BitVec 1) (y : BitVec 5) (z : BitVec 5) (u : BitVec 3) (v : BitVec 4) : enc41 m x y z u v < m + 2 ^ 24 := by
  have hx := x.isLt
  have hy := y.isLt
  have hz := z.isLt
  have hu := u.isLt
  have hv := v.isLt
  simp only [enc41]; omega

/-- The fields of a word of this shape lie in its 24 low bits. -/
theorem enc42_lt (m : Nat) (x : BitVec 1) (y : BitVec 6) (z : BitVec 5) (u : BitVec 3) : enc42 m x y z u < m + 2 ^ 24 := by
  have hx := x.isLt
  have hy := y.isLt
  have hz := z.isLt
  have hu := u.isLt
  simp only [enc42]; omega

/-- The fields of a word of this shape lie in its 24 low bits. -/
theorem enc43_lt (m : Nat) (x : BitVec 1) (y : BitVec 5) (z : BitVec 6) (u : BitVec 3) : enc43 m x y z u < m + 2 ^ 24 := by
  have hx := x.isLt
  have hy := y.isLt
  have hz := z.isLt
  have hu := u.isLt
  simp only [enc43]; omega

/-- The fields of a word of this shape lie in its 24 low bits. -/
theorem enc44_lt (m : Nat) (x : BitVec 6) (y : BitVec 5) (z : BitVec 6) (u : BitVec 3) : enc44 m x y z u < m + 2 ^ 24 := by
  have hx := x.isLt
  have hy := y.isLt
  have hz := z.isLt
  have hu := u.isLt
  simp only [enc44]; omega

/-- The fields of a word of this shape lie in its 24 low bits. -/
theorem enc45_lt (m : Nat) (x : BitVec 1) (y : BitVec 5) (z : BitVec 5) (u : BitVec 3) : enc45 m x y z u < m + 2 ^ 24 := by
  have hx := x.isLt
  have hy := y.isLt
  have hz := z.isLt
  have hu := u.isLt
  simp only [enc45]; omega

/-- The fields of a word of this shape lie in its 24 low bits. -/
theorem enc46_lt (m : Nat) (x : BitVec 1) (y : BitVec 5) (z : BitVec 6) : enc46 m x y z < m + 2 ^ 24 := by
  have hx := x.isLt
  have hy := y.isLt
  have hz := z.isLt
  simp only [enc46]; omega

/-- The fields of a word of this shape lie in its 24 low bits. -/
theorem enc47_lt (m : Nat) (x : BitVec 1) (y : BitVec 5) (z : BitVec 4) : enc47 m x y z < m + 2 ^ 24 := by
  have hx := x.isLt
  have hy := y.isLt
  have hz := z.isLt
  simp only [enc47]; omega

/-- The fields of a word of this shape lie in its 24 low bits. -/
theorem enc48_lt (m : Nat) (x : BitVec 5) (y : BitVec 5) (z : BitVec 4) : enc48 m x y z < m + 2 ^ 24 := by
  have hx := x.isLt
  have hy := y.isLt
  have hz := z.isLt
  simp only [enc48]; omega

/-- The fields of a word of this shape lie in its 24 low bits. -/
theorem enc49_lt (m : Nat) (x : BitVec 1) (y : BitVec 5) (z : BitVec 1) : enc49 m x y z < m + 2 ^ 24 := by
  have hx := x.isLt
  have hy := y.isLt
  have hz := z.isLt
  simp only [enc49]; omega

/-- The word of an SWR of a selector below 4,096. -/
theorem swrWord_lt (s : Nat) (a : BitVec 6) (h : s < 4096) : swrWord s a < 2 ^ 31 := by
  have ha := a.isLt
  simp only [swrWord]; omega

theorem br (p : BitVec 3) (o : BitVec 20) : Statement (.br p o) := fun w h => by
  obtain rfl := Option.some.inj h
  exact ⟨Nat.lt_of_lt_of_le (enc0_lt ..) (by decide), fun h => nomatch (h : false = true)⟩
theorem brn (p : BitVec 3) (o : BitVec 20) : Statement (.brn p o) := fun w h => by
  obtain rfl := Option.some.inj h
  exact ⟨Nat.lt_of_lt_of_le (enc0_lt ..) (by decide), fun h => nomatch (h : false = true)⟩
theorem jal (d : BitVec 6) (i : BitVec 18) : Statement (.jal d i) := fun w h => by
  obtain rfl := Option.some.inj h
  exact ⟨Nat.lt_of_lt_of_le (enc1_lt ..) (by decide), fun h => nomatch (h : false = true)⟩
theorem jalr (d : BitVec 6) (a : BitVec 6) (i : BitVec 12) : Statement (.jalr d a i) := fun w h => by
  obtain rfl := Option.some.inj h
  exact ⟨Nat.lt_of_lt_of_le (enc2_lt ..) (by decide), fun h => nomatch (h : false = true)⟩
theorem exit : Statement .exit := fun w h => by
  obtain rfl := Option.some.inj h
  exact ⟨by decide, fun h => nomatch (h : false = true)⟩
theorem trap (i : BitVec 18) : Statement (.trap i) := fun w h => by
  obtain rfl := Option.some.inj h
  exact ⟨Nat.lt_of_lt_of_le (enc3_lt ..) (by decide), fun h => nomatch (h : false = true)⟩
theorem tret : Statement .tret := fun w h => by
  obtain rfl := Option.some.inj h
  exact ⟨by decide, fun h => nomatch (h : false = true)⟩
theorem dbrk (i : BitVec 18) : Statement (.dbrk i) := fun w h => by
  obtain rfl := Option.some.inj h
  exact ⟨Nat.lt_of_lt_of_le (enc3_lt ..) (by decide), fun h => nomatch (h : false = true)⟩
theorem ldb (t : BitVec 6) (a : BitVec 6) (i : BitVec 12) : Statement (.ldb t a i) := fun w h => by
  obtain rfl := Option.some.inj h
  exact ⟨Nat.lt_of_lt_of_le (enc2_lt ..) (by decide), fun h => nomatch (h : false = true)⟩
theorem ldbu (t : BitVec 6) (a : BitVec 6) (i : BitVec 12) : Statement (.ldbu t a i) := fun w h => by
  obtain rfl := Option.some.inj h
  exact ⟨Nat.lt_of_lt_of_le (enc2_lt ..) (by decide), fun h => nomatch (h : false = true)⟩
theorem ldh (t : BitVec 6) (a : BitVec 6) (i : BitVec 12) : Statement (.ldh t a i) := fun w h => by
  obtain rfl := Option.some.inj h
  exact ⟨Nat.lt_of_lt_of_le (enc2_lt ..) (by decide), fun h => nomatch (h : false = true)⟩
theorem ldhu (t : BitVec 6) (a : BitVec 6) (i : BitVec 12) : Statement (.ldhu t a i) := fun w h => by
  obtain rfl := Option.some.inj h
  exact ⟨Nat.lt_of_lt_of_le (enc2_lt ..) (by decide), fun h => nomatch (h : false = true)⟩
theorem ldw (t : BitVec 6) (a : BitVec 6) (i : BitVec 12) : Statement (.ldw t a i) := fun w h => by
  obtain rfl := Option.some.inj h
  exact ⟨Nat.lt_of_lt_of_le (enc2_lt ..) (by decide), fun h => nomatch (h : false = true)⟩
theorem ldwu (t : BitVec 6) (a : BitVec 6) (i : BitVec 12) : Statement (.ldwu t a i) := fun w h => by
  obtain rfl := Option.some.inj h
  exact ⟨Nat.lt_of_lt_of_le (enc2_lt ..) (by decide), fun h => nomatch (h : false = true)⟩
theorem ldd (t : BitVec 6) (a : BitVec 6) (i : BitVec 12) : Statement (.ldd t a i) := fun w h => by
  obtain rfl := Option.some.inj h
  exact ⟨Nat.lt_of_lt_of_le (enc2_lt ..) (by decide), fun h => nomatch (h : false = true)⟩
theorem lda (d : BitVec 6) (a : BitVec 6) (e : BitVec 1) (z : BitVec 2) (s : BitVec 2) (o : BitVec 1) : Statement (.lda d a e z s o) := fun w h => by
  obtain rfl := Option.some.inj h
  exact ⟨Nat.lt_of_lt_of_le (enc4_lt ..) (by decide), fun h => nomatch (h : false = true)⟩
theorem stb (t : BitVec 6) (a : BitVec 6) (i : BitVec 12) : Statement (.stb t a i) := fun w h => by
  obtain rfl := Option.some.inj h
  exact ⟨Nat.lt_of_lt_of_le (enc2_lt ..) (by decide), fun h => nomatch (h : false = true)⟩
theorem sth (t : BitVec 6) (a : BitVec 6) (i : BitVec 12) : Statement (.sth t a i) := fun w h => by
  obtain rfl := Option.some.inj h
  exact ⟨Nat.lt_of_lt_of_le (enc2_lt ..) (by decide), fun h => nomatch (h : false = true)⟩
theorem stw (t : BitVec 6) (a : BitVec 6) (i : BitVec 12) : Statement (.stw t a i) := fun w h => by
  obtain rfl := Option.some.inj h
  exact ⟨Nat.lt_of_lt_of_le (enc2_lt ..) (by decide), fun h => nomatch (h : false = true)⟩
theorem std (t : BitVec 6) (a : BitVec 6) (i : BitVec 12) : Statement (.std t a i) := fun w h => by
  obtain rfl := Option.some.inj h
  exact ⟨Nat.lt_of_lt_of_le (enc2_lt ..) (by decide), fun h => nomatch (h : false = true)⟩
theorem str (d : BitVec 6) (a : BitVec 6) (z : BitVec 2) (s : BitVec 2) (o : BitVec 1) : Statement (.str d a z s o) := fun w h => by
  obtain rfl := Option.some.inj h
  exact ⟨Nat.lt_of_lt_of_le (enc5_lt ..) (by decide), fun h => nomatch (h : false = true)⟩
theorem amoadd (d : BitVec 6) (a : BitVec 6) (b : BitVec 6) (s : BitVec 2) (o : BitVec 2) (w : BitVec 1) : Statement (.amoadd d a b s o w) := fun w h => by
  obtain rfl := Option.some.inj h
  exact ⟨Nat.lt_of_lt_of_le (enc6_lt ..) (by decide), fun h => nomatch (h : false = true)⟩
theorem amoand (d : BitVec 6) (a : BitVec 6) (b : BitVec 6) (s : BitVec 2) (o : BitVec 2) (w : BitVec 1) : Statement (.amoand d a b s o w) := fun w h => by
  obtain rfl := Option.some.inj h
  exact ⟨Nat.lt_of_lt_of_le (enc6_lt ..) (by decide), fun h => nomatch (h : false = true)⟩
theorem amoor (d : BitVec 6) (a : BitVec 6) (b : BitVec 6) (s : BitVec 2) (o : BitVec 2) (w : BitVec 1) : Statement (.amoor d a b s o w) := fun w h => by
  obtain rfl := Option.some.inj h
  exact ⟨Nat.lt_of_lt_of_le (enc6_lt ..) (by decide), fun h => nomatch (h : false = true)⟩
theorem amoxor (d : BitVec 6) (a : BitVec 6) (b : BitVec 6) (s : BitVec 2) (o : BitVec 2) (w : BitVec 1) : Statement (.amoxor d a b s o w) := fun w h => by
  obtain rfl := Option.some.inj h
  exact ⟨Nat.lt_of_lt_of_le (enc6_lt ..) (by decide), fun h => nomatch (h : false = true)⟩
theorem amomin (d : BitVec 6) (a : BitVec 6) (b : BitVec 6) (s : BitVec 2) (o : BitVec 2) (w : BitVec 1) : Statement (.amomin d a b s o w) := fun w h => by
  obtain rfl := Option.some.inj h
  exact ⟨Nat.lt_of_lt_of_le (enc6_lt ..) (by decide), fun h => nomatch (h : false = true)⟩
theorem amomax (d : BitVec 6) (a : BitVec 6) (b : BitVec 6) (s : BitVec 2) (o : BitVec 2) (w : BitVec 1) : Statement (.amomax d a b s o w) := fun w h => by
  obtain rfl := Option.some.inj h
  exact ⟨Nat.lt_of_lt_of_le (enc6_lt ..) (by decide), fun h => nomatch (h : false = true)⟩
theorem amominu (d : BitVec 6) (a : BitVec 6) (b : BitVec 6) (s : BitVec 2) (o : BitVec 2) (w : BitVec 1) : Statement (.amominu d a b s o w) := fun w h => by
  obtain rfl := Option.some.inj h
  exact ⟨Nat.lt_of_lt_of_le (enc6_lt ..) (by decide), fun h => nomatch (h : false = true)⟩
theorem amomaxu (d : BitVec 6) (a : BitVec 6) (b : BitVec 6) (s : BitVec 2) (o : BitVec 2) (w : BitVec 1) : Statement (.amomaxu d a b s o w) := fun w h => by
  obtain rfl := Option.some.inj h
  exact ⟨Nat.lt_of_lt_of_le (enc6_lt ..) (by decide), fun h => nomatch (h : false = true)⟩
theorem amoswap (d : BitVec 6) (a : BitVec 6) (b : BitVec 6) (s : BitVec 2) (o : BitVec 2) (w : BitVec 1) : Statement (.amoswap d a b s o w) := fun w h => by
  obtain rfl := Option.some.inj h
  exact ⟨Nat.lt_of_lt_of_le (enc6_lt ..) (by decide), fun h => nomatch (h : false = true)⟩
theorem amofadd (d : BitVec 6) (a : BitVec 6) (b : BitVec 6) (s : BitVec 2) (o : BitVec 2) : Statement (.amofadd d a b s o) := fun w h => by
  obtain rfl := Option.some.inj h
  exact ⟨Nat.lt_of_lt_of_le (enc7_lt ..) (by decide), fun h => nomatch (h : false = true)⟩
theorem cas (d : BitVec 6) (a : BitVec 6) (b : BitVec 6) (s : BitVec 2) (o : BitVec 2) (w : BitVec 1) : Statement (.cas d a b s o w) := fun w h => by
  obtain rfl := Option.some.inj h
  exact ⟨Nat.lt_of_lt_of_le (enc6_lt ..) (by decide), fun h => nomatch (h : false = true)⟩
theorem fence (s : BitVec 2) (o : BitVec 2) : Statement (.fence s o) := fun w h => by
  obtain rfl := Option.some.inj h
  exact ⟨Nat.lt_of_lt_of_le (enc8_lt ..) (by decide), fun h => nomatch (h : false = true)⟩
theorem waitw (d : BitVec 6) (a : BitVec 6) (b : BitVec 6) (s : BitVec 2) (o : BitVec 1) (w : BitVec 1) : Statement (.waitw d a b s o w) := fun w h => by
  obtain rfl := Option.some.inj h
  exact ⟨Nat.lt_of_lt_of_le (enc9_lt ..) (by decide), fun h => nomatch (h : false = true)⟩
theorem waitwt (p : BitVec 3) (a : BitVec 6) (b : BitVec 6) (f : BitVec 6) : Statement (.waitwt p a b f) := fun w h => by
  obtain rfl := Option.some.inj h
  exact ⟨Nat.lt_of_lt_of_le (enc10_lt ..) (by decide), fun _ => Nat.lt_of_lt_of_le (enc10_lt ..) (by decide)⟩
theorem semp (s : BitVec 4) : Statement (.semp s) := fun w h => by
  obtain rfl := Option.some.inj h
  exact ⟨Nat.lt_of_lt_of_le (enc11_lt ..) (by decide), fun h => nomatch (h : false = true)⟩
theorem semv (s : BitVec 4) : Statement (.semv s) := fun w h => by
  obtain rfl := Option.some.inj h
  exact ⟨Nat.lt_of_lt_of_le (enc11_lt ..) (by decide), fun h => nomatch (h : false = true)⟩
theorem cntInc (d : BitVec 6) (a : BitVec 6) : Statement (.cntInc d a) := fun w h => by
  obtain rfl := Option.some.inj h
  exact ⟨Nat.lt_of_lt_of_le (enc12_lt ..) (by decide), fun h => nomatch (h : false = true)⟩
theorem cntDec (d : BitVec 6) (a : BitVec 6) : Statement (.cntDec d a) := fun w h => by
  obtain rfl := Option.some.inj h
  exact ⟨Nat.lt_of_lt_of_le (enc12_lt ..) (by decide), fun h => nomatch (h : false = true)⟩
theorem cntCan (d : BitVec 6) (a : BitVec 6) (b : BitVec 6) : Statement (.cntCan d a b) := fun w h => by
  obtain rfl := Option.some.inj h
  exact ⟨Nat.lt_of_lt_of_le (enc13_lt ..) (by decide), fun h => nomatch (h : false = true)⟩
theorem cntSprd (d : BitVec 6) (a : BitVec 6) (b : BitVec 6) : Statement (.cntSprd d a b) := fun w h => by
  obtain rfl := Option.some.inj h
  exact ⟨Nat.lt_of_lt_of_le (enc13_lt ..) (by decide), fun h => nomatch (h : false = true)⟩
theorem cntBar (a : BitVec 6) : Statement (.cntBar a) := fun w h => by
  obtain rfl := Option.some.inj h
  exact ⟨Nat.lt_of_lt_of_le (enc14_lt ..) (by decide), fun h => nomatch (h : false = true)⟩
theorem cntRdq (d : BitVec 6) (a : BitVec 6) : Statement (.cntRdq d a) := fun w h => by
  obtain rfl := Option.some.inj h
  exact ⟨Nat.lt_of_lt_of_le (enc12_lt ..) (by decide), fun h => nomatch (h : false = true)⟩
theorem cntCfg (a : BitVec 6) (b : BitVec 6) : Statement (.cntCfg a b) := fun w h => by
  obtain rfl := Option.some.inj h
  exact ⟨Nat.lt_of_lt_of_le (enc15_lt ..) (by decide), fun _ => Nat.lt_of_lt_of_le (enc15_lt ..) (by decide)⟩
theorem qEnq (d : BitVec 6) (a : BitVec 6) (b : BitVec 6) : Statement (.qEnq d a b) := fun w h => by
  obtain rfl := Option.some.inj h
  exact ⟨Nat.lt_of_lt_of_le (enc13_lt ..) (by decide), fun h => nomatch (h : false = true)⟩
theorem qDeq (d : BitVec 6) (a : BitVec 6) : Statement (.qDeq d a) := fun w h => by
  obtain rfl := Option.some.inj h
  exact ⟨Nat.lt_of_lt_of_le (enc12_lt ..) (by decide), fun h => nomatch (h : false = true)⟩
theorem qWait (a : BitVec 6) : Statement (.qWait a) := fun w h => by
  obtain rfl := Option.some.inj h
  exact ⟨Nat.lt_of_lt_of_le (enc14_lt ..) (by decide), fun h => nomatch (h : false = true)⟩
theorem qMake (d : BitVec 6) (a : BitVec 6) (b : BitVec 6) : Statement (.qMake d a b) := fun w h => by
  obtain rfl := Option.some.inj h
  exact ⟨Nat.lt_of_lt_of_le (enc13_lt ..) (by decide), fun h => nomatch (h : false = true)⟩
theorem qFree (a : BitVec 6) : Statement (.qFree a) := fun w h => by
  obtain rfl := Option.some.inj h
  exact ⟨Nat.lt_of_lt_of_le (enc14_lt ..) (by decide), fun h => nomatch (h : false = true)⟩
theorem qStat (d : BitVec 6) (a : BitVec 6) : Statement (.qStat d a) := fun w h => by
  obtain rfl := Option.some.inj h
  exact ⟨Nat.lt_of_lt_of_le (enc12_lt ..) (by decide), fun h => nomatch (h : false = true)⟩
theorem spawn (a : BitVec 6) (b : BitVec 6) : Statement (.spawn a b) := fun w h => by
  obtain rfl := Option.some.inj h
  exact ⟨Nat.lt_of_lt_of_le (enc15_lt ..) (by decide), fun h => nomatch (h : false = true)⟩
theorem sync : Statement .sync := fun w h => by
  obtain rfl := Option.some.inj h
  exact ⟨by decide, fun h => nomatch (h : false = true)⟩
theorem tend : Statement .tend := fun w h => by
  obtain rfl := Option.some.inj h
  exact ⟨by decide, fun h => nomatch (h : false = true)⟩
theorem asend (s : BitVec 6) (a : BitVec 6) (b : BitVec 6) (n : BitVec 4) : Statement (.asend s a b n) := fun w h => by
  obtain rfl := Option.some.inj h
  exact ⟨Nat.lt_of_lt_of_le (enc16_lt ..) (by decide), fun h => nomatch (h : false = true)⟩
theorem asendG (s : BitVec 6) (a : BitVec 6) (b : BitVec 6) (n : BitVec 4) : Statement (.asendG s a b n) := fun w h => by
  obtain rfl := Option.some.inj h
  exact ⟨Nat.lt_of_lt_of_le (enc16_lt ..) (by decide), fun h => nomatch (h : false = true)⟩
theorem ibx (d : BitVec 6) : Statement (.ibx d) := fun w h => by
  obtain rfl := Option.some.inj h
  exact ⟨Nat.lt_of_lt_of_le (enc17_lt ..) (by decide), fun h => nomatch (h : false = true)⟩
theorem ibxTry (d : BitVec 6) : Statement (.ibxTry d) := fun w h => by
  obtain rfl := Option.some.inj h
  exact ⟨Nat.lt_of_lt_of_le (enc17_lt ..) (by decide), fun h => nomatch (h : false = true)⟩
theorem setlive (a : BitVec 6) : Statement (.setlive a) := fun w h => by
  obtain rfl := Option.some.inj h
  exact ⟨Nat.lt_of_lt_of_le (enc14_lt ..) (by decide), fun h => nomatch (h : false = true)⟩
theorem cpy (d : BitVec 6) (a : BitVec 6) : Statement (.cpy d a) := fun w h => by
  obtain rfl := Option.some.inj h
  exact ⟨Nat.lt_of_lt_of_le (enc12_lt ..) (by decide), fun h => nomatch (h : false = true)⟩
theorem cpyCvt (d : BitVec 6) (a : BitVec 6) : Statement (.cpyCvt d a) := fun w h => by
  obtain rfl := Option.some.inj h
  exact ⟨Nat.lt_of_lt_of_le (enc12_lt ..) (by decide), fun h => nomatch (h : false = true)⟩
theorem cpyGather (d : BitVec 6) (a : BitVec 6) : Statement (.cpyGather d a) := fun w h => by
  obtain rfl := Option.some.inj h
  exact ⟨Nat.lt_of_lt_of_le (enc12_lt ..) (by decide), fun h => nomatch (h : false = true)⟩
theorem cpyPeer (d : BitVec 6) (a : BitVec 6) : Statement (.cpyPeer d a) := fun w h => by
  obtain rfl := Option.some.inj h
  exact ⟨Nat.lt_of_lt_of_le (enc12_lt ..) (by decide), fun h => nomatch (h : false = true)⟩
theorem cpyFill (d : BitVec 6) (a : BitVec 6) : Statement (.cpyFill d a) := fun w h => by
  obtain rfl := Option.some.inj h
  exact ⟨Nat.lt_of_lt_of_le (enc12_lt ..) (by decide), fun h => nomatch (h : false = true)⟩
theorem mxMul (d : BitVec 6) (a : BitVec 6) : Statement (.mxMul d a) := fun w h => by
  obtain rfl := Option.some.inj h
  exact ⟨Nat.lt_of_lt_of_le (enc12_lt ..) (by decide), fun h => nomatch (h : false = true)⟩
theorem mxRot (d : BitVec 6) (a : BitVec 6) : Statement (.mxRot d a) := fun w h => by
  obtain rfl := Option.some.inj h
  exact ⟨Nat.lt_of_lt_of_le (enc12_lt ..) (by decide), fun h => nomatch (h : false = true)⟩
theorem mxDrain (d : BitVec 6) (a : BitVec 6) : Statement (.mxDrain d a) := fun w h => by
  obtain rfl := Option.some.inj h
  exact ⟨Nat.lt_of_lt_of_le (enc12_lt ..) (by decide), fun h => nomatch (h : false = true)⟩
theorem mxZero (d : BitVec 6) (a : BitVec 6) : Statement (.mxZero d a) := fun w h => by
  obtain rfl := Option.some.inj h
  exact ⟨Nat.lt_of_lt_of_le (enc12_lt ..) (by decide), fun h => nomatch (h : false = true)⟩
theorem mxLoad (d : BitVec 6) (a : BitVec 6) : Statement (.mxLoad d a) := fun w h => by
  obtain rfl := Option.some.inj h
  exact ⟨Nat.lt_of_lt_of_le (enc12_lt ..) (by decide), fun h => nomatch (h : false = true)⟩
theorem jpoll (d : BitVec 6) (a : BitVec 6) : Statement (.jpoll d a) := fun w h => by
  obtain rfl := Option.some.inj h
  exact ⟨Nat.lt_of_lt_of_le (enc12_lt ..) (by decide), fun h => nomatch (h : false = true)⟩
theorem dtld (a : BitVec 6) (s : BitVec 2) : Statement (.dtld a s) := fun w h => by
  obtain rfl := Option.some.inj h
  exact ⟨Nat.lt_of_lt_of_le (enc18_lt ..) (by decide), fun h => nomatch (h : false = true)⟩
theorem vclaim (d : BitVec 6) (a : BitVec 6) (b : BitVec 6) : Statement (.vclaim d a b) := fun w h => by
  obtain rfl := Option.some.inj h
  exact ⟨Nat.lt_of_lt_of_le (enc13_lt ..) (by decide), fun h => nomatch (h : false = true)⟩
theorem vrels : Statement .vrels := fun w h => by
  obtain rfl := Option.some.inj h
  exact ⟨by decide, fun h => nomatch (h : false = true)⟩
theorem vreneg (d : BitVec 6) : Statement (.vreneg d) := fun w h => by
  obtain rfl := Option.some.inj h
  exact ⟨Nat.lt_of_lt_of_le (enc17_lt ..) (by decide), fun h => nomatch (h : false = true)⟩
theorem vfence : Statement .vfence := fun w h => by
  obtain rfl := Option.some.inj h
  exact ⟨by decide, fun h => nomatch (h : false = true)⟩
theorem vld (m : BitVec 1) (t : BitVec 5) (a : BitVec 6) (b : BitVec 6) (z : BitVec 3) : Statement (.vld m t a b z) := fun w h => by
  obtain rfl := Option.some.inj h
  exact ⟨Nat.lt_of_lt_of_le (enc19_lt ..) (by decide), fun h => nomatch (h : false = true)⟩
theorem vst (m : BitVec 1) (t : BitVec 5) (a : BitVec 6) (b : BitVec 6) (z : BitVec 3) : Statement (.vst m t a b z) := fun w h => by
  obtain rfl := Option.some.inj h
  exact ⟨Nat.lt_of_lt_of_le (enc19_lt ..) (by decide), fun h => nomatch (h : false = true)⟩
theorem vgth (m : BitVec 1) (t : BitVec 5) (a : BitVec 6) (v : BitVec 5) (z : BitVec 3) : Statement (.vgth m t a v z) := fun w h => by
  obtain rfl := Option.some.inj h
  exact ⟨Nat.lt_of_lt_of_le (enc20_lt ..) (by decide), fun h => nomatch (h : false = true)⟩
theorem vsct (m : BitVec 1) (t : BitVec 5) (a : BitVec 6) (v : BitVec 5) (z : BitVec 3) : Statement (.vsct m t a v z) := fun w h => by
  obtain rfl := Option.some.inj h
  exact ⟨Nat.lt_of_lt_of_le (enc20_lt ..) (by decide), fun h => nomatch (h : false = true)⟩
theorem srd (d : BitVec 6) (s : BitVec 12) : Statement (.srd d s) := fun w h => by
  obtain rfl := Option.some.inj h
  exact ⟨Nat.lt_of_lt_of_le (enc21_lt ..) (by decide), fun _ => Nat.lt_of_lt_of_le (enc21_lt ..) (by decide)⟩
theorem swr (a : BitVec 6) (s : BitVec 12) : Statement (.swr a s) := fun w h => by
  obtain rfl := Option.some.inj h
  exact ⟨Nat.lt_of_lt_of_le (enc22_lt ..) (by decide), fun _ => Nat.lt_of_lt_of_le (enc22_lt ..) (by decide)⟩
theorem park : Statement .park := fun w h => by
  obtain rfl := Option.some.inj h
  exact ⟨by decide, fun h => nomatch (h : false = true)⟩
theorem tlbwCore (a : BitVec 6) (b : BitVec 6) : Statement (.tlbwCore a b) := fun w h => by
  obtain rfl := Option.some.inj h
  exact ⟨Nat.lt_of_lt_of_le (enc15_lt ..) (by decide), fun _ => Nat.lt_of_lt_of_le (enc15_lt ..) (by decide)⟩
theorem tlbwClus (a : BitVec 6) (b : BitVec 6) : Statement (.tlbwClus a b) := fun w h => by
  obtain rfl := Option.some.inj h
  exact ⟨Nat.lt_of_lt_of_le (enc15_lt ..) (by decide), fun _ => Nat.lt_of_lt_of_le (enc15_lt ..) (by decide)⟩
theorem tlbiPage (a : BitVec 6) (b : BitVec 6) : Statement (.tlbiPage a b) := fun w h => by
  obtain rfl := Option.some.inj h
  exact ⟨Nat.lt_of_lt_of_le (enc15_lt ..) (by decide), fun _ => Nat.lt_of_lt_of_le (enc15_lt ..) (by decide)⟩
theorem tlbiVf (b : BitVec 6) : Statement (.tlbiVf b) := fun w h => by
  obtain rfl := Option.some.inj h
  exact ⟨Nat.lt_of_lt_of_le (enc23_lt ..) (by decide), fun _ => Nat.lt_of_lt_of_le (enc23_lt ..) (by decide)⟩
theorem tlbiAll : Statement .tlbiAll := fun w h => by
  obtain rfl := Option.some.inj h
  exact ⟨by decide, fun _ => by decide⟩
theorem frepRetry (a : BitVec 6) : Statement (.frepRetry a) := fun w h => by
  obtain rfl := Option.some.inj h
  exact ⟨Nat.lt_of_lt_of_le (enc14_lt ..) (by decide), fun _ => Nat.lt_of_lt_of_le (enc14_lt ..) (by decide)⟩
theorem frepKill (a : BitVec 6) : Statement (.frepKill a) := fun w h => by
  obtain rfl := Option.some.inj h
  exact ⟨Nat.lt_of_lt_of_le (enc14_lt ..) (by decide), fun _ => Nat.lt_of_lt_of_le (enc14_lt ..) (by decide)⟩
theorem add (d : BitVec 6) (a : BitVec 6) (b : BitVec 6) (w : BitVec 1) : Statement (.add d a b w) := fun w h => by
  obtain rfl := Option.some.inj h
  exact ⟨Nat.lt_of_lt_of_le (enc24_lt ..) (by decide), fun h => nomatch (h : false = true)⟩
theorem sub (d : BitVec 6) (a : BitVec 6) (b : BitVec 6) (w : BitVec 1) : Statement (.sub d a b w) := fun w h => by
  obtain rfl := Option.some.inj h
  exact ⟨Nat.lt_of_lt_of_le (enc24_lt ..) (by decide), fun h => nomatch (h : false = true)⟩
theorem and (d : BitVec 6) (a : BitVec 6) (b : BitVec 6) (w : BitVec 1) : Statement (.and d a b w) := fun w h => by
  obtain rfl := Option.some.inj h
  exact ⟨Nat.lt_of_lt_of_le (enc24_lt ..) (by decide), fun h => nomatch (h : false = true)⟩
theorem or (d : BitVec 6) (a : BitVec 6) (b : BitVec 6) (w : BitVec 1) : Statement (.or d a b w) := fun w h => by
  obtain rfl := Option.some.inj h
  exact ⟨Nat.lt_of_lt_of_le (enc24_lt ..) (by decide), fun h => nomatch (h : false = true)⟩
theorem xor (d : BitVec 6) (a : BitVec 6) (b : BitVec 6) (w : BitVec 1) : Statement (.xor d a b w) := fun w h => by
  obtain rfl := Option.some.inj h
  exact ⟨Nat.lt_of_lt_of_le (enc24_lt ..) (by decide), fun h => nomatch (h : false = true)⟩
theorem andn (d : BitVec 6) (a : BitVec 6) (b : BitVec 6) (w : BitVec 1) : Statement (.andn d a b w) := fun w h => by
  obtain rfl := Option.some.inj h
  exact ⟨Nat.lt_of_lt_of_le (enc24_lt ..) (by decide), fun h => nomatch (h : false = true)⟩
theorem sll (d : BitVec 6) (a : BitVec 6) (b : BitVec 6) (w : BitVec 1) : Statement (.sll d a b w) := fun w h => by
  obtain rfl := Option.some.inj h
  exact ⟨Nat.lt_of_lt_of_le (enc24_lt ..) (by decide), fun h => nomatch (h : false = true)⟩
theorem srl (d : BitVec 6) (a : BitVec 6) (b : BitVec 6) (w : BitVec 1) : Statement (.srl d a b w) := fun w h => by
  obtain rfl := Option.some.inj h
  exact ⟨Nat.lt_of_lt_of_le (enc24_lt ..) (by decide), fun h => nomatch (h : false = true)⟩
theorem sra (d : BitVec 6) (a : BitVec 6) (b : BitVec 6) (w : BitVec 1) : Statement (.sra d a b w) := fun w h => by
  obtain rfl := Option.some.inj h
  exact ⟨Nat.lt_of_lt_of_le (enc24_lt ..) (by decide), fun h => nomatch (h : false = true)⟩
theorem min (d : BitVec 6) (a : BitVec 6) (b : BitVec 6) (w : BitVec 1) : Statement (.min d a b w) := fun w h => by
  obtain rfl := Option.some.inj h
  exact ⟨Nat.lt_of_lt_of_le (enc24_lt ..) (by decide), fun h => nomatch (h : false = true)⟩
theorem max (d : BitVec 6) (a : BitVec 6) (b : BitVec 6) (w : BitVec 1) : Statement (.max d a b w) := fun w h => by
  obtain rfl := Option.some.inj h
  exact ⟨Nat.lt_of_lt_of_le (enc24_lt ..) (by decide), fun h => nomatch (h : false = true)⟩
theorem minu (d : BitVec 6) (a : BitVec 6) (b : BitVec 6) (w : BitVec 1) : Statement (.minu d a b w) := fun w h => by
  obtain rfl := Option.some.inj h
  exact ⟨Nat.lt_of_lt_of_le (enc24_lt ..) (by decide), fun h => nomatch (h : false = true)⟩
theorem maxu (d : BitVec 6) (a : BitVec 6) (b : BitVec 6) (w : BitVec 1) : Statement (.maxu d a b w) := fun w h => by
  obtain rfl := Option.some.inj h
  exact ⟨Nat.lt_of_lt_of_le (enc24_lt ..) (by decide), fun h => nomatch (h : false = true)⟩
theorem mul (d : BitVec 6) (a : BitVec 6) (b : BitVec 6) (w : BitVec 1) : Statement (.mul d a b w) := fun w h => by
  obtain rfl := Option.some.inj h
  exact ⟨Nat.lt_of_lt_of_le (enc24_lt ..) (by decide), fun h => nomatch (h : false = true)⟩
theorem mulh (d : BitVec 6) (a : BitVec 6) (b : BitVec 6) (w : BitVec 1) : Statement (.mulh d a b w) := fun w h => by
  obtain rfl := Option.some.inj h
  exact ⟨Nat.lt_of_lt_of_le (enc24_lt ..) (by decide), fun h => nomatch (h : false = true)⟩
theorem mulhu (d : BitVec 6) (a : BitVec 6) (b : BitVec 6) (w : BitVec 1) : Statement (.mulhu d a b w) := fun w h => by
  obtain rfl := Option.some.inj h
  exact ⟨Nat.lt_of_lt_of_le (enc24_lt ..) (by decide), fun h => nomatch (h : false = true)⟩
theorem div (d : BitVec 6) (a : BitVec 6) (b : BitVec 6) (w : BitVec 1) : Statement (.div d a b w) := fun w h => by
  obtain rfl := Option.some.inj h
  exact ⟨Nat.lt_of_lt_of_le (enc24_lt ..) (by decide), fun h => nomatch (h : false = true)⟩
theorem divu (d : BitVec 6) (a : BitVec 6) (b : BitVec 6) (w : BitVec 1) : Statement (.divu d a b w) := fun w h => by
  obtain rfl := Option.some.inj h
  exact ⟨Nat.lt_of_lt_of_le (enc24_lt ..) (by decide), fun h => nomatch (h : false = true)⟩
theorem rem (d : BitVec 6) (a : BitVec 6) (b : BitVec 6) (w : BitVec 1) : Statement (.rem d a b w) := fun w h => by
  obtain rfl := Option.some.inj h
  exact ⟨Nat.lt_of_lt_of_le (enc24_lt ..) (by decide), fun h => nomatch (h : false = true)⟩
theorem remu (d : BitVec 6) (a : BitVec 6) (b : BitVec 6) (w : BitVec 1) : Statement (.remu d a b w) := fun w h => by
  obtain rfl := Option.some.inj h
  exact ⟨Nat.lt_of_lt_of_le (enc24_lt ..) (by decide), fun h => nomatch (h : false = true)⟩
theorem clz (d : BitVec 6) (a : BitVec 6) (w : BitVec 1) : Statement (.clz d a w) := fun w h => by
  obtain rfl := Option.some.inj h
  exact ⟨Nat.lt_of_lt_of_le (enc25_lt ..) (by decide), fun h => nomatch (h : false = true)⟩
theorem ctz (d : BitVec 6) (a : BitVec 6) (w : BitVec 1) : Statement (.ctz d a w) := fun w h => by
  obtain rfl := Option.some.inj h
  exact ⟨Nat.lt_of_lt_of_le (enc25_lt ..) (by decide), fun h => nomatch (h : false = true)⟩
theorem popc (d : BitVec 6) (a : BitVec 6) (w : BitVec 1) : Statement (.popc d a w) := fun w h => by
  obtain rfl := Option.some.inj h
  exact ⟨Nat.lt_of_lt_of_le (enc25_lt ..) (by decide), fun h => nomatch (h : false = true)⟩
theorem bswap (d : BitVec 6) (a : BitVec 6) (w : BitVec 1) : Statement (.bswap d a w) := fun w h => by
  obtain rfl := Option.some.inj h
  exact ⟨Nat.lt_of_lt_of_le (enc25_lt ..) (by decide), fun h => nomatch (h : false = true)⟩
theorem addi (d : BitVec 6) (a : BitVec 6) (i : BitVec 12) : Statement (.addi d a i) := fun w h => by
  obtain rfl := Option.some.inj h
  exact ⟨Nat.lt_of_lt_of_le (enc2_lt ..) (by decide), fun h => nomatch (h : false = true)⟩
theorem andi (d : BitVec 6) (a : BitVec 6) (i : BitVec 12) : Statement (.andi d a i) := fun w h => by
  obtain rfl := Option.some.inj h
  exact ⟨Nat.lt_of_lt_of_le (enc2_lt ..) (by decide), fun h => nomatch (h : false = true)⟩
theorem ori (d : BitVec 6) (a : BitVec 6) (i : BitVec 12) : Statement (.ori d a i) := fun w h => by
  obtain rfl := Option.some.inj h
  exact ⟨Nat.lt_of_lt_of_le (enc2_lt ..) (by decide), fun h => nomatch (h : false = true)⟩
theorem xori (d : BitVec 6) (a : BitVec 6) (i : BitVec 12) : Statement (.xori d a i) := fun w h => by
  obtain rfl := Option.some.inj h
  exact ⟨Nat.lt_of_lt_of_le (enc2_lt ..) (by decide), fun h => nomatch (h : false = true)⟩
theorem slli (d : BitVec 6) (a : BitVec 6) (w : BitVec 1) (s : BitVec 6) : Statement (.slli d a w s) := fun w h => by
  obtain rfl := Option.some.inj h
  exact ⟨Nat.lt_of_lt_of_le (enc26_lt ..) (by decide), fun h => nomatch (h : false = true)⟩
theorem srli (d : BitVec 6) (a : BitVec 6) (w : BitVec 1) (s : BitVec 6) : Statement (.srli d a w s) := fun w h => by
  obtain rfl := Option.some.inj h
  exact ⟨Nat.lt_of_lt_of_le (enc26_lt ..) (by decide), fun h => nomatch (h : false = true)⟩
theorem srai (d : BitVec 6) (a : BitVec 6) (w : BitVec 1) (s : BitVec 6) : Statement (.srai d a w s) := fun w h => by
  obtain rfl := Option.some.inj h
  exact ⟨Nat.lt_of_lt_of_le (enc26_lt ..) (by decide), fun h => nomatch (h : false = true)⟩
theorem lui (d : BitVec 6) (i : BitVec 18) : Statement (.lui d i) := fun w h => by
  obtain rfl := Option.some.inj h
  exact ⟨Nat.lt_of_lt_of_le (enc1_lt ..) (by decide), fun h => nomatch (h : false = true)⟩
theorem addpc (d : BitVec 6) (i : BitVec 18) : Statement (.addpc d i) := fun w h => by
  obtain rfl := Option.some.inj h
  exact ⟨Nat.lt_of_lt_of_le (enc1_lt ..) (by decide), fun h => nomatch (h : false = true)⟩
theorem cmp (p : BitVec 3) (c : BitVec 3) (a : BitVec 6) (b : BitVec 6) (w : BitVec 1) : Statement (.cmp p c a b w) := fun w h => by
  obtain rfl := Option.some.inj h
  exact ⟨Nat.lt_of_lt_of_le (enc27_lt ..) (by decide), fun h => nomatch (h : false = true)⟩
theorem cmpi (p : BitVec 3) (c : BitVec 3) (a : BitVec 6) (i : BitVec 12) : Statement (.cmpi p c a i) := fun w h => by
  obtain rfl := Option.some.inj h
  exact ⟨Nat.lt_of_lt_of_le (enc28_lt ..) (by decide), fun h => nomatch (h : false = true)⟩
theorem pand (d : BitVec 3) (a : BitVec 3) (b : BitVec 3) (x : BitVec 1) (y : BitVec 1) : Statement (.pand d a b x y) := fun w h => by
  obtain rfl := Option.some.inj h
  exact ⟨Nat.lt_of_lt_of_le (enc29_lt ..) (by decide), fun h => nomatch (h : false = true)⟩
theorem por (d : BitVec 3) (a : BitVec 3) (b : BitVec 3) (x : BitVec 1) (y : BitVec 1) : Statement (.por d a b x y) := fun w h => by
  obtain rfl := Option.some.inj h
  exact ⟨Nat.lt_of_lt_of_le (enc29_lt ..) (by decide), fun h => nomatch (h : false = true)⟩
theorem pxor (d : BitVec 3) (a : BitVec 3) (b : BitVec 3) (x : BitVec 1) (y : BitVec 1) : Statement (.pxor d a b x y) := fun w h => by
  obtain rfl := Option.some.inj h
  exact ⟨Nat.lt_of_lt_of_le (enc29_lt ..) (by decide), fun h => nomatch (h : false = true)⟩
theorem pandn (d : BitVec 3) (a : BitVec 3) (b : BitVec 3) (x : BitVec 1) (y : BitVec 1) : Statement (.pandn d a b x y) := fun w h => by
  obtain rfl := Option.some.inj h
  exact ⟨Nat.lt_of_lt_of_le (enc29_lt ..) (by decide), fun h => nomatch (h : false = true)⟩
theorem sel (d : BitVec 6) (a : BitVec 6) (b : BitVec 6) (p : BitVec 3) : Statement (.sel d a b p) := fun w h => by
  obtain rfl := Option.some.inj h
  exact ⟨Nat.lt_of_lt_of_le (enc30_lt ..) (by decide), fun h => nomatch (h : false = true)⟩
theorem movpG (d : BitVec 6) : Statement (.movpG d) := fun w h => by
  obtain rfl := Option.some.inj h
  exact ⟨Nat.lt_of_lt_of_le (enc17_lt ..) (by decide), fun h => nomatch (h : false = true)⟩
theorem movpP (a : BitVec 6) : Statement (.movpP a) := fun w h => by
  obtain rfl := Option.some.inj h
  exact ⟨Nat.lt_of_lt_of_le (enc14_lt ..) (by decide), fun h => nomatch (h : false = true)⟩
theorem fadd (d : BitVec 6) (a : BitVec 6) (b : BitVec 6) (x : BitVec 1) : Statement (.fadd d a b x) := fun w h => by
  obtain rfl := Option.some.inj h
  exact ⟨Nat.lt_of_lt_of_le (enc24_lt ..) (by decide), fun h => nomatch (h : false = true)⟩
theorem fsub (d : BitVec 6) (a : BitVec 6) (b : BitVec 6) (x : BitVec 1) : Statement (.fsub d a b x) := fun w h => by
  obtain rfl := Option.some.inj h
  exact ⟨Nat.lt_of_lt_of_le (enc24_lt ..) (by decide), fun h => nomatch (h : false = true)⟩
theorem fmul (d : BitVec 6) (a : BitVec 6) (b : BitVec 6) (x : BitVec 1) : Statement (.fmul d a b x) := fun w h => by
  obtain rfl := Option.some.inj h
  exact ⟨Nat.lt_of_lt_of_le (enc24_lt ..) (by decide), fun h => nomatch (h : false = true)⟩
theorem fmin (d : BitVec 6) (a : BitVec 6) (b : BitVec 6) (x : BitVec 1) : Statement (.fmin d a b x) := fun w h => by
  obtain rfl := Option.some.inj h
  exact ⟨Nat.lt_of_lt_of_le (enc24_lt ..) (by decide), fun h => nomatch (h : false = true)⟩
theorem fmax (d : BitVec 6) (a : BitVec 6) (b : BitVec 6) (x : BitVec 1) : Statement (.fmax d a b x) := fun w h => by
  obtain rfl := Option.some.inj h
  exact ⟨Nat.lt_of_lt_of_le (enc24_lt ..) (by decide), fun h => nomatch (h : false = true)⟩
theorem fsgnj (d : BitVec 6) (a : BitVec 6) (b : BitVec 6) (x : BitVec 1) : Statement (.fsgnj d a b x) := fun w h => by
  obtain rfl := Option.some.inj h
  exact ⟨Nat.lt_of_lt_of_le (enc24_lt ..) (by decide), fun h => nomatch (h : false = true)⟩
theorem fsgnjn (d : BitVec 6) (a : BitVec 6) (b : BitVec 6) (x : BitVec 1) : Statement (.fsgnjn d a b x) := fun w h => by
  obtain rfl := Option.some.inj h
  exact ⟨Nat.lt_of_lt_of_le (enc24_lt ..) (by decide), fun h => nomatch (h : false = true)⟩
theorem fsgnjx (d : BitVec 6) (a : BitVec 6) (b : BitVec 6) (x : BitVec 1) : Statement (.fsgnjx d a b x) := fun w h => by
  obtain rfl := Option.some.inj h
  exact ⟨Nat.lt_of_lt_of_le (enc24_lt ..) (by decide), fun h => nomatch (h : false = true)⟩
theorem fclass (d : BitVec 6) (a : BitVec 6) (x : BitVec 1) : Statement (.fclass d a x) := fun w h => by
  obtain rfl := Option.some.inj h
  exact ⟨Nat.lt_of_lt_of_le (enc25_lt ..) (by decide), fun h => nomatch (h : false = true)⟩
theorem fma (d : BitVec 6) (a : BitVec 6) (b : BitVec 6) (c : BitVec 6) : Statement (.fma d a b c) := fun w h => by
  obtain rfl := Option.some.inj h
  exact ⟨Nat.lt_of_lt_of_le (enc31_lt ..) (by decide), fun h => nomatch (h : false = true)⟩
theorem fmaD (d : BitVec 6) (a : BitVec 6) (b : BitVec 6) (c : BitVec 6) : Statement (.fmaD d a b c) := fun w h => by
  obtain rfl := Option.some.inj h
  exact ⟨Nat.lt_of_lt_of_le (enc31_lt ..) (by decide), fun h => nomatch (h : false = true)⟩
theorem fcmp (p : BitVec 3) (c : BitVec 2) (a : BitVec 6) (b : BitVec 6) (x : BitVec 1) : Statement (.fcmp p c a b x) := fun w h => by
  obtain rfl := Option.some.inj h
  exact ⟨Nat.lt_of_lt_of_le (enc32_lt ..) (by decide), fun h => nomatch (h : false = true)⟩
theorem fcvtF32I64 (d : BitVec 6) (a : BitVec 6) : Statement (.fcvtF32I64 d a) := fun w h => by
  obtain rfl := Option.some.inj h
  exact ⟨Nat.lt_of_lt_of_le (enc12_lt ..) (by decide), fun h => nomatch (h : false = true)⟩
theorem fcvtF32I64u (d : BitVec 6) (a : BitVec 6) : Statement (.fcvtF32I64u d a) := fun w h => by
  obtain rfl := Option.some.inj h
  exact ⟨Nat.lt_of_lt_of_le (enc12_lt ..) (by decide), fun h => nomatch (h : false = true)⟩
theorem fcvtI64F32 (d : BitVec 6) (a : BitVec 6) : Statement (.fcvtI64F32 d a) := fun w h => by
  obtain rfl := Option.some.inj h
  exact ⟨Nat.lt_of_lt_of_le (enc12_lt ..) (by decide), fun h => nomatch (h : false = true)⟩
theorem fcvtI64uF32 (d : BitVec 6) (a : BitVec 6) : Statement (.fcvtI64uF32 d a) := fun w h => by
  obtain rfl := Option.some.inj h
  exact ⟨Nat.lt_of_lt_of_le (enc12_lt ..) (by decide), fun h => nomatch (h : false = true)⟩
theorem fcvtF64I64 (d : BitVec 6) (a : BitVec 6) : Statement (.fcvtF64I64 d a) := fun w h => by
  obtain rfl := Option.some.inj h
  exact ⟨Nat.lt_of_lt_of_le (enc12_lt ..) (by decide), fun h => nomatch (h : false = true)⟩
theorem fcvtI64F64 (d : BitVec 6) (a : BitVec 6) : Statement (.fcvtI64F64 d a) := fun w h => by
  obtain rfl := Option.some.inj h
  exact ⟨Nat.lt_of_lt_of_le (enc12_lt ..) (by decide), fun h => nomatch (h : false = true)⟩
theorem fcvtF32F64 (d : BitVec 6) (a : BitVec 6) : Statement (.fcvtF32F64 d a) := fun w h => by
  obtain rfl := Option.some.inj h
  exact ⟨Nat.lt_of_lt_of_le (enc12_lt ..) (by decide), fun h => nomatch (h : false = true)⟩
theorem fcvtF64F32 (d : BitVec 6) (a : BitVec 6) : Statement (.fcvtF64F32 d a) := fun w h => by
  obtain rfl := Option.some.inj h
  exact ⟨Nat.lt_of_lt_of_le (enc12_lt ..) (by decide), fun h => nomatch (h : false = true)⟩
theorem abtAbs (p : BitVec 3) (a : BitVec 6) (f : BitVec 4) : Statement (.abtAbs p a f) := fun w h => by
  obtain rfl := Option.some.inj h
  exact ⟨Nat.lt_of_lt_of_le (enc33_lt ..) (by decide), fun h => nomatch (h : false = true)⟩
theorem abtPrs (p : BitVec 3) (a : BitVec 6) (f : BitVec 4) : Statement (.abtPrs p a f) := fun w h => by
  obtain rfl := Option.some.inj h
  exact ⟨Nat.lt_of_lt_of_le (enc33_lt ..) (by decide), fun h => nomatch (h : false = true)⟩
theorem abm (d : BitVec 6) (a : BitVec 6) (p : BitVec 3) (f : BitVec 4) : Statement (.abm d a p f) := fun w h => by
  obtain rfl := Option.some.inj h
  exact ⟨Nat.lt_of_lt_of_le (enc34_lt ..) (by decide), fun h => nomatch (h : false = true)⟩
theorem cvtd (d : BitVec 6) (a : BitVec 6) (f : BitVec 4) : Statement (.cvtd d a f) := fun w h => by
  obtain rfl := Option.some.inj h
  exact ⟨Nat.lt_of_lt_of_le (enc35_lt ..) (by decide), fun h => nomatch (h : false = true)⟩
theorem cvte (d : BitVec 6) (a : BitVec 6) (r : BitVec 2) (f : BitVec 4) : Statement (.cvte d a r f) := fun w h => by
  obtain rfl := Option.some.inj h
  exact ⟨Nat.lt_of_lt_of_le (enc36_lt ..) (by decide), fun h => nomatch (h : false = true)⟩
theorem rand (d : BitVec 6) : Statement (.rand d) := fun w h => by
  obtain rfl := Option.some.inj h
  exact ⟨Nat.lt_of_lt_of_le (enc17_lt ..) (by decide), fun h => nomatch (h : false = true)⟩
theorem sfuRcp (d : BitVec 6) (a : BitVec 6) : Statement (.sfuRcp d a) := fun w h => by
  obtain rfl := Option.some.inj h
  exact ⟨Nat.lt_of_lt_of_le (enc12_lt ..) (by decide), fun h => nomatch (h : false = true)⟩
theorem sfuSqrt (d : BitVec 6) (a : BitVec 6) : Statement (.sfuSqrt d a) := fun w h => by
  obtain rfl := Option.some.inj h
  exact ⟨Nat.lt_of_lt_of_le (enc12_lt ..) (by decide), fun h => nomatch (h : false = true)⟩
theorem sfuRsqrt (d : BitVec 6) (a : BitVec 6) : Statement (.sfuRsqrt d a) := fun w h => by
  obtain rfl := Option.some.inj h
  exact ⟨Nat.lt_of_lt_of_le (enc12_lt ..) (by decide), fun h => nomatch (h : false = true)⟩
theorem sfuExp2 (d : BitVec 6) (a : BitVec 6) : Statement (.sfuExp2 d a) := fun w h => by
  obtain rfl := Option.some.inj h
  exact ⟨Nat.lt_of_lt_of_le (enc12_lt ..) (by decide), fun h => nomatch (h : false = true)⟩
theorem sfuLog2 (d : BitVec 6) (a : BitVec 6) : Statement (.sfuLog2 d a) := fun w h => by
  obtain rfl := Option.some.inj h
  exact ⟨Nat.lt_of_lt_of_le (enc12_lt ..) (by decide), fun h => nomatch (h : false = true)⟩
theorem sfuSinpi (d : BitVec 6) (a : BitVec 6) : Statement (.sfuSinpi d a) := fun w h => by
  obtain rfl := Option.some.inj h
  exact ⟨Nat.lt_of_lt_of_le (enc12_lt ..) (by decide), fun h => nomatch (h : false = true)⟩
theorem sfuCospi (d : BitVec 6) (a : BitVec 6) : Statement (.sfuCospi d a) := fun w h => by
  obtain rfl := Option.some.inj h
  exact ⟨Nat.lt_of_lt_of_le (enc12_lt ..) (by decide), fun h => nomatch (h : false = true)⟩
theorem vadd (m : BitVec 1) (d : BitVec 5) (a : BitVec 5) (b : BitVec 5) (t : BitVec 3) : Statement (.vadd m d a b t) := fun w h => by
  obtain rfl := Option.some.inj h
  exact ⟨Nat.lt_of_lt_of_le (enc37_lt ..) (by decide), fun h => nomatch (h : false = true)⟩
theorem vsub (m : BitVec 1) (d : BitVec 5) (a : BitVec 5) (b : BitVec 5) (t : BitVec 3) : Statement (.vsub m d a b t) := fun w h => by
  obtain rfl := Option.some.inj h
  exact ⟨Nat.lt_of_lt_of_le (enc37_lt ..) (by decide), fun h => nomatch (h : false = true)⟩
theorem vmul (m : BitVec 1) (d : BitVec 5) (a : BitVec 5) (b : BitVec 5) (t : BitVec 3) : Statement (.vmul m d a b t) := fun w h => by
  obtain rfl := Option.some.inj h
  exact ⟨Nat.lt_of_lt_of_le (enc37_lt ..) (by decide), fun h => nomatch (h : false = true)⟩
theorem vmin (m : BitVec 1) (d : BitVec 5) (a : BitVec 5) (b : BitVec 5) (t : BitVec 3) : Statement (.vmin m d a b t) := fun w h => by
  obtain rfl := Option.some.inj h
  exact ⟨Nat.lt_of_lt_of_le (enc37_lt ..) (by decide), fun h => nomatch (h : false = true)⟩
theorem vmax (m : BitVec 1) (d : BitVec 5) (a : BitVec 5) (b : BitVec 5) (t : BitVec 3) : Statement (.vmax m d a b t) := fun w h => by
  obtain rfl := Option.some.inj h
  exact ⟨Nat.lt_of_lt_of_le (enc37_lt ..) (by decide), fun h => nomatch (h : false = true)⟩
theorem vand (m : BitVec 1) (d : BitVec 5) (a : BitVec 5) (b : BitVec 5) (t : BitVec 3) : Statement (.vand m d a b t) := fun w h => by
  obtain rfl := Option.some.inj h
  exact ⟨Nat.lt_of_lt_of_le (enc37_lt ..) (by decide), fun h => nomatch (h : false = true)⟩
theorem vor (m : BitVec 1) (d : BitVec 5) (a : BitVec 5) (b : BitVec 5) (t : BitVec 3) : Statement (.vor m d a b t) := fun w h => by
  obtain rfl := Option.some.inj h
  exact ⟨Nat.lt_of_lt_of_le (enc37_lt ..) (by decide), fun h => nomatch (h : false = true)⟩
theorem vxor (m : BitVec 1) (d : BitVec 5) (a : BitVec 5) (b : BitVec 5) (t : BitVec 3) : Statement (.vxor m d a b t) := fun w h => by
  obtain rfl := Option.some.inj h
  exact ⟨Nat.lt_of_lt_of_le (enc37_lt ..) (by decide), fun h => nomatch (h : false = true)⟩
theorem vshl (m : BitVec 1) (d : BitVec 5) (a : BitVec 5) (b : BitVec 5) (t : BitVec 3) : Statement (.vshl m d a b t) := fun w h => by
  obtain rfl := Option.some.inj h
  exact ⟨Nat.lt_of_lt_of_le (enc37_lt ..) (by decide), fun h => nomatch (h : false = true)⟩
theorem vshr (m : BitVec 1) (d : BitVec 5) (a : BitVec 5) (b : BitVec 5) (t : BitVec 3) : Statement (.vshr m d a b t) := fun w h => by
  obtain rfl := Option.some.inj h
  exact ⟨Nat.lt_of_lt_of_le (enc37_lt ..) (by decide), fun h => nomatch (h : false = true)⟩
theorem vsra (m : BitVec 1) (d : BitVec 5) (a : BitVec 5) (b : BitVec 5) (t : BitVec 3) : Statement (.vsra m d a b t) := fun w h => by
  obtain rfl := Option.some.inj h
  exact ⟨Nat.lt_of_lt_of_le (enc37_lt ..) (by decide), fun h => nomatch (h : false = true)⟩
theorem vfma (m : BitVec 1) (d : BitVec 5) (a : BitVec 5) (b : BitVec 5) (t : BitVec 3) (c : BitVec 5) : Statement (.vfma m d a b t c) := fun w h => by
  obtain rfl := Option.some.inj h
  exact ⟨Nat.lt_of_lt_of_le (enc38_lt ..) (by decide), fun h => nomatch (h : false = true)⟩
theorem vcmp (m : BitVec 1) (a : BitVec 5) (b : BitVec 5) (t : BitVec 3) (c : BitVec 2) : Statement (.vcmp m a b t c) := fun w h => by
  obtain rfl := Option.some.inj h
  exact ⟨Nat.lt_of_lt_of_le (enc39_lt ..) (by decide), fun h => nomatch (h : false = true)⟩
theorem vsel (d : BitVec 5) (a : BitVec 5) (b : BitVec 5) (t : BitVec 3) : Statement (.vsel d a b t) := fun w h => by
  obtain rfl := Option.some.inj h
  exact ⟨Nat.lt_of_lt_of_le (enc40_lt ..) (by decide), fun h => nomatch (h : false = true)⟩
theorem vcvtDec (m : BitVec 1) (d : BitVec 5) (a : BitVec 5) (t : BitVec 3) (f : BitVec 4) : Statement (.vcvtDec m d a t f) := fun w h => by
  obtain rfl := Option.some.inj h
  exact ⟨Nat.lt_of_lt_of_le (enc41_lt ..) (by decide), fun h => nomatch (h : false = true)⟩
theorem vcvtEnc (m : BitVec 1) (d : BitVec 5) (a : BitVec 5) (t : BitVec 3) (f : BitVec 4) : Statement (.vcvtEnc m d a t f) := fun w h => by
  obtain rfl := Option.some.inj h
  exact ⟨Nat.lt_of_lt_of_le (enc41_lt ..) (by decide), fun h => nomatch (h : false = true)⟩
theorem vredAdd (m : BitVec 1) (d : BitVec 6) (a : BitVec 5) (t : BitVec 3) : Statement (.vredAdd m d a t) := fun w h => by
  obtain rfl := Option.some.inj h
  exact ⟨Nat.lt_of_lt_of_le (enc42_lt ..) (by decide), fun h => nomatch (h : false = true)⟩
theorem vredMin (m : BitVec 1) (d : BitVec 6) (a : BitVec 5) (t : BitVec 3) : Statement (.vredMin m d a t) := fun w h => by
  obtain rfl := Option.some.inj h
  exact ⟨Nat.lt_of_lt_of_le (enc42_lt ..) (by decide), fun h => nomatch (h : false = true)⟩
theorem vredMax (m : BitVec 1) (d : BitVec 6) (a : BitVec 5) (t : BitVec 3) : Statement (.vredMax m d a t) := fun w h => by
  obtain rfl := Option.some.inj h
  exact ⟨Nat.lt_of_lt_of_le (enc42_lt ..) (by decide), fun h => nomatch (h : false = true)⟩
theorem vbc (m : BitVec 1) (d : BitVec 5) (a : BitVec 6) (t : BitVec 3) : Statement (.vbc m d a t) := fun w h => by
  obtain rfl := Option.some.inj h
  exact ⟨Nat.lt_of_lt_of_le (enc43_lt ..) (by decide), fun h => nomatch (h : false = true)⟩
theorem vext (d : BitVec 6) (a : BitVec 5) (b : BitVec 6) (t : BitVec 3) : Statement (.vext d a b t) := fun w h => by
  obtain rfl := Option.some.inj h
  exact ⟨Nat.lt_of_lt_of_le (enc44_lt ..) (by decide), fun h => nomatch (h : false = true)⟩
theorem vperm (m : BitVec 1) (d : BitVec 5) (a : BitVec 5) (b : BitVec 5) (t : BitVec 3) : Statement (.vperm m d a b t) := fun w h => by
  obtain rfl := Option.some.inj h
  exact ⟨Nat.lt_of_lt_of_le (enc37_lt ..) (by decide), fun h => nomatch (h : false = true)⟩
theorem vsfuRcp (m : BitVec 1) (d : BitVec 5) (a : BitVec 5) (t : BitVec 3) : Statement (.vsfuRcp m d a t) := fun w h => by
  obtain rfl := Option.some.inj h
  exact ⟨Nat.lt_of_lt_of_le (enc45_lt ..) (by decide), fun h => nomatch (h : false = true)⟩
theorem vsfuSqrt (m : BitVec 1) (d : BitVec 5) (a : BitVec 5) (t : BitVec 3) : Statement (.vsfuSqrt m d a t) := fun w h => by
  obtain rfl := Option.some.inj h
  exact ⟨Nat.lt_of_lt_of_le (enc45_lt ..) (by decide), fun h => nomatch (h : false = true)⟩
theorem vsfuRsqrt (m : BitVec 1) (d : BitVec 5) (a : BitVec 5) (t : BitVec 3) : Statement (.vsfuRsqrt m d a t) := fun w h => by
  obtain rfl := Option.some.inj h
  exact ⟨Nat.lt_of_lt_of_le (enc45_lt ..) (by decide), fun h => nomatch (h : false = true)⟩
theorem vsfuExp2 (m : BitVec 1) (d : BitVec 5) (a : BitVec 5) (t : BitVec 3) : Statement (.vsfuExp2 m d a t) := fun w h => by
  obtain rfl := Option.some.inj h
  exact ⟨Nat.lt_of_lt_of_le (enc45_lt ..) (by decide), fun h => nomatch (h : false = true)⟩
theorem vsfuLog2 (m : BitVec 1) (d : BitVec 5) (a : BitVec 5) (t : BitVec 3) : Statement (.vsfuLog2 m d a t) := fun w h => by
  obtain rfl := Option.some.inj h
  exact ⟨Nat.lt_of_lt_of_le (enc45_lt ..) (by decide), fun h => nomatch (h : false = true)⟩
theorem vsfuSinpi (m : BitVec 1) (d : BitVec 5) (a : BitVec 5) (t : BitVec 3) : Statement (.vsfuSinpi m d a t) := fun w h => by
  obtain rfl := Option.some.inj h
  exact ⟨Nat.lt_of_lt_of_le (enc45_lt ..) (by decide), fun h => nomatch (h : false = true)⟩
theorem vsfuCospi (m : BitVec 1) (d : BitVec 5) (a : BitVec 5) (t : BitVec 3) : Statement (.vsfuCospi m d a t) := fun w h => by
  obtain rfl := Option.some.inj h
  exact ⟨Nat.lt_of_lt_of_le (enc45_lt ..) (by decide), fun h => nomatch (h : false = true)⟩
theorem vaccFrom (m : BitVec 1) (d : BitVec 5) (a : BitVec 6) : Statement (.vaccFrom m d a) := fun w h => by
  obtain rfl := Option.some.inj h
  exact ⟨Nat.lt_of_lt_of_le (enc46_lt ..) (by decide), fun h => nomatch (h : false = true)⟩
theorem vaccTo (m : BitVec 1) (d : BitVec 5) (a : BitVec 6) : Statement (.vaccTo m d a) := fun w h => by
  obtain rfl := Option.some.inj h
  exact ⟨Nat.lt_of_lt_of_le (enc46_lt ..) (by decide), fun h => nomatch (h : false = true)⟩
theorem vabt (m : BitVec 1) (a : BitVec 5) (f : BitVec 4) : Statement (.vabt m a f) := fun w h => by
  obtain rfl := Option.some.inj h
  exact ⟨Nat.lt_of_lt_of_le (enc47_lt ..) (by decide), fun h => nomatch (h : false = true)⟩
theorem vabm (d : BitVec 5) (a : BitVec 5) (f : BitVec 4) : Statement (.vabm d a f) := fun w h => by
  obtain rfl := Option.some.inj h
  exact ⟨Nat.lt_of_lt_of_le (enc48_lt ..) (by decide), fun h => nomatch (h : false = true)⟩
theorem viota (m : BitVec 1) (d : BitVec 5) (t : BitVec 1) : Statement (.viota m d t) := fun w h => by
  obtain rfl := Option.some.inj h
  exact ⟨Nat.lt_of_lt_of_le (enc49_lt ..) (by decide), fun h => nomatch (h : false = true)⟩
theorem tcmpWrite (a : BitVec 6) : Statement (.tcmpWrite a) := fun w h => by
  obtain rfl := Option.some.inj h
  refine ⟨swrWord_lt _ _ (by omega), fun h => nomatch (h : false = true)⟩
theorem fmtdWrite (a : BitVec 6) : Statement (.fmtdWrite a) := fun w h => by
  obtain rfl := Option.some.inj h
  refine ⟨swrWord_lt _ _ (by omega), fun h => nomatch (h : false = true)⟩
theorem dqbaseWrite (a : BitVec 6) : Statement (.dqbaseWrite a) := fun w h => by
  obtain rfl := Option.some.inj h
  refine ⟨swrWord_lt _ _ (by omega), fun h => nomatch (h : false = true)⟩
theorem rseedWrite (n : BitVec 2) (a : BitVec 6) : Statement (.rseedWrite n a) := fun w h => by
  obtain rfl := Option.some.inj h
  refine ⟨swrWord_lt _ _ (by omega), fun h => nomatch (h : false = true)⟩
theorem pmcWrite (n : BitVec 3) (a : BitVec 6) : Statement (.pmcWrite n a) := fun w h => by
  obtain rfl := Option.some.inj h
  refine ⟨swrWord_lt _ _ (by omega), fun h => nomatch (h : false = true)⟩
theorem pmselWrite (n : BitVec 3) (a : BitVec 6) : Statement (.pmselWrite n a) := fun w h => by
  obtain rfl := Option.some.inj h
  refine ⟨swrWord_lt _ _ (by omega), fun h => nomatch (h : false = true)⟩
theorem pmctlWrite (a : BitVec 6) : Statement (.pmctlWrite a) := fun w h => by
  obtain rfl := Option.some.inj h
  refine ⟨swrWord_lt _ _ (by omega), fun h => nomatch (h : false = true)⟩
theorem pmovfWrite (a : BitVec 6) : Statement (.pmovfWrite a) := fun w h => by
  obtain rfl := Option.some.inj h
  refine ⟨swrWord_lt _ _ (by omega), fun h => nomatch (h : false = true)⟩
theorem issueCycle (core : Nat) : Statement (.issueCycle core) := fun w h => by
  exact absurd h (by simp [encode])
theorem bankExchangeDone (kind unit idx : Nat) : Statement (.bankExchangeDone kind unit idx) := fun w h => by
  exact absurd h (by simp [encode])
theorem timerExpiry (core slot : Nat) : Statement (.timerExpiry core slot) := fun w h => by
  exact absurd h (by simp [encode])
theorem parkReply (core slot : Nat) (aWord : Bool) : Statement (.parkReply core slot aWord) := fun w h => by
  exact absurd h (by simp [encode])
theorem activationPacket (core idx : Nat) : Statement (.activationPacket core idx) := fun w h => by
  exact absurd h (by simp [encode])
theorem activationBufferDispatch (core : Nat) : Statement (.activationBufferDispatch core) := fun w h => by
  exact absurd h (by simp [encode])
theorem asendInject (core slot : Nat) : Statement (.asendInject core slot) := fun w h => by
  exact absurd h (by simp [encode])
theorem stealRequest (core slot : Nat) : Statement (.stealRequest core slot) := fun w h => by
  exact absurd h (by simp [encode])
theorem stealAnswer (core slot : Nat) : Statement (.stealAnswer core slot) := fun w h => by
  exact absurd h (by simp [encode])
theorem stealReply (core slot : Nat) : Statement (.stealReply core slot) := fun w h => by
  exact absurd h (by simp [encode])
theorem stealBackoffExpiry (core slot : Nat) : Statement (.stealBackoffExpiry core slot) := fun w h => by
  exact absurd h (by simp [encode])
theorem migrationArrival (core slot : Nat) : Statement (.migrationArrival core slot) := fun w h => by
  exact absurd h (by simp [encode])
theorem migrationAck (core slot : Nat) : Statement (.migrationAck core slot) := fun w h => by
  exact absurd h (by simp [encode])
theorem migrationRefusal (core slot : Nat) : Statement (.migrationRefusal core slot) := fun w h => by
  exact absurd h (by simp [encode])
theorem populationComplete (pop : Nat) : Statement (.populationComplete pop) := fun w h => by
  exact absurd h (by simp [encode])
theorem populationHung (pop : Nat) : Statement (.populationHung pop) := fun w h => by
  exact absurd h (by simp [encode])
theorem completionReport (pop : Nat) : Statement (.completionReport pop) := fun w h => by
  exact absurd h (by simp [encode])
theorem storePqEntry (core slot : Nat) : Statement (.storePqEntry core slot) := fun w h => by
  exact absurd h (by simp [encode])
theorem pqDrain (core seq : Nat) : Statement (.pqDrain core seq) := fun w h => by
  exact absurd h (by simp [encode])
theorem forceRequest (core slot idx : Nat) : Statement (.forceRequest core slot idx) := fun w h => by
  exact absurd h (by simp [encode])
theorem forceAck (core slot idx : Nat) : Statement (.forceAck core slot idx) := fun w h => by
  exact absurd h (by simp [encode])
theorem sysPublish (core seq : Nat) : Statement (.sysPublish core seq) := fun w h => by
  exact absurd h (by simp [encode])
theorem l1Fill (core fid : Nat) : Statement (.l1Fill core fid) := fun w h => by
  exact absurd h (by simp [encode])
theorem sliceRequest (rid : Nat) : Statement (.sliceRequest rid) := fun w h => by
  exact absurd h (by simp [encode])
theorem l2FillReturn (slice line sector : Nat) : Statement (.l2FillReturn slice line sector) := fun w h => by
  exact absurd h (by simp [encode])
theorem missEntryFree (slice line : Nat) : Statement (.missEntryFree slice line) := fun w h => by
  exact absurd h (by simp [encode])
theorem writebackAck (slice line : Nat) : Statement (.writebackAck slice line) := fun w h => by
  exact absurd h (by simp [encode])
theorem balancerToken (tok : Nat) : Statement (.balancerToken tok) := fun w h => by
  exact absurd h (by simp [encode])
theorem balancerAntitoken (tok : Nat) : Statement (.balancerAntitoken tok) := fun w h => by
  exact absurd h (by simp [encode])
theorem exitToken (tok : Nat) : Statement (.exitToken tok) := fun w h => by
  exact absurd h (by simp [encode])
theorem exitAntitoken (tok : Nat) : Statement (.exitAntitoken tok) := fun w h => by
  exact absurd h (by simp [encode])
theorem snapshot (tok out : Nat) : Statement (.snapshot tok out) := fun w h => by
  exact absurd h (by simp [encode])
theorem barrierRelease (cid core : Nat) : Statement (.barrierRelease cid core) := fun w h => by
  exact absurd h (by simp [encode])
theorem spreadRecord (tok : Nat) : Statement (.spreadRecord tok) := fun w h => by
  exact absurd h (by simp [encode])
theorem cntCfgApply (core slot : Nat) : Statement (.cntCfgApply core slot) := fun w h => by
  exact absurd h (by simp [encode])
theorem queueReservationDone (core slot : Nat) : Statement (.queueReservationDone core slot) := fun w h => by
  exact absurd h (by simp [encode])
theorem jobAdmit (cluster : Nat) : Statement (.jobAdmit cluster) := fun w h => by
  exact absurd h (by simp [encode])
theorem jobStart (cluster : Nat) : Statement (.jobStart cluster) := fun w h => by
  exact absurd h (by simp [encode])
theorem mxePrefetch (cluster : Nat) : Statement (.mxePrefetch cluster) := fun w h => by
  exact absurd h (by simp [encode])
theorem cpxPiece (cluster job : Nat) : Statement (.cpxPiece cluster job) := fun w h => by
  exact absurd h (by simp [encode])
theorem mxeKblock (cluster : Nat) : Statement (.mxeKblock cluster) := fun w h => by
  exact absurd h (by simp [encode])
theorem rotBlockArrival (cluster side : Nat) : Statement (.rotBlockArrival cluster side) := fun w h => by
  exact absurd h (by simp [encode])
theorem jobComplete (cluster job : Nat) : Statement (.jobComplete cluster job) := fun w h => by
  exact absurd h (by simp [encode])
theorem vclaimGrant (cluster : Nat) : Statement (.vclaimGrant cluster) := fun w h => by
  exact absurd h (by simp [encode])
theorem vectorOpPerform (core slot : Nat) : Statement (.vectorOpPerform core slot) := fun w h => by
  exact absurd h (by simp [encode])
theorem sfuService (cluster quad : Nat) : Statement (.sfuService cluster quad) := fun w h => by
  exact absurd h (by simp [encode])
theorem sfuResult (core slot : Nat) : Statement (.sfuResult core slot) := fun w h => by
  exact absurd h (by simp [encode])
theorem dtldComplete (core slot : Nat) : Statement (.dtldComplete core slot) := fun w h => by
  exact absurd h (by simp [encode])
theorem walkDone (cluster idx : Nat) : Statement (.walkDone cluster idx) := fun w h => by
  exact absurd h (by simp [encode])
theorem tlbShootdownAck (core slot tlb : Nat) : Statement (.tlbShootdownAck core slot tlb) := fun w h => by
  exact absurd h (by simp [encode])
theorem quantumExpiry (domain : Nat) : Statement (.quantumExpiry domain) := fun w h => by
  exact absurd h (by simp [encode])
theorem worldSwitchExchange (core : Nat) : Statement (.worldSwitchExchange core) := fun w h => by
  exact absurd h (by simp [encode])
theorem debugResume (core slot : Nat) : Statement (.debugResume core slot) := fun w h => by
  exact absurd h (by simp [encode])
theorem debugRegisterAccess (core slot reg wr value : Nat) : Statement (.debugRegisterAccess core slot reg wr value) := fun w h => by
  exact absurd h (by simp [encode])
theorem peerRequest (port op addr value : Nat) : Statement (.peerRequest port op addr value) := fun w h => by
  exact absurd h (by simp [encode])
theorem peerOpHeld (port op addr value : Nat) : Statement (.peerOpHeld port op addr value) := fun w h => by
  exact absurd h (by simp [encode])
theorem queueOpen (bell qcb : Nat) : Statement (.queueOpen bell qcb) := fun w h => by
  exact absurd h (by simp [encode])
theorem tailDoorbell (queue seq : Nat) : Statement (.tailDoorbell queue seq) := fun w h => by
  exact absurd h (by simp [encode])
theorem acceptanceRecord (queue : Nat) : Statement (.acceptanceRecord queue) := fun w h => by
  exact absurd h (by simp [encode])
theorem releaseDoorbell (queue : Nat) : Statement (.releaseDoorbell queue) := fun w h => by
  exact absurd h (by simp [encode])
theorem packetComplete (queue seq : Nat) : Statement (.packetComplete queue seq) := fun w h => by
  exact absurd h (by simp [encode])
theorem launch (queue : Nat) : Statement (.launch queue) := fun w h => by
  exact absurd h (by simp [encode])
theorem pcreate (queue : Nat) : Statement (.pcreate queue) := fun w h => by
  exact absurd h (by simp [encode])
theorem pdestroy (queue : Nat) : Statement (.pdestroy queue) := fun w h => by
  exact absurd h (by simp [encode])
theorem vcreate (queue : Nat) : Statement (.vcreate queue) := fun w h => by
  exact absurd h (by simp [encode])
theorem vreset (queue : Nat) : Statement (.vreset queue) := fun w h => by
  exact absurd h (by simp [encode])
theorem vdestroy (queue : Nat) : Statement (.vdestroy queue) := fun w h => by
  exact absurd h (by simp [encode])
theorem group (queue : Nat) : Statement (.group queue) := fun w h => by
  exact absurd h (by simp [encode])
theorem cidcfg (queue : Nat) : Statement (.cidcfg queue) := fun w h => by
  exact absurd h (by simp [encode])
theorem occlim (queue : Nat) : Statement (.occlim queue) := fun w h => by
  exact absurd h (by simp [encode])
theorem window (queue : Nat) : Statement (.window queue) := fun w h => by
  exact absurd h (by simp [encode])
theorem farport (queue : Nat) : Statement (.farport queue) := fun w h => by
  exact absurd h (by simp [encode])
theorem pcap (queue : Nat) : Statement (.pcap queue) := fun w h => by
  exact absurd h (by simp [encode])
theorem debug (queue : Nat) : Statement (.debug queue) := fun w h => by
  exact absurd h (by simp [encode])
theorem trace (queue : Nat) : Statement (.trace queue) := fun w h => by
  exact absurd h (by simp [encode])
theorem pause (queue : Nat) : Statement (.pause queue) := fun w h => by
  exact absurd h (by simp [encode])
theorem resume (queue : Nat) : Statement (.resume queue) := fun w h => by
  exact absurd h (by simp [encode])
theorem ochreMismatch : Statement .ochreMismatch := fun w h => by
  exact absurd h (by simp [encode])
theorem powerOnReset (fused : List Nat) (secver : Nat) (boot : Config.Boot) :
    Statement (.powerOnReset fused secver boot) := fun w h => by
  exact absurd h (by simp [encode])
theorem spdmGetVersion (nonce : Nat) : Statement (.spdmGetVersion nonce) := fun w h => by
  exact absurd h (by simp [encode])
theorem spdmGetCapabilities (nonce : Nat) : Statement (.spdmGetCapabilities nonce) := fun w h => by
  exact absurd h (by simp [encode])
theorem spdmNegotiateAlgorithms (nonce : Nat) : Statement (.spdmNegotiateAlgorithms nonce) := fun w h => by
  exact absurd h (by simp [encode])
theorem spdmGetDigests (nonce : Nat) : Statement (.spdmGetDigests nonce) := fun w h => by
  exact absurd h (by simp [encode])
theorem spdmGetCertificate (nonce : Nat) : Statement (.spdmGetCertificate nonce) := fun w h => by
  exact absurd h (by simp [encode])
theorem spdmChallenge (nonce : Nat) : Statement (.spdmChallenge nonce) := fun w h => by
  exact absurd h (by simp [encode])
theorem spdmGetMeasurements (nonce : Nat) : Statement (.spdmGetMeasurements nonce) := fun w h => by
  exact absurd h (by simp [encode])
theorem ubhamLinkTrain (port major minor : Nat) : Statement (.ubhamLinkTrain port major minor) := fun w h => by
  exact absurd h (by simp [encode])
theorem ubhamLaneLoss (port : Nat) : Statement (.ubhamLaneLoss port) := fun w h => by
  exact absurd h (by simp [encode])
theorem ubhamFlitRetry (port : Nat) : Statement (.ubhamFlitRetry port) := fun w h => by
  exact absurd h (by simp [encode])
theorem farportTrain (port rate width cap : Nat) : Statement (.farportTrain port rate width cap) := fun w h => by
  exact absurd h (by simp [encode])
theorem temperatureInput (sensor temp : Nat) : Statement (.temperatureInput sensor temp) := fun w h => by
  exact absurd h (by simp [encode])
theorem thermalTrip (sensor : Nat) : Statement (.thermalTrip sensor) := fun w h => by
  exact absurd h (by simp [encode])
theorem pcapWindow (watts : Nat) : Statement (.pcapWindow watts) := fun w h => by
  exact absurd h (by simp [encode])
theorem waitwtTimeout (core slot : Nat) : Statement (.waitwtTimeout core slot) := fun w h => by
  exact absurd h (by simp [encode])
theorem packetBreakResume (queue : Nat) : Statement (.packetBreakResume queue) := fun w h => by
  exact absurd h (by simp [encode])
theorem debuggerAttach (pid on : Nat) : Statement (.debuggerAttach pid on) := fun w h => by
  exact absurd h (by simp [encode])
theorem softError (store unit idx bit : Nat) : Statement (.softError store unit idx bit) := fun w h => by
  exact absurd h (by simp [encode])
theorem peerMovedReply (win peer : Nat) : Statement (.peerMovedReply win peer) := fun w h => by
  exact absurd h (by simp [encode])

end Sys2Proof.Laws.Encodes
end

