-- ==== Sys2Proof/Tests/Slice0.lean ====
section
/-! SUPPORT. Tests: words of the manual, ill-formed words, single steps with the results the manual gives, and for every statement
with hypotheses a state and operands that meet them. Expected results come from the manual's examples and tables. -/

namespace Sys2Proof.Tests

open Sys2Proof.Machine Sys2Proof.Claims

set_option Elab.async false

/-! ### Small states -/

/-- Registers with some values, the others 0. -/
def regs (l : List (Nat × Word)) : Vector Word 64 := l.foldl (fun v e => v.setIfInBounds e.1 e.2) (.replicate 64 0)

/-- Core 0 with one slot 0 of VF 0, the VF's handler at 0x100. -/
def kx (x : Slot) (f : CoreVf → CoreVf := id) (g : Core → Core := id) : Core :=
  g { vfs := [(1, f { slots := [(0, x)], tvec := 0x100 })], gprTag := [(0, 0)], spTag := [(0, 0), (127, 0)] }

/-- A machine whose core 0 is `k`. -/
def mk (k : Core) : State := { State.reset with cores := [(0, k)] }

/-- A machine whose slot 0 of core 0 executes. -/
def one (x : Slot) : State := mk (kx x)

/-- The machine of a ready slot with some registers. -/
def rs (l : List (Nat × Word)) : State := one { mode := .ready, g := regs l }

/-- The next state, where there is one. -/
def run (i : Instr) (s : State) : State := match exec i s with
  | .next t => t
  | _ => s

/-- Register `gn` of the executing slot after an instruction. -/
def g (i : Instr) (n : Nat) (s : State) : Word := (run i s).me.g.getD n 0

/-- A byte address of the own scratchpad of core 0 and VF 0, as the alias names it (R141), and its key. -/
def spa (off : Nat) : Word := BitVec.ofNat 64 (0x01E000000000 + off)
/-- The key of that byte. -/
def spk (off : Nat) : Nat := spKey 1 0 off

/-- The memory of a state is given some bytes. -/
def withBytes (s : State) (k : Nat) (bs : List Byte) : State := { s with mem := s.mem.write k bs }

/-- A word is fetched. -/
theorem fetched {f : Fetched} {w : Nat} (h : (match f with
    | .word v _ => decide (v = w)
    | _ => false) = true) : ∃ u, f = .word w u := by
  cases f <;> simp_all
/-- A place of memory that is not cacheable, as an engine finds it. -/
theorem lookedAt {r : EngLook} {k : Nat} (h : (match r with
    | .at (.mem x false _) _ => decide (x = k)
    | _ => false) = true) : ∃ o u, r = .at (.mem k false o) u := by
  split at h
  · exact ⟨_, _, by rw [of_decide_eq_true h]⟩
  · cases h
/-- What an engine's reads gave. -/
theorem pieces {r : EngRead} (h : (match r with
    | .bytes _ _ => true
    | _ => false) = true) : ∃ bs u, r = .bytes bs u := by
  cases r <;> simp_all
/-- What an engine's reads gave and pinned. -/
theorem wasRead {r : EngRead × List (Nat × Nat)} (h : (match r with
    | (.bytes _ _, _) => true
    | _ => false) = true) : ∃ bs u ls, r = (.bytes bs u, ls) := by
  obtain ⟨_ | _ | _, _⟩ := r <;> simp_all
/-- What an engine's reads gave and pinned, and what holds of it. -/
theorem pinned {r : EngRead × List (Nat × Nat)} {p : State → List (Nat × Nat) → Bool} (h : (match r with
    | (.bytes _ u, ls) => p u ls
    | _ => false) = true) : ∃ bs u ls, r = (.bytes bs u, ls) ∧ p u ls = true := by
  obtain ⟨_ | _ | _, _⟩ := r <;> simp_all

/-! ### Encoding, decoding, the step -/

/-- R284's words of ADD and BSWAP.W, bit by bit: lone, A-word, major 1, d 5, a 6, b 7, W, op. -/
theorem test_decode_alu :
    decode 0b11000001000101000110000111000000 = some (.add 5 6 7 0) ∧
    decode 0b11000001000101000110000000110111 = some (.bswap 5 6 1) ∧
    decode 0b11000001000101000110000111010010 = some (.rem 5 6 7 0) := by decide +kernel
/-- R324, R319, R289: SRAI.W g5, g6, 4; LUI g9, 0x12345; ADDPC g9, -1. -/
theorem test_decode_immediate :
    decode 0b11001000000101000110000001000100 = some (.srai 5 6 1 4) ∧
    decode 0b11001001001001010010001101000101 = some (.lui 9 0x12345) ∧
    decode 0b11001010001001111111111111111111 = some (.addpc 9 0x3FFFF) := by decide +kernel
/-- R295, R296, R325, R320, R329: CMP.LT.W p2, g5, g6; CMPI.NE p1, g5, 0; PANDN p3, p1, !p2; MOVP.P g6; SEL g5, p1, g6, g7. -/
theorem test_decode_predicates :
    decode 0b11001100010010000101000110100000 = some (.cmp 2 2 5 6 1) ∧
    decode 0b11001101001001000101000000000000 = some (.cmpi 1 1 5 0) ∧
    decode 0b11001110011001010010110000000000 = some (.pandn 3 1 2 0 1) ∧
    decode 0b11010000000000000110000000000001 = some (.movpP 6) ∧
    decode 0b11001111000101000110000111000001 = some (.sel 5 6 7 1) := by decide +kernel
/-- R315, R316, R227, R305: CALL 0x40; RET; TRET; DBRK 5. -/
theorem test_decode_control :
    decode 0b10000010000001000000000001000000 = some (.jal 1 0x40) ∧
    decode 0b10000011000000000001000000000000 = some (.jalr 0 1 0) ∧
    decode 0b10000110000000000000000000000000 = some .tret ∧
    decode 0b10000111000000000000000000000101 = some (.dbrk 5) := by decide +kernel
/-- R317, R318, R335: LDD g5, 16(g6); LDA.B.RLX.DEV g5, (g6); STR.D.REL.SYS g5, (g6). -/
theorem test_decode_memory :
    decode 0b10001110000101000110000000010000 = some (.ldd 5 6 16) ∧
    decode 0b10001111000101000110000100010000 = some (.lda 5 6 1 0 1 0) ∧
    decode 0b10010100000101000110000011101000 = some (.str 5 6 3 2 1) := by decide +kernel
/-- R310, R288: FCMP.LT.D p2, g5, g6; ABT.PRS.FP32 p3, g7. -/
theorem test_decode_float :
    decode 0b11010100010001000101000110100000 = some (.fcmp 2 1 5 6 1) ∧
    decode 0b11010110011001000111000000000000 = some (.abtPrs 3 7 0) := by decide +kernel
/-- R330, R42, R53, R306, R328, R327: SEMV 3; SPAWN g20, g21; SETLIVE g9; DTLD g9, 2; RAND g5; PARK. -/
theorem test_decode_tasks :
    decode 0b10100100000000000000000000000011 = some (.semv 3) ∧
    decode 0b10100111000000010100010101000000 = some (.spawn 20 21) ∧
    decode 0b10101010000000001001000000000000 = some (.setlive 9) ∧
    decode 0b10101110000000001001000000000010 = some (.dtld 9 2) ∧
    decode 0b11011010000101000000000000000000 = some (.rand 5) ∧
    decode 0b10110110000000000000000000000000 = some .park := by decide +kernel
/-- R231: the words of the firmware's TLB instructions. -/
theorem test_decode_firmware :
    decode 0xB700A2C0 = some (.tlbwCore 10 11) ∧ decode 0xB700A2C1 = some (.tlbwClus 10 11) ∧
    decode 0xB800A2C0 = some (.tlbiPage 10 11) ∧ decode 0xB80002C1 = some (.tlbiVf 11) ∧
    decode 0xB8000002 = some .tlbiAll ∧ decode 0xB900A000 = some (.frepRetry 10) ∧
    decode 0xB900A001 = some (.frepKill 10) := by decide +kernel
/-- R42, R53, R71, R284, R320: words with a field that must be 0, or an op that is not listed, are no instruction. -/
theorem test_decode_refuses :
    decode 0xC1146018 = none ∧ decode 0xC11461D6 = none ∧ decode 0xA7014543 = none ∧ decode 0xAA049000 = none ∧
    decode 0xD0146000 = none := by decide +kernel

/-- Each check of WellFormed refuses an instruction that breaks it (R61, R65, R70-R72, R167, R295). -/
theorem test_wellFormed_refuses :
    (Instr.lda 1 2 0 0 3 0).wellFormed = false ∧ (Instr.lda 1 2 1 3 0 0).wellFormed = false ∧
    (Instr.str 1 2 0 3 0).wellFormed = false ∧ (Instr.amoadd 1 2 3 3 0 0).wellFormed = false ∧
    (Instr.amoand 1 2 3 3 0 0).wellFormed = false ∧ (Instr.amoor 1 2 3 3 0 0).wellFormed = false ∧
    (Instr.amoxor 1 2 3 3 0 0).wellFormed = false ∧ (Instr.amomin 1 2 3 3 0 0).wellFormed = false ∧
    (Instr.amomax 1 2 3 3 0 0).wellFormed = false ∧ (Instr.amominu 1 2 3 3 0 0).wellFormed = false ∧
    (Instr.amomaxu 1 2 3 3 0 0).wellFormed = false ∧ (Instr.amoswap 1 2 3 3 0 0).wellFormed = false ∧
    (Instr.amofadd 1 2 3 3 0).wellFormed = false ∧ (Instr.cas 1 2 3 3 0 0).wellFormed = false ∧
    (Instr.fence 3 1).wellFormed = false ∧ (Instr.fence 1 0).wellFormed = false ∧
    (Instr.waitw 1 2 3 3 0 0).wellFormed = false := by decide +kernel
/-- ... register groups past `g63` (R72). -/
theorem test_wellFormed_refuses_groups :
    (Instr.cntSprd 1 2 63).wellFormed = false ∧ (Instr.cntCfg 1 63).wellFormed = false ∧
    (Instr.qMake 1 2 63).wellFormed = false ∧ (Instr.asend 0 1 2 9).wellFormed = false ∧
    (Instr.asend 60 1 2 8).wellFormed = false ∧ (Instr.asend 1 1 2 0).wellFormed = false ∧
    (Instr.asendG 60 1 2 8).wellFormed = false ∧ (Instr.ibx 61).wellFormed = false ∧ (Instr.ibxTry 61).wellFormed = false ∧
    (Instr.cpy 1 59).wellFormed = false ∧ (Instr.cpyCvt 1 59).wellFormed = false ∧ (Instr.cpyGather 1 59).wellFormed = false ∧
    (Instr.cpyPeer 1 59).wellFormed = false ∧ (Instr.cpyFill 1 59).wellFormed = false ∧ (Instr.mxMul 1 57).wellFormed = false ∧
    (Instr.mxRot 1 63).wellFormed = false ∧ (Instr.mxDrain 1 62).wellFormed = false ∧ (Instr.mxLoad 1 62).wellFormed = false ∧
    (Instr.vredAdd 0 63 0 0).wellFormed = false := by decide +kernel
/-- ... codes that are not listed (R28, R65, R70, R84, R295, R333). -/
theorem test_wellFormed_refuses_codes :
    (Instr.vld 0 0 0 0 3).wellFormed = false ∧ (Instr.vst 0 0 0 0 3).wellFormed = false ∧ (Instr.vgth 0 0 0 0 3).wellFormed = false ∧
    (Instr.vsct 0 0 0 0 3).wellFormed = false ∧ (Instr.srd 1 0x7FF).wellFormed = false ∧ (Instr.swr 1 0x7FF).wellFormed = false ∧
    (Instr.swr 1 0x011).wellFormed = false ∧ (Instr.cmp 1 6 2 3 0).wellFormed = false ∧ (Instr.cmpi 1 7 2 3).wellFormed = false ∧
    (Instr.abtAbs 1 2 15).wellFormed = false ∧ (Instr.abtPrs 1 2 15).wellFormed = false ∧ (Instr.abm 1 2 3 15).wellFormed = false ∧
    (Instr.cvtd 1 2 15).wellFormed = false ∧ (Instr.cvte 1 2 3 1).wellFormed = false ∧ (Instr.cvte 1 2 0 15).wellFormed = false ∧
    (Instr.vadd 0 1 2 3 6).wellFormed = false ∧ (Instr.vshl 0 1 2 3 2).wellFormed = false ∧
    (Instr.vshr 0 1 2 3 3).wellFormed = false ∧ (Instr.vsra 0 1 2 3 4).wellFormed = false ∧
    (Instr.vfma 0 1 2 3 0 0).wellFormed = false ∧ (Instr.vcvtDec 0 1 2 0 0).wellFormed = false ∧
    (Instr.vcvtDec 0 1 2 3 0).wellFormed = false ∧ (Instr.vcvtEnc 0 1 2 2 15).wellFormed = false ∧
    (Instr.vsfuRcp 0 1 2 0).wellFormed = false ∧ (Instr.vabt 0 1 15).wellFormed = false ∧
    (Instr.vabm 0 1 15).wellFormed = false := by decide +kernel

/-- The state whose next step fetches a word. -/
def fs (w : Nat) : State := State.reset.withFetchWord 32 w

/-- A step from reset runs the placed word: ADDI g5, g0, -1 (R285, R59). -/
theorem test_step_addi : (match step (fs 0xC2140FFF) with
    | .next t => decide ((t.slot 0 0).g.getD 5 0 = BitVec.allOnes 64 ∧ (t.slot 0 0).pc = (fs 0xC2140FFF).me.pc + 4)
    | _ => false) = true := by decide +kernel
/-- A word that is no instruction takes trap 0x01; without a handler its slot ends (R71, R228). -/
theorem test_step_illegal : (match step (fs 0xC1146018) with
    | .next t => decide ((t.slot 0 0).mode = .free)
    | _ => false) = true := by decide +kernel

/-- DecodeOfEncodeIsIdentity, EncodeOfDecodeIsIdentity: an instruction and a word. -/
theorem wit_encode : (Instr.add 5 6 7 0).wellFormed = true ∧ encode (.add 5 6 7 0) = some 0x411461C0 ∧
    0x411461C0 < 2 ^ 31 ∧ decode 0x411461C0 = some (.add 5 6 7 0) := by decide +kernel
/-- The state after the issue of core 0's slot 0 is at hand, as the statements about a step name it. -/
def issued (s : State) : State := { s with issuing := none, cur := { core := 0, slot := 0 } }
/-- A handler for the VF of core 0. -/
def withTvec (s : State) : State := s.updCvf 0 fun k => { k with tvec := 0x100 }
/-- StepRunsTheDecodedInstruction: a lone ADD at the pc. -/
theorem wit_step_lone : (fs 0xC11461C0).issuing = some (0, 0) ∧
    (∃ u, (issued (fs 0xC11461C0)).fetchWord 0 ((fs 0xC11461C0).slot 0 0).pc = .word 0xC11461C0 u) ∧
    fld 0xC11461C0 31 1 = 1 ∧ decode 0xC11461C0 = some (.add 5 6 7 0) ∧ (Instr.add 5 6 7 0).privileged = false :=
  ⟨by decide +kernel, fetched (by decide +kernel), by decide +kernel, by decide +kernel, by decide +kernel⟩
/-- A privileged word at firmware level. -/
theorem wit_step_privileged : let s := (fs 0xB8000002).updSlot 0 0 fun x => { x with fw := true }
    s.issuing = some (0, 0) ∧ (∃ u, (issued s).fetchWord 0 (s.slot 0 0).pc = .word 0xB8000002 u) ∧
    decode 0xB8000002 = some .tlbiAll ∧ Instr.tlbiAll.privileged = true ∧ (s.slot 0 0).fw = true :=
  ⟨by decide +kernel, fetched (by decide +kernel), by decide +kernel, by decide +kernel, by decide +kernel⟩
/-- IllegalAndPrivilegedWordsTrap: a word that is no instruction, and a privileged one at program level. -/
theorem wit_step_traps : ∀ w ∈ [0xC1146018, 0xB8000002], (withTvec (fs w)).issuing = some (0, 0) ∧
    (match (issued (withTvec (fs w))).fetchWord 0 ((withTvec (fs w)).slot 0 0).pc with
      | .word v u => decide (v = w) && decide ((u.cvf 0).tvec ≠ 0) && !(u.slot 0 0).inTrap
      | _ => false) = true ∧ fld w 31 1 = 1 ∧ ((withTvec (fs w)).slot 0 0).fw = false := by decide +kernel
/-- A pair JALR / ADD placed at the pc: its second word stands four bytes behind the first (R59). -/
def pairAt : State :=
  let s := fs 0x03144000
  { s with mem := s.mem.write (Part.zero.hbmKey 0x40000) (leBytes 4 0x03144000 ++ leBytes 4 0x411461C0) }
/-- BundlesRunAsPairsAndEvents: two legal words of a pair, at an 8-byte-aligned pc. -/
theorem wit_step_pair : pairAt.issuing = some (0, 0) ∧ (pairAt.slot 0 0).pc.toNat % 8 = 0 ∧
    (match (issued pairAt).fetchWord 0 (pairAt.slot 0 0).pc with
      | .word w t => decide (fld w 31 1 = 0) && decide (fld w 30 1 = 0) && decide (decode w = some (.jalr 5 4 0)) &&
        (match t.fetchWord 0 ((pairAt.slot 0 0).pc + 4) with
          | .word v _ => decide (fld v 31 1 = 0) && decide (fld v 30 1 = 1) && decide (decode v = some (.add 5 6 7 0))
          | _ => false)
      | _ => false) = true ∧ (Instr.jalr 5 4 0).wellFormed = true ∧ (Instr.jalr 5 4 0).sameDest (.add 9 6 7 0) = false := by
  decide +kernel
/-- A pair of words at the pc of a slot with a handler. -/
def pairs (e : Nat × Nat) : State :=
  let s := withTvec (fs e.1)
  { s with mem := s.mem.write (Part.zero.hbmKey 0x40000) (leBytes 4 e.1 ++ leBytes 4 e.2) }
/-- Both words of a pair are fetched, the first a C-word, by a slot that can trap. -/
def bothFetched (e : Nat × Nat) : Bool :=
  let s := pairs e
  decide (s.issuing = some (0, 0)) && match (issued s).fetchWord 0 (s.slot 0 0).pc with
    | .word w u => decide (w = e.1) && decide (fld w 31 1 = 0) && decide (fld w 30 1 = 0) && decide ((s.slot 0 0).pc.toNat % 8 ≠ 4) &&
      (match u.fetchWord 0 ((s.slot 0 0).pc + 4) with
        | .word v t => decide (v = e.2) && decide ((t.cvf 0).tvec ≠ 0) && !(t.slot 0 0).inTrap && !(t.slot 0 0).fw
        | _ => false)
    | _ => false
/-- The C-word `SWR %RSEED0, g5`. -/
def seedWord : Nat := (encode (.rseedWrite 0 5)).getD 0
/-- IllegalAndPrivilegedWordsTrap: pairs with two words of the wrong shape, an illegal C-word, an illegal second word beside a legal one and
beside a write of %RSEED, two writes of g5, a write of %RSEED, a privileged C-word. -/
theorem wit_step_pairs : (∀ e ∈ [(0x03144000, 0x03144000), (0x03144000, 0xC11461C0), (0x2A049000, 0x411461C0), (0x03144000, 0x41146018),
      (seedWord, 0x41146018), (0x03144000, 0x411461C0), (seedWord, 0x411461C0), (0x38000002, 0x411461C0)], bothFetched e = true) ∧
    decode 0x2A049000 = none ∧ decode 0x41146018 = none ∧ decode 0x03144000 = some (.jalr 5 4 0) ∧
    decode 0x411461C0 = some (.add 5 6 7 0) ∧ decode seedWord = some (.rseedWrite 0 5) ∧ decode 0x38000002 = some .tlbiAll ∧
    (Instr.jalr 5 4 0).sameDest (.add 5 6 7 0) = true ∧ (Instr.rseedWrite 0 5).sameDest (.add 5 6 7 0) = false ∧
    Instr.tlbiAll.sameDest (.add 5 6 7 0) = false ∧ Instr.tlbiAll.privileged = true := by decide +kernel
/-- A slot whose pc is the second word of a pair. -/
def at4 : State := (pairs (0x03144000, 0x03144000)).updSlot 0 0 fun x => { x with pc := x.pc + 4 }
/-- ... an A-word where a C-word is to stand, and a word with bit 31 clear at 4 mod 8. -/
theorem wit_step_misplaced :
    (∃ u, (issued (pairs (0x411461C0, 0x411461C0))).fetchWord 0 ((pairs (0x411461C0, 0x411461C0)).slot 0 0).pc = .word 0x411461C0 u) ∧
    fld 0x411461C0 31 1 = 0 ∧ fld 0x411461C0 30 1 = 1 ∧ (∃ u, (issued at4).fetchWord 0 (at4.slot 0 0).pc = .word 0x03144000 u) ∧
    fld 0x03144000 31 1 = 0 ∧ (at4.slot 0 0).pc.toNat % 8 = 4 :=
  ⟨fetched (by decide +kernel), by decide +kernel, by decide +kernel, fetched (by decide +kernel), by decide +kernel, by decide +kernel⟩
/-- Cause and value of the trap that a step from a pair takes. -/
def pairTrap (e : Nat × Nat) : Word × Word := match step (pairs e) with
  | .next t => ((t.slot 0 0).tcause, (t.slot 0 0).tval)
  | _ => (0, 0)
/-- R61-R63, R332: two words that write g5; an illegal second word, beside a legal C-word and beside a write of %RSEED. -/
theorem test_pair_traps : pairTrap (0x03144000, 0x411461C0) = (2, 0x411461C003144000) ∧
    pairTrap (0x03144000, 0x41146018) = (1, 0x141146018) ∧ (pairTrap (seedWord, 0x41146018)).1 = 1 ∧
    (pairTrap (seedWord, 0x41146018)).2 = BitVec.ofNat 64 seedWord := by decide +kernel
/-- The event at the head of the agenda, of a device that is on and of one that is off; a power-on. -/
theorem wit_step_event : ∀ b ∈ [true, false], ∀ i ∈ [Instr.writebackAck 0 0, .powerOnReset [] 7 ⟨7, true, 0, 0, [], []⟩],
    let s : State := { State.reset with on := b, agenda := [.act i] }
    s.issuing = none ∧ s.agenda = [.act i] ∧ s.on = b := by decide +kernel
/-- R60's example: `JALR g1, g4, 0 || ADDI g4, g4, 16` reads g4 before either word writes. -/
theorem wit_pair_reads : let s := rs [(4, 0x80000400)]
    (s.slot 0 0).mode = .ready ∧ (s.slot 0 0).cWait = none ∧ (s.slot 0 0).vqueue ≤ Config.vqueue ∧
    ((s.slot 0 0).g[4] + (0 : BitVec 12).signExtend 64) &&& 3 = 0 := by decide +kernel
/-- R60, R316: that pair's results. -/
theorem test_pair_jalr : (match runPair exec (one { mode := .ready, pc := 0x80000200, g := regs [(4, 0x80000400)] }) (0, 0)
      0x03044000 0x42104010 (.jalr 1 4 0) (.addi 4 4 16) with
    | .next t => decide ((t.slot 0 0).pc = 0x80000400 ∧ (t.slot 0 0).g.getD 1 0 = 0x80000208 ∧
        (t.slot 0 0).g.getD 4 0 = 0x80000410)
    | _ => false) = true := by decide +kernel
/-- CommitMovesThePc: a bundle that has ended, one that has parked, one that has trapped. -/
theorem wit_commit : ((rs []).slot 0 0).fate = .ok ∧ ((rs []).slot 0 0).mode = .ready ∧
    ((one { mode := .parked }).slot 0 0).mode = .parked ∧ ((one { mode := .ready, fate := .trap 1 0 }).slot 0 0).fate ≠ .ok := by
  decide +kernel
/-- StepKeepsMemoryCanonical: a canonical state with a next state. -/
theorem wit_canonical : (fs 0xC2140FFF).mem.wf = true ∧ (fs 0xC2140FFF).behind.wf = true ∧
    (match step (fs 0xC2140FFF) with
      | .next t => t.mem.wf && t.behind.wf
      | _ => false) = true := by decide +kernel
/-- ResetLeavesWhatTheManualGives: the records it speaks of are there. -/
theorem wit_reset : (State.reset.part 0).isSome = true ∧ (State.reset.vfRec 0).isSome = true := by decide +kernel

/-! ### Integer instructions, control flow, traps, semaphores -/

/-- R284's and R301's example operands. -/
def x284 : State := rs [(6, 0x000000017FFFFFFF), (7, 1)]
/-- R323's example operands. -/
def x323 (y : Word) : State := rs [(6, 0x0000000080000010), (7, y)]
/-- R284: the example rows of ADD, ADD.W, CLZ, CLZ.W and CTZ.W. -/
theorem test_add_clz_ctz : g (.add 5 6 7 0) 5 x284 = 0x180000000 ∧ g (.add 5 6 7 1) 5 x284 = 0xFFFFFFFF80000000 ∧
    g (.clz 5 6 0) 5 x284 = 31 ∧ g (.clz 5 6 1) 5 x284 = 1 ∧ g (.ctz 5 7 1) 5 x284 = 0 := by decide +kernel
/-- R284: BSWAP. -/
theorem test_bswap : g (.bswap 5 6 1) 5 (rs [(6, 0x11223380)]) = 0xFFFFFFFF80332211 ∧
    g (.bswap 5 6 0) 5 (rs [(6, 0x11223380)]) = 0x8033221100000000 := by decide +kernel
/-- R323: the shifts and POPC. -/
theorem test_shifts : g (.srl 5 6 7 0) 5 (x323 4) = 0x08000001 ∧ g (.srl 5 6 7 1) 5 (x323 4) = 0x08000001 ∧
    g (.srl 5 6 7 1) 5 (x323 0) = 0xFFFFFFFF80000010 ∧ g (.sra 5 6 7 1) 5 (x323 4) = 0xFFFFFFFFF8000001 ∧
    g (.sra 5 6 7 0) 5 (x323 4) = 0x08000001 ∧ g (.sll 5 6 7 0) 5 (x323 68) = 0x0000000800000100 ∧
    g (.sll 5 6 7 1) 5 (x323 1) = 0x20 ∧ g (.popc 5 6 0) 5 (x323 0) = 2 := by decide +kernel
/-- R302: MULH, MULHU, MUL.W, MINU.W, MIN.W. -/
theorem test_mul_min : g (.mulh 5 6 7 0) 5 (rs [(6, 0x8000000000000000), (7, 2)]) = 0xFFFFFFFFFFFFFFFF ∧
    g (.mulhu 5 6 7 0) 5 (rs [(6, 0x8000000000000000), (7, 2)]) = 1 ∧
    g (.mulh 5 6 7 1) 5 (rs [(6, 0x80000000), (7, 2)]) = 0xFFFFFFFFFFFFFFFF ∧
    g (.mulhu 5 6 7 1) 5 (rs [(6, 0x80000000), (7, 2)]) = 1 ∧ g (.mul 5 6 7 1) 5 (rs [(6, 0x10000), (7, 0x10000)]) = 0 ∧
    g (.minu 5 6 7 1) 5 (rs [(6, 0xFFFFFFFFFFFFFFFF), (7, 1)]) = 1 ∧
    g (.min 5 6 7 1) 5 (rs [(6, 0xFFFFFFFFFFFFFFFF), (7, 1)]) = 0xFFFFFFFFFFFFFFFF := by decide +kernel
/-- The value a division returns. -/
def dv (i : Instr) (x y : Word) : Word := (run (.parkReply 0 0 true) (run i (rs [(6, x), (7, y)]))).me.g.getD 5 0
/-- R301, R302: DIV of −7 and 2, of the overflow pair, of 7 and 0. -/
theorem test_div : dv (.div 5 6 7 0) (-7) 2 = -3 ∧ dv (.div 5 6 7 0) 0x8000000000000000 (-1) = 0x8000000000000000 ∧
    dv (.div 5 6 7 1) 7 0 = 0xFFFFFFFFFFFFFFFF := by decide +kernel
/-- R323: REM and REMU. -/
theorem test_rem : dv (.rem 5 6 7 0) (-7) 2 = -1 ∧ dv (.rem 5 6 7 1) (-7) 2 = -1 ∧ dv (.remu 5 6 7 1) (-7) 2 = 1 ∧
    dv (.remu 5 6 7 0) (-7) 0 = -7 := by decide +kernel
/-- DivisionResults: a slot whose C-word does not wait. -/
theorem wit_division : (rs []).me.cWait = none := by decide +kernel
/-- IntegerImmediateResults: the largest amount of a 32-bit shift. -/
theorem wit_shift : (31 : BitVec 6).toNat < 32 := by decide
/-- R319, R289, R285: LUI, ADDPC at 0x8000_0000, ADDI. -/
theorem test_immediate : g (.lui 9 0x12345) 9 (rs []) = 0x12345000 ∧ g (.lui 5 0x20000) 5 (rs []) = 0xFFFFFFFFE0000000 ∧
    g (.addpc 9 0x3FFFF) 9 (one { mode := .ready, pc := 0x80000000 }) = 0x7FFFF000 ∧
    g (.addi 5 5 0xFFF) 5 (rs []) = BitVec.allOnes 64 ∧ g (.addi 0 5 1) 0 (rs []) = 0 := by decide +kernel
/-- R295, R296, R320: CMP.LT and LTU of all ones and 1, CMPI.LTU of all ones, MOVP.G with p1 and p3, MOVP.P of 0xFF. -/
theorem test_predicates :
    (run (.cmp 2 2 5 6 0) (rs [(5, BitVec.allOnes 64), (6, 1)])).me.p = 0b101 ∧
    (run (.cmp 2 4 5 6 0) (rs [(5, BitVec.allOnes 64), (6, 1)])).me.p = 1 ∧
    (run (.cmpi 1 4 5 0xFFF) (rs [(5, BitVec.allOnes 64)])).me.p = 1 ∧
    g (.movpG 5) 5 (one { mode := .ready, p := 0b1011 }) = 0x0B ∧
    (run (.movpP 6) (rs [(6, 0xFF)])).me.p = 0xFF := by decide +kernel
/-- R325, R329: the four idioms of predicate logic, and SEL. -/
theorem test_plog : (run (.por 3 1 0 0 1) (one { mode := .ready, p := 3 })).me.p = 0b1011 ∧
    (run (.pxor 3 1 0 0 0) (one { mode := .ready, p := 3 })).me.p = 3 ∧
    (run (.pand 3 0 0 0 1) (one { mode := .ready, p := 9 })).me.p = 1 ∧
    g (.sel 5 6 7 1) 5 (one { mode := .ready, p := 3, g := regs [(6, 6), (7, 7)] }) = 6 := by decide +kernel
/-- R316: JALR to a misaligned target traps at its bundle and links nothing. -/
theorem test_jalr_misaligned : let t := run (.jalr 1 4 2) (one { mode := .ready, pc := 0x40, g := regs [(4, 0x400)] })
    t.me.tcause = 4 ∧ t.me.tval = 0x402 ∧ t.me.tpc = 0x40 ∧ t.me.pc = 0x100 ∧ t.me.g.getD 1 0 = 0 := by decide +kernel
/-- BranchesAndJumps: aligned and misaligned targets; a slot that can trap. -/
theorem wit_jalr : (0x400 : Word).getLsbD 0 = false ∧ (0x400 : Word).getLsbD 1 = false ∧ (0x401 : Word).getLsbD 0 = true ∧
    (0x402 : Word).getLsbD 1 = true ∧ (rs []).rg 4 + (0x402 : BitVec 12).signExtend 64 = 0x402 := by decide +kernel
/-- Every statement that names a trap: a slot that can take one, with a handler and outside it (R228). -/
theorem wit_canTrap : ((rs []).cvf (rs []).cur.core).tvec ≠ 0 ∧ (rs []).me.inTrap = false := by decide +kernel
/-- R224, R227: TRAP 1 enters the handler, and TRET leaves it. -/
theorem test_trap_tret : let t := run (.trap 1) (one { mode := .ready, pc := 0x40 })
    t.me.tcause = 9 ∧ t.me.tval = 1 ∧ t.me.tpc = 0x40 ∧ t.me.inTrap = true ∧ (run .tret t).me.nextPc = 0x40 ∧
    (run .tret t).me.inTrap = false := by decide +kernel
/-- TrapEntryAndReturn: inside a handler and outside one. -/
theorem wit_tret : (one { mode := .ready, tstat := 3 }).src.slot.inTrap = true ∧ (rs []).src.slot.inTrap = false := by decide +kernel
/-- A machine whose slot runs in population 4. -/
def popped (x : Slot) (f : CoreVf → CoreVf := id) : State :=
  { mk (kx { x with pop := some 4 } f) with
    pops := [(4, { vf := 0, pid := 0, cores := [0], quota := 1, seen := [], queue := 0, seq := 1, status := .running, hung := false
                   quiet := 0, still := 0, report := 0 })], nextPop := 5 }
/-- FatalTrapEndsThePopulation: without a handler, and in one; no debugger; targets and a table image that are misaligned. -/
theorem wit_fatal : (∀ s ∈ [popped { mode := .ready, g := regs [(6, 1), (7, 2)] } fun k => { k with tvec := 0 },
      popped { mode := .ready, tstat := 3, g := regs [(6, 1), (7, 2)] }],
    s.me.pop = some 4 ∧ (s.slot 0 0).pop = some 4 ∧ (FMap.find? s.pops 4).isSome = true ∧
    ((s.cvf s.cur.core).tvec = 0 ∨ s.me.inTrap = true) ∧ s.attached = false ∧
    (s.rg 6 + (0 : BitVec 12).signExtend 64).getLsbD 0 = true ∧ (s.rg 7 + (0 : BitVec 12).signExtend 64).getLsbD 1 = true ∧
    (s.rg 6).toNat % 1024 ≠ 0) ∧
    (popped { mode := .ready } fun k => { k with tvec := 0 }).src.slot.inTrap = false := by decide +kernel
/-- FatalTrapEndsThePopulation: a lone word that is no instruction, issued by a slot of the population without a handler. -/
theorem wit_fatalWord : let r : State := { (fs 0xC1146018).updSlot 0 0 fun x => { x with pop := some 4 } with pops := (popped {}).pops }
    r.issuing = some (0, 0) ∧ (match (issued r).fetchWord 0 (r.slot 0 0).pc with
      | .word v u => decide (v = 0xC1146018) && (FMap.find? u.pops 4).isSome && decide ((u.slot 0 0).pop = some 4) &&
        decide ((u.cvf 0).tvec = 0)
      | _ => false) = true ∧ fld 0xC1146018 31 1 = 1 ∧ decode 0xC1146018 = none := by decide +kernel
/-- R228: the population is reported fatal with its cause. -/
theorem test_fatal : let t := run (.trap 1) (popped { mode := .ready, tstat := 3, pc := 0x40, gtid := 7 })
    t.reports = [.fatal 4 7 9 0x40 1] ∧ t.me.mode = .free := by decide +kernel
/-- R298, R227: a TRET past the bundle of a mark keeps the mark for its release alone, and drops a released one; one to it keeps it. -/
theorem test_tretMarks : let m : BarMark := { cid := 7, pc := 0x40, tok := 3, released := false }
    let t (pc : Word) (m : BarMark) := (run .tret (one { mode := .ready, tstat := 3, tpc := pc, arrived := [m] })).me.arrived
    t 0x40 m = [m] ∧ t 0x44 m = [{ m with again := false }] ∧ t 0x44 { m with released := true } = [] := by decide +kernel
/-- AsynchronousCausesInOrder: each cause pending, alone or with those behind it. -/
theorem wit_async : let x : Slot := { pendTimer := some 6 }
    (Slot.inTrap { x with tstat := 3 } = true ∧ x.inTrap = false) ∧
    ({ x with pendVpoison := some 1 } : Slot).pendVpoison = some 1 ∧
    (x.pendVpoison = none ∧ ({ x with pendHang := some 2 } : Slot).pendHang = some 2) ∧
    (x.pendHang = none ∧ ({ x with pendEngine := [3, 4] } : Slot).pendEngine = [3, 4]) ∧
    (x.pendEngine = [] ∧ ({ x with pendOvf := true } : Slot).pendOvf = true) ∧ x.pendOvf = false ∧ x.pendTimer = some 6 ∧
    ({ x with pendTimer := none } : Slot).pendTimer = none := by decide +kernel
/-- BreakpointHaltsOrTraps: a debugger attached to the partition, and none; no A-word waits, or one does; and a DBRK beside one whose
result has come. -/
theorem wit_dbrk : (∀ w ∈ [none, some (Wait.sfu 9)], let s := (one { mode := .ready, aWait := w }).updPart 0 fun p => { p with debugger := true }
      s.attached = true ∧ s.me.aWait = w) ∧ (rs []).attached = false ∧
    (let x : Slot := { mode := .parked, cWait := some (.partner 0), cont := some (.halt 5) };
      ((one x).slot 0 0).mode = .parked ∧ ((one x).slot 0 0).aWait = none ∧ ((one x).slot 0 0).cWait = some (.partner 0) ∧
      ((one x).slot 0 0).cont = some (.halt 5)) := by decide +kernel
/-- A machine whose semaphore 3 has a count and waiters. -/
def sem (n : Nat) (w : List Nat) : State := mk (kx { mode := .ready } fun k => { k with sems := [(3, n)], semWait := [(3, w)] })
/-- SemaphoresCount: a unit, none, a waiter, none. -/
theorem wit_semaphores : (0 < FMap.getD ((sem 1 []).cvf (sem 1 []).cur.core).sems (3 : BitVec 4).toNat 0) ∧
    FMap.getD ((sem 0 []).cvf (sem 0 []).cur.core).sems (3 : BitVec 4).toNat 0 = 0 ∧
    FMap.getD ((sem 0 [2]).cvf (sem 0 [2]).cur.core).semWait (3 : BitVec 4).toNat [] = [2] ∧
    FMap.getD ((sem 0 []).cvf (sem 0 []).cur.core).semWait (3 : BitVec 4).toNat [] = [] := by decide +kernel
/-- R330: SEMP with a unit, without one; SEMV at 65,535. -/
theorem test_semaphores : FMap.find? ((run (.semp 3) (sem 1 [])).cvf 0).sems 3 = some 0 ∧
    (run (.semp 3) (sem 0 [])).me.waitCode = some 4 ∧ FMap.find? ((run (.semv 3) (sem 65535 [])).cvf 0).sems 3 = some 65535 := by
  decide +kernel

/-! ### Memory instructions, homes, slices -/

/-- R317's example: the dword X holds 0x8877_6655_4433_2211 at offset 64 of the own scratchpad. -/
def x317 (l : List (Nat × Word) := []) : State := withBytes (rs ((6, spa 64) :: l)) (spk 64) (leBytes 8 0x8877665544332211)
/-- R317: the example rows. -/
theorem test_loads : g (.ldb 5 6 7) 5 x317 = 0xFFFFFFFFFFFFFF88 ∧ g (.ldbu 5 6 7) 5 x317 = 0x88 ∧
    g (.ldh 5 6 6) 5 x317 = 0xFFFFFFFFFFFF8877 ∧ g (.ldw 5 6 4) 5 x317 = 0xFFFFFFFF88776655 ∧
    g (.ldwu 5 6 4) 5 x317 = 0x88776655 ∧ g (.ldd 5 6 0) 5 x317 = 0x8877665544332211 ∧
    (run (.ldh 5 6 1) x317).me.tcause = 4 ∧ (run (.ldh 5 6 1) x317).me.tval = spa 65 := by decide +kernel
/-- A place of the own scratchpad whose bank the running VF owns, up to the last dword (R141). -/
theorem wit_ownSp : ∀ off ∈ [0, 64, 2 ^ 18 - 8], OwnSp (rs []) (spa off) 8 := by unfold OwnSp; decide +kernel
/-- ScratchpadLoads, AtomicsAtHome, CasAndFloatAddAtHome, ReadsAtHome: such a place with neither stores nor poison. -/
theorem wit_ownSpRead : OwnSpRead x317 (x317.rg 6) 8 ∧ OwnSpRead x317 (x317.rg 6 + (7 : BitVec 12).signExtend 64) 1 ∧
    x317.me.aWait = none ∧ x317.me.cont = none := by unfold OwnSpRead OwnSp; decide +kernel
/-- The core of `kx` with a store of some bytes at an offset still in its PQ. -/
def pqd (off : Nat) (bs : List Byte) (x : Slot) : Core := kx x id fun k =>
  { k with seq := 3, pq := [{ seq := 3, key := spk off, bytes := bs, mark := none, slot := 0, pop := none, vf := 0, va := spa off
                              cached := false, slice := none }] }
/-- LoadsTakeTheYoungestStore: all eight bytes stand in one store. -/
theorem wit_youngest : let s := mk (pqd 64 (leBytes 8 9) { mode := .ready, g := regs [(6, spa 64)] })
    OwnSp s (s.rg 6 + (0 : BitVec 12).signExtend 64) 8 ∧ ∀ j, j < 8 → ∃ older e younger,
      (s.core s.cur.core).pq = older ++ e :: younger ∧
      (e.key ≤ ownKey s (s.rg 6 + (0 : BitVec 12).signExtend 64) + j ∧
        ownKey s (s.rg 6 + (0 : BitVec 12).signExtend 64) + j < e.key + e.bytes.length) ∧ younger = [] ∧
      e.bytes[ownKey s (s.rg 6 + (0 : BitVec 12).signExtend 64) + j - e.key]? = some ((9 : Word).extractLsb' (8 * j) 8) := by
  refine ⟨by unfold OwnSp; decide +kernel, fun j h => ⟨[], _, [], rfl, ?_⟩⟩
  revert j; decide +kernel
/-- A machine whose core 0 has the page of address 0 of VF 0 in its TLB, cacheable or not, and an L view. -/
def paged (cached : Bool) (l1 : FMap L1Line) : State := mk (kx { mode := .ready } id fun k =>
  { k with l1 := l1, tlb := [{ lo := BitVec.ofNat 64 0b1111, hi := BitVec.ofNat 64 (0x40000 + (if cached then 4 else 0)) }] })
/-- The key of the first byte of that page. -/
def pageKey : Nat := Part.zero.hbmKey 0x40000
/-- A line of the L view with its first word. -/
def l1v (w : Half) : L1Line := { set := 0, used := 0, words := [(0, w)], poison := [] }
/-- What `resolve` gives for the first word of that page. -/
def looked (s : State) : Look × State := s.resolve s.cur.core 0 (s.rg 6 + (0 : BitVec 12).signExtend 64) 4 false
/-- What LoadsThroughTheLView asks of a look-up. -/
def found (s : State) (cached : Bool) : Prop :=
  looked s = (.at (.mem pageKey cached 0), (looked s).2) ∧ ((looked s).2.core 0).covered pageKey 4 = false
/-- LoadsThroughTheLView: a cacheable page with the word in the L view, without its line, and a page that is not cacheable. -/
theorem wit_lview : found (paged true [(pageKey / 128, l1v 7)]) true ∧
    FMap.find? ((looked (paged true [(pageKey / 128, l1v 7)])).2.core 0).l1 (pageKey / 128) = some (l1v 7) ∧
    pageKey % 4 = 0 ∧ FMap.find? (l1v 7).words (pageKey % 128 / 4) = some 7 ∧ (l1v 7).poison = [] ∧
    found (paged true []) true ∧ FMap.find? ((looked (paged true [])).2.core 0).l1 (pageKey / 128) = none ∧
    found (paged false []) false := by
  refine ⟨⟨Prod.ext ?_ rfl, ?_⟩, ?_, ?_, ?_, ?_, ⟨Prod.ext ?_ rfl, ?_⟩, ?_, Prod.ext ?_ rfl, ?_⟩ <;> decide +kernel
/-- LoadsThroughTheLView: no request of the core waits in a miss table. -/
theorem wit_lviewMiss : ∀ q ∈ (looked (paged true [])).2.reqs, q.2.core = 0 → q.2.waiting = false := by decide +kernel
/-- R250, R251: an enabled counter of event 4 counts the hit; R317: LDW sign-extends. -/
theorem test_l1hit : let s := (paged true [(pageKey / 128, l1v 0x80000000)]).updCvf 0 fun k => { k with pmEn := 1, pmsel := k.pmsel.set 0 4 }
    ((run (.ldw 5 6 0) s).cvf 0).pmc.getD 0 0 = 1 ∧ g (.ldw 5 6 0) 5 s = 0xFFFFFFFF80000000 ∧ (s.core 0).switchTo = none ∧
    (s.cvf 0).pmUnsup = 0 := by decide +kernel
/-- A core whose PQ holds a number of dword stores, one behind the other. -/
def queued (n : Nat) (x : Slot) : Core := kx x id fun k =>
  { k with seq := BitVec.ofNat 64 n, pq := (List.range n).map fun i =>
      { seq := i + 1, key := spk (8 * i), bytes := leBytes 8 i, mark := none, slot := 0, pop := none, vf := 0, va := spa (8 * i)
        cached := false, slice := none } }
/-- The slot of the store tests: %g6 names an offset of the own scratchpad. -/
def stx (off : Nat) : Slot := { mode := .ready, g := regs [(5, 0x1122334455667788), (6, spa off)] }
/-- StoresEnterTheQueue: an empty PQ, one with 31 entries, and the last place of the scratchpad, for each size. -/
theorem wit_stores : ∀ z : BitVec 2, let n := 2 ^ z.toNat
    ∀ e ∈ [(0, 64), (31, 64), (0, 2 ^ 18 - n)], let s := mk (queued e.1 (stx e.2))
    (OwnSp s (s.rg 6 + (0 : BitVec 12).signExtend 64) n ∧ OwnSp s (s.rg 6) n) ∧
    (s.core s.cur.core).pq.length < 32 := by unfold OwnSp; decide +kernel
/-- R334's example: STW stores the low word; the home holds it once the entry has drained. -/
theorem test_stw : let t := run (.pqDrain 0 1) (run (.stw 5 6 0) (mk (queued 0 (stx 64))))
    le4 t.mem (spk 64) = 0x55667788 ∧ t.mem.get (spk 68) = 0 ∧ (t.core 0).pq = [] := by decide +kernel
/-- A store of a dword that has not entered the PQ. -/
def held1 : PqEntry := { seq := 0, key := spk 64, bytes := leBytes 8 1, mark := none, slot := 0, pop := none, vf := 0
                         va := spa 64, cached := false, slice := none }
/-- The read of a JOIN word. -/
def joinRead : MemOp := { kind := .load, key := spk 64, va := spa 64, size := 8, d := 0, sext := false, arg := 0, cmp := 0, acq := true
                          rel := false, sys := false, cached := false, slice := none, mark := none }
/-- A slot of VF 1, switched out with a SYNC's frame stores still to enter the PQ. -/
def syncAway : Slot := { mode := .parked, cWait := some (.pqFull [held1, held1] [] []), cont := some (.syncStore joinRead 1 []) }
/-- VF 0 runs, 31 entries in the PQ, and that slot is SAVED. -/
def savedStore : State := mk { queued 31 {} with vfs := (queued 31 {}).vfs ++ [(2, { slots := [(0, syncAway)] })] }
/-- FullQueueHoldsTheStore: 32 entries in the PQ, for each size, and slots that wait with 31, for their only store and for two. -/
theorem wit_pqFull : (∀ z : BitVec 2, let n := 2 ^ z.toNat
      ∀ off ∈ [64, 2 ^ 18 - n], let s := mk (queued 32 (stx off))
      OwnSp s (s.rg 6 + (0 : BitVec 12).signExtend 64) n ∧ OwnSp s (s.rg 6) n ∧ 32 ≤ (s.core s.cur.core).pq.length) ∧
    (∀ es ∈ [[], [held1]], let s := mk (queued 31 { stx 64 with cWait := some (.pqFull (held1 :: es) [] []) })
      (s.slotV 0 1 0).cWait = some (.pqFull (held1 :: es) [] []) ∧ s.vk 0 = 1 ∧ (s.core 0).pq.length < 32) ∧
    State.remoteKey 0 held1.key = false ∧ State.remoteKey 5 held1.key = true := by
  unfold OwnSp; decide +kernel
/-- FullQueueHoldsTheStore: a slot of a VF that is switched out is the only one of its number that waits. -/
theorem wit_pqSaved : (savedStore.slotV 0 2 0).cWait = some (.pqFull [held1, held1] [] []) ∧ savedStore.vk 0 ≠ 2 ∧
    (savedStore.core 0).pq.length < 32 ∧ ∀ k, k ≠ 2 → ∀ fs xs rs, (savedStore.slotV 0 k 0).cWait ≠ some (.pqFull fs xs rs) := by
  refine ⟨by decide +kernel, by decide +kernel, by decide +kernel, fun k hk fs xs rs h => ?_⟩
  rcases k with _ | _ | _ | k <;> first | exact hk rfl | cases h
/-- R240, R336: the stores of a SYNC enter the PQ while its VF is switched out. -/
theorem test_pqSaved : ((run (.storePqEntry 0 0) savedStore).core 0).pq.length = 32 ∧
    ((run (.storePqEntry 0 0) savedStore).slotV 0 2 0).cWait = some (.pqFull [held1] [] []) := by decide +kernel
/-- AtomicsAtHome, CasAndFloatAddAtHome, ReadsAtHome: the home words and operands each clause names. -/
theorem wit_amo : let s := withBytes (rs [(5, 7), (6, spa 64), (7, 0x3F800000)]) (spk 64) (leBytes 4 0xFFFFFFFF)
    let t := withBytes (rs [(5, 7), (6, spa 64), (7, 0xFFFFFFFF)]) (spk 64) (leBytes 4 0x40000000)
    OwnSpRead s (s.rg 6) 8 ∧ OwnSpRead t (t.rg 6) 4 ∧ lo (s.rg 7) = 0x3F800000 ∧ le4 s.mem (ownKey s (s.rg 6)) = 0xFFFFFFFF ∧
    lo (t.rg 7) = 0xFFFFFFFF ∧ le4 t.mem (ownKey t (t.rg 6)) = 0x40000000 ∧
    le8 s.mem (ownKey s (s.rg 6)) ≠ s.rg 5 ∧ le4 s.mem (ownKey s (s.rg 6)) ≠ lo (s.rg 5) ∧
    s.me.aWait = none ∧ s.me.cont = none := by unfold OwnSpRead OwnSp; decide +kernel
/-- ReadsAtHome, WaitWithTimeout: the home word equals the comparand. -/
theorem wit_waitw : let s := withBytes (rs [(5, 7), (6, spa 64), (7, 100)]) (spk 64) (leBytes 8 7)
    OwnSpRead s (s.rg 6) 8 ∧ le8 s.mem (ownKey s (s.rg 6)) = s.rg 5 ∧ s.rg 7 ≠ 0 := by
  unfold OwnSpRead OwnSp; decide +kernel
/-- The result of an operation at home: issued, performed, answered. -/
def home (i : Instr) (s : State) : State := run (.parkReply 0 0 false) (run (.sliceRequest s.nextReq) (run i s))
/-- R286, R290, R294: AMOMIN of −1 and 1, AMOMINU of the same, CAS that finds its value. -/
theorem test_amo : let s := withBytes (rs [(5, 7), (6, spa 64), (7, 1)]) (spk 64) (leBytes 4 0xFFFFFFFF)
    let r := home (.amomin 5 6 7 0 0 0) s
    let u := home (.amominu 5 6 7 0 0 0) s
    let c := home (.cas 5 6 7 0 0 1) (withBytes (rs [(5, 7), (6, spa 64), (7, 1)]) (spk 64) (leBytes 8 7))
    r.me.g.getD 5 0 = BitVec.allOnes 64 ∧ le4 r.mem (spk 64) = 0xFFFFFFFF ∧ u.me.g.getD 5 0 = BitVec.allOnes 64 ∧
    le4 u.mem (spk 64) = 1 ∧ c.me.g.getD 5 0 = 7 ∧ le8 c.mem (spk 64) = 1 := by decide +kernel
/-- OrderedAtomics: a place of the own scratchpad that no store covers, beside no store and one. -/
theorem wit_ordered : ∀ k ∈ [queued 0 (stx 64), queued 1 (stx 64)], let s := mk k
    OwnSp s (s.rg 6) 4 ∧ OwnSp s (s.rg 6) 8 ∧ (s.core s.cur.core).covered (ownKey s (s.rg 6)) 4 = false ∧
    (s.core s.cur.core).covered (ownKey s (s.rg 6)) 8 = false := by unfold OwnSp; decide +kernel
/-- An AMOADD of 1 to the dword at offset 64, with or without acquire and release. -/
def amoOp (acq : Bool) (mark : Option Mark) : MemOp :=
  { kind := .amo .add, key := spk 64, va := spa 64, size := 8, d := 5, sext := false, arg := 1, cmp := 0, acq := acq, rel := mark.isSome
    sys := true, cached := false, slice := none, mark := mark }
/-- A slot that waits for it at home, with some marks on the word. -/
def atHome (op : MemOp) (ms : List Mark) (home : Option Nat := none) : State :=
  { withBytes (one { mode := .parked, cWait := some (.request 3) }) op.key (leBytes 8 41) with
    marks := if ms.isEmpty then [] else [(op.key / 8, ms)]
    reqs := [(3, { kind := .mem op, core := 0, slot := 0, vf := 0, key := op.key, size := 8, slice := home, cached := op.cached
                   waiting := false, tag := 0 })] }
/-- OrderedAtomics: with acquire, release, both and neither; marks of another core and of the same one, three of them, and none. -/
theorem wit_atHome : ∀ acq ∈ [true, false], ∀ m ∈ [none, some (⟨0, 2, true, 0⟩ : Mark)],
    ∀ ms ∈ [([] : List Mark), [⟨1, 1, true, 0⟩, ⟨2, 1, false, 0⟩, ⟨3, 1, true, 0⟩], [⟨0, 1, false, 0⟩]], let op := amoOp acq m
    let s := atHome op ms
    (FMap.find? s.reqs 3).map (fun r => (r.kind, r.waiting, r.slice)) = some (.mem op, false, none) ∧ s.bankReady op.key 0 = true ∧
    s.poisoned op.key 8 = false ∧ (s.core 0).vf = some 0 ∧ (s.slot 0 0).cWait = some (.request 3) ∧
    amoNew .add 8 (s.home op.key 8) op.arg.toNat op.cmp.toNat = some 42 ∧ s.marksAt op.key = ms ∧
    ((∃ z ∈ ms, z.core = 0) ∨ (ms.length < 4 ∧ (ms = [] → s.markVictim (State.spCore op.key) = none))) := by decide +kernel
/-- R160, R164, R165: an AMO of order AR that meets a mark of core 1 adds its own, and waits for a force of core 1's. -/
theorem test_amoAr : let t := run (.sliceRequest 3) (atHome (amoOp true (some ⟨0, 2, true, 0⟩)) [⟨1, 1, true, 0⟩])
    le8 t.mem (spk 64) = 42 ∧ (t.marksAt (spk 64)).map (fun m => (m.core, m.seq)) = [(1, 1), (0, 2)] ∧
    (t.slot 0 0).cWait = some (.acquire [⟨⟨1, 1, true, 0⟩, false, false⟩] true [.g 5 41] true) := by decide +kernel
/-- OrderedAtomics: one at SYS whose line stands in its slice. -/
theorem wit_atSlice : let op : MemOp := { amoOp false none with key := pageKey, cached := true, slice := some 0 }
    let l : L2Line := { line := pageKey / 128, way := 0, vf := 0, dirty := false, pins := 0, used := 0, sectors := 1 }
    let s := { atHome op [] (some 0) with slices := [(0, { sets := [(0, [l])] })] }
    (FMap.find? s.reqs 3).map (fun r => (r.kind, r.waiting, r.slice, r.cached, r.key)) = some (.mem op, false, some 0, true, op.key) ∧
    State.isSp (op.key / 128 * 128) = false ∧ s.poisoned op.key 8 = false ∧
    amoNew .add 8 (s.home op.key 8) op.arg.toNat op.cmp.toNat = some 42 ∧ (s.slice (0 / 256)).stalled = [] ∧
    (s.slice (0 / 256)).line? (0 % 256) (op.key / 128) = some l ∧ l.sectors.getLsbD (op.key % 128 / 32) = true ∧
    (s.slice (0 / 256)).wb.length < 4 ∧ (s.slice (0 / 256)).filter.length < 16 := by decide +kernel
/-- WaitWithTimeout: a slot that watches its word until cycle 100. -/
theorem wit_timeout : let op : MemOp := { kind := .waitwt 2 100, key := spk 64, va := spa 64, size := 8, d := 0, sext := false
                                          arg := 0, cmp := 7, acq := false, rel := false, sys := false, cached := false
                                          slice := none, mark := none }
    ((one { mode := .parked, cWait := some (.watch op (some 100) 2) }).slot 0 0).cWait = some (.watch op (some 100) 2) := by
  decide +kernel
/-- An entry of a PQ for the scratchpad. -/
def spEntry : PqEntry := { seq := 1, key := spk 64, bytes := leBytes 8 9, mark := none, slot := 0, pop := none, vf := 0
                           va := spa 64, cached := false, slice := none }
/-- Fences: nothing outstanding; one entry in the PQ. -/
theorem wit_fence : ((rs []).core 0).pq = [] ∧ ((rs []).core 0).unpub = [] ∧
    ∃ e, e ∈ ((mk (queued 1 (stx 64))).core 0).pq ∧ e.seq ≤ ((mk (queued 1 (stx 64))).core 0).seq.toNat := by decide +kernel
/-- A slot whose fence waits for the entries up to seq 1, a younger one left. -/
def fencing (sys acq : Bool) : State := mk (kx { mode := .parked, pc := 0x40, nextPc := 0x44, cWait := some (.drain 1 sys acq) } id fun k =>
  { k with seq := 2, pq := [{ spEntry with seq := 2 }], l1 := [(9, { set := 0, used := 0, words := [(0, 7)], poison := [] })] })
/-- Fences: REL and FULL, at DEV and SYS, once their entries are home. -/
theorem wit_fenceEnds : ∀ sys ∈ [true, false], ∀ acq ∈ [true, false], let s := fencing sys acq
    (s.slot 0 0).mode = .parked ∧ (s.slot 0 0).aWait = none ∧ (s.slot 0 0).cont = none ∧ (s.slot 0 0).cWait = some (.drain 1 sys acq) ∧
    (∀ e ∈ (s.core 0).pq, 1 < e.seq) ∧ ∀ e ∈ (s.core 0).unpub, 1 < e.seq := by decide +kernel
/-- R144, R167: FULL drops the L view as it completes, REL does not. -/
theorem test_fence : ((run (.parkReply 0 0 false) (fencing true true)).core 0).l1 = [] ∧
    ((run (.parkReply 0 0 false) (fencing true false)).core 0).l1.length = 1 ∧
    ((run (.parkReply 0 0 false) (fencing true true)).slot 0 0).pc = 0x44 := by decide +kernel
/-- BadAddressesTrap: the first address that is not canonical, the last canonical ones, one of no multiple of 2. -/
theorem wit_badAddress : let n := (0x0100000000000000 : Word).toNat
    (n / 2 ^ 56 ≠ 0 ∧ n / 2 ^ 56 ≠ 255) ∧ (0x00FFFFFFFFFFFFFF : Word).toNat / 2 ^ 56 = 0 ∧
    (0xFF00000000000000 : Word).toNat / 2 ^ 56 = 255 ∧ (0x00FFFFFFFFFFFFFF : Word).toNat % 2 ≠ 0 := by decide
/-- R138, R139: the address check comes before the alignment. -/
theorem test_badAddress : let t := run (.ldd 5 6 1) (rs [(6, 0x0100000000000000)])
    t.me.tcause = 5 ∧ t.me.tval = 0x0100000000000001 := by decide +kernel
/-- A core with one entry of the PQ. -/
def entry (e : PqEntry) : State := mk (kx { mode := .ready } id fun k => { k with seq := BitVec.ofNat 64 e.seq, pq := [e] })
/-- PqEntryReachesHome: a line whose sector the slice holds. -/
theorem wit_pqSlice : let e : PqEntry := { spEntry with key := pageKey, slice := some 0, cached := true }
    let l : L2Line := { line := pageKey / 128, way := 0, vf := 0, dirty := false, pins := 0, used := 0, sectors := 1 }
    let s := { entry e with slices := [(0, { sets := [(0, [l])] })] }
    (s.core 0).pq.find? (·.seq = e.seq) = some e ∧ (s.slice (0 / 256)).line? (0 % 256) (e.key / 128) = some l ∧
    l.sectors.getLsbD (e.key % 128 / 32) = true ∧ (s.slice (0 / 256)).entry? (e.key / 128) = none ∧
    (s.slice (0 / 256)).stalled = [] ∧ s.bankReady e.key e.vf = true ∧
    e.mark = none := by decide +kernel
/-- PqEntryReachesHome: no slice array; memory that is not cacheable, with a mark; behind an older entry. -/
theorem wit_pqEntry : (∀ e ∈ [spEntry, { spEntry with key := pageKey, slice := some 0, mark := some ⟨0, 1, true, 0⟩ }],
      let s := entry e
      (s.core 0).pq.find? (·.seq = e.seq) = some e ∧ (e.slice = none ∨ e.cached = false) ∧ s.bankReady e.key e.vf = true ∧
      (∀ o ∈ (s.core 0).pq, o.seq < e.seq → overlap o.key o.bytes.length e.key e.bytes.length = false) ∧
      (e.mark = none ∨ State.isSp e.key = false ∨ s.marksAt e.key ≠ [])) ∧
    (let s := mk (kx {} id fun k => { k with seq := 2, pq := [spEntry, { spEntry with seq := 2 }] })
      ∃ o ∈ (s.core 0).pq, o.seq < 2 ∧ overlap o.key o.bytes.length spEntry.key 8 = true ∧
        (s.core 0).pq.find? (·.seq = 2) = some { spEntry with seq := 2 } ∧ s.bankReady spEntry.key 0 = true) := by
  decide +kernel
/-- MarksMerge: a mark of another core, and one of the same core. -/
theorem wit_marks : let m : Mark := ⟨1, 5, false, 0⟩
    (∀ x ∈ [(⟨0, 9, true, 0⟩ : Mark)], x.core ≠ m.core) ∧ ∃ x ∈ [(⟨1, 3, true, 0⟩ : Mark)], x.core = m.core := by decide
/-- R160: an older mark that comes later leaves the larger seq and the wider scope. -/
theorem test_marks : addMark [⟨1, 9, true, 0⟩] ⟨1, 5, false, 0⟩ = [⟨1, 9, true, 0⟩] := by decide
/-- PublicationWritesTheLine: a store that has reached its home, the slice's entries and filter empty or with one place left. -/
theorem wit_publish : ∀ k ∈ [({} : Slice), { wb := [1, 2, 3], filter := List.range 15 }],
    let e := { spEntry with key := pageKey, slice := some 0, cached := true }
    let s := { mk (kx {} id fun c => { c with seq := 1, unpub := [e] }) with slices := [(0, k)] }
    (s.core 0).unpub.find? (·.seq = e.seq) = some e ∧ e.slice = some 0 ∧ State.isSp (e.key / 128 * 128) = false ∧
    (s.slice (0 / 256)).wb.length < 4 ∧ (s.slice (0 / 256)).filter.length < 16 := by decide +kernel
/-- A slot that acquires with one force of a mark of core 0, and the entries the PQ holds. -/
def forcing (asked : Bool) (pq : List PqEntry) : State := mk (kx
  { mode := .parked, cWait := some (.acquire [⟨⟨0, 1, true, 0⟩, asked, false⟩] true [.g 5 1] false) } id fun k => { k with seq := 2, pq := pq })
/-- AcquireForcesMarks: before the request, after it with the entry still there, after it with a younger one alone. -/
theorem wit_acquire : let f (a : Bool) : Force := ⟨⟨0, 1, true, 0⟩, a, false⟩
    ((forcing false []).slot 0 0).cWait = some (.acquire [f false] true [.g 5 1] false) ∧ [f true][0]? = some (f true) ∧
    (∃ e ∈ ((forcing true [spEntry]).core 0).pq, e.seq ≤ (f true).mark.seq) ∧
    (∀ e ∈ ((forcing true [{ spEntry with seq := 2 }]).core 0).pq, (f true).mark.seq < e.seq) ∧
    (∀ e ∈ ((forcing true []).core 0).unpub, (f true).mark.seq < e.seq) ∧
    ([f true].set 0 { f true with acked := true }).all (·.acked) = true ∧
    ([f true, f true].set 0 { f true with acked := true }).all (·.acked) = false := by decide +kernel
/-- A load of the first word of a page. -/
def ldOp : MemOp := { kind := .load, key := pageKey, va := 0, size := 4, d := 5, sext := true, arg := 0, cmp := 0, acq := false
                      rel := false, sys := false, cached := true, slice := some 0, mark := none }
/-- A fill of a page's first sector. -/
def fillA : Fill := { line := pageKey / 128, sector := 0, set := 0, blocked := [], stored := [], patched := [], stale := false
                      data := some (leBytes 32 7), poison := [], vf := 0, slot := 0, tag := 0, counted := false }
/-- FillServesItsLoads: a sector that has returned and a load that waits for its first word. -/
theorem wit_fill : let s := mk (kx { mode := .parked, cWait := some (.fill 0 ldOp) } id fun k => { k with fills := [(0, fillA)] })
    FMap.find? (s.core 0).fills 0 = some fillA ∧ fillA.data = some (leBytes 32 7) ∧ (leBytes 32 7).length = 32 ∧
    fillA.blocked = [] ∧ fillA.patched = [] ∧ fillA.poison = [] ∧ fillA.stored = [] ∧ FMap.find? (s.core 0).l1 fillA.line = none ∧
    (s.slot 0 0).cWait = some (.fill 0 ldOp) ∧ ldOp.size = 4 ∧
    ldOp.key % 4 = 0 := by decide +kernel
/-- A slice with a line's first sector, and a request for that sector. -/
def sliceA (sets : FMap (List L2Line)) : State := { mk (kx {} id fun k => { k with fills := [(0, { fillA with data := none })] }) with
  slices := [(0, { sets := sets })], reqs := [(3, { kind := .fill 0, core := 0, slot := 0, vf := 0, key := pageKey, size := 32
                                                    slice := some 0, cached := true, waiting := false, tag := 0 })] }
/-- RequestsMeetTheirSlice: the sector is there; the line is not. -/
theorem wit_request : let l : L2Line := { line := pageKey / 128, way := 0, vf := 0, dirty := false, pins := 0, used := 0, sectors := 1 }
    let s := sliceA [(0, [l])]
    let t := sliceA []
    (∃ r, FMap.find? s.reqs 3 = some r ∧ r.kind = .fill 0 ∧ r.waiting = false ∧ r.cached = true ∧ r.slice = some 0 ∧
      r.key = pageKey) ∧
    (s.slice 0).stalled = [] ∧ (s.slice (0 / 256)).line? (0 % 256) (pageKey / 128) = some l ∧
    l.sectors.getLsbD (pageKey % 128 / 32) = true ∧ FMap.find? (s.core 0).fills 0 = some { fillA with data := none } ∧
    fillA.line = pageKey / 128 ∧ fillA.sector = pageKey % 128 / 32 ∧ (t.slice (0 / 256)).line? (0 % 256) (pageKey / 128) = none ∧ (t.slice 0).entry? (pageKey / 128) = none ∧
    (t.slice 0).miss.length < 28 ∧ 15 < 16 - (t.slice 0).resv ∧ ∀ l ∈ (t.slice 0).lines (0 % 256), l.way ≠ 15 := by
  refine ⟨⟨_, rfl, rfl, rfl, rfl, rfl, rfl⟩, ?_⟩; decide +kernel
/-- SliceCompletions: an entry with a sector outstanding, one with none, a line in the filter. -/
theorem wit_slice : let k (p : FMap (BitVec 32)) : State := { State.reset with slices := [(0, { miss := [⟨9, p, []⟩], wb := [9], filter := [9] })] }
    ((k [(3, 0)]).slice 0).entry? 9 = some ⟨9, [(3, 0)], []⟩ ∧ FMap.find? (⟨9, [(3, 0)], []⟩ : MissEntry).pend 3 = some 0 ∧
    ((k []).slice 0).entry? 9 = some ⟨9, [], []⟩ ∧ (∀ x ∈ ((k []).slice 0).miss, x.line = 9 → x = ⟨9, [], []⟩) ∧ ((k []).slice 0).stalled = [] ∧ 9 ∈ ((k []).slice 0).filter ∧
    ((k []).slice 0).filterWait = [] := by decide +kernel


/-! ### Floating instructions, formats, special registers -/

/-- A slot with registers, a rounding mode, an absent mode, %FMTD and %SCALE. -/
def fx (l : List (Nat × Word)) (frm amode fmtd scale : Word := 0) : State :=
  one { mode := .ready, g := regs l, frm := frm, amode := amode, fmtd := fmtd, scale := scale }
/-- The result and the flags of an instruction that writes %g5. -/
def fr (i : Instr) (s : State) : Word × Word := ((run i s).me.g.getD 5 0, (run i s).me.fflags)
/-- R308: the example rows of FADD, FSUB and FMUL. -/
theorem test_fadd : fr (.fadd 5 6 7 0) (fx [(6, 0xFFFFFFFF), (7, 0x40400000)]) = (0xFFFFFFFF, 0) ∧
    fr (.fadd 5 6 7 0) (fx [(6, 0xFFFFFFFF), (7, 0x40400000)] 0 1) = (0x40400000, 0) ∧
    fr (.fsub 5 6 7 0) (fx [(6, 0xFFFFFFFF), (7, 0x40400000)] 0 1) = (0xC0400000, 0) ∧
    fr (.fmul 5 6 7 0) (fx [(6, 0x7F7FFFFF), (7, 0x40400000)]) = (0x7F800000, 0b00101) ∧
    fr (.fmul 5 6 7 0) (fx [(6, 0x7F800001), (7, 0x40400000)]) = (0x7FC00000, 0b10000) := by decide +kernel
/-- R312: FMA rounds once. -/
theorem test_fma : fr (.fma 5 6 7 8) (fx [(6, 0x7F7FFFFF), (7, 0x40000000), (8, 0xFF7FFFFF)]) = (0x7F7FFFFF, 0) := by
  decide +kernel
/-- R309: FCLASS. -/
theorem test_fclass : (fr (.fclass 5 6 0) (fx [(6, 0xFFFFFFFF)])).1 = 0x400 ∧ (fr (.fclass 5 6 0) (fx [(6, 0xFF800000)])).1 = 1 ∧
    (fr (.fclass 5 6 1) (fx [(6, 0xFFFFFFFF)])).1 = 0x20 := by decide +kernel
/-- R311: FCVT.I64.F32 of 2.5 under RNE and RUP, of −2.5 under RDN, of 2^63, of the absent pattern. -/
theorem test_fcvt : fr (.fcvtI64F32 5 6) (fx [(6, 0x40200000)]) = (2, 1) ∧ fr (.fcvtI64F32 5 6) (fx [(6, 0x40200000)] 3) = (3, 1) ∧
    fr (.fcvtI64F32 5 6) (fx [(6, 0xC0200000)] 2) = (-3, 1) ∧
    fr (.fcvtI64F32 5 6) (fx [(6, 0x5F000000)]) = (0x7FFFFFFFFFFFFFFF, 0b10000) ∧
    fr (.fcvtI64F32 5 6) (fx [(6, 0xFFFFFFFF)]) = (0x8000000000000000, 0) := by decide +kernel
/-- R311: FCVT.I64U.F32 of 2^63 and of −1. -/
theorem test_fcvtU : fr (.fcvtI64uF32 5 6) (fx [(6, 0x5F000000)]) = (0x8000000000000000, 0) ∧
    fr (.fcvtI64uF32 5 6) (fx [(6, 0xBF800000)]) = (0, 0b10000) := by decide +kernel
/-- FloatArithmeticRoundsOnce, FloatSpecialOperands, FloatSelections, FloatConversions: the largest finite patterns, 0 and 1 of both
layouts are finite, and they, the infinities and the absent patterns are no NaN; NaNs are. -/
theorem wit_patterns : (∀ p ∈ [0, 0x3F800000, 0x7F7FFFFF, 0xFF7FFFFF], (layout 0).Finite p ∧ (layout 0).IsNan p = false) ∧
    (∀ p ∈ [0, 0x3FF0000000000000, 0x7FEFFFFFFFFFFFFF, 0xFFEFFFFFFFFFFFFF], (layout 1).Finite p ∧ (layout 1).IsNan p = false) ∧
    (∀ p ∈ [0x7F800000, 0xFF800000, 0xFFFFFFFF], (layout 0).IsNan p = false) ∧ (layout 0).absent = 0xFFFFFFFF ∧
    (layout 0).IsNan 0x7F800001 = true ∧ (layout 0).IsNan 0xFFFFFFFE = true ∧ (layout 1).IsNan 0x7FF0000000000001 = true ∧
    (layout 0).inf true = 0xFF800000 ∧ (layout 1).inf false = 0x7FF0000000000000 ∧ (layout 0).zero false = 0 := by
  unfold Layout.Finite; decide +kernel
/-- FloatConversions, ScalarConversions: values other than 0. -/
theorem wit_values : (layout 1).val 0x3FF0000000000000 ≠ 0 ∧ (layout 0).val 0x3F800000 ≠ 0 ∧ (⟨8, 7⟩ : Layout).val 0x3F80 ≠ 0 ∧
    (⟨8, 7⟩ : Layout).Finite 0x3F80 := by
  unfold Layout.Finite; decide +kernel
/-- FloatConversions: integers that are and are not the absent one; FloatSpecialOperands: both modes. -/
theorem wit_modes : (0x8000000000000000 : Word) = 0x8000000000000000 ∧ (0x7FFFFFFFFFFFFFFF : Word) ≠ 0x8000000000000000 ∧
    identityMode (fx []) = false ∧ identityMode (fx [] 0 1) = true := by decide +kernel
/-- R287, R288: ABT of the absent codes of FP32 and INT4, ABM. -/
theorem test_absent : (run (.abtPrs 3 7 0) (rs [(7, 0xFFFFFFFF)])).me.p = 1 ∧ (run (.abtAbs 1 9 14) (rs [(9, 0xF8)])).me.p = 3 ∧
    g (.abm 5 6 0 1) 5 (rs [(6, 1)]) = 0xFFFF := by decide +kernel
/-- EmptyTableTraps: tables 0 and 3 are empty and owned, as 8-bit and as 4-bit formats. -/
theorem wit_emptyTable : ∀ k ∈ [0, 3], let s := mk (kx { mode := .ready } id fun c => { c with tabTag := [(0, 0), (3, 0)] })
    k < 4 ∧ (BitVec.ofNat 4 (6 + k)).toNat = 6 + k ∧ (BitVec.ofNat 4 (10 + k)).toNat = 10 + k ∧
    FMap.getD (s.cvf s.cur.core).tables k [] = [] ∧ s.src.slot.tabs = none ∧ FMap.find? (s.core s.cur.core).tabTag k = some (s.runVf s.cur.core) := by
  decide +kernel
/-- R300: CVTD.INT8 with DEXP 0 and −2, and of the absent code. -/
theorem test_cvtd : fr (.cvtd 5 6 5) (fx [(6, 0xFF85)]) = (0xC2F60000, 0) ∧ fr (.cvtd 5 6 5) (fx [(6, 0xFF85)] 0 0 0 0xFE) = (0xC1F60000, 0) ∧
    fr (.cvtd 5 6 5) (fx [(6, 0x80)]) = (0xFFFFFFFF, 0) := by decide +kernel
/-- R300: CVTE.FP16 of 65,520 under RNE, with and without SAT, and under RTZ; of the absent pattern. -/
theorem test_cvte : fr (.cvte 5 6 0 2) (fx [(6, 0x477FF000)]) = (0x7C00, 0b00101) ∧
    fr (.cvte 5 6 0 2) (fx [(6, 0x477FF000)] 0 0 0x20000) = (0x7BFF, 0b00101) ∧
    fr (.cvte 5 6 1 2) (fx [(6, 0x477FF000)]) = (0x7BFF, 1) ∧ fr (.cvte 5 6 0 2) (fx [(6, 0xFFFFFFFF)]) = (0xFFFF, 0) := by decide +kernel
/-- ScalarConversions: the absent code of each format; codes that are not; FP32 operands that are finite; SAT 0. -/
theorem wit_conversions : (∀ f ∈ plainFormats, (BitVec.ofNat 64 f.2.2).toNat % 2 ^ f.2.1 = f.2.2) ∧
    (∀ f ∈ [((5 : BitVec 4), 8), (14, 4)], (0x7F : Word).toNat % 2 ^ f.2 ≠ 2 ^ (f.2 - 1)) ∧ lo (0xFFFFFFFF : Word) = 0xFFFFFFFF ∧
    (layout 0).Finite ((0x477FF000 : Word).toNat % 2 ^ 32) ∧ (fx []).src.slot.fmtd.getLsbD 17 = false ∧
    (1 : BitVec 2).toNat < 2 := by unfold Layout.Finite; decide +kernel
/-- R328: two RANDs from the state (1, 2, 3, 4). -/
theorem test_rand : let a := run (.rand 5) (one { mode := .ready, rseed := #v[1, 2, 3, 4] })
    a.me.g.getD 5 0 = 0x2D00 ∧ a.me.rseed = #v[7, 0, 0x402, 0x3000] ∧
    fr (.rand 5) (one { mode := .ready, rseed := a.me.rseed }) = (0, 0) ∧
    (run (.rand 5) (one { mode := .ready, rseed := a.me.rseed })).me.rseed = #v[0x3007, 0x405, 0x405, 0x1800000] := by decide +kernel
/-- RandDrawsTheGenerator, SpecialRegisterReads: no claim, and a claim whose queue is empty. -/
theorem wit_noDraws : NoDraws (rs []) ∧ (rs []).src.slot.claim = none ∧
    NoDraws (one { mode := .ready, claim := some ⟨[0], 8, [], 0, []⟩ }) ∧ (rs []).cur.core < 2048 ∧ 0x800 ≤ (0x800 : BitVec 12).toNat := by
  refine ⟨?_, by decide +kernel, ?_, by decide +kernel, by decide⟩
  · intro cl h; have e : (rs []).src.slot.claim = none := by decide +kernel
    rw [e] at h; cases h
  · intro cl h
    have : (one { mode := .ready, claim := some ⟨[0], 8, [], 0, []⟩ }).src.slot.claim = some ⟨[0], 8, [], 0, []⟩ := by decide +kernel
    rw [this] at h; cases h; rfl
/-- R29: %TSTAT keeps IN_TRAP and ignores its reserved bits. -/
theorem test_swr : (run (.swr 5 0x024) (fx [(5, 0xFFFF)])).me.tstat = 0xE ∧ (run (.swr 5 0x022) (fx [(5, 3)])).me.tcause = 0 := by
  decide +kernel
/-- GuardedRegisterWrites: a %FMTD value that is legal. -/
theorem wit_fmtd : (0x8EEE : Word).extractLsb' 14 2 ≠ 3 ∧ (0x8EEE : Word).getLsbD 13 = false ∧
    (0x8EEE : Word).extractLsb' 0 4 ≠ 15 ∧ (0x8EEE : Word).extractLsb' 4 4 ≠ 15 ∧ (0x8EEE : Word).extractLsb' 8 4 ≠ 15 := by decide
/-- GuardedRegisterWrites: %FMTD values that are not. -/
theorem wit_fmtdBad : (0xC000 : Word).extractLsb' 14 2 = 3 ∧ (0x2000 : Word).getLsbD 13 = true ∧ (15 : Word).extractLsb' 0 4 = 15 := by
  decide
/-- GuardedRegisterWrites: an empty ring and one with a record; a lone word. -/
theorem wit_guarded : ((rs []).cvf 0).ringCount = 0 ∧ ((mk (kx {} fun k => { k with ringCount := 1 })).cvf 0).ringCount = 1 ∧
    (rs []).cur.pair = false := ⟨by decide +kernel, by decide +kernel, rfl⟩
/-- GuardedRegisterWrites: a ring that ends with the scratchpad's last byte, and one beyond it. -/
theorem wit_ring : 64 * (((0x03FC0040 : Word).extractLsb' 6 12).toNat + ((0x03FC0040 : Word).extractLsb' 18 12).toNat) ≤ 262144 ∧
    ¬ 64 * (((0x3FFFFFC0 : Word).extractLsb' 6 12).toNat + ((0x3FFFFFC0 : Word).extractLsb' 18 12).toNat) ≤ 262144 := by decide
/-- GuardedRegisterWrites: the word of a pair. -/
theorem wit_pair : ({ rs [] with cur := { pair := true } } : State).cur.pair = true := rfl


/-! ### Tasks, messages, stealing, populations, issue -/

/-- Every state of these tests keeps the partitions of reset, which have no trace ring. -/
theorem wit_untraced (s : State) (h : s.parts = State.reset.parts) : Untraced s := by
  intro pid p hp
  have e : s.parts = [(0, Part.zero)] := h
  simp only [State.part, e, FMap.find?] at hp
  split at hp
  · cases hp; decide
  · cases hp
/-- A task record. -/
def recA : TaskRec := { pc := 0x200, fp := 64, g4 := 4, g5 := 5, g6 := 6, fmtd := 0, scale := 0, gtid := 9, stolen := false }
/-- TaskEndTakesTheNextRecord: a deque with two records of the slot's population; an empty deque; %g3 = 0; no claim. -/
theorem wit_taskEnd : let s := popped { mode := .ready } fun k => { k with deque := [recA, { recA with pc := 0x300 }], dqPop := some 4 }
    s.me.claim = none ∧ s.me.aWait = none ∧ s.rg 3 = 0 ∧ (s.cvf 0).deque = [recA] ++ [{ recA with pc := 0x300 }] ∧ (s.cvf 0).dqPop = s.me.pop ∧
    ((popped { mode := .ready }).cvf (popped { mode := .ready }).cur.core).deque = [] ∧
    ((popped { mode := .ready }).cvf (popped { mode := .ready }).cur.core).ringCount = 0 ∧
    (popped { mode := .ready }).me.pop ≠ none := by decide +kernel
/-- TaskEndTakesTheNextRecord: beside an A-word whose result is outstanding. -/
theorem wit_taskEndBeside : (popped { mode := .ready, aWait := some (.sfu 9) }).me.aWait ≠ none ∧
    (popped { mode := .ready, aWait := some (.sfu 9) }).me.mode ≠ .halted := by decide +kernel
/-- R62, R307: EXIT beside a DIV waits, and runs the next record with the quotient in g2, which R41 keeps. -/
theorem test_exitBeside : let s := popped { mode := .ready, aWait := some (.divide [.g 2 7]) } fun k => { k with deque := [recA], dqPop := some 4 }
    let t := run (.parkReply 0 0 true) (run .exit s)
    (run .exit s).me.mode = .parked ∧ (run (.parkReply 0 0 false) t).me.pc = 0x200 ∧
    (run (.parkReply 0 0 false) t).me.g.getD 2 0 = 7 := by decide +kernel
/-- R41: EXIT with a record in the deque runs it. -/
theorem test_exit : let t := run .exit (popped { mode := .ready, g := regs [(2, 7), (20, 1)] } fun k => { k with deque := [recA], dqPop := some 4 })
    t.me.pc = 0x200 ∧ t.me.mode = .ready ∧ t.me.g.getD 2 0 = 7 ∧ t.me.g.getD 3 0 = 64 ∧ t.me.g.getD 6 0 = 6 ∧
    t.me.g.getD 20 0 = 0 ∧ (t.cvf 0).deque = [] := by decide +kernel
/-- A task that forks. -/
def forker : State := rs [(4, 44), (5, 0x200), (6, spa 64)]
/-- A task that forks in a frame at offset 128, its JOIN word 5. -/
def forkerIn : State := withBytes (rs [(3, spa 128), (4, 44), (5, 0x200), (6, spa 64)]) (spk 128) (leBytes 8 5)
/-- SpawnPushesTheContinuation: a task with a frame. -/
theorem wit_spawnIn : forkerIn.rg 3 ≠ 0 ∧ (forkerIn.rg 3).toNat % 64 = 0 ∧ OwnSpRead forkerIn (forkerIn.rg 3) 8 ∧ forkerIn.me.mode = .ready ∧
    forkerIn.me.fate = .ok ∧ forkerIn.me.aWait = none ∧ OwnSp forkerIn (forkerIn.rg 6) 8 ∧ OwnSp forkerIn (forkerIn.rg 6 + 8) 8 := by
  unfold OwnSpRead OwnSp; decide +kernel
/-- R45: the parent's JOIN word grows first, and then the child's stores enter the PQ. -/
theorem test_spawnIn : let t := run (.spawn 5 6) forkerIn
    let u := run (.sliceRequest 0) t
    let v := run (.parkReply 0 0 false) u
    (t.core 0).pq = [] ∧ t.me.mode = .parked ∧ le8 u.mem (spk 128) = 6 ∧ v.me.pc = 0x200 ∧ v.me.mode = .ready ∧
    ((v.core 0).pq.map fun e => (e.key, leVal e.bytes)) = [(spk 64, 0), (spk 72, (spa 128).toNat)] := by decide +kernel
/-- SpawnPushesTheContinuation: a task without a parent frame, room in deque and PQ. -/
theorem wit_spawn : forker.rg 3 = 0 ∧ (forker.rg 6).toNat % 64 = 0 ∧ (forker.rg 5).toNat % 4 = 0 ∧ OwnSp forker (forker.rg 6) 8 ∧
    OwnSp forker (forker.rg 6 + 8) 8 ∧ (forker.cvf 0).hasRecords = false ∧ (forker.cvf 0).deque.length < 64 ∧
    (forker.core 0).pq.length + 2 ≤ 32 := by unfold OwnSp; decide +kernel
/-- ... and no fork still open. -/
theorem wit_spawnOpen : ∀ m, (forker.slot forker.cur.core m).cont = none := by
  intro m; rcases m with _ | m <;> rfl
/-- R45, R51: the child's GTID comes from the core and its counter; the parent's continuation is the youngest record. -/
theorem test_spawn : let t := run (.spawn 5 6) forker
    t.me.nextPc = 0x200 ∧ t.me.g.getD 3 0 = spa 64 ∧ ((t.cvf 0).deque.map fun r => (r.pc, r.g4)) = [(4, 44)] ∧ (t.core 0).pq.length = 2 := by
  decide +kernel
/-- A frame at offset 64 whose PARENT is the frame at 128, with a JOIN word. -/
def framed (join : Nat) (frame : Nat := 64) : State :=
  withBytes (withBytes (rs [(3, spa frame)]) (spk 72) (leBytes 8 (spa 128).toNat)) (spk 128) (leBytes 8 join)
/-- TendDecrementsTheJoinWord: a child of a frame with two children, and of a suspended one with one. -/
theorem wit_tend : ∀ j ∈ [2, 0x8000000000000001], let s := framed j
    s.me.mode = .ready ∧ s.rg 3 ≠ 0 ∧ (s.rg 3).toNat % 64 = 0 ∧ OwnSpRead s (s.rg 3 + 8) 8 ∧
    le8 s.mem (ownKey s (s.rg 3 + 8)) = spa 128 ∧ spa 128 ≠ 0 ∧ OwnSpRead s (spa 128) 8 ∧ (s.core s.cur.core).pq = [] := by
  unfold OwnSpRead OwnSp; decide +kernel
/-- R46: the JOIN word of the parent falls from 2 to 1. -/
theorem test_tend : let t := run .tend (framed 2)
    le8 (run (.sliceRequest 0) t).mem (spk 128) = 1 ∧ t.me.mode = .parked := by decide +kernel
/-- SyncWaitsForChildren: no frame; a frame without children, and with one. -/
theorem wit_sync : (rs []).rg 3 = 0 ∧ ∀ j ∈ [0, 1], let s := framed j 128
    s.me.mode = .ready ∧ s.me.fate = .ok ∧ s.rg 3 ≠ 0 ∧ (s.rg 3).toNat % 64 = 0 ∧ OwnSpRead s (s.rg 3) 8 ∧ s.me.aWait = none ∧
    s.marksAt (ownKey s (s.rg 3)) = [] ∧ (s.core s.cur.core).pq = [] ∧ (le8 s.mem (ownKey s (s.rg 3))).toNat = j := by
  unfold OwnSpRead OwnSp; decide +kernel
/-- What the CAS of a SYNC works on: the JOIN word at offset 128. -/
def joinOp : MemOp := { kind := .home, key := spk 128, va := spa 128, size := 8, d := 0, sext := false, arg := 0, cmp := 0, acq := true
                        rel := false, sys := false, cached := false, slice := none, mark := none }
/-- A slot whose SYNC has read 1 there and has its frame words home, the JOIN word now being `join`. -/
def syncing (join : Nat) : State := withBytes (popped
  { mode := .parked, cWait := some (.drain 3 false false), cont := some (.syncStore joinOp 1 []) }) (spk 128) (leBytes 8 join)
/-- SyncWaitsForChildren: a JOIN word that stands at what was read, and one that has changed. -/
theorem wit_syncCas : ∀ j ∈ [1, 0], let s := syncing j
    (s.slot 0 0).mode = .parked ∧ (s.slot 0 0).fate = .ok ∧ (s.slot 0 0).aWait = none ∧ (s.slot 0 0).claim = none ∧
    (s.slot 0 0).cWait = some (.drain 3 false false) ∧ (s.slot 0 0).cont = some (.syncStore joinOp 1 []) ∧ (s.core 0).vf.isSome = true ∧
    joinOp.key = spKey (s.vk 0) 0 128 ∧ s.spOwned 0 (s.runVf 0) 128 = true ∧ s.poisoned joinOp.key 8 = false ∧ (s.core 0).pq = [] ∧
    (le8 s.mem joinOp.key).toNat = j ∧ (s.cvf 0).holdsFor (s.slot 0 0).pop = false ∧ (s.slot 0 0).pop ≠ none := by decide +kernel
/-- R47: the CAS sets SUSP and the slot searches; it fails where a child has ended, and the slot reads again. -/
theorem test_syncCas : let u (j : Nat) : State := run (.sliceRequest 0) (run (.parkReply 0 0 false) (syncing j))
    le8 (u 1).mem (spk 128) = 0x8000000000000001 ∧ ((run (.parkReply 0 0 false) (u 1)).slot 0 0).mode = .idleSteal ∧
    le8 (u 0).mem (spk 128) = 0 ∧ ((run (.parkReply 0 0 false) (u 0)).slot 0 0).cWait = some (.request 1) := by decide +kernel
/-- AsendSendsPackets: a core of the partition, one outside it, the group of all cores, a group that is not valid, pcs. -/
theorem wit_asend : let s := rs [(5, 0x200), (6, 3)]
    (s.core s.cur.core).pq = [] ∧ s.chanFull = [] ∧ (∀ r ∈ (one { mode := .ready, served := [(4, 7)] }).me.served, r.1 ≠ s.me.pc) ∧
    (60 : BitVec 6).toNat + (4 : BitVec 4).toNat ≤ 64 ∧ (s.rg 5).toNat % 4 = 0 ∧ (s.rg 6).toNat < 2 ^ 8 ∧
    s.coreIn (s.runPid 0) 1023 = true ∧ s.coreIn (s.runPid 0) 1024 = false ∧ s.coreIn (s.runPid 0) 65535 = false ∧
    s.group (s.runPid 0) 1 = none ∧ (6 : Word).toNat % 4 ≠ 0 := by decide +kernel
/-- AsendSendsPackets: entry 0 names every core. -/
theorem wit_group : ∃ ms, (rs []).group ((rs []).runPid 0) 0 = some ms ∧ ms ≠ [] := ⟨_, rfl, by
  rw [show (rs []).partCores ((rs []).runPid 0) = (rs []).partCores 0 from rfl]; decide +kernel⟩
/-- A slot with an ASEND to cores 5 and 6, or to a group, that has served some cores. -/
def sending (pq : List PqEntry) (group : Option Nat := none) (served : List Nat := []) (full : List Nat := []) : State :=
  { mk (kx { mode := .parked, cWait := some (.asend 1 0x200 [7] (if group.isNone then [5, 6] else []) group), served := served.map (0, ·) }
      id fun k => { k with seq := 2, pq := pq }) with
    chanFull := full, parts := [(0, { Part.zero with groups := [(1, [5, 6]), (2, [])] })] }
/-- AsendInjectsWhenAdmitted: its stores are home, or one is not; targets named, and the members of a group as it is now; one of them, all of
them, none served; a group that is empty, and one that is not valid; the channel full. -/
theorem wit_inject : ((sending []).slot 0 0).cWait = some (.asend 1 0x200 [7] [5, 6] none) ∧ (∀ e ∈ ((sending []).core 0).pq, 1 < e.seq) ∧
    (∃ e ∈ ((sending [spEntry]).core 0).pq, e.seq ≤ 1) ∧ ((sending [] (some 1)).slot 0 0).cWait = some (.asend 1 0x200 [7] [] (some 1)) ∧
    (sending [] (some 1)).group ((sending [] (some 1)).runPid 0) 1 = some [5, 6] ∧
    (sending [] (some 2)).group ((sending [] (some 2)).runPid 0) 2 = some [] ∧
    (sending [] (some 3)).group ((sending [] (some 3)).runPid 0) 3 = none ∧
    (∀ l ∈ [[], [5], [5, 6]], let x := (sending [] (some 1) l).slot 0 0
      [5, 6].filter (fun t => !x.served.contains (x.pc, t)) = [5, 6].filter (fun t => !l.contains t)) ∧
    5 ∈ (sending [] none [] [5]).chanFull ∧ 5 ∉ (sending []).chanFull := by decide +kernel
/-- R26, R292: a re-executed ASEND.G serves the member it has not served; the group turning invalid gives trap 0x14. -/
theorem test_inject : let t := run (.asendInject 0 0) (sending [] (some 1) [5])
    t.chan.map (·.1) = [6] ∧ (t.slot 0 0).cWait = some (.done []) ∧
    ((run (.asendInject 0 0) (sending [] (some 3))).slot 0 0).cWait = some (.trap 0x14 3) := by decide +kernel
/-- A packet of VF 0, from core 5 or from a launch. -/
def pkt (sender : Option Nat) (vf : Nat := 0) : Packet := { pc := 0x200, payload := [1, 2], g12 := 5, g13 := 0, fmtd := 0, scale := 0
                                                            gtid := 9, vf := vf, pop := some 4, sender := sender }
/-- A machine with a packet on its way to core 0. -/
def carried (p : Packet) (k : Core) : State := { mk k with
  chan := [(0, p)], pops := (popped {}).pops, nextPop := 5 }
/-- All 16 slots of a core parked. -/
def full (buf : List Packet) : Core := { kx {} (fun k => { k with slots := (List.range 16).map fun n => (n, { mode := .parked }) }) with buf := buf }
/-- PacketsStartTasks: slot 1 is the lowest FREE one; no FREE slot with 3 packets buffered; a packet of another VF. -/
theorem wit_packets : (∀ p ∈ [pkt (some 5), pkt none], let s := carried p (kx { mode := .ready })
      s.chan.filter (·.1 = 0) = [(0, p)] ∧ (s.core 0).vf = some p.vf ∧ (s.core 0).switchTo = none ∧ (s.core 0).buf = [] ∧
      (s.slot 0 1).mode = .free ∧ (∀ m, m < 1 → (s.slot 0 m).mode ≠ .free) ∧ p.pop = some 4 ∧ (FMap.find? s.pops 4).isSome = true) ∧
    (let s := carried (pkt (some 5)) (full [pkt none, pkt none, pkt none]); (∀ m, m < 16 → (s.slot 0 m).mode ≠ .free) ∧ (s.core 0).buf.length < 4) ∧
    ((carried (pkt (some 5) 1) (kx {})).core 0).vf ≠ some (pkt (some 5) 1).vf := by decide +kernel
/-- BufferedPacketsStart: a buffered packet and a FREE slot. -/
theorem wit_buffered : let s := mk (kx {} id fun k => { k with buf := [pkt (some 5)] })
    (s.core 0).buf = pkt (some 5) :: [] ∧ (s.core 0).vf = some (pkt (some 5)).vf ∧ (s.core 0).switchTo = none ∧ (s.slot 0 0).mode = .free := by
  decide +kernel
/-- TimersFallDue: at the cycle itself, and one before it. -/
theorem wit_timer : ∀ e ∈ [((5 : Nat), true), (4, false)], let s := mk (kx { mode := .parked, tcmp := 5 } id fun k => { k with cyc := BitVec.ofNat 64 e.1 })
    decide ((s.slot 0 0).mode ≠ .free ∧ (s.slot 0 0).tcmp ≠ 0 ∧ (s.slot 0 0).tcmp.toNat ≤ (s.core 0).cyc.toNat) = e.2 := by decide +kernel
/-- R30: the value that fell due stays pending when %TCMP changes. -/
theorem test_timer : ((run (.timerExpiry 0 0) (mk (kx { mode := .parked, tcmp := 9, pendTimer := some 5 } id fun k =>
    { k with cyc := 9 }))).slot 0 0).pendTimer = some 5 := by decide +kernel
/-- A thief of population 4, which has cores 0, 1 and 64, and its victim core 1. -/
def thief (st : Steal) (k : Core) : State :=
  { State.reset with
    cores := [(0, kx { mode := .idleSteal, pop := some 4, steal := some st }), (1, k)]
    pops := (popped {}).pops.map fun e => (e.1, { e.2 with cores := [0, 1, 64] }), nextPop := 5 }
/-- A search at its start. -/
def search : Steal := { pos := 0, failed := 0, since := 0, backoff := none, asked := none, answer := none }
/-- ThievesSearchByDistance: a population. -/
theorem wit_thieves : (FMap.find? (thief search {}).pops 4).isSome = true ∧ (thief search {}).victims 0 (some 4) = [1, 64] := by decide +kernel
/-- StealingMovesTheOldestRecord: each stage of a search. -/
theorem wit_steal : let s := thief search {}
    let rich : Core := { vfs := [(1, { deque := [recA], dqPop := some 4 })] }
    let asked : Steal := { search with asked := some 1 }
    (s.slot 0 0).mode = .idleSteal ∧ (s.slot 0 0).steal = some search ∧ (s.victims 0 (s.slot 0 0).pop)[0]? = some 1 ∧
    (s.victims 0 (s.slot 0 0).pop)[2]? = none ∧ asked.asked = some 1 ∧ asked.answer = none ∧
    ((thief asked {}).cvf 1).holdsFor (some 4) = false ∧ ((thief asked rich).core 1).vf = ((thief asked rich).core 0).vf ∧
    ((thief asked rich).cvf 1).dqPop = some 4 ∧ ((thief asked rich).cvf 1).ringCount = 0 ∧
    ((thief asked rich).cvf 1).deque = recA :: [] ∧ ((thief asked rich).core 1).pq = [] ∧ 0 ≤ ((thief asked rich).core 0).cyc.toNat ∧
    ((thief asked rich).core 0).cyc.toNat < 1 := by decide +kernel
/-- A load of the first dword of core 3's scratchpad (R141). -/
def farther (noMig : Option Word := none) : State := one { mode := .ready, g := regs [(6, BitVec.ofNat 64 (0x01F000000000 + 3 * 2 ^ 18))], noMig := noMig }
/-- MigrationCarriesLiveRegisters: the conditions of a migration. -/
theorem wit_migrate : let s := farther
    s.rg 6 + (0 : BitVec 12).signExtend 64 = BitVec.ofNat 64 (0x01F000000000 + 3 * 2 ^ 18 + 0) ∧ 3 ≠ s.cur.core ∧
    s.coreIn (s.runPid s.cur.core) 3 = true ∧ s.me.tstat.getLsbD 1 = true ∧ s.me.claim = none ∧ s.me.noMig ≠ some s.me.pc := by decide +kernel
/-- MigrationCarriesLiveRegisters: the packet on its way, accepted and refused. -/
theorem wit_migration : let s := run (.ldd 5 6 0) farther
    let m : Mig := { core := 0, slot := 0, owner := 3, image := farther.me, vf := 0, seq := 0, tleft := none, reply := none }
    let t (r : Bool) : State := { s with migs := [{ m with reply := some r }] }
    let u : State := { s with migs := [m] }
    u.migOf m.core m.slot = some m ∧ (u.core m.core).pq = [] ∧ (u.core m.owner).vf = some m.vf ∧ (u.core m.owner).switchTo = none ∧
    (u.slot m.owner 0).mode = .free ∧ (u.slotV m.core (m.vf + 1) m.slot).mode = .parked ∧ (∀ r ∈ [true, false], (t r).migOf 0 0 = some { m with reply := some r }) ∧
    ((t false).slotV 0 1 0).mode = .parked := by decide +kernel
/-- A message for slot 0. -/
def msg : Msg := { slot := 0, pop := none, vf := 0, cluster := 0, w0 := 10, w1 := 11, w2 := 12, w3 := 13 }
/-- InboxMessages: a message for the slot, and none; the last quadruple of registers. -/
theorem wit_inbox : let mine (s : State) (m : Msg) : Bool := m.slot = s.cur.slot && m.pop = s.me.pop && m.vf = s.runVf s.cur.core
    let s := mk (kx { mode := .ready } id fun k => { k with inbox := [{ msg with slot := 1 }, msg] })
    (s.core s.cur.core).inbox.find? (mine s) = some msg ∧ ((rs []).core (rs []).cur.core).inbox.find? (mine (rs [])) = none ∧
    (60 : BitVec 6).toNat ≤ 60 := by decide +kernel
/-- R199: IBX writes four registers. -/
theorem test_ibx : let t := run (.ibx 60) (mk (kx { mode := .ready } id fun k => { k with inbox := [msg] }))
    t.me.g.getD 60 0 = 10 ∧ t.me.g.getD 63 0 = 13 ∧ (t.core 0).inbox = [] := by decide +kernel
/-- Population 4 at some status and ages, its slot in some state. -/
def judged (st : PopStatus) (quiet still : Nat) (x : Slot) : State :=
  { popped x with pops := (popped x).pops.map fun e => (e.1, { e.2 with status := st, quiet := quiet, still := still }) }
/-- PopulationsAreJudged: complete at 65,536 cycles and not at 65,535, hung, reported. -/
theorem wit_judged : let s := judged .running 65536 0 { mode := .idleSteal }
    let h := judged .running 0 65536 { mode := .parked, cWait := some .park }
    let c := judged .complete 0 0 {}
    (FMap.find? s.pops 4).map (·.quiet) = some 65536 ∧ s.noRecords 4 = true ∧
    (∀ e ∈ s.popSlots 4, s.unjudged e = false ∧ e.2.2.2.mode = .idleSteal) ∧
    ((FMap.find? (judged .running 65535 65535 {}).pops 4).map fun x => (x.quiet, x.still)) = some (65535, 65535) ∧
    (∃ e ∈ h.popSlots 4, (h.waitCode e.1 e.2.2.2).isSome = true) ∧ (∀ e ∈ h.popSlots 4, h.unjudged e = false) ∧
    (∀ k ∈ c.clusters, ∀ j ∈ k.2.queue ++ k.2.running, j.pop ≠ some 4) ∧
    (∀ k ∈ c.cores, ∀ e ∈ k.2.pq ++ k.2.unpub, e.pop ≠ some 4) ∧ (∀ o ∈ c.peerOps, o.2.pop ≠ some 4) := by decide +kernel
/-- PopulationsAreJudged: the slots of a hung population that ask for the trap, one of them in a handler, and that do not. -/
theorem wit_hung (v : Word) : let h := judged .running 0 65536 { mode := .parked, cWait := some .park, tstat := v }
    h.popSlots 4 = [(0, h.vk 0, 0, h.slot 0 0)] ∧ h.waitCode 0 (h.slot 0 0) = some 6 ∧ (h.slot 0 0).tstat = v := ⟨rfl, rfl, rfl⟩
/-- R56: a PARKed slot with HANGTRAP leaves its wait with wait code 6 pending; a searching slot of a complete population is FREE. -/
theorem test_judged : let t := run (.populationHung 4) (judged .running 0 65536 { mode := .parked, cWait := some .park, tstat := 8 })
    (t.slot 0 0).pendHang = some 6 ∧ (t.slot 0 0).mode = .ready ∧ t.reports = [.hung 4] ∧
    ((run (.populationComplete 4) (judged .running 65536 0 { mode := .idleSteal })).slot 0 0).mode = .free := by decide +kernel
/-- A core at cycle 19 with slots 0 and 1 ready, slot 0 having issued last, and slot 1 with a pending timer or none. -/
def issuing (timer : Bool) : State := mk { kx {} (fun k => { k with
    slots := [(0, { mode := .ready, lastIssue := some 12 }), (1, { mode := .ready, pendTimer := if timer then some 3 else none })] }) with
  gprTag := [(0, 0), (1, 0)], cyc := 19 }
/-- A core whose slots are all free. -/
theorem wit_idle : let s := mk (kx {})
    s.exists_ 0 = true ∧ s.issuing = none ∧ (s.core 0).switchTo = none ∧ (∀ n, n < 16 → ¬ MayIssue (s.slot 0 n) ((s.core 0).cyc + 1).toNat) ∧
    (∀ n, n < 16 → ¬ WakeDue s 0 n) ∧ ((mk { kx {} with switchTo := some none }).core 0).switchTo ≠ none := by
  have q : ∀ n, n < 16 → ((mk (kx {})).slot 0 n).mode ≠ .ready := by decide +kernel
  have w : ∀ n, n < 16 → ((mk (kx {})).waitCode 0 ((mk (kx {})).slot 0 n)) = none := by decide +kernel
  refine ⟨by decide +kernel, rfl, rfl, fun n h e => absurd e.1 (q n h), fun n h e => absurd (w n h) e.1, by decide +kernel⟩
/-- Slot 1 waits in PARK while a cause that ends its wait is pending. -/
def woken : State := mk (kx {} (fun k => { k with
    slots := k.slots ++ [(1, { mode := .parked, cWait := some .park, pendHang := some 6 })] }) fun k =>
  { k with gprTag := (1, 0) :: k.gprTag })
/-- IssueCyclePicksTheOldest: that slot is the lowest whose wait is to end. -/
theorem wit_wake : WakeDue woken 0 1 ∧ ∀ k, k < 1 → ¬ WakeDue woken 0 k := by
  have w : woken.waitCode 0 (woken.slot 0 0) = none := by decide +kernel
  refine ⟨by unfold WakeDue; decide +kernel, fun k h e => ?_⟩
  obtain rfl : k = 0 := by omega
  exact absurd w e.1
/-- R201: a wait whose code comes after the trap that ends it is ended at the next cycle. -/
theorem test_wake : ((run (.issueCycle 0) woken).slot 0 1).cWait = none ∧ ((run (.issueCycle 0) woken).slot 0 1).mode = .ready := by
  decide +kernel
/-- IssueCyclePicksTheOldest: slot 1 may issue, and slot 0, which issued 8 cycles ago, may too and comes later. -/
theorem wit_issue (t : Bool) : let s := issuing t
    MayIssue (s.slot 0 1) 20 ∧ MayIssue (s.slot 0 0) 20 ∧ ((s.core 0).cyc + 1).toNat = 20 ∧
    (∀ m, m < 16 → MayIssue (s.slot 0 m) 20 → Before (s.slot 0 1) (s.slot 0 m) 1 m) ∧
    (∀ m, m < 16 → ¬ WakeDue s 0 m) ∧ (s.slot 0 1).stop = false ∧
    FMap.find? (s.core 0).gprTag 1 = some (s.runVf 0) ∧
    (State.nextAsync ((s.slot 0 1).timer 20) (s.cvf 0).pmOvf).isNone = !t ∧ (s.cvf 0).tvec ≠ 0 := by
  intro s
  obtain ⟨a, b, c, d, e, f⟩ : (s.slot 0 1).mode = .ready ∧ (s.slot 0 1).readyAt ≤ 20 ∧ (s.slot 0 1).lastIssue = none ∧
      (s.slot 0 0).mode = .ready ∧ (s.slot 0 0).readyAt ≤ 20 ∧ (s.slot 0 0).lastIssue = some 12 := by
    revert t; decide +kernel
  have w : ∀ n, n < 16 → s.waitCode 0 (s.slot 0 n) = none := by clear a b c d e f; revert t; decide +kernel
  refine ⟨⟨a, b, fun l h => ?_⟩, ⟨d, e, fun l h => ?_⟩, ?_, fun m _ _ => ?_, fun n h x => absurd (w n h) x.1, ?_⟩
  · rw [c] at h; cases h
  · rw [f] at h; cases h; decide
  · clear a b c d e f w; revert t; decide +kernel
  · simp only [Before, c]
    rcases m with _ | m
    · simp [f]
    · split <;> simp_all
  · clear a b c d e f w; revert t; decide +kernel
/-- IssueCyclePicksTheOldest: reset's partition has no match register. -/
theorem wit_noMatch : ∀ p, (issuing true).part ((issuing true).runPid 0) = some p → p.dbm = [] := by
  intro p h
  have e : (issuing true).part ((issuing true).runPid 0) = some Part.zero := by decide +kernel
  rw [e] at h; cases h; rfl


/-! ### Engines -/

/-- A job of VF 0's core 0, its registers from the first. -/
def job (kind : Nat) (rs : List Word) (status : JobStatus := .running) (mode : Nat := 0) (pop : Option Nat := none) : Job :=
  { id := 3, kind := kind, mode := mode, core := 0, slot := 0, pop := pop, vf := 0, regs := rs, fmtd := 0xEEE, scale := 0, tables := []
    rng := .replicate 4 0, eftrap := false, age := 0, status := status }
/-- Core 0, all of whose scratchpad banks VF 0 owns, and its cluster. -/
def engine (k : Cluster) (x : Slot := {}) : State := { mk { kx x with spTag := (List.range 128).map fun i => (i, 0) } with clusters := [(0, k)] }
/-- SubmissionsEnterTheQueue: an empty queue, its last place, a full one; registers to the last; formats. -/
theorem wit_submit : let q (n : Nat) : State := engine { queue := List.replicate n { job 1 [] .queued with core := 1 } } { mode := .ready }
    ((q 0).core 0).pq = [] ∧ ((q 0).core 0).unpub = [] ∧ ((q 63).cluster ((q 63).clusterOf 0)).queue.length < 64 ∧ (q 63).outstanding 0 < 64 ∧
    (q 0).admitNext ((q 0).clusterOf 0) = none ∧ (58 : BitVec 6).toNat + 6 ≤ 64 ∧
    64 ≤ ((q 64).cluster ((q 64).clusterOf 0)).queue.length ∧ ((0 : Word).extractLsb' 14 2 ≠ 2) ∧ PlainFormat 0 ∧ PlainFormat 14 := by
  unfold PlainFormat; decide +kernel
/-- A core with a submission whose drain is over. -/
def parkedJob : State := engine {} { mode := .parked, cWait := some (.submit 0 true 5 (job 1 [])) }
/-- JobsRunToTheirMessage: a submission that is admitted. -/
theorem wit_admit : (parkedJob.nextSubmission 0).isSome = true ∧ parkedJob.admits 0 = true := by decide +kernel
/-- JobsRunToTheirMessage: a copy at the head with no, three and four engines of its kind at work; an MX.ZERO of tile 63. -/
theorem wit_start : let k (n : Nat) (j : Job) : State := engine { queue := [j], running := List.replicate n { job 1 [] with id := 9 }, tileTag := [(63, 0)] }
    let z := job 5 [63] .queued
    (∀ x ∈ ((k 4 (job 1 [])).cluster 0).running, x.id ≠ (job 1 []).id) ∧
    (((k 3 (job 1 [])).cluster 0).running.filter (·.kind = 1)).length < 4 ∧ 4 ≤ (((k 4 (job 1 [])).cluster 0).running.filter (·.kind = 1)).length ∧
    z.kind = 5 ∧ z.reg 0 = BitVec.ofNat 64 z.tile ∧ (∀ x ∈ ((k 3 z).cluster 0).running, x.kind = 1) ∧
    FMap.find? ((k 3 z).cluster 0).tileTag z.tile = some z.vf := by decide +kernel
/-- JobsRunToTheirMessage: jobs of a running population that have ended; an unknown id, id 0 and ids past 16 bits. -/
theorem wit_complete : (∀ j ∈ [job 1 [] .finished 0 (some 4), job 1 [] (.faulted 2 7) 0 (some 4)],
      let s : State := { engine { running := [j] } with pops := (popped {}).pops }
      s.jobAt 0 j.id.toNat = some j ∧ j.pop = some 4 ∧ (FMap.find? s.pops 4).map (·.status) = some .running) ∧
    (let q := (engine { queue := [job 1 []] }).cluster 0; (∃ j ∈ q.queue ++ q.running, (3 : Word) = j.id.zeroExtend 64) ∧ (∀ j ∈ q.queue ++ q.running, (5 : Word) ≠ j.id.zeroExtend 64)) ∧
    (∀ e ∈ (engine {}).cores, ∀ m ∈ e.2.inbox, m.w0.toNat / 2 ^ 16 % 2 ^ 16 ≠ 5) ∧ 2 ^ 16 ≤ (0x10000 : Word).toNat := by decide +kernel
/-- A machine with a copy or a fill of one row of n bytes. -/
def copying (mode n : Nat) : State := engine { running := [job 1 [spa 64, spa 1024, BitVec.ofNat 64 (2 ^ 32 + n), 0, 0, 0] .running mode] }
/-- CopiesMoveTheirBytes: 1 and 128 bytes. -/
theorem wit_copy : ∀ n ∈ [1, 128], let s := copying 0 n
    ∃ j, s.jobAt 0 j.id.toNat = some j ∧ j.kind = 1 ∧ j.status = .running ∧ j.buf = [] ∧ j.done = 0 ∧ 0 < n ∧ n ≤ 128 ∧
      j.reg 2 = BitVec.ofNat 64 (2 ^ 32 + n) ∧ j.mode = 0 ∧ JobSp s j (j.reg 1) n ∧ JobSp s j (j.reg 0) n := by
  intro n hn
  refine ⟨job 1 [spa 64, spa 1024, BitVec.ofNat 64 (2 ^ 32 + n), 0, 0, 0], ?_⟩
  unfold JobSp; revert n; decide +kernel
/-- R203: a copy of 16 bytes. -/
theorem test_cpy : let s := withBytes (copying 0 16) (spk 64) (leBytes 16 0x100F0E0D0C0B0A090807060504030201)
    (run (.cpxPiece 0 3) s).mem.read (spk 1024) 17 = leBytes 17 0x100F0E0D0C0B0A090807060504030201 := by decide +kernel
/-- R205: a fill of 9 bytes repeats its dword. -/
theorem test_fill : let s := engine { running := [job 1 [0x8877665544332211, spa 1024, BitVec.ofNat 64 (2 ^ 32 + 9), 0, 0, 0] .running 4] }
    (run (.cpxPiece 0 3) s).mem.read (spk 1024) 10 = leBytes 10 0x118877665544332211 := by decide +kernel
/-- CopiesMoveTheirBytes: a gather whose list names offset 512, and a converting copy of two FP32 elements to FP16. -/
theorem wit_gather : let s := withBytes (copying 2 8) (spk 64) (leBytes 8 (spa 512).toNat)
    let j := job 1 [spa 64, spa 1024, BitVec.ofNat 64 (2 ^ 32 + 8), 0, 0, 0] .running 2
    s.jobAt 0 j.id.toNat = some j ∧ JobSp s j (j.reg 0) 8 ∧ le8 s.mem (jobKey j (j.reg 0)) = spa 512 ∧ JobSp s j (spa 512) 8 := by
  unfold JobSp; decide +kernel
/-- A converting copy of 8 bytes. -/
def cvtJob : Job := { job 1 [spa 64, spa 1024, BitVec.ofNat 64 (2 ^ 32 + 8), 0, 0, 0] .running 1 with fmtd := 0x200 }
/-- CopiesMoveTheirBytes: that copy. -/
theorem wit_cvt : let s := engine { running := [cvtJob] }
    let j := cvtJob
    s.jobAt 0 j.id.toNat = some j ∧ PlainFormat (fmtdAF j.fmtd) ∧ PlainFormat (fmtdOF j.fmtd) ∧ fmtdRnd j.fmtd ≠ 2 ∧
    8 * 8 % fmtWidth (fmtdAF j.fmtd) = 0 ∧ (8 * 8 / fmtWidth (fmtdAF j.fmtd)) * fmtWidth (fmtdOF j.fmtd) % 8 = 0 ∧
    JobSp s j (j.reg 0) 8 ∧ JobSp s j (j.reg 1) 4 ∧ 8 ≤ (j.reg 1 - j.reg 0).toNat ∧ 4 ≤ (j.reg 0 - j.reg 1).toNat := by
  unfold JobSp PlainFormat; decide +kernel
/-- R93, R300: 65,520 and the absent pattern as FP16; R203: a gather of the 8 bytes at offset 512. -/
theorem test_cvtGather : (run (.cpxPiece 0 3) (withBytes (engine { running := [cvtJob] }) (spk 64) (leBytes 8 0xFFFFFFFF477FF000))).mem.read
      (spk 1024) 6 = leBytes 6 0xFFFF7C00 ∧
    (run (.cpxPiece 0 3) (withBytes (withBytes (copying 2 8) (spk 64) (leBytes 8 (spa 512).toNat)) (spk 512) (leBytes 8 9))).mem.read
      (spk 1024) 8 = leBytes 8 9 := by decide +kernel
/-- An image of zeros but for its first word. -/
def tableOf (w : Half) : List Half := w :: List.replicate 255 0
/-- A slot whose DTLD has an image of zeros but for one word, and another of the same slot's table that is older. -/
def tabling (w : Half) (old : Bool := false) : State := mk (kx
  { mode := .parked, cWait := some (.dtld 0 [] (tableOf w) none none), dtld := some (0, 7) } fun k => { k with
    slots := k.slots ++ if old then [(1, { mode := .parked, dtld := some (0, 6) })] else [] })
/-- TablesAreLoadedWhole: an image with one ABS entry, which R89 accepts, and ones without and with a reserved bit. -/
theorem wit_tables : (∀ w, ((tabling w).slot 0 0).cWait = some (.dtld 0 [] (tableOf w) none none)) ∧
    (∀ w, ((tabling w).slot 0 0).dtld = some (0, 7)) ∧
    (∀ w ∈ tableOf 0x80000, w.toNat < 2 ^ 20 ∧ (w.getLsbD 19 = true → w.toNat = 2 ^ 19)) ∧
    ((tableOf 0x80000).filter fun w => w.getLsbD 19).length = 1 ∧ ((tableOf 1).filter fun w => w.getLsbD 19).length = 0 := by
  refine ⟨fun _ => rfl, fun _ => rfl, ?_, by decide +kernel, by decide +kernel⟩
  intro w h
  rcases List.mem_cons.1 h with rfl | h
  · decide
  · rw [List.eq_of_mem_replicate h]; decide
/-- TablesAreLoadedWhole: an older DTLD of the slot's VF on the table, parked for a walk, and none. -/
theorem wit_older : (∃ x ∈ ((tabling 1 true).cvf 0).slots, ∃ g, x.2.dtld = some (0, g) ∧ g < 7) ∧
    ¬ ∃ x ∈ ((tabling 1).cvf 0).slots, ∃ g, x.2.dtld = some (0, g) ∧ g < 7 := by
  refine ⟨⟨(1, { mode := .parked, dtld := some (0, 6) }), .tail _ (.head _), 6, rfl, by decide⟩, ?_⟩
  rintro ⟨x, hx, g, h, hg⟩
  have e : ((tabling 1).cvf 0).slots = [(0, { mode := .parked, cWait := some (.dtld 0 [] (tableOf 1) none none), dtld := some (0, 7) })] := rfl
  rw [e, List.mem_singleton] at hx
  subst hx; injection h with h; injection h; omega
/-- A table image at offset 1024 of the own scratchpad, one of its words the absent one. -/
def imaged : State := withBytes (mk { kx { mode := .ready, g := regs [(6, spa 1024)] } with tabTag := [(3, 0)], spTag := [(0, 0)] })
  (spk 1024) (leBytes 4 0x80000)
/-- TablesAreLoadedWhole: that image can be read. -/
theorem wit_image : (imaged.rg 6).toNat % 1024 = 0 ∧ FMap.find? (imaged.core imaged.cur.core).tabTag (3 : BitVec 2).toNat = some (imaged.runVf 0) ∧
    (∀ i, i < 256 → OwnSpRead imaged (imaged.rg 6 + BitVec.ofNat 64 (4 * i)) 4) ∧ ∀ x ∈ (imaged.cvf 0).slots, x.2.dtld = none := by
  unfold OwnSpRead OwnSp; decide +kernel
/-- R306: the table is what stands there, and the slot goes on. -/
theorem test_dtld : let t := run (.dtldComplete 0 0) (run (.dtld 6 3) imaged)
    (t.slot 0 0).cWait = some (.done []) ∧ FMap.find? (t.cvf 0).tables 3 = some (0x80000 :: List.replicate 255 0) := by decide +kernel
/-- TablesAreLoadedWhole: an aligned image in memory whose table slot the VF owns, and a misaligned one. -/
theorem wit_dtld : let s : State := { paged true [] with cores := (paged true []).cores.map fun c => (c.1, { c.2 with tabTag := [(3, 0)] }) }
    let r := (s.issuesDtld 3).resolve s.cur.core 0 (s.rg 6) 4 false
    (s.rg 6).toNat % 1024 = 0 ∧ r.1 = .at (.mem pageKey true 0) ∧ FMap.find? (r.2.core 0).tabTag (3 : BitVec 2).toNat = some (r.2.runVf 0) ∧
    (1023 : Word).toNat % 1024 ≠ 0 := by decide +kernel
/-- R90: of two DTLDs on a slot the later one, its image here, waits for the earlier one, whatever that one waits for. -/
theorem test_dtld_order : (run (.dtldComplete 0 0) (tabling 0x80000 true)).slot 0 0 = (tabling 0x80000 true).slot 0 0 ∧
    ((run (.dtldComplete 0 0) (tabling 0x80000)).slot 0 0).cWait = some (.done []) := by decide +kernel
/-- A multiply of 4-bit integers of one k-block, all rows of A at one place and all of B at another. -/
def mulJob (status : JobStatus := .running) (k : Word := 32) : Job := job 2 [0, 0, 256, 0, k, 2, 0, 0] status
/-- The page of address 0 in a cluster's TLB. -/
def pageTlb : FMap (List TlbEntry) := [(0, [{ lo := 0b1111, hi := 0x40004 }])]
/-- A cluster at work on it. -/
def multiplying : State := engine { running := [mulJob], tileTag := [(2, 0)], setTag := [(0, 0), (1, 0)], tlb := pageTlb }
/-- MultiplyAddsItsBlock: the multiply is the one at work and its block can be read. -/
theorem wit_multiply : let s := multiplying
    (s.cluster 0).running.find? (fun x => x.kind ≠ 1 && decide (x.status = .running)) = some mulJob ∧ mulJob.kind = 2 ∧
    s.jobAt 0 mulJob.id.toNat = some mulJob ∧ (s.cluster 0).prefetched = none ∧
    (∃ bs u ls, s.readPinned 0 mulJob (State.piecesOf (State.kReads mulJob mulJob.row)) [] = (.bytes bs u, ls) ∧
      (ls.all fun l => (u.slice (l.1 / 256)).stalled.isEmpty) = true) ∧
    ∀ e ∈ (s.tileOf 0 mulJob.vf mulJob.tile).elems, e.2.poison = false :=
  ⟨by decide +kernel, rfl, by decide +kernel, rfl,
    pinned (p := fun u ls => ls.all fun l => (u.slice (l.1 / 256)).stalled.isEmpty) (by decide +kernel), by decide +kernel⟩
/-- BlocksTravelTheTorus: elements without and with products. -/
theorem wit_drained : ({ val := 0, cnt := 0, poison := false } : AcElem).cnt = 0 ∧ 0 < ({ val := 0x3F800000, cnt := 65535, poison := false } : AcElem).cnt ∧
    (layout 0).Finite (0x3F800000 : Half).toNat ∧ (layout 0).val (0x3F800000 : Half).toNat ≠ 0 := by
  unfold Layout.Finite; decide +kernel
/-- R114: a sum of 6.0 over 3 products, divided by its count. -/
theorem test_drain : drained true { val := 0x40C00000, cnt := 3, poison := false } = 0x40000000 ∧
    drained false { val := 0x40C00000, cnt := 3, poison := false } = 0x40C00000 ∧ drained true { val := 0, cnt := 0, poison := false } = 0xFFFFFFFF := by
  decide +kernel
/-- A kept set and a rotation of it. -/
def rotating : State := engine { queue := [job 3 [2, 32] .queued], tileTag := [(2, 0)], setTag := [(0, 0), (1, 0)], kept := [(0, (⟨0, 32, [], none⟩, ⟨0, 32, [], none⟩))] }
/-- BlocksTravelTheTorus: a rotation at the head of its queue. -/
theorem wit_rotate : let s := rotating
    let j := job 3 [2, 32] .queued
    (s.cluster 0).queue = [j] ∧ j.kind = 3 ∧ (∀ x ∈ (s.cluster 0).running, x.kind = 1) ∧ j.mxBad = false ∧
    FMap.find? (s.cluster 0).tileTag j.tile = some j.vf ∧ FMap.find? (s.cluster 0).setTag 0 = some j.vf ∧
    FMap.find? (s.cluster 0).setTag 1 = some j.vf ∧ FMap.find? (s.cluster 0).kept j.vf = some (⟨0, 32, [], none⟩, ⟨0, 32, [], none⟩) ∧ (s.cluster 0).pinned = [] ∧
    (32 : Nat) = (j.reg 1).toNat ∧ s.part (s.pidOf j.vf) = some Part.zero := by decide +kernel
/-- BlocksTravelTheTorus: a block on each link, room for it, and none: no kept set, a block of the VF there, one of another VF there. -/
theorem wit_block : let b : Block := ⟨0, 32, [], none⟩
    let k : Cluster := { linkA := [b], linkB := [b], setTag := [(0, 0)], kept := [(0, (b, b))] }
    ((engine k).cluster 0).linkA = b :: [] ∧ ((engine k).cluster 0).linkB = b :: [] ∧
    (FMap.find? ((engine k).cluster 0).kept b.vf).isSome = true ∧ FMap.find? ((engine k).cluster 0).setTag 0 = some b.vf ∧
    ((engine k).cluster 0).prefetched = none ∧ ((engine k).cluster 0).gotA = [] ∧ ((engine k).cluster 0).gotB = [] ∧
    FMap.find? ((engine { k with setTag := [(0, 0), (1, 0)], gotB := [(1, b)] }).cluster 0).setTag 1 = some b.vf ∧
    FMap.find? ((engine { k with kept := [] }).cluster 0).kept b.vf = none ∧
    FMap.find? ((engine { k with gotA := [(0, b)] }).cluster 0).gotA b.vf ≠ none ∧
    (∃ e ∈ ((engine { k with gotB := [(1, b)] }).cluster 0).gotA ++ ((engine { k with gotB := [(1, b)] }).cluster 0).gotB, e.1 ≠ b.vf) := by
  decide +kernel
/-- BlocksTravelTheTorus: a multiply of four k-blocks, in a page that is not cacheable, behind a copy. -/
theorem wit_prefetch : let j := mulJob .queued 128
    let s := engine { queue := [j], running := [{ job 1 [] with id := 9 }], setTag := [(0, 0)], tlb := [(0, [{ lo := 0b1111, hi := 0x40000 }])] }
    (s.cluster 0).queue.find? (·.kind = 2) = some j ∧ (s.cluster 0).running ≠ [] ∧ (∀ x ∈ (s.cluster 0).running, x.kind = 1) ∧
    (s.cluster 0).prefetched = none ∧ (s.cluster 0).gotA = [] ∧ (s.cluster 0).gotB = [] ∧ j.mxBad = false ∧
    FMap.find? (s.cluster 0).setTag 0 = some j.vf ∧
    ∃ bs u ls, s.readPinned 0 j ((List.range 4).map fun kb => State.piecesOf (State.kReads j kb)).flatten [] = (.bytes bs u, ls) :=
  ⟨by decide +kernel, by decide +kernel, by decide +kernel, rfl, rfl, rfl, by decide +kernel, by decide +kernel,
    wasRead (by decide +kernel)⟩
/-- TilesAreLoadedAndDrained: a load of FP32 rows whose first row is read, and a drain at its last row, to a page that is not cacheable. -/
theorem wit_loadDrain : let l := job 6 [0, 512, 2]
    let d := { job 4 [0, 512, 2 + 256] with row := 127 }
    let s := engine { running := [l], tileTag := [(2, 0)], setTag := [(0, 0), (1, 0)], tlb := pageTlb }
    let u := engine { running := [d], tileTag := [(2, 0)], setTag := [(0, 0), (1, 0)], tlb := [(0, [{ lo := 0b1111, hi := 0x40000 }])] }
    s.jobAt 0 l.id.toNat = some l ∧ l.kind = 6 ∧ l.status = .running ∧ l.buf = [] ∧ l.row < 128 ∧
    (let n := 16 * fmtWidth (fmtdAF l.fmtd)
      ∃ bs v ls, s.readPinned 0 l (wordPieces (l.reg 0 + BitVec.ofNat 64 l.row * l.reg 1) (n / 8 + 2) n) [] = (.bytes bs v, ls)) ∧
    u.jobAt 0 d.id.toNat = some d ∧ d.kind = 4 ∧ d.row = 127 ∧ d.done = 0 ∧ PlainFormat (fmtdOF d.fmtd) ∧ fmtdRnd d.fmtd ≠ 2 ∧
    (d.reg 0 + 127 * d.reg 1).toNat % 16 = 0 ∧ (∀ c, c < 128 → (tileElem (u.tileOf 0 d.vf d.tile) 127 c).poison = false) ∧
    (d.reg 2).getLsbD 8 = true :=
  ⟨by decide +kernel, by decide +kernel, by decide +kernel, by decide +kernel, by decide +kernel,
    wasRead (by decide +kernel),
    by decide +kernel, by decide +kernel, by decide +kernel, by decide +kernel, by unfold PlainFormat; decide +kernel, by decide +kernel,
    by decide +kernel, by decide +kernel, by decide +kernel⟩
/-- TilesAreLoadedAndDrained: every dword of the drained row has a place. -/
theorem wit_drainPlaces : let d := { job 4 [0, 512, 2 + 256] with row := 127 }
    let u := engine { running := [d], tileTag := [(2, 0)], setTag := [(0, 0), (1, 0)], tlb := [(0, [{ lo := 0b1111, hi := 0x40000 }])] }
    ∀ i, i < 2 * fmtWidth (fmtdOF d.fmtd) → let va := d.reg 0 + 127 * d.reg 1 + BitVec.ofNat 64 (8 * i)
      (u.cluster 0).tlbGet d.vf va = some { lo := 0b1111, hi := 0x40000 } ∧
      ∃ h v, u.engLook 0 d .mx 1 va = .at (.mem (Part.zero.hbmKey (0x40000 + 127 * 512 + 8 * i)) false h) v := by
  intro d u i hi va
  refine ⟨?_, lookedAt ?_⟩ <;> (revert i; decide +kernel)
/-- ... and no two of those places overlap. -/
theorem wit_drainApart : let key (i : Nat) : Nat := Part.zero.hbmKey (0x40000 + 127 * 512 + 8 * i)
    ∀ i, i < 64 → ∀ k, k < i → key i + 8 ≤ key k ∨ key k + 8 ≤ key i := by decide +kernel


/-! ### Vector instructions -/

/-- A claim of group 0 with 8 registers, some lanes, a mask and a queue. -/
def claim (v : FMap Half := []) (vm : BitVec 256 := 0xFF) (q : List VOp := []) : Claim := { groups := [0], regs := 8, v := v, vm := vm, queue := q }
/-- An operation as it is accepted. -/
def vop (i : Instr) (x : Word := 0) (amode : Word := 0) : VOp := { op := i, fmtd := 0, scale := 0, amode := amode, x := x, y := 2, table := [] }
/-- A slot with a claim whose lane group its VF owns. -/
def vx (cl : Claim) (x : Slot := { mode := .ready }) : State := { one { x with claim := some cl } with clusters := [(0, { laneTag := [(0, 0)] })] }
/-- VectorInstructionsEnterTheQueue: no claim; a claim whose queue has a place, its last one, and none; registers 7 and 8 of 8. -/
theorem wit_queues : (rs []).src.slot.claim = none ∧ (∀ n ∈ [0, 7, 8], let c := claim [] 0 (List.replicate n (vop .vfence))
      (vx c).src.slot.claim = some c ∧ (vx c).me.claim = some c ∧ c.queue.length = n) ∧
    (∀ r ∈ [(0 : BitVec 5), 7], r.toNat < claim.regs) ∧ (∃ r ∈ [(0 : BitVec 5), 8], claim.regs ≤ r.toNat) := by decide +kernel
/-- R338: a register past %VREGS traps with cause 0x07. -/
theorem test_vregs : (run (.vadd 0 8 1 2 0) (vx claim)).me.tcause = 7 ∧ (run (.vadd 0 1 1 2 0) (rs [])).me.tcause = 8 := by decide +kernel
/-- A slot whose queue holds one operation. -/
def vq (o : VOp) (v : FMap Half) (vm : BitVec 256 := 0xFF) (x : Slot := { mode := .ready }) : State := vx (claim v vm [o]) x
/-- IntegerLanes, FloatLanes, LaneSelections, ReductionsAnswer, TilesExchangeLanes: an operation at the head. -/
theorem wit_atHead : ∀ i ∈ [Instr.vadd 0 3 1 2 0, .vadd 0 3 1 2 2, .vsel 3 1 2 0, .vcmp 1 1 2 1 0, .vabt 1 1 5, .vext 5 1 6 0, .vredAdd 1 5 1 1,
      .vaccTo 0 1 6, .vaccFrom 0 1 6], AtHead (vq (vop i) []) 0 0 (claim [] 0xFF [vop i]) (vop i) [] := by
  unfold AtHead; decide +kernel
/-- The queue of slot 0 performs its head. -/
def perform (s : State) : State := match execVectorOpPerform 0 0 s with
  | .next t => t
  | _ => s
/-- Lane l of register r once the queue has performed an operation. -/
def lane (o : VOp) (v : FMap Half) (r l : Nat) (vm : BitVec 256 := 0xFF) : Option Half :=
  ((perform (vq o v vm)).me.claim).map fun c => FMap.getD c.v (256 * r + l) 0
/-- R110: I32 saturates; the absent code in strict and identity mode; U32 wraps. -/
theorem test_vadd : lane (vop (.vadd 0 3 1 2 0)) [(256, 0x7FFFFFFF), (512, 1)] 3 0 = some 0x7FFFFFFF ∧
    lane (vop (.vadd 0 3 1 2 0)) [(256, 0x80000000), (512, 1)] 3 0 = some 0x80000000 ∧
    lane (vop (.vadd 0 3 1 2 0) 0 1) [(256, 0x80000000), (512, 1)] 3 0 = some 1 ∧
    lane (vop (.vadd 0 3 1 2 1)) [(256, 0xFFFFFFFF), (512, 1)] 3 0 = some 0 := by decide +kernel
/-- R337: a masked-off lane stands. -/
theorem test_vmask : lane (vop (.vor 1 3 1 2 0)) [(256, 1), (257, 1), (512, 2), (768, 9), (769, 9)] 3 0 2 = some 9 ∧
    lane (vop (.vor 1 3 1 2 0)) [(256, 1), (257, 1), (512, 2), (768, 9), (769, 9)] 3 1 2 = some 1 := by decide +kernel
/-- R353: an FP32 product. -/
theorem test_vmul : lane (vop (.vmul 0 3 1 2 2)) [(256, 0x40400000), (512, 0x40000000)] 3 0 = some 0x40C00000 := by decide +kernel
/-- R351: VIOTA, VPERM of an index past %VLEN. -/
theorem test_vperm : lane (vop (.viota 0 3 0)) [] 3 7 = some 7 ∧ lane (vop (.vperm 0 3 1 2 0)) [(257, 5), (512, 1), (513, 8)] 3 0 = some 5 ∧
    lane (vop (.vperm 0 3 1 2 0)) [(257, 5), (512, 1), (513, 8)] 3 1 = some 0 := by decide +kernel
/-- FloatLanes: lanes whose elements are finite and whose results are not 0, in each layout. -/
theorem wit_floatLanes : (laneLayout 2).Finite (element (laneLayout 2) 0x3F800000 0) ∧ (laneLayout 3).Finite (element (laneLayout 3) 0x3F803F80 1) ∧
    (laneLayout 4).Finite (element (laneLayout 4) 0x3C003C00 1) ∧ (laneLayout 2).val (element (laneLayout 2) 0x3F800000 0) ≠ 0 := by
  unfold Layout.Finite; decide +kernel
/-- LaneSelections: codes that are and are not absent, decoded to values other than 0. -/
theorem wit_laneCodes : (0x80 : Half).toNat % 2 ^ 8 = 2 ^ (8 - 1) ∧ (0x7F : Half).toNat % 2 ^ 8 ≠ 2 ^ (8 - 1) ∧
    (intOf 8 ((0x7F : Half).toNat % 2 ^ 8) : ℚ) * (2 : ℚ) ^ ((vop (.vfence)).scale.extractLsb' 0 8).toInt ≠ 0 := by decide +kernel
/-- ReductionsAnswer: the slot waits for its answer. -/
theorem wit_reduction : ((vq (vop (.vredAdd 0 5 1 1)) [] 0xFF { mode := .parked, aWait := some .vresult }).slot 0 0).aWait = some .vresult := by
  decide +kernel
/-- R352: the sum of the enabled lanes and their number. -/
theorem test_vred : let t := perform (vq (vop (.vredAdd 1 5 1 1)) [(256, 0xFFFFFFFF), (257, 5), (258, 2)] 5
      { mode := .parked, aWait := some .vresult })
    t.me.aWait = some (.done [.g 5 0x100000001, .g 6 2]) := by decide +kernel
/-- TilesExchangeLanes: operands in bounds, to the last column, and out of bounds; a tile the VF owns, no job at work. -/
theorem wit_tile : let ok (v : Word) : Bool := !(decide (v.toNat / 2 ^ 23 ≠ 0) || decide (v.extractLsb' 14 2 ≠ 0) || v.getLsbD 7 ||
      decide (128 < (v.extractLsb' 16 7).toNat + 8 * claim.groups.length))
    ok 0x783F7F = true ∧ ok 0x793F7F = false ∧ ok 0x80 = false ∧ ok 0x4000 = false ∧ ok 0x800000 = false ∧ (3 : BitVec 5).toNat < claim.regs ∧
    claim.queue.length < 8 := by decide +kernel
/-- TilesExchangeLanes: the tile's owner, and no engine on it; no element of it is poisoned. -/
theorem wit_tileOwner : let s : State := { vx claim with clusters := [(0, { laneTag := [(0, 0)], tileTag := [(2, 0)] })] }
    (∀ j ∈ (s.cluster 0).running, j.kind = 1 ∨ j.tile ≠ 2) ∧ FMap.find? (s.cluster 0).tileTag 2 = some (s.runVf 0) ∧
    (s.tileOf 0 0 2).elems = [] := by decide +kernel
/-- A slot that moves eight lanes of up to eight bytes. -/
def vmem : State := vx (claim [(256, 64), (257, 60)]) { mode := .ready, g := regs [(6, spa 64), (7, 8)] }
/-- VectorMemoryMovesLanes: all eight lanes, strided and indexed. -/
theorem wit_vectorSp : VectorSp vmem (claim [(256, 64), (257, 60)]) 0 4 (fun l => vmem.rg 6 + BitVec.ofNat 64 l * vmem.rg 7) ∧
    VectorSp vmem (claim [(256, 64), (257, 60)]) 0 4 (fun l => vmem.rg 6 + ((claim [(256, 64), (257, 60)]).lane 1 l).signExtend 64) ∧
    (1 : BitVec 5).toNat < claim.regs ∧ vmem.here.pq.length + (enabledLanes claim 0).length ≤ 32 ∧ (2 : BitVec 3).toNat ≤ 2 := by
  have b : ∀ l, Enabled (claim [(256, 64), (257, 60)]) 0 l → l < 8 := fun l h => by simpa [claim] using h.1
  refine ⟨⟨rfl, rfl, rfl, by decide, rfl, ?_, fun l h => ?_⟩, ⟨rfl, rfl, rfl, by decide, rfl, ?_, fun l h => ?_⟩, by decide +kernel⟩
  · decide +kernel
  · have q : ∀ l, l < 8 → OwnSpRead vmem (vmem.rg 6 + BitVec.ofNat 64 l * vmem.rg 7) 4 := by unfold OwnSpRead OwnSp; decide +kernel
    exact q l (b l h)
  · decide +kernel
  · have q : ∀ l, l < 8 → OwnSpRead vmem (vmem.rg 6 + ((claim [(256, 64), (257, 60)]).lane 1 l).signExtend 64) 4 := by
      unfold OwnSpRead OwnSp; decide +kernel
    exact q l (b l h)
/-- R354: a strided store of eight halfwords. -/
theorem test_vst : let t := perform (run (.vst 0 1 6 7 1) vmem)
    (t.core 0).pq.map (fun e => (e.key, e.bytes)) =
      [(spk 64, leBytes 2 64), (spk 72, leBytes 2 60)] ++ (List.range 6).map fun i => (spk (80 + 8 * i), [0, 0]) := by decide +kernel
/-- ClaimsAreGrantedAndReleased: operands of VCLAIM at their bounds. -/
theorem wit_vclaim : let s := rs [(5, 1), (6, 8), (7, 9), (8, 32)]
    s.src.slot.claim = none ∧ 1 ≤ (s.rg 5).toNat ∧ (s.rg 6).toNat ≤ 8 ∧ (s.rg 6 = 8 ∨ s.rg 6 = 16) ∧ s.rg 8 = 32 ∧ 8 < (s.rg 7).toNat := by
  decide +kernel
/-- ClaimsAreGrantedAndReleased: a claim that is next, with free groups. -/
theorem wit_grant : let s : State := { one { mode := .parked, cWait := some (.vclaim 5 8 16) } with clusters := [(0, { claims := [(0, 0, 0)] })] }
    (s.cluster 0).claims = (0, 0, 0) :: [] ∧ (s.slot 0 0).cWait = some (.vclaim 5 8 16) ∧ s.freeGroups 0 0 ≠ [] := by decide +kernel
/-- ClaimsAreGrantedAndReleased: a claim with an empty queue and no other waiting, one with an operation, none. -/
theorem wit_release : (vx claim).me.claim = some claim ∧ claim.queue = [] ∧
    (((vx claim).cluster ((vx claim).clusterOf 0)).claims.filter fun r => r.2.2 = (vx claim).runVf 0) = [] ∧
    (vq (vop .vfence) []).me.claim = some (claim [] 0xFF [vop .vfence]) ∧ (vq (vop .vfence) []).me.mode = .ready ∧
    (claim [] 0xFF [vop .vfence]).queue ≠ [] ∧ (rs []).me.claim = none := by decide +kernel
/-- A slot with 17 groups of the pool, while another slot of its VF waits for groups. -/
def greedy : State := { one { mode := .ready, claim := some { claim [(256, 5), (127, 6)] 0xFF with groups := List.range 17 } } with
  clusters := [(0, { claims := [(0, 1, 0)] })] }
/-- ClaimsAreGrantedAndReleased: a VRENEG that gives up groups. -/
theorem wit_shrink : ((greedy.cluster (greedy.clusterOf 0)).claims.filter fun r => r.2.2 = greedy.runVf 0) ≠ [] ∧
    (greedy.claimsOf 0 0).length = 1 ∧ (greedy.me.claim.map fun k => (k.groups.length, k.queue.length)) = some (17, 0) := by decide +kernel
/-- R217: of two slots each keeps 16 groups; the lanes of the first 16 stand. -/
theorem test_vreneg : let t := run (.vreneg 5) greedy
    t.me.g.getD 5 0 = 128 ∧ (t.me.claim.map fun k => (k.groups, k.lane 0 127, k.lane 1 0)) = some (List.range 16, 6, 5) := by decide +kernel
/-- A request of an SFU. -/
def sreq (served : Option Nat) : SfuReq := { id := 9, core := 0, slot := 0, vf := 0, vec := false, n := 1, cycle := 0
                                             ws := [.g 5 0x3F000000, .flags 0], served := served }
/-- A slot that waits for it. -/
def sfuing (served : Option Nat) : State := { mk { kx { mode := .parked, aWait := some (.sfu 9) } with cyc := 24 } with
  clusters := [(0, { sfu0 := [sreq served] })] }
/-- SpecialFunctionsReturn: a request not served, one whose cycle has come; operands. -/
theorem wit_sfu : (sreq none).served = none ∧ ((sfuing none).cluster 0).sfu0 = [sreq none] ∧
    ((sfuing (some 24)).core 0).vf = some (sreq (some 24)).vf ∧
    ((sfuing (some 24)).cluster ((sfuing (some 24)).clusterOf 0)).sfu0 = [sreq (some 24)] ∧
    ((sfuing (some 24)).cluster ((sfuing (some 24)).clusterOf 0)).sfu1 = [] ∧ 24 ≤ ((sfuing (some 24)).core 0).cyc.toNat ∧
    (sreq (some 24)).vec = false ∧ (sreq (some 24)).ws = [.g (5 : BitVec 6).toNat 0x3F000000, .flags 0] ∧
    ((sfuing (some 24)).slot 0 0).aWait = some (.sfu 9) ∧ ((sfuing (some 24)).slot 0 0).cWait = none ∧
    ((sfuing (some 24)).slot 0 0).mode = .parked := by decide +kernel
/-- Some requests before unit 0 of cluster 0. -/
def serving (l : List SfuReq) : State := { one {} with clusters := [(0, { sfu0 := l })] }
/-- SpecialFunctionsReturn: two requests, the later one older, younger, or from a lower core; one still at its core. -/
theorem wit_sfuOrder : ∀ y ∈ [{ sreq none with id := 8, cycle := 4 }, { sreq none with id := 8, cycle := 6 },
      { sreq none with id := 8, cycle := 5, core := 1 }, { sreq none with id := 8, cycle := 4, atCore := true }],
    let x : SfuReq := { sreq none with cycle := 5, core := 2 }
    x.served = none ∧ y.served = none ∧ x.id ≠ y.id ∧ x.atCore = false ∧ ((serving [x, y]).cluster 0).sfu0 = [x, y] := by decide +kernel
/-- SpecialFunctionValues: operands of every kind: the absent pattern, NaNs, infinities, zeros, negative and positive values, integers to
both ends, halves, powers of two, ordinary ones, the ends of the range of EXP2. -/
theorem wit_sfuOperands : (layout 0).absent = 0xFFFFFFFF ∧ (layout 0).IsNan 0x7F800001 = true ∧ (layout 0).inf false = 0x7F800000 ∧
    (layout 0).inf true = 0xFF800000 ∧
    (∀ x ∈ [0, 0x80000000, 0xBF800000, 0xC3150000, 0x42FE0000, 0x3F000000, 0x3E800000, 0x40400000, 0x43000000, 0xC3170000], (layout 0).Finite x) ∧
    (layout 0).val 0x80000000 = 0 ∧ (layout 0).val 0xBF800000 < 0 ∧ (layout 0).val 0xC3150000 = (-149 : Int) ∧
    (layout 0).val 0x42FE0000 = (127 : Int) ∧ (layout 0).val 0x3F000000 = (0 : Int) + 1 / 2 ∧ (layout 0).val 0x3E800000 = (2 : ℚ) ^ (-2 : Int) ∧
    128 ≤ (layout 0).val 0x43000000 ∧ (layout 0).val 0xC3170000 ≤ -151 ∧ (layout 0).neg 0x3F000000 = false := by
  unfold Layout.Finite; decide +kernel
/-- SpecialFunctionValues: a quarter is neither an integer nor a half of one, and 3 is positive and no power of two. -/
theorem wit_sfuOrdinary : (∀ k : Int, (layout 0).val 0x3E800000 ≠ k) ∧ (∀ k : Int, 2 * (layout 0).val 0x3E800000 ≠ k) ∧
    0 < (layout 0).val 0x40400000 ∧ ∀ k : Int, (layout 0).val 0x40400000 ≠ (2 : ℚ) ^ k := by
  have q : (layout 0).val 0x3E800000 = 1 / 4 := by decide +kernel
  have t : (layout 0).val 0x40400000 = 3 := by decide +kernel
  refine ⟨fun k h => ?_, fun k h => ?_, by decide +kernel, fun k h => ?_⟩
  · have e : (1 : ℚ) = ((4 * k : Int) : ℚ) := by push_cast; linarith
    have : (1 : Int) = 4 * k := by exact_mod_cast e
    omega
  · have e : (1 : ℚ) = ((2 * k : Int) : ℚ) := by push_cast; linarith
    have : (1 : Int) = 2 * k := by exact_mod_cast e
    omega
  · rw [t] at h
    obtain ⟨n, rfl | rfl⟩ := k.eq_nat_or_neg
    · have e : (3 : ℕ) = 2 ^ n := by exact_mod_cast h
      rcases n with _ | _ | n <;> simp [pow_succ] at e; omega
    · have : (2 : ℚ) ^ (-(n : Int)) ≤ 1 := zpow_le_one_of_nonpos₀ (by norm_num) (by omega)
      linarith
/-- A VSFU of lanes with a type, its request sent or not. -/
def vsfu (t : BitVec 3) (sent : Option Nat) : VOp := { vop (.vsfuRcp 0 3 1 t) with sent := sent, begun := sent.isSome }
/-- A slot that waits for a VSFU whose result has come. -/
def vsfuing (t : BitVec 3) (v : FMap Half) : State := { mk { kx { mode := .parked, claim := some (claim v 0xFF [vsfu t (some 9)]) } with cyc := 24 } with
  clusters := [(0, { laneTag := [(0, 0)], sfu0 := [{ sreq (some 24) with vec := true, ws := [] }] })] }
/-- VectorFunctionsReturn: a VSFU at the head, its request sent and not; lanes of each type whose elements an FP32 number equals. -/
theorem wit_vsfu : (∀ t ∈ [(2 : BitVec 3), 3, 4], ∀ r ∈ [none, some 9], AtHead (vq (vsfu t r) []) 0 0 (claim [] 0xFF [vsfu t r]) (vsfu t r) [] ∧
      (vsfu t r).op = Instr.vsfuRcp 0 3 1 t ∧ (vsfu t r).sent = r) ∧
    (∀ e ∈ [((2 : BitVec 3), 0x40000000), (3, 0x4000), (4, 0x4000)], (laneLayout e.1).Finite e.2 ∧ (layout 0).Finite 0x40000000 ∧
      (layout 0).val 0x40000000 = (laneLayout e.1).val e.2 ∧ (layout 0).neg 0x40000000 = (laneLayout e.1).neg e.2 ∧
      (layout 0).val (sfu32 .rcp 0x40000000).bits ≠ 0) ∧
    (layout 0).val (sfu32 .rcp 0x7F800000).bits = 0 := by
  unfold AtHead Layout.Finite; decide +kernel
/-- VectorFunctionsReturn: the request whose result has come, and its slot. -/
theorem wit_vsfuResult : ∀ t ∈ [(2 : BitVec 3), 3, 4], let s := vsfuing t []
    let r : SfuReq := { sreq (some 24) with vec := true, ws := [] }
    (s.cluster (s.clusterOf r.core)).sfu0 = [r] ∧ (s.cluster (s.clusterOf r.core)).sfu1 = [] ∧ r.served = some 24 ∧
    24 ≤ (s.core r.core).cyc.toNat ∧ (s.slotV r.core (r.vf + 1) r.slot).claim = some (claim [] 0xFF [vsfu t (some 9)]) ∧
    (vsfu t (some 9)).sent = some r.id ∧ (s.slotV r.core (r.vf + 1) r.slot).cWait = none ∧ (s.slotV r.core (r.vf + 1) r.slot).mode = .parked := by
  decide +kernel
/-- R359, R116: reciprocals of FP32 lanes, and of both elements of BF16 and FP16 lanes. -/
theorem test_vsfu : let r (t : BitVec 3) (v : Half) : Option Half :=
      ((run (.sfuResult 0 0) (vsfuing t [(256, v)])).me.claim).map fun k => k.lane 3 0
    r 2 0x40000000 = some 0x3F000000 ∧ r 3 0x40004080 = some 0x3F003E80 ∧ r 4 0x40004400 = some 0x38003400 ∧
    r 3 0xFFFF4080 = some 0xFFFF3E80 := by decide +kernel
/-- SpecialFunctionsReturn: a unit's queue with a place, and with none. -/
theorem wit_sfuRoom : ∀ n ∈ [15, 16], ((List.replicate n (sreq none)).filter fun x => decide (x.served = none) && !x.atCore).length = n := by
  decide +kernel
/-- R220: the oldest by issue cycle is served, and one at its core only once it has entered the queue. -/
theorem test_sfuOrder : let q (c : Nat) (a : Bool) : List SfuReq := [{ sreq none with cycle := 5 }, { sreq none with id := 8, cycle := c, atCore := a }]
    let s (c : Nat) (a : Bool) : List Bool := ((run (.sfuService 0 0) (serving (q c a))).cluster 0).sfu0.map fun r => r.served.isSome
    s 4 false = [false, true] ∧ s 6 false = [true, false] ∧ s 4 true = [true, false] := by decide +kernel
/-- SpecialFunctionsReturn: a negative finite operand. -/
theorem wit_negative : (layout 0).val 0xBF800000 < 0 ∧ (layout 0).val 0x80000000 = 0 := by decide +kernel
/-- R116: the reciprocal of 2.0 is 0.5; RSQRT of −0 is −∞ with DZ. -/
theorem test_sfu : let r (i : Instr) (x : Word) : List (List Wr) := ((run i (rs [(6, x)])).cluster 0).sfu0.map (·.ws)
    r (.sfuRcp 5 6) 0x40000000 = [[.g 5 0x3F000000, .flags 0]] ∧ r (.sfuRsqrt 5 6) 0x80000000 = [[.g 5 0xFF800000, .flags 8]] := by
  decide +kernel


/-! ### Counters and slice queues -/

/-- The first word of a counter entry of partition 0 (R121). -/
def ent (mode w sb : Nat) (vf : Nat := 0x1FF) : Word := BitVec.ofNat 64 (1 + vf * 2 ^ 12 + mode * 2 ^ 21 + w * 2 ^ 23 + sb * 2 ^ 26)
/-- An entry in use. -/
def cide (e0 : Word) (n : Nat := 0) : CidEntry := { e0 := e0, e1 := BitVec.ofNat 64 n, broken := false, reconf := false }
/-- A machine whose CID 7 has an entry; %g6 = 7, %g7 = 4096. -/
def cnt (e : CidEntry) (x : Slot := { mode := .ready }) : State := { one { x with g := regs [(6, 7), (7, 4096)] } with cids := [(7, e)] }
/-- CountersCount: a form passes the checks in each mode. -/
theorem wit_cidPasses (m : Nat) (h : m < 3) : CidPasses (cnt (cide (ent m 1 2))) ((cnt (cide (ent m 1 2))).rg 6) [m] := by
  have q : ∀ m, m < 3 → let s := cnt (cide (ent m 1 2)); let e := s.cid (s.rg 6).toNat
      (s.rg 6).toNat < 4096 ∧ e.valid = true ∧ e.part = s.runPid s.cur.core ∧ e.vf = 0x1FF ∧ e.mode = m ∧ e.broken = false ∧
      e.reconf = false := by decide +kernel
  obtain ⟨q1, q2, q3, q4, q5, q6, q7⟩ := q m h
  intro r b
  match r with
  | 0 => exact b
  | 1 => exact b.elim (fun e => by omega) fun e => by rw [q2] at e; cases e
  | 2 => exact b.elim (fun e => e q3) fun e => e.1 q4
  | 3 => exact b (by rw [q5]; exact List.mem_singleton.2 rfl)
  | 4 => exact absurd (q6.symm.trans b) (by decide)
  | 5 => exact absurd (q7.symm.trans b) (by decide)
  | _ + 6 => exact b
/-- CountersCount: a CID that does not exist, one that is not valid, one of another VF, of another mode, one that is broken, one that is
being rewritten. -/
theorem wit_cidBad : CidBad (cnt (cide (ent 0 1 2))) ((cnt (cide (ent 0 1 2))).rg 7) [0] 1 ∧ CidBad (cnt (cide 0)) ((cnt (cide 0)).rg 6) [0] 1 ∧
    CidBad (cnt (cide (ent 0 1 2 5))) ((cnt (cide (ent 0 1 2 5))).rg 6) [0] 2 ∧ CidBad (cnt (cide (ent 1 1 2))) ((cnt (cide (ent 1 1 2))).rg 6) [0] 3 ∧
    CidBad (cnt { cide (ent 0 1 2) with broken := true }) ((cnt { cide (ent 0 1 2) with broken := true }).rg 6) [0] 4 ∧
    CidBad (cnt { cide (ent 0 1 2) with reconf := true }) ((cnt { cide (ent 0 1 2) with reconf := true }).rg 6) [0] 5 := by
  refine ⟨.inl ?_, .inr ?_, .inr ?_, ?_, ?_, ?_⟩ <;> (try simp only [CidBad]) <;> decide +kernel
/-- R126: a CNT.INC of a barrier traps with reason 3, its CID below. -/
theorem test_cntMode : let t := run (.cntInc 5 6) (cnt (cide (ent 1 1 2)))
    t.me.tcause = 0x0D ∧ t.me.tval = 0x3007 := by decide +kernel
/-- CountersCount: barriers whose slot has an arrived mark of the bundle, released and not, one of another bundle, and one of the bundle
whose execution a handler has skipped; stores and none. -/
theorem wit_barrier : (∀ b, let m : BarMark := { cid := 7, pc := 0, tok := 3, released := b }
      let s := cnt (cide (ent 1 0 2) 1) { mode := .ready, arrived := [m] }
      s.me.arrived = [m] ∧ m.cid = (s.rg 6).toNat ∧ m.pc = s.me.pc ∧ m.again = true ∧ m.released = b) ∧
    (let m : BarMark := { cid := 7, pc := 0, tok := 3, released := false }
      ∀ x ∈ [{ m with pc := 4 }, { m with again := false }], let s := cnt (cide (ent 1 0 2) 1) { mode := .ready, arrived := [x] }
        ∀ y ∈ s.me.arrived, y.cid = (s.rg 6).toNat → y.pc = s.me.pc → y.again = false) ∧
    ((cnt (cide (ent 1 0 2) 1)).core 0).pq = [] ∧ (∃ e ∈ ((entry spEntry).core 0).pq, e.seq ≤ ((entry spEntry).core 0).seq.toNat) := by decide +kernel
/-- R298: a barrier whose mark a handler has skipped is a fresh one and sends a token; one whose mark is released goes on. -/
theorem test_barAgain : let m : BarMark := { cid := 7, pc := 0, tok := 3, released := true }
    let t (m : BarMark) := run (.cntBar 6) (cnt (cide (ent 1 0 2) 1) { mode := .ready, arrived := [m] })
    (t m).tokens = [] ∧ (t m).me.mode = .ready ∧ (t { m with again := false }).tokens.length = 1 := by decide +kernel
/-- CountersCount: a CID that does not exist, one that is being rewritten, and one that is not. -/
theorem wit_cntCfgCid : 4096 ≤ ((rs [(6, 4096)]).rg 6).toNat ∧ (let s := cnt { cide (ent 0 1 2) with reconf := true }
    (s.rg 6).toNat < 4096 ∧ (s.cid (s.rg 6).toNat).reconf = true) ∧ (let s := cnt (cide (ent 0 1 2))
    (s.rg 6).toNat < 4096 ∧ (s.cid (s.rg 6).toNat).reconf = false) := by decide +kernel
/-- R126, R122: a CID that does not exist is reason 1, one that is being rewritten reason 5, a bad entry reason 6. -/
theorem test_cntCfg : let t (e : CidEntry) (a : BitVec 6) := let s := run (.cntCfg a 8) (cnt e)
      (s.me.tcause, s.me.tval)
    t (cide 0) 7 = (0x0D, 0x1000) ∧ t { cide (ent 0 1 2) with reconf := true } 6 = (0x0D, 0x5007) ∧
    ((run (.cntCfg 6 8) (cnt (cide (ent 0 1 2)))).cid 7).reconf = true := by decide +kernel
/-- CountersCount: entries that R122 refuses, for each of the reasons, and one it accepts. -/
theorem wit_cntCfg : (∀ e ∈ [cide (ent 0 7 0), cide (ent 3 0 0), cide (ent 0 1 1), cide (ent 1 0 0) 0, cide (ent 0 0 0) 1],
      e.valid = true ∧ (e.w = 7 ∨ e.mode = 3 ∨ e.sb % 2 ^ e.w ≠ 0 ∨ (e.mode = 1 ∧ e.n = 0) ∨ (e.mode ≠ 1 ∧ e.n ≠ 0))) ∧
    State.reset.cfgRefused 7 (ent 1 6 0) 8 = false ∧ State.reset.cfgRefused 4095 (ent 0 1 62) 0 = false := by decide +kernel
/-- A token of CID 7 on its way. -/
def tok (kind : TokKind) (layer pos : Nat) : Token :=
  { kind := kind, cid := 7, core := 0, slot := 0, vf := 0, pop := none, d := 5, layer := layer, pos := pos, out := none, arrived := false }
/-- A slot that waits for the token. -/
def counting (e : CidEntry) (k : Token) (w : Wait) : State :=
  { cnt e { mode := .parked, cWait := some w } with tokens := [(3, k)], nextTok := 4 }
/-- A write of CID 7 that slot 0 waits for. -/
def cfgw : CfgWrite := { cid := 7, by_ := .slot 0 1 0, e0 := 1, e1 := 0 }
/-- The machine with some writes and tokens that wait. -/
def cfging (l : List CfgWrite) (ts : FMap Token) : State :=
  { counting (cide (ent 0 1 2)) (tok .inc 0 2) (.cntCfg 7 1 0) with cfgs := l, tokens := ts }
/-- CountersCount: a rewrite that waits with a token in flight, behind an earlier one, and neither, with another slot's after it. -/
theorem wit_cfgApply : (∀ l ∈ [[cfgw], [{ cfgw with by_ := .packet 3 4 }, cfgw], [cfgw, { cfgw with by_ := .slot 0 1 1 }]],
      cfgw ∈ (cfging l []).cfgs ∧ cfgw.by_ = .slot 0 1 0 ∧ (∀ x ∈ (cfging l []).cfgs, x.by_ = .slot 0 1 0 → x = cfgw) ∧
      ((cfging l []).slotV 0 1 0).cWait = some (.cntCfg cfgw.cid cfgw.e0 cfgw.e1)) ∧
    (∃ k ∈ (cfging [cfgw] [(3, tok .inc 0 2)]).tokens, k.2.cid = 7) ∧ (∀ k ∈ (cfging [cfgw] []).tokens, k.2.cid ≠ 7) ∧
    [{ cfgw with by_ := .packet 3 4 }, cfgw].find? (fun x => decide (x.cid = 7)) ≠ some cfgw ∧
    [cfgw, { cfgw with by_ := .slot 0 1 1 }].find? (fun x => decide (x.cid = 7)) = some cfgw := by decide +kernel
/-- R122: the CID is written once nothing is in flight, and stays reconfiguring while a later write waits. -/
theorem test_cfgApply : let t := run (.cntCfgApply 0 0) (cfging [cfgw, { cfgw with by_ := .slot 0 1 1 }] [])
    ((t.cid 7).e0, (t.cid 7).reconf) = (1, true) ∧ (t.slot 0 0).cWait = some (.done []) ∧ t.cfgs.length = 1 ∧
    (run (.cntCfgApply 0 0) (cfging [cfgw] [(3, tok .inc 0 2)])).cfgs.length = 1 := by decide +kernel
/-- CountersCount: each kind of token at the exit of output 0, its slot waiting; good parity. -/
theorem wit_exit : (∀ k ∈ [tok .inc 1 2, tok .dec 1 2, tok (.can 9) 1 2], let s := counting (cide (ent 0 1 2)) k (.counter 3)
      FMap.find? s.tokens 3 = some k ∧ s.atExit k = true ∧ 2 * (k.cid * 64 + k.pos) + 1 ∉ s.badParity ∧
      (s.slotV k.core (k.vf + 1) k.slot).cWait = some (.counter 3)) ∧
    (let k := tok (.sprd [1, 2, 3, 4]) 1 2; (counting (cide (ent 2 1 2)) k (.counter 3)).atExit k = true) ∧
    (let k := tok .bar 0 2; let s := counting (cide (ent 1 0 2) 1) k (.bar 7 0 (some 3)); s.atExit k = true ∧ (s.cid 7).reconf = false ∧
      (s.cid 7).w = 0 ∧ (s.cid 7).sb = k.pos ∧ (s.countAt 7 2).toNat + 1 = (s.cid 7).n ∧
      (s.countAt 7 2).toNat < ((s.cid 7).n - 0 + 2 ^ (s.cid 7).w - 1) / 2 ^ (s.cid 7).w) := by decide +kernel
/-- CountersCount: a barrier of two outputs with the other one still short, and an exit past its quota. -/
theorem wit_barrierExit : (let e := cide (ent 1 1 2) 2; (∃ i, i < 2 ^ e.w ∧ e.exitOf i ≠ 2 ∧ ((cnt e).countAt 7 (e.exitOf i)).toNat < (e.n - i + 2 ^ e.w - 1) / 2 ^ e.w)) ∧
    (let s : State := { cnt (cide (ent 1 0 2) 1) with counts := [(7 * 64 + 2, 1)] }; (1 - 0 + 2 ^ 0 - 1) / 2 ^ 0 ≤ (s.countAt 7 2).toNat) := by
  refine ⟨⟨1, ?_⟩, ?_⟩ <;> decide +kernel
/-- R127's example: W = 1, SB = 2: output 1 gives 1; the second token of output 0 gives 2. -/
theorem test_exit_values : ((run (.exitToken 3) (counting (cide (ent 0 1 2)) (tok .inc 1 3) (.counter 3))).slot 0 0).cWait = some (.done [.g 5 1]) ∧
    ((run (.exitToken 3) { counting (cide (ent 0 1 2)) (tok .inc 1 2) (.counter 3) with counts := [(7 * 64 + 2, 1)] }).slot 0 0).cWait =
      some (.done [.g 5 2]) := by decide +kernel
/-- CountersCount: the first and the last output of a snapshot. -/
theorem wit_snapshot : let e := cide (ent 0 1 2)
    (∀ g ∈ [([] : FMap Int), [(1, 4)]], FMap.find? (counting e (tok (.rdq g) 0 2) (.counter 3)).tokens 3 = some (tok (.rdq g) 0 2) ∧
      FMap.find? g 0 = none ∧ 0 < 2 ^ e.w ∧ 2 * (7 * 64 + e.exitOf 0) + 1 ∉ State.reset.badParity) ∧
    ([] : FMap Int).length + 1 < 2 ^ e.w ∧ ([(1, 4)] : FMap Int).length + 1 = 2 ^ e.w ∧
    ((counting e (tok (.rdq []) 0 2) (.counter 3)).slotV 0 1 0).cWait = some (.counter 3) := by decide +kernel
/-- CountersCount: a slot that a trap has taken from its barrier, its mark to be found again or skipped. -/
theorem wit_releaseMark : ∀ b, let m : BarMark := { cid := 7, pc := 0, tok := 3, released := false, again := b }
    let k := { tok .bar 0 2 with arrived := true, out := some (0, 0) }
    let s : State := { cnt (cide (ent 1 0 2) 1) { mode := .ready, arrived := [m] } with tokens := [(3, k)] }
    FMap.find? s.tokens 3 = some k ∧ k.kind = .bar ∧ k.arrived = true ∧ k.out ≠ none ∧
    (s.slotV k.core (k.vf + 1) k.slot).arrived = [m] ∧ m.tok = 3 ∧ m.again = b := by decide +kernel
/-- CountersCount: a phase that has ended, and a slot that took part. -/
theorem wit_release2 : let k := { tok .bar 0 2 with arrived := true, out := some (0, 0) }
    let s := counting (cide (ent 1 0 2) 1) k (.bar 7 0 (some 3))
    FMap.find? s.tokens 3 = some k ∧ k.kind = .bar ∧ k.arrived = true ∧ k.out ≠ none ∧
    (s.slotV k.core (k.vf + 1) k.slot).cWait = some (.bar k.cid 0 (some 3)) := by decide +kernel
/-- SliceQueuesServe: QIDs in range, of the partition's slices and of none. -/
theorem wit_qid : let p (sl : Nat) : Bool := ((rs []).part ((rs []).runPid 0)).any (·.hasPos sl)
    p 0 = true ∧ p 1023 = true ∧ (16383 : Nat) < 2 ^ 14 ∧ (16383 : Nat) / 16 = 1023 ∧ 2 ^ 14 ≤ (16384 : Nat) ∧
    ((State.reset.parts.map fun e => ({ e.2 with w1 := 0x800 } : Part).hasPos 1023) = [false]) := by decide +kernel
/-- SliceQueuesServe: descriptors that are refused and one that is not. -/
theorem wit_descriptor : (0 : Word).extractLsb' 0 4 = 0 ∧ 8 < ((9 : Word).extractLsb' 0 4).toNat ∧ (1 : Word).extractLsb' 32 8 = 0 ∧
    qBadDescriptor 0 0x1FF800001 0 = false ∧ qBadDescriptor 0 0xFFFF800018 0x99999999 = false := by decide +kernel
/-- A queue open to every VF. -/
def qu (keyed : Bool) (recs : List QRec) (waiters : List (Nat × Nat × Nat) := []) (ownVf : Nat := 0x1FF) : Queue :=
  { ownVf := ownVf, keyed := keyed, nw := 1, ops := 2, cap := 64, wlim := 1, recs := recs, waiters := waiters }
/-- A record with one word. -/
def qrec (key : Half) (c : Nat) (v : Half) : QRec := { key := key, words := [(c, v)], fold := 0, sealed := false, sat := false, ovf := false
                                                       marks := [], poison := false }
/-- An operation of slot 0 on queue 16·5 + 3, on its way. -/
def qop (form : Nat) (rs : List Word := [4, 9]) (d b : Nat := 5) : QOp := { form := form, qid := 83, d := d, b := b, regs := rs, mark := none }
/-- The machine in which it arrives, the queue in the slice or not. -/
def arriving (q : QOp) (k : Option Queue) : State :=
  { one { mode := .parked, cWait := some (.request 3) } with
    reqs := [(3, { kind := .queue q, core := 0, slot := 0, vf := 0, key := 0, size := 0, slice := none, cached := false, waiting := false, tag := 0 })]
    slices := [(5, { queues := match k with
      | some k => [(3, k)]
      | none => [] })] }
/-- SliceQueuesServe: no queue, one of another VF, one with a record and one without, one with its waiter, one that is full; the request
and its slot. -/
theorem wit_queue : (arriving (qop 1) none).queue? 83 = none ∧ (arriving (qop 1) (some (qu false []))).queue? 83 = some (qu false []) ∧
    Owns (qu false []) 0 ∧ ¬ Owns (qu false [] [] 5) 0 ∧ (qop 1).qid < 2 ^ 14 ∧
    (∃ r, FMap.find? (arriving (qop 1) none).reqs 3 = some r ∧ r.kind = .queue (qop 1) ∧ r.waiting = false ∧
      ((arriving (qop 1) none).slotV r.core (r.vf + 1) r.slot).cWait = some (.request 3)) ∧
    ((arriving (qop 4) (some (qu false []))).slice ((qop 4).qid / 16)).stalled = [] ∧
    (63 : Nat) < 63 + (qu false []).nw ∧ 62 + (qu false []).nw ≤ 63 ∧ 61 + 1 + (qu false []).nw ≤ 63 ∧
    (qu false []).waiters.length < (qu false []).wlim ∧ (qu false []).wlim ≤ (qu false [] [(0, 1, 0)]).waiters.length ∧
    (qu true (List.replicate 64 (qrec 4 1 9))).cap ≤ (List.replicate 64 (qrec 4 1 9)).length := by
  refine ⟨by decide +kernel, by decide +kernel, .inl rfl, ?_, by decide, ⟨_, rfl, rfl, rfl, by decide +kernel⟩, by decide +kernel⟩
  unfold Owns; decide
/-- SliceQueuesServe: a keyed queue without, with a sealed and with an open record of the key. -/
theorem wit_keyed : (∀ y ∈ (qu true [{ qrec 4 1 9 with sealed := true }]).recs, y.key = 4 → y.sealed = true) ∧
    (qu true [qrec 3 1 1, qrec 4 65533 9]).recs = [qrec 3 1 1] ++ qrec 4 65533 9 :: [] ∧ (∀ z ∈ [qrec 3 1 1], z.key = 4 → z.sealed = true) ∧
    (qrec 4 65533 9).sealed = false ∧ (qrec 4 65533 9).fold < 65534 ∧ (qu true []).nw = 1 ∧ (65533 : Nat) < 65534 ∧ (qop 0).mark = none := by
  decide +kernel
/-- R186: Q.ENQ of key 4 and 9 into a keyed queue of integer sums folds 9 into 2. -/
theorem test_qEnq : ((run (.sliceRequest 3) (arriving (qop 0) (some (qu true [qrec 4 1 2])))).queue? 83).map
    (fun k => k.recs.map fun r => (r.words, r.fold)) = some [([(2, 11)], 1)] := by decide +kernel
/-- R189: Q.DEQ of an empty queue gives 0, and of a record its value. -/
theorem test_qDeq : ((run (.sliceRequest 3) (arriving (qop 1) (some (qu false [])))).slot 0 0).cWait = some (.done [.g 5 0]) ∧
    ((run (.sliceRequest 3) (arriving (qop 1) (some (qu true [qrec 4 1 2])))).slot 0 0).cWait =
      some (.done [.g 5 (2 ^ 63), .g 6 4, .g 7 0x100000002]) := by decide +kernel
/-- R185: the integer sum clamps, the maximum and the bitwise operators. -/
theorem test_qFold : qFold 2 0x7FFFFFFF 1 = (0x7FFFFFFF, true, false) ∧ qFold 2 0x80000001 0xFFFFFFFF = (0x80000001, true, false) ∧
    (qFold 4 0xFFFFFFFF 1).1 = 1 ∧ (qFold 8 4 1).1 = 5 := by decide +kernel
/-- SliceQueuesServe: float words that are present, finite, NaNs, of sums other than 0 and 0. -/
theorem wit_floatFold : (layout 0).IsNan 0x7FC00000 = true ∧ (layout 0).Finite 0x3F800000 ∧ (layout 0).val 0x3F800000 + (layout 0).val 0x3F800000 ≠ 0 ∧
    (layout 0).val 0x3F800000 + (layout 0).val 0xBF800000 = 0 := by unfold Layout.Finite; decide +kernel
/-- Slice 5 with two ways reserved, slot 0 having a queue made there. -/
def making (ls : FMap (List L2Line)) (wb : List Nat := []) : State := { one { mode := .parked, cWait := some (.qMake 5 3) } with
  slices := [(5, { sets := ls, wb := wb, resv := 2, making := [{ idx := 3, core := 0, slot := 0, vf := 0, d := 5, queue := qu false [] }] })] }
/-- A line of set 0 in the reserved way 15. -/
def inWay (dirty : Bool) (pins : Nat) : L2Line := { line := 7, way := 15, vf := 0, dirty := dirty, pins := pins, used := 0, sectors := 15 }
/-- SliceQueuesServe: Q.MAKE of an index in use, of a free one, with every index in use. -/
theorem wit_qMake : let e0 : Word := 0x1FF830001
    (e0.getLsbD 20 = false ∧ (e0.extractLsb' 16 4).toNat = 3 ∧ (0x1FF900001 : Word).getLsbD 20 = true) ∧
    FMap.find? ((arriving (qop 3) (some (qu false []))).slice 5).queues 3 ≠ none ∧ ((arriving (qop 3) none).slice 5).refusal e0 0 = none ∧
    (let k : Slice := { queues := (List.range 16).map fun i => (i, qu false []) }; ∀ j, j < 16 → FMap.find? k.queues j ≠ none) := by
  decide +kernel
/-- SliceQueuesServe: the reservation with no line in it, a pinned one, a dirty one without and with room. -/
theorem wit_qMade : (∀ l ∈ [[], [(0, [inWay false 1])], [(0, [inWay true 0])]], let s := making l
      (s.makingOf 0 0).map (fun e => (e.1, e.2.core, e.2.slot, e.2.idx, e.2.vf)) = some (5, 0, 0, 3, 0) ∧
      (s.slotV 0 1 0).cWait = some (.qMake 5 3) ∧ (s.slice 5).wb.length < Config.wbEntries ∧ (s.slice 5).filter.length < Config.filterSize) ∧
    ((making []).slice 5).reservedLines = [] ∧ (∃ l ∈ ((making [(0, [inWay false 1])]).slice 5).reservedLines, l.2.pins ≠ 0) ∧
    (let k := (making [(0, [inWay true 0])] (List.range Config.wbEntries)).slice 5
     (∃ l ∈ k.reservedLines, l.2.dirty = true) ∧ ¬ k.wb.length < Config.wbEntries) ∧
    (let k := (making [(0, [inWay true 0])]).slice 5; 16 - k.resv ≤ (inWay true 0).way ∧ k.entry? 7 = none) := by decide +kernel
/-- R181: a dirty line is written back and the queue made; a pinned line is waited for. -/
theorem test_qMade : let t (l : L2Line) := run (.queueReservationDone 0 0) (making [(0, [l])])
    ((t (inWay true 0)).queue? 83).isSome = true ∧ ((t (inWay true 0)).slice 5).wb = [7] ∧
    ((t (inWay true 0)).slot 0 0).cWait = some (.done [.g 5 83]) ∧ ((t (inWay false 1)).queue? 83).isSome = false := by decide +kernel
/-- R177: 512 and 512 records ask for 4 ways, and a queue freed gives its ways back. -/
theorem test_ways : ({ making := [1, 2].map fun i => { idx := i, core := 0, slot := 0, vf := 0, d := 0
                                                       queue := { qu false [] with cap := 512 } } } : Slice).reserve.resv = 4 ∧
    ({ resv := 4 } : Slice).reserve.resv = 0 := by decide +kernel
/-- SliceQueuesServe: a spread record, its queue there with five words and not. -/
theorem wit_spread : let k := { tok (.sprd [1, 2, 3, 4]) 1 2 with out := some (0, 10) }
    let s (q : FMap Queue) : State := { counting (cide (ent 2 1 2)) k (.counter 3) with slices := [(0, { queues := q })] }
    let five : Queue := { qu false [] with nw := 5 }
    FMap.find? (s []).tokens 3 = some k ∧ (s []).part ((s []).cid k.cid).part = some Part.zero ∧ [1, 2, 3, 4].length = 4 ∧
    ((s []).slotV k.core (k.vf + 1) k.slot).cWait = some (.counter 3) ∧ (s []).queue? 0 = none ∧ (s [(0, five)]).queue? 0 = some five ∧
    16 * Part.zero.sliceAt ((0 + 0) % Part.zero.slices) + 0 = 0 ∧ five.recs.length < five.cap ∧ five.nw = 5 ∧ (qu false []).nw ≠ 5 := by
  decide +kernel


/-! ### Translation, tenants, command queues -/

/-- R233: an entry that is not valid, one with a reserved bit, pointers above level 0 and at it, pages of the three sizes. -/
theorem test_pte : pteOf 0 0 = .none ∧ pteOf 3 0x401 = .error ∧ pteOf 3 0x21201 = .table 0x21000 ∧ pteOf 1 0x21201 = .error ∧
    pteOf 1 0x20201 = .table 0x20000 ∧ pteOf 0 0x20201 = .error ∧ pteOf 2 1 = .error ∧ pteOf 1 0x10F = .page 0 2 0xF ∧
    pteOf 0 0x1000F = .page 0x10000 0 0xF ∧ pteOf 0 0x20008F = .page 0x200000 1 0xF := by decide +kernel
/-- A machine that holds dwords at physical addresses of partition 0. -/
def physical (s : State) (l : List (Nat × Nat)) : State := l.foldl (fun t e => withBytes t (Part.zero.hbmKey e.1) (leBytes 8 e.2)) s
/-- The tables of both stages of VF 0, each of one identical page of 1 GiB, readable, or readable alone. -/
def tables (s : State) (bits : Nat) : State := physical s
  [(0x20000, 0x21201), (0x21000, 0x22201), (0x22000, 0x11F), (0x10000, 0x11201), (0x11000, 0x12201), (0x12000, 0x100 + bits)]
/-- A slot that waits for the walk of page 0 with a kind of access. -/
def walking (k : Nat) : State := { one { mode := .parked, cWait := some (.walk 0 k) } with
  clusters := [(0, { walks := [{ vpn := 0, vf := 0, pid := 0 }] })] }
/-- The same slot, its VF switched out. -/
def away : State := { walking 0 with cores := (walking 0).cores.map fun e => (e.1, { e.2 with vf := some 1 }) }
/-- TranslationsArrive: a walk that finds its page, with the permission and without, one that fails; the slots. -/
theorem wit_walk : let w : Walk := { vpn := 0, vf := 0, pid := 0 }
    ((walking 0).cluster 0).walks[0]? = some w ∧ (match (tables (walking 0) 0x1F).walkEntry w with
      | .inl e => e.allows 0 && e.allows 3
      | .inr _ => false) = true ∧
    (match (tables (walking 1) 0x13).walkEntry w with
      | .inl e => !e.allows 1 && e.r
      | .inr _ => false) = true ∧ (walking 0).walkEntry w = .inr 1 ∧
    0 ∈ (walking 0).coresOf 0 ∧ (∀ s ∈ [walking 0, away], (s.slotV 0 (w.vf + 1) 0).cWait = some (.walk 0 0) ∧
      (s.slotV 0 (w.vf + 1) 0).mode = .parked ∧ (s.cluster 0).walks[0]? = some w) ∧ 0 % 2 ^ 57 / 2 ^ 16 = w.vpn ∧
    (away.core 0).vf = some 1 ∧ 0 ∉ w.keep ∧ ((walking 0).core 0).tlb = [] ∧ 0 ∈ ({ w with keep := [0] } : Walk).keep := by decide +kernel
/-- TranslationsArrive: no slot has a fault that followed a replay. -/
theorem wit_noReplay : ∀ s ∈ [walking 0, away], ∀ c n, (s.slotV c 1 n).replay = none := by
  intro s h c n
  rcases List.mem_pair.1 h with rfl | rfl <;> rcases c with _ | c <;> rcases n with _ | n <;> rfl
/-- R232: a slot of a VF that does not run on the core is released too. -/
theorem test_walkAway : let t := run (.walkDone 0 0) (tables away 0x1F)
    (t.slotV 0 1 0).mode = .ready ∧ (t.cluster 0).walks = [] := by decide +kernel
/-- R231: entries that are well formed, of each size, and ones that are not. -/
theorem wit_entry : GoodEntry 0x080000F 0x40004 ∧ GoodEntry 0x1000100F 0x200006 ∧ GoodEntry 0x200000200F 0x40000006 ∧ ¬ GoodEntry 0x300F 0 ∧
    ¬ GoodEntry 0xF 1 ∧ ¬ GoodEntry 0x80100F 0x200006 := by
  refine ⟨?_, ?_, ?_, ?_, ?_, ?_⟩ <;> unfold GoodEntry <;> decide
/-- R231: TLBW.CORE puts the entry first; a malformed one traps. -/
theorem test_tlbw : ((run (.tlbwCore 6 7) (rs [(6, 0xF), (7, 0x40004)])).core 0).tlb = [⟨0xF, 0x40004⟩] ∧
    (run (.tlbwCore 6 7) (rs [(6, 0x300F), (7, 0)])).me.tcause = 1 := by decide +kernel
/-- EntriesEnterTheTlb: an entry that maps an address of every core of the cluster. -/
theorem wit_entryHits : let s := rs []
    0 ∈ s.coresOf (s.clusterOf s.cur.core) ∧ s.clusterOf 0 = s.clusterOf s.cur.core ∧
    (⟨0xF, 0x40004⟩ : TlbEntry).hits (s.runVf 0) 0xFFFF = true := by decide +kernel
/-- R341: TLBW.CLUS takes the place of an older entry of the page in a core's own TLB. -/
theorem test_tlbwClus : let s := rs [(6, 0xF), (7, 0x40004)]
    let t := run (.tlbwClus 6 7) { s with cores := s.cores.map fun e => (e.1, { e.2 with tlb := [⟨0xF, 0x80004⟩] }) }
    (t.core 0).tlb = [] ∧ (t.tlbLook 0 8).1 = some ⟨0xF, 0x40004⟩ := by decide +kernel
/-- TranslationsArrive: a shoot-down that waits for two TLBs; the partition and its clusters. -/
theorem wit_shoot : let s := one { mode := .parked, cWait := some (.shoot 1 0 0 [0, 4096]) }
    (s.slot 0 0).cWait = some (.shoot 1 0 0 [0, 4096]) ∧ (s.core 0).pq = [] ∧ 5 ∉ [0, 4096] ∧ 0 ∈ [0, 4096] ∧
    (s.part (s.pidAt s.cur.core)).isSome = true ∧ (∀ p ∈ s.part (s.pidAt s.cur.core), p.hasCluster 127 = true) := by decide +kernel
/-- R238: a core's TLB that has dropped its entries finds none again in its cluster's TLB, which has yet to answer. -/
theorem test_shoot : let s : State := { one { mode := .parked, cWait := some (.shoot 2 0 0 [0, 4096]) } with clusters := [(0, { tlb := pageTlb })] }
    (s.tlbLook 0 8).1.isSome = true ∧ ((run (.tlbShootdownAck 0 0 0) s).tlbLook 0 8).1 = none := by decide +kernel
/-- Core 0 asks about the fault of slot 1 of its own core. -/
def blocked : State := { mk (kx { mode := .ready, g := regs [(6, 1), (7, 127)] } fun k =>
  { k with slots := k.slots ++ [(1, { mode := .parked, cWait := some .fault, replay := some (0x5000, 2, 0) })] }) with }
/-- TranslationsArrive: a fault that is named, and registers that name none. -/
theorem wit_frep : blocked.faulted (blocked.rg 6) = some (0, blocked.vk 0, 1) ∧ (blocked.slot 0 1).replay = some (0x5000, 2, 0) ∧
    (blocked.slot 0 1).mode = .parked ∧ (blocked.cvf 0).tvec ≠ 0 ∧ (blocked.slot 0 1).inTrap = false ∧ blocked.faulted (blocked.rg 7) = none ∧
    128 ≤ (128 : Word).toNat := by decide +kernel
/-- R235: FREP.KILL gives the slot trap 0x05. -/
theorem test_frepKill : let t := run (.frepKill 6) blocked
    (t.slot 0 1).tcause = 5 ∧ (t.slot 0 1).tval = 0x5000 ∧ (t.slot 0 1).pc = 0x100 := by decide +kernel
/-- TenantsTakeTurns: exchanges of each kind, one that an engine's job hinders, and a slot that waits. -/
theorem wit_bank : (∀ k ∈ List.range 6, let x : Xfer := { kind := k, unit := 0, idx := 3, vf := 0 }
      let s : State := { one { mode := .parked, cWait := some (.bank k 0 3) } with xfers := [x] }
      (s.xfers.find? fun y => y.kind = x.kind && y.unit = x.unit && y.idx = x.idx) = some x ∧ s.bankBusy x = false ∧
      s.vk x.unit = x.vf + 1 ∧ (s.slot x.unit 0).mode = .parked ∧ (s.slot x.unit 0).cWait = some (.bank x.kind x.unit x.idx)) ∧
    (engine { running := [job 5 [3]] }).bankBusy { kind := 4, unit := 0, idx := 3, vf := 0 } = true := by decide +kernel
/-- TenantsTakeTurns: a core that is to be switched, with and without a vector operation under way. -/
theorem wit_switch : let s := mk { kx {} with switchTo := some (some 1) }
    let v : State := { mk { kx { claim := some (claim [] 0 [{ vop .vfence with begun := true }]) } with switchTo := some none } with }
    (s.core 0).switchTo = some (some 1) ∧ s.vectorBegun 0 = false ∧ (s.core 0).pq = [] ∧ v.vectorBegun 0 = true := by decide +kernel
/-- VFs 0 and 1 share core 0; both, or VF 0 alone, have work; the core has been held for some cycles. -/
def sharing (both : Bool) (held : Nat) : State :=
  let x : Pop := { vf := 0, pid := 0, cores := [0], quota := 1, seen := [], queue := 0, seq := 1, status := .running, hung := false, quiet := 0, still := 0, report := 0 }
  { mk { kx {} with held := held } with
    parts := [(0, { Part.zero with groups := [(1, [0])] })]
    vfs := [(0, { Vf.zero with w0 := 0x10100000000 }), (1, { Vf.zero with w0 := 0x10100000000 })]
    pops := (4, x) :: if both then [(5, { x with vf := 1 })] else [] }
/-- TenantsTakeTurns: a quantum at its end, one cycle before it, and no other VF with work. -/
theorem wit_quantum : let s := sharing true 42000
    s.coreSet 0 = [0] ∧ (s.core ((s.coreSet 0).headD 0)).vf = some 0 ∧ (s.vfRec 0).map (·.fatal) = some false ∧ s.hasWork 0 = true ∧
    (s.vfRec 0).map (fun x => x.w0.toNat / 2 ^ 32 % 256) = some 1 ∧ s.nextVf (s.domainOf 0) (some 0) = some 1 ∧
    (∀ c ∈ s.coreSet 0, (s.core c).switchTo = none ∧ 1 * 42000 ≤ (s.core c).held) ∧
    (∃ c ∈ (sharing true 41999).coreSet 0, ((sharing true 41999).core c).held < 1 * 42000) ∧
    (sharing false 42000).nextVf ((sharing false 42000).domainOf 0) (some 0) = none := by decide +kernel
/-- R248: the switch is ordered at the quantum's end. -/
theorem test_quantum : ((run (.quantumExpiry 0) (sharing true 42000)).core 0).switchTo = some (some 1) ∧
    ((run (.quantumExpiry 0) (sharing true 41999)).core 0).switchTo = none := by decide +kernel
/-- A control block in host memory at 0x1000. -/
def block (w : List Nat) : State := w.zipIdx.foldl (fun t e => withBytes t (2 ^ 65 + 0x1000 + 8 * e.2) (leBytes 8 e.1)) State.reset
/-- CommandQueuesWork: a block that is refused with 2, with 5 and with 6, and one that is not. -/
theorem wit_open : let w (l : List Nat) : List Word := (block l).readWords true 0x1FF 0x1000 8
    w [0, 0x1FF00000103] = [0, 0x1FF00000103, 0, 0, 0, 0, 0, 0] ∧ ((w [0, 0x1FF00000103]).getD 1 0).extractLsb' 0 4 = 3 ∧
    ((w [1, 0x1FF00000104]).getD 0 0).extractLsb' 0 7 ≠ 0 ∧ ((w [0, 0x100000104]).getD 1 0).extractLsb' 32 9 ≠ 0x1FF ∧
    ((w [0, 0x1FF00000104]).getD 1 0).extractLsb' 32 9 = 0x1FF ∧ ((w [0, 0x1FF00000104]).getD 1 0).extractLsb' 8 4 = 1 ∧
    State.reset.queues.length < 1024 ∧ 2 ^ 64 ≤ 2 ^ 64 + (0x1000 : Nat) := by decide +kernel
/-- CommandQueuesWork: a device with 1,024 queues. -/
theorem wit_manyQueues (q : CmdQueue) : 1024 ≤ (List.replicate 1024 (5, q)).length := by
  rw [List.length_replicate]
/-- The management queue, and a PCAP packet of 1,200 W as the first of it (R267). -/
def mgmt : CmdQueue := { qcb := 0, host := false, base := 4096, cbase := 6144, sizelog := 4, vf := 0x1FF, maj := 1, min := 1, state := 1
                         accept := 0, tail := 0, chead := 0, head := none, live := [] }
/-- That packet. -/
def pcap (watts : Nat := 1200) (op : Nat := 0x0C) (ver : Nat := 0x11) (seq : Nat := 1) : List Word :=
  [BitVec.ofNat 64 (seq + ver * 2 ^ 32 + op * 2 ^ 40), BitVec.ofNat 64 watts] ++ List.replicate 14 0
/-- R271: the REASONs of headers, and of a cap out of range. -/
theorem test_reasons : packetReason State.reset mgmt pcap = none ∧ packetReason State.reset mgmt (pcap 2700) = none ∧
    packetReason State.reset mgmt (pcap 1199) = some 5 ∧ packetReason State.reset mgmt (pcap 2701) = some 5 ∧
    packetReason State.reset mgmt (pcap 1200 0) = some 1 ∧ packetReason State.reset mgmt (pcap 1200 0x11) = some 1 ∧
    packetReason State.reset { mgmt with min := 0 } (pcap 1200 0x0E) = some 1 ∧ packetReason State.reset mgmt (pcap 1200 0x0C 0x21) = some 2 ∧
    packetReason State.reset mgmt (pcap 1200 0x10C) = some 3 ∧ packetReason State.reset mgmt (pcap 1200 0x0C 0x11 2) = some 4 ∧
    packetReason State.reset mgmt (pcap 1200 1) = some 7 := by decide +kernel
/-- The management queue's ring with that packet. -/
def ring (w : List Word) : State := physical State.reset (w.zipIdx.map fun e => (4096 + 8 * e.2, e.1.toNat))
/-- CommandQueuesWork: an open queue with a packet that passes, and one with none of a known opcode; a halted and a held queue. -/
theorem wit_doorbell : (ring pcap).cmdq 0 = some mgmt ∧ mgmt.state = 1 ∧ mgmt.head = none ∧ mgmt.accept ≠ BitVec.ofNat 32 1 ∧
    packetReason (ring pcap) mgmt (nextWords (ring pcap) mgmt) = none ∧ packetReason State.reset mgmt (nextWords State.reset mgmt) = some 1 ∧
    (∀ n ∈ [2, 3], ({ State.reset with queues := [(0, { mgmt with state := n })] } : State).cmdq 0 = some { mgmt with state := n }) ∧
    mgmt.accept = mgmt.tail := by decide +kernel
/-- A LAUNCH of one task on every core of a group of the partition. -/
def lpkt (stage : PktStage) (w2 : Word := 0x100) (broken : Bool := false) : Pkt :=
  { seq := 1, words := [0x11100000001, 0x200, w2] ++ List.replicate 13 0, stage := stage, broken := broken, passed := false }
/-- A queue of VF 0 that holds it. -/
def lq (p : Pkt) : CmdQueue := { mgmt with vf := 0, accept := if p.stage = .checked then 0 else 1, tail := 1, head := some p }
/-- A machine with that queue. -/
def launch (p : Pkt) : State := { State.reset with queues := [(0, lq p)] }
/-- The management queue, with a packet that it has accepted, beside it. -/
def judge : State := { launch (lpkt .checked) with queues := [(0, { mgmt with head := some { lpkt .checked with words := pcap } }),
  (3, { mgmt with head := some { lpkt .accepted with words := pcap } })] }
/-- CommandQueuesWork: a LAUNCH that is checked and whose body passes, and not; a management packet that waits for another. -/
theorem wit_accept : (∀ p ∈ [lpkt .checked, lpkt .checked 0x10100], (launch p).cmdq 0 = some (lq p) ∧ (lq p).head = some p ∧
      p.stage = .checked ∧ pkOp p.words = 1) ∧
    bodyReason (launch (lpkt .checked)) (lq (lpkt .checked)) (lpkt .checked).words = none ∧
    bodyReason (launch (lpkt .checked)) (lq (lpkt .checked 0x10100)) (lpkt .checked 0x10100).words = some 5 ∧
    judge.judging 0 = true ∧ (launch (lpkt .checked)).judging 0 = false ∧ pkOp pcap ≠ 1 := by decide +kernel
/-- R26, R273: the LAUNCH is accepted with a record on both stacks; that of an empty group is rejected and the queue halts. -/
theorem test_accept : let t (p : Pkt) := run (.acceptanceRecord 0) (launch p)
    ((t (lpkt .checked)).cmdq 0).map (·.accept) = some 1 ∧ (t (lpkt .checked)).stackB.map (·.length) = some 1 ∧
    ((t (lpkt .checked 0x10100)).cmdq 0).map (·.state) = some 2 := by decide +kernel
/-- A LAUNCH that is accepted, and an armed packet-break register. -/
def breaking (x : Nat) (broken : Bool := false) : State :=
  { launch (lpkt .accepted 0x100 broken) with parts := [(0, { Part.zero with brk := [(0, BitVec.ofNat 64 x)] })] }
/-- CommandQueuesWork: a register that names the PC of the LAUNCH and one that names its queue; a packet that is held. -/
theorem wit_break : ∀ x ∈ [0x8000000000000200, 0xC000000000000000], ∀ b, let p := lpkt .accepted 0x100 b
    (breaking x b).cmdq 0 = some (lq p) ∧ (lq p).head = some p ∧ (lq p).state = 1 ∧ (breaking x b).startable (lq p).vf = true ∧
    p.stage = .accepted ∧ pkOp p.words = 1 ∧ (lq p).live = [] ∧ p.broken = b ∧ p.passed = false ∧ Meets (breaking x b) 0 (lq p) p := by
  have q : ∀ x ∈ [0x8000000000000200, 0xC000000000000000], ∀ b, let p := lpkt .accepted 0x100 b; let r := BitVec.ofNat 64 x
      (breaking x b).cmdq 0 = some (lq p) ∧ (breaking x b).startable (lq p).vf = true ∧ pkOp p.words = 1 ∧
      (breaking x b).part ((breaking x b).pidOf (lq p).vf) = some { Part.zero with brk := [(0, r)] } ∧ (lq p).vf ≠ 0x1FF ∧ r.getLsbD 63 = true ∧
      ((r.getLsbD 62 = true ∧ r.toNat % 2 ^ 16 = 0) ∨
        (r.getLsbD 62 = false ∧ pkOp p.words = 1 ∧ r.toNat % 2 ^ 57 = (p.words.getD 1 0).toNat % 2 ^ 57)) := by decide +kernel
  intro x h b
  obtain ⟨q1, q2, q3, q4, q5, q6, q7⟩ := q x h b
  exact ⟨q1, rfl, rfl, q2, rfl, q3, rfl, rfl, rfl, q5, _, (0, BitVec.ofNat 64 x), q4, List.mem_singleton.2 rfl, q6, q7⟩
/-- R258: the LAUNCH is held at its dispatch and told to the host, and passes once it is resumed. -/
theorem test_break : let t := run (.launch 0) (breaking 0x8000000000000200)
    t.reports = [.breakHit 0] ∧ t.chan = [] ∧ t.nextPop = State.reset.nextPop ∧
    (run (.launch 0) (run (.packetBreakResume 0) t)).nextPop = State.reset.nextPop + 1 := by decide +kernel


/-! ### Packets, links, boot, debugger, errors, rules stated whole -/

/-- A packet of an opcode as a management queue has accepted it. -/
def accP (op : Nat) (w : List Nat := []) : Pkt :=
  let words := [BitVec.ofNat 64 (1 + 0x11 * 2 ^ 32 + op * 2 ^ 40)] ++ w.map (BitVec.ofNat 64) ++ List.replicate 12 0
  { seq := 1, words := words, stage := .accepted, broken := false, passed := false }
/-- That queue. -/
def accQ (op : Nat) (w : List Nat := []) : CmdQueue := { mgmt with accept := 1, tail := 1, head := some (accP op w) }
/-- A machine with that queue. -/
def accepted (op : Nat) (w : List Nat := []) : State := { State.reset with queues := [(0, accQ op w)] }
/-- PacketsHaveTheirEffect: each packet of a management queue ready for dispatch. -/
theorem wit_ready : ∀ op ∈ [2, 3, 4, 5, 6, 7, 8, 9, 0xA, 0xB, 0xC, 0xD, 0xE, 0xF, 0x10], Ready (accepted op) 0 (accQ op) (accP op) op := by
  have q : ∀ op ∈ [2, 3, 4, 5, 6, 7, 8, 9, 0xA, 0xB, 0xC, 0xD, 0xE, 0xF, 0x10], pkOp (accP op).words = op := by decide +kernel
  exact fun op h => ⟨rfl, rfl, rfl, rfl, .inr fun m => m.1 rfl, rfl, q op h, rfl, fun y hy => by cases hy⟩
/-- PacketsHaveTheirEffect: a LAUNCH ready for dispatch, compared and let pass; the channel full at a core of its group or at none. -/
theorem wit_launch : (let p := lpkt .accepted; Ready (launch p) 0 (lq p) p 1) ∧
    (let p := { lpkt .accepted with passed := true }; let s : State := { breaking 0xC000000000000000 with queues := [(0, lq p)] }
     Ready s 0 (lq p) p 1) ∧ State.reset.unsent = [] ∧ State.reset.chanFull = [] ∧ 5 ∈ ({ State.reset with chanFull := [5] } : State).chanFull := by
  refine ⟨⟨rfl, rfl, rfl, rfl, .inr fun m => ?_, rfl, by decide +kernel, rfl, fun y hy => by cases hy⟩,
    ⟨rfl, rfl, rfl, rfl, .inl rfl, rfl, by decide +kernel, rfl, fun y hy => by cases hy⟩, by decide +kernel⟩
  obtain ⟨_, x, e, h, he, -⟩ := m
  cases h; cases he
/-- PacketsHaveTheirEffect: the VF of a LAUNCH and a group that is not empty; VF 0 fatal, paused, moved. -/
theorem wit_launchVf : let s := launch (lpkt .accepted)
    s.vfRec 0 = some Vf.zero ∧
    (s.group (s.pidOf 0) 0).map (·.length) = some 1024 ∧ Vf.zero.fatal = false ∧ Vf.zero.resetting = false ∧ Vf.zero.paused = false ∧ Vf.zero.moved = false ∧
    ∀ v ∈ [{ Vf.zero with fatal := true }, { Vf.zero with resetting := true }, { Vf.zero with paused := true }, { Vf.zero with moved := true }],
      ({ s with vfs := [(0, v)] } : State).vfRec 0 = some v := by decide +kernel
/-- R37, R36: one packet for each core of the group; those after one for a core that admits none are not sent yet. -/
theorem test_launch : let t (full : List Nat) := run (.launch 0) { launch (lpkt .accepted 0x10100) with
      chanFull := full, parts := [(0, { Part.zero with groups := [(1, [0, 1, 2])] })] }
    (t []).chan.map (·.1) = [0, 1, 2] ∧ ((t [1]).chan.map (·.1), (t [1]).unsent.map (·.1)) = ([0], [1, 2]) := by decide +kernel
/-- R282: PCAP sets the cap. -/
theorem test_pcap : (run (.pcap 0) (accepted 0xC [1200])).pcap = 1200 ∧ (run (.pcap 0) (accepted 0xC [1200])).mem = State.reset.mem := by
  decide +kernel
/-- PacketsHaveTheirEffect: partition 0 and VF 0, a queue with a record, a core that runs VF 0, no held operation of it. -/
theorem wit_tablesThere : (accepted 7).part 0 = some Part.zero ∧ (accepted 5).vfRec 0 = some Vf.zero ∧
    Part.zero.hasCluster (State.reset.clusterOf 0) = true ∧ FMap.find? (one {}).cores 0 ≠ none ∧ ((one {}).core 0).vf = some 0 ∧
    ((one {}).core 0).switchTo = none ∧ 0 ∈ State.reset.coreSet 0 ∧ (∀ o ∈ State.reset.heldOps, o.vf ≠ 0) := by decide +kernel
/-- A queue in host memory with a live packet, and a population of it. -/
def ending (op : Nat) (st : PopStatus := .running) (stage : PktStage := .dispatched) : State :=
  { judged st 0 0 {} with queues := [(0, { mgmt with host := true, cbase := 0x2000, live := [{ seq := 1, words := pcap 0 op, stage := stage, broken := false, passed := false }] })] }
/-- PacketsHaveTheirEffect: live packets that end alone, a LAUNCH with its population at each status, a CIDCFG with and without a token. -/
theorem wit_ends : (∀ op ∈ [1, 2, 8, 0xC], ((ending op).cmdq 0).bind (fun q => (q.live.find? (·.seq = 1)).map fun p => (pkOp p.words, q.host)) = some (op, true)) ∧
    (0x2000 + 16 * (0 % 2 ^ 4) + 16 < 2 ^ 64) ∧ ((0 : Nat) + 40 ≤ 0x2000) ∧ (1 : Nat) < 2 ^ 32 ∧
    (∀ st ∈ [PopStatus.reported, .fatal, .reset, .running],
      (List.find? (fun (e : Nat × Pop) => e.2.queue = 0 && e.2.seq = 1) (ending 1 st).pops).map (fun e => (e.1, e.2.status)) = some (4, st)) ∧
    (∀ k ∈ (ending 8).tokens, k.2.cid ≠ 0) ∧ (∃ k ∈ (counting (cide 1) { tok .inc 0 2 with cid := 0 } .park).tokens, k.2.cid = 0) := by
  decide +kernel
/-- The write that a CIDCFG of CID 0 waits for. -/
def cidw : CfgWrite := { cid := 0, by_ := .packet 0 1, e0 := 0, e1 := 0 }
/-- PacketsHaveTheirEffect: a CIDCFG whose write is the earliest, with another behind it, and one behind another. -/
theorem wit_cidcfg : let s (l : List CfgWrite) : State := { ending 8 with cfgs := l }
    (∀ l ∈ [[cidw], [cidw, { cidw with e0 := 1 }]], (s l).cfgs.find? (fun d => decide (d.cid = 0)) = some cidw) ∧
    (s [{ cidw with e0 := 1 }, cidw]).cfgs.find? (fun d => decide (d.cid = 0)) ≠ some cidw := by decide +kernel
/-- VF 0 holds core 0 alone, which runs nothing or it. -/
def placed (s : State) (k : Core) : State := { s with
  parts := [(0, { Part.zero with groups := [(1, [0])] })], vfs := [(0, { Vf.zero with w0 := 0x10100000000 })], cores := [(0, k)] }
/-- PacketsHaveTheirEffect: a VRESET and a VDESTROY under way with a job of the VF and without; a queue of another VF. -/
theorem wit_vreset : (∀ op ∈ [5, 6], ((ending op).cmdq 0).bind (fun q => (q.live.find? (·.seq = 1)).map fun p => (pkOp p.words, q.host)) =
      some (op, true) ∧ (ending op).jobless 0 = true ∧ (∀ k ∈ (ending op).slices, k.2.stalled = [])) ∧
    (ending 5).vfRec 0 = some Vf.zero ∧ (engine { running := [job 5 [3]] }).jobless 0 = false ∧ 0 < State.reset.ncore := by decide +kernel
/-- R249: a VRESET waits for the VF's job; then the slots are free. -/
theorem test_vreset : let t (l : List Job) := run (.packetComplete 0 1) { ending 5 with clusters := [(0, { running := l })] }
    ((t [job 5 [3]]).cmdq 0).map (·.live.length) = some 1 ∧ ((t []).cmdq 0).map (·.live.length) = some 0 ∧ (t []).slot 0 0 = {} := by
  decide +kernel
/-- PacketsHaveTheirEffect: PAUSE of a VF that has held its core long enough and not, or is fatal; one ready to move, and not. -/
theorem wit_pause : let s (h : Nat) : State := placed (accepted 0xF) { vf := some 0, held := h }
    (∀ h ∈ [41999, 42000], (s h).coreSet 0 = [0] ∧ ((s h).core 0).vf = some 0 ∧ ((s h).core 0).switchTo = none ∧ ((s h).core 0).held = h) ∧
    (let p := placed (ending 0xF) { vf := none }; p.coreSet 0 = [0] ∧ (p.core 0).vf ≠ some 0 ∧ (p.core 0).switchTo ≠ some (some 0) ∧
      p.pauseReady 0 = true ∧ ({ p with xfers := [{ kind := 0, unit := 0, idx := 0, vf := 0 }] } : State).pauseReady 0 = false ∧
      (p.cmdq 0).bind (fun q => (q.live.find? (·.seq = 1)).map fun p => (pkOp p.words, q.host)) = some (0xF, true)) := by decide +kernel
/-- R254: the VF has moved and its image stands at the address. -/
theorem test_pause : let t := run (.packetComplete 0 1) (placed (ending 0xF) { vf := none, vfs := [(1, { slots := [(2, { pc := 8 })] })] })
    (t.vfRec 0).map (·.moved) = some true ∧ (FMap.find? t.images 0).map (fun y => y.cores.map fun k => (FMap.getD k.slots 2 {}).pc) = some [8] := by
  decide +kernel
/-- An image of a VF with one core, which selects an event that is not listed. -/
def moving : Image := { vf := Vf.zero, units := [], mem := [], poison := [], cores := [{ slots := [(2, { mode := .ready, pc := 8 })], pmsel := .replicate 8 0xFF, pmc := .replicate 8 9 }]
                        sp := [], spPoison := [], clusters := [], inbox := [[]], queues := [], cids := [], toggles := [], counts := [], badParity := []
                        tokens := [], pops := [], held := [] }
/-- PacketsHaveTheirEffect: RESUME of an image, the device holding the VF's record; the image may be imported, or its queue's index is
another's. -/
theorem wit_resume : let s : State := { placed (accepted 0x10) { vf := none } with images := [(0, moving)] }
    FMap.find? s.images 0 = some moving ∧ (s.vfRec 0).isSome = true ∧ (s.coreSet 0).Nodup ∧ moving.cores.length = (s.coreSet 0).length ∧
    moving.inbox.length = moving.cores.length ∧ (s.coreSet 0)[0]? = some 0 ∧ eventListed 0xFF = false ∧ importable s 0 moving = true ∧
    importable { s with slices := [(5, { queues := [(3, qu false [])] })] } 0 { moving with queues := [(83, qu false [] [] 0)] } = false ∧
    importable { s with slices := [(5, { queues := [(3, qu false [])] })] } 0 { moving with queues := [(84, qu false [] [] 0)] } = true := by
  refine ⟨rfl, ?_⟩; decide +kernel
/-- R177: an image whose queue's index another has taken since the packet was accepted is not taken, and that queue stands. -/
theorem test_resumeTaken : let s : State := { placed (accepted 0x10) { vf := none } with
      images := [(0, { moving with queues := [(83, qu false [] [] 0)] })], slices := [(5, { queues := [(3, qu false [qrec 1 1 1])] })] }
    run (.resume 0) s = s := by decide +kernel
/-- R254, R256: the slot is there again; a selection of an event that is not listed counts no more. -/
theorem test_resume : let t := run (.resume 0) { placed (accepted 0x10) { vf := none } with images := [(0, moving)] }
    let k : CoreVf := FMap.getD (t.core 0).vfs 1 {}
    (t.slotV 0 1 2).pc = 8 ∧ k.pmUnsup.getLsbD 7 = true ∧ k.pmc.getD 7 1 = 0 ∧ t.images.length = 0 := by decide +kernel
/-- PacketsHaveTheirEffect: one queue with a packet under way, of which no record survives, or one without RESTART. -/
theorem wit_recover : let s := ending 0xC; let r : StackRec := { queue := 0, seq := 1, digest := 0, restart := false, fin := none }
    s.queues.length = 1 ∧ (s.cmdq 0).map (fun q => (q.head, q.live.map (·.seq))) = some (none, [1]) ∧
    (∀ q ∈ s.cmdq 0, s.stackOf 0 q 1 = none ∧ ({ s with stackA := some [r] } : State).stackOf 0 { q with accept := 1 } 1 = some r) := by
  decide +kernel
/-- R275: such a packet is reported aborted; a LAUNCH with RESTART and its record starts again. -/
theorem test_recover : le8 (run .ochreMismatch (ending 0xC)).mem (2 ^ 65 + 0x2000) = 0x0C0200000001 ∧
    ((run .ochreMismatch (ending 0xC)).cmdq 0).map (·.state) = some 3 := by decide +kernel
/-- R273: the completion record of a PCAP in the ring. -/
theorem test_end : let t := run (.packetComplete 0 1) (ending 0xC)
    le8 t.mem (2 ^ 65 + 0x2000) = 0x0C0000000001 ∧ (t.cmdq 0).map (·.chead) = some 1 := by decide +kernel
/-- A request for the word at 0x3000 of VF 0 waits at its slice's input. -/
def stalledAt : State := { tables State.reset 0x1F with
  slices := [(96, { stalled := [9] })]
  reqs := [(9, { kind := .fill 0, core := 0, slot := 0, vf := 0, key := 154618822656, size := 32, slice := some 24672, cached := true
                 waiting := true, tag := 0 })] }
/-- TheDeviceAnswersOutside: a peer's operation of VF 0, granted by its tables; VF 0 moved and paused. -/
theorem wit_peer : State.reset.vfRec (0x3000 / 2 ^ 64) = some Vf.zero ∧ Vf.zero.moved = false ∧ Vf.zero.paused = false ∧
    (∀ v ∈ [{ Vf.zero with moved := true }, { Vf.zero with paused := true }],
      ({ State.reset with vfs := [(0, v)] } : State).vfRec (0x3000 / 2 ^ 64) = some v) ∧
    (0 : Nat) % 16 = 0 ∧ 1 % 16 = 1 ∧ 50 % 16 = 2 ∧ 50 / 16 % 4 = 3 ∧
    (∀ op ∈ [0x30, 0x31, 0x32], (tables State.reset 0x1F).peerPlace (peerOpOf 0 op 0x3000 7) = some (154618822656, true, 24672)) ∧
    QuietSlices (tables State.reset 0x1F) ∧ Clean (tables State.reset 0x1F) 154618822656 8 :=
  ⟨by decide +kernel, rfl, rfl, by decide +kernel, rfl, rfl, rfl, rfl, by decide +kernel, fun _ => ⟨rfl, rfl, rfl⟩, fun _ _ _ => ⟨rfl, rfl⟩⟩
/-- TheDeviceAnswersOutside: a request that waits at the input of the slice of that word. -/
theorem wit_peerBehind : stalledAt.peerPlace (peerOpOf 0 0x30 0x3000 7) = some (154618822656, true, 24672) ∧
    9 ∈ (stalledAt.slice (24672 / 256)).stalled ∧
    (FMap.find? stalledAt.reqs 9).map (fun r => (r.key, r.due)) = some (154618822656, none) := by decide +kernel
/-- R152, R149: a peer's read answers the word at home, and none while an earlier request waits at the slice for it. -/
theorem test_peer : (run (.peerRequest 3 0x30 0x3000 0) (withBytes (tables State.reset 0x1F) 154618822656 (leBytes 8 77))).reports =
      [.peerReply 3 77] ∧ (run (.peerRequest 3 0x30 0x3000 0) stalledAt).reports = [] := by decide +kernel
/-- TheDeviceAnswersOutside: a window. -/
theorem wit_window : FMap.find? ({ State.reset with windows := [(3, ⟨0x10000000001, 0, 0⟩)] } : State).windows 3 = some ⟨0x10000000001, 0, 0⟩ := by decide
/-- TheDeviceAnswersOutside: fused maps that R16 allows, to the sixteenth core, and that it does not. -/
theorem wit_boot : (∀ k ∈ List.range 8, max (0 : Nat) 7 = 7 ∧ ¬ 7 < max (0 : Nat) k) ∧ 7 < max (0 : Nat) 8 ∧ (let f (l : List Nat) : List Nat := (List.range 1024).filter (l.contains ·)
    (f []).length ≤ 16 ∧ (f (List.range' 1 16)).length ≤ 16 ∧ 0 ∉ List.range' 1 16 ∧ 16 < (f (List.range' 1 17)).length ∧ 0 ∈ [0] ∧
    (∀ e ∈ State.reset.queues, e.1 = 0) ∧ (65535 : Nat) < 2 ^ 16) := by decide +kernel
/-- R278: a boot with a part whose core 5 is fused reports 1,023 cores. -/
theorem test_boot : let t (sv mv : Nat) (ok : Bool) (k : Nat) := run (.powerOnReset [5] sv ⟨mv, ok, k, 0, [], []⟩) State.reset
    (t 7 7 true 0).fused = [5] ∧ (t 7 8 true 0).reports = [.bootFailed 2] ∧ (t 7 7 false 3).reports = [.bootFailed 2] ∧
    (t 7 7 true 6).reports = [.bootFailed 6] ∧ (t 7 7 true 6).on = false ∧
    (match (t 7 7 true 0).reports with
      | [.device ws] => ws.getD 0 0
      | _ => 0) = 0x7010003FF := by decide +kernel
/-- TheDeviceAnswersOutside: ports that step 5 trains, once and again, ports it does not, and a peer of another major version. -/
theorem wit_training : let far := [(15, 3, 3, 2 ^ 48), (0, 1, 2, 8)]
    far = [] ++ (15, 3, 3, 2 ^ 48) :: [(0, 1, 2, 8)] ∧ (∀ x ∈ [((0 : Nat), (1 : Nat), (2 : Nat), (8 : Nat))], x.1 ≠ 15) ∧ (∀ x ∈ far, x.1 ≠ 7) ∧
    (let links := [(23, 1, 4), (2, 2, 0), (23, 1, 0)]; links = [(23, 1, 4), (2, 2, 0)] ++ (23, 1, 0) :: [] ∧ links = [(23, 1, 4)] ++ (2, 2, 0) :: [(23, 1, 0)] ∧
      (∀ x ∈ [((23 : Nat), (1 : Nat), (0 : Nat))], x.1 ≠ 2) ∧ (∀ x ∈ links, x.1 ≠ 0)) := by decide
/-- R278 step 5, R279, R280: a boot reports the ports as they train; one whose peer has another major version is down. -/
theorem test_training : let t := run (.powerOnReset [] 7 ⟨7, true, 0, 0, [(15, 3, 2, 9)], [(23, 1, 4), (2, 2, 0)]⟩) State.reset
    (match t.reports with
      | [.portDown n, .device ws] => (n, [33, 32, 57, 36, 35].map (ws.getD · 0))
      | _ => (0, [])) = (2, [0x90023, 0, 0x111, 0x300, 0]) := by decide +kernel
/-- TheDeviceAnswersOutside: ports, temperatures, a slot that is HALTED. -/
theorem wit_outside : (∀ x ∈ [({ st := 1, maj := 1, min := 1, retries := 0 } : UPort), { st := 2, maj := 1, min := 1, retries := 0 }],
      FMap.find? ({ State.reset with uports := [(23, x)] } : State).uports 23 = some x) ∧
    FMap.find? ({ State.reset with temps := [(3, 110), (4, 99)] } : State).temps 3 = some 110 ∧
    FMap.find? ({ State.reset with temps := [(3, 110), (4, 99)] } : State).temps 4 = some 99 ∧ State.reset.hotDie = false ∧
    ((one { mode := .halted }).slot 0 0).mode = .halted ∧ ((one {}).slot 0 0).mode ≠ .halted := by decide +kernel
/-- R281: a die at 110 degrees trips, at 109 it does not. -/
theorem test_trip : (run (.thermalTrip 3) { State.reset with temps := [(3, 110)] }).on = false ∧
    (run (.thermalTrip 3) { State.reset with temps := [(3, 109)] }).on = true := by decide +kernel
/-- TheDeviceAnswersOutside: a word that no slice holds and one that one does; a queue's record; a good toggle. -/
theorem wit_soft : let s : State := { State.reset with slices := [(0, { sets := [(0, [{ line := pageKey / 128, way := 0, vf := 0, dirty := false, pins := 0, used := 0, sectors := 1 }])] })] }
    State.isSp (8 * (pageKey / 8)) = false ∧ State.reset.holdsLine (pageKey / 8 / 16) = false ∧ s.holdsLine (pageKey / 8 / 16) = true ∧ s.holdsWord (pageKey / 8) = true ∧
    (∀ k ∈ s.slices, ∀ e ∈ k.2.sets, ∀ l ∈ e.2, l.line = pageKey / 8 / 16 → l.sectors.getLsbD (pageKey / 8 % 16 / 4) = true) ∧
    (arriving (qop 1) (some (qu true [qrec 4 1 2]))).queue? 83 = some (qu true [qrec 4 1 2]) ∧ (qu true [qrec 4 1 2]).recs[0]? = some (qrec 4 1 2) ∧
    2 * 7 ∉ State.reset.badParity ∧ 2 * 7 + 1 ∉ State.reset.badParity ∧ 2 ^ 16 ≤ 2 ^ 16 + (0 : Nat) := by decide +kernel
/-- R154, R134: an element of a tile is poisoned and no other; a bit of a count flips and its parity is bad. -/
theorem test_soft : let t := run (.softError 4 3 (2 ^ 14 + 5) (2 ^ 16)) State.reset
    let p (m : Nat) : Bool := (FMap.getD (FMap.getD (t.cluster 3).ac 1 {}).elems m { val := 0, cnt := 0, poison := false }).poison
    let u := run (.softError 9 1 70 3) State.reset
    p 5 = true ∧ p 6 = false ∧ FMap.getD u.counts 70 0 = 8 ∧ u.badParity = [141] := by decide +kernel
/-- R259: two registers that match are both reported, and the STOPALL of the second counts; the bundle issues once the slot is resumed. -/
theorem test_dbm : let s : State := { one { mode := .ready, pop := some 4 } with
      parts := [(0, { Part.zero with dbm := [(0, 0, 0x7000000000000), (1, 0, 0xF000000000000)] })] }
    let t := (s.updCvf 0 fun k => { k with slots := k.slots ++ [(1, { mode := .ready, pop := some 4 })] }).turnOf 0 0
    t.reports = [.dbm 0 0 0, .dbm 0 0 1] ∧ (t.slot 0 0).mode = .halted ∧ (t.slot 0 1).stop = true ∧
    ((run (.debugResume 0 0) t).turnOf 0 0).issuing = some (0, 0) := by decide +kernel
/-- BalancersRoute: tokens and antitokens at the balancer of positions 2 and 3. -/
theorem wit_balancer : (∀ k ∈ [tok .inc 0 2, tok .bar 0 2, tok (.sprd []) 0 2, tok .dec 0 3, tok (.can 1) 0 3], let s := counting (cide (ent 0 1 2)) k .park
      FMap.find? s.tokens 3 = some k ∧ k.out = none ∧ k.arrived = false ∧ s.balOf k = some ⟨0, 2, 3⟩ ∧
      2 * State.togKey k.cid ⟨0, 2, 3⟩ ∉ s.badParity) := by decide +kernel
/-- R127's example: the first token leaves on top, the second on bottom; an antitoken after one token leaves on top. -/
theorem test_balancer : let s := counting (cide (ent 0 1 2)) (tok .inc 0 2) .park
    let p (t : State) : List (Nat × Nat) := t.tokens.map fun e => (e.2.layer, e.2.pos)
    let t := run (.balancerToken 3) s
    p t = [(1, 2)] ∧ p (run (.balancerToken 3) { t with tokens := s.tokens }) = [(1, 3)] ∧
    p (run (.balancerAntitoken 3) { t with tokens := [(3, tok .dec 0 3)] }) = [(1, 2)] := by decide +kernel
/-- BalancersRoute: the earliest write of a CID with another of its slot's after it, nothing in flight. -/
theorem wit_cleared : let s := cfging [cfgw, { cfgw with by_ := .packet 3 4 }] []
    s.cfgs.find? (fun d => decide (d.cid = cfgw.cid)) = some { cid := 7, by_ := .slot 0 (s.vk 0) 0, e0 := 1, e1 := 0 } ∧
    (∀ d ∈ s.cfgs, d ≠ cfgw → d.by_ ≠ .slot 0 1 0) ∧ (∀ k ∈ s.tokens, k.2.cid ≠ cfgw.cid) := by decide +kernel
/-- StatReadsTheQueue: Q.STAT of no queue and of a queue with 64 records and a waiter. -/
theorem wit_stat : let k := qu false (List.replicate 64 (qrec 0 1 1)) [(0, 1, 0)]
    (arriving (qop 5) none).queue? (qop 5).qid = none ∧ (arriving (qop 5) (some k)).queue? (qop 5).qid = some k ∧ (k.ownVf = 0x1FF ∨ k.ownVf = 0) ∧
    k.nw ≤ 8 ∧ k.waiters.length ≤ 255 ∧ 64 ≤ k.cap ∧ k.cap ≤ 512 ∧ k.recs.length ≤ k.cap ∧ (qop 5).form = 5 := by decide +kernel
/-- SetliveWritesLive: a word of its major with d = 1 is fetched by a slot with a handler. -/
theorem wit_setlive : let s : State := State.placeWord { mk (kx { mode := .ready }) with issuing := some (0, 0) } 0xAA040000
    s.issuing = some (0, 0) ∧ ∃ u, ({ s with issuing := none, cur := { core := 0, slot := 0 } } : State).fetchWord 0 (s.slot 0 0).pc =
      .word (0xAA000000 + (1 : BitVec 6).toNat * 2 ^ 18 + (0 : BitVec 6).toNat * 2 ^ 12 + (0 : BitVec 6).toNat * 2 ^ 6 + (0 : BitVec 6).toNat) u :=
  ⟨by decide +kernel, fetched (by decide +kernel)⟩
/-- R53: SETLIVE. -/
theorem test_setlive : (run (.setlive 9) (rs [(9, 0xF0)])).me.live = 0xF0 := by decide +kernel
/-- DeviceRecordSaysThePart: a part with one fused core and ports trained. -/
theorem wit_record : let s : State := { State.reset with fused := [5], secver := 65535, fuseMin := 65535, farPorts := [(15, { rate := 3, width := 2, cap := 2 ^ 48 - 1, pid := none })]
                                                         uports := [(23, { st := 3, maj := 0, min := 0, retries := 0 })] }
    s.fused = (List.range 1024).filter (s.fused.contains ·) ∧ 0 ∉ s.fused ∧ s.secver < 2 ^ 16 ∧ s.fuseMin ≤ s.secver ∧
    (∀ e ∈ s.uports, e.2.st ≤ 3 ∧ (e.2.st = 0 ∨ e.2.st = 3 → e.2.maj = 0 ∧ e.2.min = 0)) ∧ (FMap.find? s.farPorts 15).isSome = true ∧
    (FMap.find? s.uports 23).isSome = true ∧ FMap.find? s.uports 0 = none := by decide +kernel

end Sys2Proof.Tests
end

section
/-! Writes of special registers (R28, R29, R43, R103, R105, R250, R253, R332, R333): what each SWR does to the executing slot or to
its core, register by register, and the settlement of O33. -/

namespace Sys2Proof.Machine

/-! ### From the next state of an instruction to what it answers -/

/-- An instruction that changes the executing slot alone. -/
theorem answers_becomes_of_updMe {i : Instr} {s : State} {f : Slot → Slot} {x : Slot} (h : exec i s = .next (s.updMe f))
    (hx : f s.me = x) : Answers i s fun t => Becomes s t x :=
  ⟨_, h, hx ▸ becomes_updMe s f⟩

/-- An instruction that changes what the executing core holds for its running VF alone. -/
theorem answers_onlyCvf_of_updCvf {i : Instr} {s : State} {f : CoreVf → CoreVf} {P : CoreVf → Prop}
    (h : exec i s = .next (s.updCvf s.cur.core f)) (hP : P (f (s.cvf s.cur.core))) :
    Answers i s fun t => OnlyCvf s.cur.core s t ∧ P (t.cvf s.cur.core) :=
  ⟨_, h, onlyCvf_updCvf s _ f, by rwa [cvf_updCvf]⟩

/-! ### Bits and fields -/

/-- Masking the two low bits off is shifting them out and back. -/
theorem and_not_three_eq_shifts (v : Word) : v &&& ~~~3#64 = v >>> 2 <<< 2 := by
  rw [BitVec.shiftLeft_ushiftRight]
  rfl

/-- The bits of a register of 8 after one of them was set to a value. -/
theorem getLsbD_setBit8 (p : BitVec 8) (n : Nat) (v : Bool) {m : Nat} (hm : m < 8) :
    (setBit8 p n v).getLsbD m = if m = n then v else p.getLsbD m := by
  by_cases hn : m = n
  · subst hn
    cases v <;> simp [setBit8, hm]
  · rw [if_neg hn]
    cases v <;> simp [setBit8, hm] <;> omega

/-- A field of a word, by division and by its bits. -/
theorem toNat_div_mod_eq_extractLsb' (v : Word) (start len : Nat) :
    v.toNat / 2 ^ start % 2 ^ len = (v.extractLsb' start len).toNat := by
  rw [BitVec.extractLsb'_toNat, Nat.shiftRight_eq_div_pow]

/-- SMODE has two bits, and the upper one makes it 2 or more. -/
theorem fmtdSmode_lt_two_iff (v : Word) : fmtdSmode v < 2 ↔ v.getLsbD 13 = false := by
  rw [fmtdSmode, BitVec.getLsbD, Nat.testBit_eq_decide_div_mod_eq, decide_eq_false_iff_not]
  omega

/-- The values %FMTD takes (R105), field by field. -/
theorem fmtdBad_eq_false_iff (v : Word) : fmtdBad v = false ↔
    v.extractLsb' 14 2 ≠ 3 ∧ v.getLsbD 13 = false ∧ v.extractLsb' 0 4 ≠ 15 ∧ v.extractLsb' 4 4 ≠ 15 ∧
      v.extractLsb' 8 4 ≠ 15 := by
  have hrnd : fmtdRnd v = 3 ↔ v.extractLsb' 14 2 = 3 := by
    rw [fmtdRnd, show 4 = 2 ^ 2 from rfl, toNat_div_mod_eq_extractLsb', ← BitVec.toNat_inj]
    rfl
  rw [← fmtdSmode_lt_two_iff, ne_eq, ← hrnd]
  change _ ↔ _ ∧ _ ∧ fmtdAF v ≠ 15 ∧ fmtdBF v ≠ 15 ∧ fmtdOF v ≠ 15
  simp only [fmtdBad, Bool.or_eq_false_iff, decide_eq_false_iff_not, not_le, and_assoc, ne_eq]

/-- The number of an event of %PMSELn with its reserved bits masked off. -/
theorem toNat_and_mask_mod (v : Word) : (v &&& 0x1FFF).toNat % 256 = (v.extractLsb' 0 8).toNat := by
  have hmask : (v &&& 0x1FFF).toNat = v.toNat % 2 ^ 13 := Nat.and_two_pow_sub_one_eq_mod v.toNat 13
  rw [hmask, ← toNat_div_mod_eq_extractLsb']
  omega

/-! ### Registers without a row of their own (R332, R333) -/

/-- The listed registers that are read-only (R6, R28). -/
def readOnlySelectors : List (BitVec 12) :=
  [0x000, 0x001, 0x002, 0x003, 0x004, 0x005, 0x006, 0x007, 0x010, 0x022, 0x023, 0x03A, 0x03B]

/-- A read-only register ignores the write (R6). -/
theorem exec_swr_of_readOnly (s : State) (a : BitVec 6) {y : BitVec 12} (hy : y ∈ readOnlySelectors) :
    exec (.swr a y) s = .next s := by
  unfold readOnlySelectors at hy
  fin_cases hy <;> rfl

/-- A selector of 0x800 or above is a register of the core (assumption log entry 52). -/
theorem exec_swr_of_firmware (s : State) (a : BitVec 6) {y : BitVec 12} (hy : 0x800 ≤ y.toNat) :
    exec (.swr a y) s =
      .next (s.updCore s.cur.core fun k => { k with fwRegs := FMap.insert k.fwRegs y.toNat (s.rg a) }) := by
  change execSwr a y s = _
  unfold execSwr
  split
  case h_11 => simp only [if_pos hy]
  all_goals omega

/-- A write of a register of the core changes that register alone. -/
theorem answers_swr_firmware (s : State) (a : BitVec 6) {y : BitVec 12} (hy : 0x800 ≤ y.toNat) :
    Answers (.swr a y) s fun t => OnlyCore s.cur.core s t ∧ ∀ m, FMap.getD (t.core s.cur.core).fwRegs m 0 =
      if m = y.toNat then s.rg a else FMap.getD (s.core s.cur.core).fwRegs m 0 := by
  refine ⟨_, exec_swr_of_firmware s a hy, onlyCore_updCore s _ _, fun m => ?_⟩
  rw [State.core_updCore]
  split
  next hm => rw [hm, FMap.getD_insert_self]
  next hm => exact FMap.getD_insert_ne _ _ _ hm

/-! ### Format and generator registers (R103, R105, R332, R333) -/

/-- A legal value of %FMTD. -/
theorem exec_fmtdWrite_of_legal {s : State} {a : BitVec 6} (h : fmtdBad (s.rg a) = false) :
    exec (.fmtdWrite a) s = .next (s.updMe fun x => { x with fmtd := s.rg a &&& 0x3FFFF }) := by
  change execFmtdWrite a s = _
  simp [execFmtdWrite, h]

/-- A value %FMTD refuses. -/
theorem exec_fmtdWrite_of_bad {s : State} {a : BitVec 6} (h : fmtdBad (s.rg a) = true) :
    exec (.fmtdWrite a) s = .next (s.raise 0x11 0) := by
  change execFmtdWrite a s = _
  simp [execFmtdWrite, h]

/-- With an empty vector queue no conversion has still to draw (R100). -/
theorem drawsPending_of_noDraws {s : State} (h : Claims.NoDraws s) : s.drawsPending = false := by
  unfold State.drawsPending Slot.drawing
  split
  next cl hcl => rw [h cl hcl]; rfl
  next => rfl

/-- %RSEEDn written by a lone word, with no draw pending. -/
theorem exec_rseedWrite_of_lone {s : State} (n : BitVec 2) (a : BitVec 6) (hp : s.cur.pair = false)
    (hd : Claims.NoDraws s) : exec (.rseedWrite n a) s =
      .next (s.updMe fun x => { x with rseed := x.rseed.set n.toNat ((s.rg a).setWidth 32) }) := by
  change execRseedWrite n a s = _
  simp [execRseedWrite, State.afterDraws, hp, drawsPending_of_noDraws hd]

/-- %RSEEDn written by a word of a pair. -/
theorem exec_rseedWrite_of_pair {s : State} (n : BitVec 2) (a : BitVec 6) (hp : s.cur.pair = true) :
    exec (.rseedWrite n a) s = .next s.illegal := by
  change execRseedWrite n a s = _
  simp [execRseedWrite, hp]

/-- A lone write of %RSEEDn changes that word of the generator alone. -/
theorem answers_rseedWrite {s : State} (n : BitVec 2) (a : BitVec 6) (hp : s.cur.pair = false) (hd : Claims.NoDraws s) :
    Answers (.rseedWrite n a) s fun t => Becomes s t { s.me with rseed := t.me.rseed } ∧
      ∀ m : Fin 4, t.me.rseed[m] = if m.val = n.toNat then (s.rg a).setWidth 32 else s.me.rseed[m] := by
  refine ⟨_, exec_rseedWrite_of_lone n a hp hd, ?_, fun m => ?_⟩
  · rw [State.me_updMe]
    exact becomes_updMe s _
  · simp [Vector.getElem_set, eq_comm]

/-! ### The deque's ring (R43) -/

/-- A ring that %DQBASE takes: the core holds none with a record, and it ends within the scratchpad. -/
theorem exec_dqbaseWrite_of_room {s : State} {a : BitVec 6}
    (hroom : 64 * (((s.rg a).extractLsb' 6 12).toNat + ((s.rg a).extractLsb' 18 12).toNat) ≤ 262144)
    (hempty : (s.cvf s.cur.core).ringCount = 0) : exec (.dqbaseWrite a) s =
      .next (s.updCvf s.cur.core fun x => { x with dqbase := s.rg a &&& 0x3FFFFFC0, ringHead := 0 }) := by
  change execDqbaseWrite a s = _
  simp only [execDqbaseWrite, toNat_div_mod_eq_extractLsb', Config.spBytes]
  rw [if_neg (by omega)]

/-- A ring that %DQBASE refuses. -/
theorem exec_dqbaseWrite_of_refused {s : State} {a : BitVec 6}
    (h : ¬ 64 * (((s.rg a).extractLsb' 6 12).toNat + ((s.rg a).extractLsb' 18 12).toNat) ≤ 262144 ∨
      (s.cvf s.cur.core).ringCount ≠ 0) : exec (.dqbaseWrite a) s = .next (s.raise 0x13 4) := by
  change execDqbaseWrite a s = _
  simp only [execDqbaseWrite, toNat_div_mod_eq_extractLsb', Config.spBytes]
  rw [if_pos (by omega)]

/-! ### Performance counters (R250, R253) -/

/-- A write of %PMCn (R250). -/
theorem exec_pmcWrite (s : State) (n : BitVec 3) (a : BitVec 6) : exec (.pmcWrite n a) s =
    .next (s.updCvf s.cur.core fun x =>
      if x.pmUnsup.getLsbD n.toNat then x else { x with pmc := x.pmc.set n.toNat ((s.rg a).setWidth 48) }) := rfl

/-- A counter takes a value unless its event is unsupported; the other counters stand. -/
theorem pmc_set_unless_unsup (k : CoreVf) (n : BitVec 3) (w : BitVec 48) :
    let x := if k.pmUnsup.getLsbD n.toNat then k else { k with pmc := k.pmc.set n.toNat w }
    x = { k with pmc := x.pmc } ∧ ∀ m : Fin 8,
      x.pmc[m] = if m.val = n.toNat ∧ k.pmUnsup.getLsbD n.toNat = false then w else k.pmc[m] := by
  cases hu : k.pmUnsup.getLsbD n.toNat with
  | true => simp
  | false => simp [Vector.getElem_set, eq_comm]

/-- The events %PMSELn takes without setting UNSUP: those of the table, and 0, which counts nothing (assumption log entry 26). -/
def eventTaken (e : Nat) : Bool :=
  [0, 0x01, 0x02, 0x03, 0x04, 0x05, 0x10, 0x11, 0x12, 0x20, 0x21, 0x30, 0x31, 0x40, 0x41, 0x50].contains e

theorem eventTaken_iff (e : Nat) : eventTaken e = true ↔ e = 0 ∨ eventListed e = true := by
  rw [eventTaken, List.contains_cons, Bool.or_eq_true, beq_iff_eq]
  exact Iff.rfl

/-- What a write of %PMSELn leaves: the event is the register's, and an event that is not taken clears the counter. -/
def pmselWritten (n : BitVec 3) (v : Word) (taken : Bool) (k : CoreVf) : CoreVf :=
  { k with pmsel := k.pmsel.set n.toNat v, pmUnsup := setBit8 k.pmUnsup n.toNat !taken
           pmc := if taken then k.pmc else k.pmc.set n.toNat 0 }

/-- A write of %PMSELn (R250). -/
theorem exec_pmselWrite (s : State) (n : BitVec 3) (a : BitVec 6) : exec (.pmselWrite n a) s =
    .next (s.updCvf s.cur.core
      (pmselWritten n (s.rg a &&& 0x1FFF) (eventTaken ((s.rg a).extractLsb' 0 8).toNat))) := by
  change execPmselWrite n a s = _
  simp only [execPmselWrite, toNat_and_mask_mod, ← eventTaken_iff]
  congr 2
  funext x
  cases h : eventTaken ((s.rg a).extractLsb' 0 8).toNat with
  | true => rw [if_pos rfl]; rfl
  | false => rw [if_neg (by simp)]; rfl

/-- The fields of a written event selection, counter by counter. -/
theorem pmselWritten_fields (n : BitVec 3) (v : Word) (taken : Bool) (k : CoreVf) :
    let x := pmselWritten n v taken k
    x = { k with pmsel := x.pmsel, pmUnsup := x.pmUnsup, pmc := x.pmc } ∧
      ∀ m : Fin 8, x.pmsel[m] = (if m.val = n.toNat then v else k.pmsel[m]) ∧
        x.pmUnsup.getLsbD m.val = (if m.val = n.toNat then !taken else k.pmUnsup.getLsbD m.val) ∧
        x.pmc[m] = if m.val = n.toNat ∧ taken = false then 0 else k.pmc[m] := by
  refine ⟨rfl, fun m => ⟨?_, getLsbD_setBit8 _ _ _ m.isLt, ?_⟩⟩
  · simp [pmselWritten, Vector.getElem_set, eq_comm]
  · cases taken with
    | true => simp [pmselWritten]
    | false => simp [pmselWritten, Vector.getElem_set, eq_comm]

/-- A write of %PMOVF (R253). -/
theorem exec_pmovfWrite (s : State) (a : BitVec 6) : exec (.pmovfWrite a) s =
    .next (s.updCvf s.cur.core fun x => { x with pmOvf := x.pmOvf &&& ~~~((s.rg a).setWidth 8) }) := rfl

/-- Writing 1 clears an overflow bit and writing 0 leaves it (R6). -/
theorem pmOvf_and_not (k : CoreVf) (v : Word) :
    let x := { k with pmOvf := k.pmOvf &&& ~~~(v.setWidth 8) }
    x = { k with pmOvf := x.pmOvf } ∧
      ∀ m : Fin 8, x.pmOvf.getLsbD m.val = (k.pmOvf.getLsbD m.val && !v.getLsbD m.val) :=
  ⟨rfl, fun m => by simp⟩

/-! ### The statement -/

/-- SWR of the registers without a rule of their own: the masks, and the frame of one update of the slot or of the core. -/
theorem specialRegisterWrites : Claims.SpecialRegisterWrites := by
  intro s a v c slot core
  have hslot {i : Instr} {f : Slot → Slot} {x : Slot} (h : exec i s = .next (s.updMe f)) (hx : f s.me = x) :
      slot i x := answers_becomes_of_updMe h hx
  have hcore {i : Instr} {f : CoreVf → CoreVf} {k : CoreVf} (h : exec i s = .next (s.updCvf c f))
      (hk : f (s.cvf c) = k) : core i k := answers_onlyCvf_of_updCvf (P := (· = k)) h hk
  refine ⟨?readOnly, ?tvec, ?tpc, ?tstat, ?tscr, ?scale, ?frm, ?fflags, ?amode, ?live, ?pmTgt, ?tcmp, ?firmware⟩
  case readOnly => exact fun y hy => ⟨s, exec_swr_of_readOnly s a hy, rfl⟩
  case tvec => exact hcore rfl (by rw [and_not_three_eq_shifts])
  case tstat => exact hslot rfl (by rw [BitVec.or_comm])
  case pmTgt => exact hcore rfl rfl
  case firmware => exact fun y hy => answers_swr_firmware s a hy
  case tpc | tscr | scale | frm | fflags | amode | live | tcmp => exact hslot rfl rfl

/-- SWR of the registers with a rule of their own: what each takes and what it refuses. -/
theorem guardedRegisterWrites : Claims.GuardedRegisterWrites := by
  intro s a v c k core fmtdOk room
  have hcore {i : Instr} {f : CoreVf → CoreVf} {P : CoreVf → Prop} (h : exec i s = .next (s.updCvf c f))
      (hP : P (f k)) : core i P := answers_onlyCvf_of_updCvf h hP
  -- Opaque from here on, so that `hcore` finds the `P` of each clause.
  clear_value core
  have hfmtd : fmtdBad v = false ↔ fmtdOk := fmtdBad_eq_false_iff v
  refine ⟨fun h => ?fmtd, fun h => ?fmtdTrap, fun hr hk => ?dqbase, fun h => ?dqbaseTrap, fun n hp hd => ?rseed,
    fun n hp => ?rseedTrap, fun n => ?pmc, fun n => ?pmsel, ?pmctl, ?pmovf⟩
  case fmtd => exact answers_becomes_of_updMe (exec_fmtdWrite_of_legal (hfmtd.2 h)) rfl
  case fmtdTrap => exact traps_of_raise (exec_fmtdWrite_of_bad (Bool.eq_true_of_not_eq_false (mt hfmtd.1 h)))
  case dqbase => exact hcore (exec_dqbaseWrite_of_room hr hk) rfl
  case dqbaseTrap => exact traps_of_raise (exec_dqbaseWrite_of_refused h)
  case rseed => exact answers_rseedWrite n a hp hd
  case rseedTrap => exact traps_of_raise (exec_rseedWrite_of_pair n a hp)
  case pmc => exact hcore (exec_pmcWrite s n a) (pmc_set_unless_unsup k n _)
  case pmsel => exact hcore (exec_pmselWrite s n a) (pmselWritten_fields n _ _ k)
  case pmctl => exact hcore rfl rfl
  case pmovf => exact hcore (exec_pmovfWrite s a) (pmOvf_and_not k v)

/-- Settles O33, by the equation of each register's write and the frame of an update of the executing slot or of its core. -/
theorem specialRegistersAreWritten : Obligations.SpecialRegistersAreWritten :=
  ⟨specialRegisterWrites, guardedRegisterWrites⟩

end Sys2Proof.Machine
end

section
/-! Refutations by a concrete machine: a refused open of a command queue (R268, O54) and the end of a PAUSE (R254, O55), where a step at a
slice lets a waiting atomic operation be performed (R152, R153). -/

namespace Sys2Proof.Machine

/-! ### A waiting atomic operation -/

/-- What is answered holds of the one next state. -/
theorem Answers.holds {i : Instr} {s t : State} {P : State → Prop} (h : Answers i s P) (e : exec i s = .next t) : P t := by
  obtain ⟨u, hu, hP⟩ := h
  cases hu.symm.trans e
  exact hP

/-- An AMOADD of 1 to eight bytes at a key, cached at a home. -/
def addOne (key home : Nat) : MemOp :=
  { baseOp 0 8 0 false with kind := .amo .add, key := key, arg := 1, cached := true, slice := some home }

/-- The request of that AMOADD by slot 0 of core 0 for a VF. -/
def addOneReq (key home vf : Nat) : Req :=
  { kind := .mem (addOne key home), core := 0, slot := 0, vf := vf, key := key, size := 8, slice := some home, cached := true
    waiting := true, tag := 1 }

/-! ### A refused open (R267, R268) -/

/-- VF 0's AMOADD of word 5 of a block at physical address 0x4000 waits at home 32,896 for its sector, of which stores have covered every
other byte (R153). The block is blank. -/
def refusalRace : State := { State.reset with
  slices := [(128, {
    sets := [(128, [{ line := 1610612736, way := 0, vf := 0, dirty := true, pins := 0, used := 0, sectors := 0 }])]
    miss := [{ line := 1610612736, pend := [(1, ~~~0xFF00#32)], waiters := [0] }] })]
  reqs := [(0, addOneReq 206158430248 32896 0)], nextReq := 1 }

theorem queueKey_refusalRace : refusalRace.queueKey false 0 (0x4000 + 40) = some 206158430248 := by decide +kernel

/-- A refused open writes REASON and nothing else of the control block (R268). -/
theorem exec_queueOpen_of_refused {s : State} {bell qcb r : Nat}
    (h : openReason s bell (s.readWords (decide (hostSpace ≤ qcb)) bell (qcb % hostSpace) 8) = some r) :
    exec (.queueOpen bell qcb) s = .next (s.writeWords (decide (hostSpace ≤ qcb)) bell (qcb % hostSpace + 40)
      [BitVec.ofNat 64 (((s.readWords (decide (hostSpace ≤ qcb)) bell (qcb % hostSpace) 8).getD 5 0).toNat / 256 * 256 + r)]) := by
  change execQueueOpen bell qcb s = _
  simp only [execQueueOpen, h]

/-- The blank block names no version 1: its open is refused with REASON 2 (R268), which completes the sector, so that the AMOADD that waits
for it is performed on the word of REASON within the step. -/
theorem le8_reason_refusalRace : ∃ t, exec (.queueOpen 0 0x4000) refusalRace = .next t ∧
    Claims.le8 t.mem 206158430248 = 3 :=
  ⟨_, exec_queueOpen_of_refused (r := 2) (by decide +kernel), by decide +kernel⟩

/-- Refutes O54: an open of a control block in HBM that is refused with REASON 2 leaves 3 in the word of REASON (R268), where an AMOADD of
the VF waits for that word's sector, of which stores have covered every other byte (R153). -/
theorem not_commandQueuesWork : ¬ Obligations.CommandQueuesWork := by
  unfold Obligations.CommandQueuesWork
  intro h
  obtain ⟨hrefused, -⟩ := h.1 refusalRace 0 0x4000
  obtain ⟨t, ht, h3⟩ := le8_reason_refusalRace
  obtain ⟨-, -, hwords⟩ := (hrefused (by decide +kernel)).holds ht
  have hreason := hwords 206158430248 queueKey_refusalRace
  rw [h3] at hreason
  exact absurd hreason (by decide +kernel)

/-! ### The end of a PAUSE (R254) -/

/-- PAUSE of VF 0 with its image at address 0, as a packet under way (R254, R270). -/
def pausing : Pkt :=
  { seq := 1, words := [BitVec.ofNat 64 (1 + 0x11 * 2 ^ 32 + 0x0F * 2 ^ 40)] ++ List.replicate 15 0, stage := .dispatched
    broken := false, passed := false }

/-- The management queue, in host memory, with that packet under way. -/
def pauseQueue : CmdQueue :=
  { qcb := 0, host := true, base := 0x1000, cbase := 0x1800, sizelog := 4, vf := 0x1FF, maj := 1, min := 1, state := 1
    accept := 1, tail := 1, chead := 0, head := none, live := [pausing] }

/-- VF 0, which holds core 0 alone (its group is entry 1), is paused. -/
def pausedVf : Vf := { Vf.zero with w0 := 0x0000010100000000, paused := true }

/-- A store of VF 0 that is home and not yet published. -/
def unpublished : PqEntry :=
  { seq := 1, key := 209379655936, bytes := List.replicate 8 1, mark := none, slot := 0, pop := none, vf := 0, va := 0
    cached := true, slice := some 32896 }

/-- VF 0 is paused and nothing of it is under way, but a store of its core 0 waits to be published. Its home slice has four write-backs
outstanding, and behind them VF 1's SYS AMOADD, on core 1, waits for a reserved entry (R152). -/
def pauseRace : State := { State.reset with
  parts := [(0, { Part.zero with groups := [(1, [0]), (2, [1])] })]
  vfs := [(0, pausedVf), (1, { Vf.zero with w0 := 0x0000020100800000 })]
  queues := [(0, pauseQueue)]
  cores := [(0, { vf := none, unpub := [unpublished] }),
    (1, { vf := some 1, vfs := [(2, { slots := [(0, { mode := .parked, cWait := some (.request 0) })] })] })]
  slices := [(128, {
    sets := [(128, [{ line := 1610612736, way := 0, vf := 1, dirty := true, pins := 0, used := 0, sectors := 15 },
      { line := 1635778562, way := 1, vf := 0, dirty := true, pins := 0, used := 0, sectors := 15 }])]
    wb := [1660944388, 1686110214, 1711276040, 1736441866], filter := [1660944388, 1686110214, 1711276040, 1736441866]
    stalled := [0] })]
  reqs := [(0, { addOneReq 206158430208 32896 1 with
    core := 1, kind := .mem { addOne 206158430208 32896 with sys := true }, due := some (206158430208 / 8) })], nextReq := 1 }

/-- The end of a packet of an open queue (R273). -/
theorem exec_packetComplete_of_end {s t : State} {n seq : Nat} {q : CmdQueue} {p : Pkt} {status : Nat} {w1 : Word}
    (hq : s.cmdq n = some q) (hp : q.live.find? (·.seq = seq) = some p)
    (he : (s.urge p).packetEnd n p = some (status, w1, t)) :
    exec (.packetComplete n seq) s = .next (t.endPacket n p status w1) := by
  change execPacketComplete n seq s = _
  simp only [execPacketComplete, hq, hp, he]

/-- The PAUSE ends: the store's flush waits for one of the write-backs to be acknowledged, and so VF 1's AMOADD is performed within the
step. -/
theorem get_mem_pauseRace : ∃ t, exec (.packetComplete 0 1) pauseRace = .next t ∧
    t.mem.get 206158430208 = 1 ∧ pauseRace.mem.get 206158430208 = 0 :=
  ⟨_, exec_packetComplete_of_end (q := pauseQueue) (p := pausing) rfl (by decide +kernel) rfl, by decide +kernel⟩

/-- Refutes O55: the end of a PAUSE changes a byte of the homes outside host memory (R254), where the write-back that its publication of the
VF's stores has waited for (R152) lets another VF's atomic operation be performed. -/
theorem not_packetsHaveTheirEffect : ¬ Obligations.PacketsHaveTheirEffect := by
  unfold Obligations.PacketsHaveTheirEffect
  rintro ⟨-, -, -, hpause, -⟩
  obtain ⟨-, hcomplete⟩ := hpause pauseRace 0 pauseQueue pausing pausedVf (by decide +kernel)
  obtain ⟨-, hready⟩ := hcomplete rfl (by decide +kernel) rfl (by decide +kernel) (by decide +kernel)
  obtain ⟨t, ht, h1, h0⟩ := get_mem_pauseRace
  obtain ⟨-, -, -, hmem, -⟩ := (hready (by decide +kernel)).holds ht
  rw [hmem _ (by decide)] at h1
  exact absurd (h1.symm.trans h0) (by decide)

end Sys2Proof.Machine
end

section
/-! The state after reset (R23, R28). Settles O10. -/

namespace Sys2Proof.Machine

@[simp] theorem part_reset : State.reset.part 0 = some Part.zero := rfl
@[simp] theorem vfRec_reset : State.reset.vfRec 0 = some Vf.zero := rfl
/-- No core is listed after reset: each is the default one (R28). -/
@[simp] theorem core_reset (c : Nat) : State.reset.core c = {} := rfl
@[simp] theorem cvf_reset (c : Nat) : State.reset.cvf c = {} := rfl

/-- Partition 0 owns the whole device (R23). -/
theorem partZero_owns_all : Part.zero.cx0 = 0 ∧ Part.zero.cy0 = 0 ∧ Part.zero.cw = 16 ∧ Part.zero.ch = 8 ∧
    Part.zero.octets = List.range 64 ∧ Part.zero.spanBase = 0 ∧ Part.zero.spanLog = 6 ∧ Part.zero.cidBase = 0 ∧
    Part.zero.cidCount = 4096 := by decide +kernel

/-- VF 0's partition, FAB and roots (R23, R246). -/
theorem vfZero_fields : Vf.zero.w0.toNat / 2 ^ 16 % 16 = 0 ∧ Vf.zero.w0.getLsbD 20 = false ∧ Vf.zero.w1 = 0x10000 ∧
    Vf.zero.w2 = 0x20000 := by decide

/-- Settles O10: reset lists partition 0 and VF 0 and no core, and a core that is not listed has the values of R28. -/
theorem resetLeavesWhatTheManualGives : Obligations.ResetLeavesWhatTheManualGives := by
  unfold Obligations.ResetLeavesWhatTheManualGives
  refine ⟨fun p hp => ?part, rfl, fun v hv => ?vf, rfl, fun c => ?core⟩
  case part =>
    obtain rfl := Option.some.inj (part_reset.symm.trans hp)
    exact partZero_owns_all
  case vf =>
    obtain rfl := Option.some.inj (vfRec_reset.symm.trans hv)
    exact vfZero_fields
  case core => simp

end Sys2Proof.Machine
end

section
/-! Active messages (R26, R50, R51, R292): what injecting one packet changes, and ASEND, ASEND.G and ASEND_INJECT by it. Settles O36. -/

namespace Sys2Proof.Machine

/-! ### What an injection reads and changes -/

/-- A packet in flight changes its population alone. -/
theorem State.flew_eq (s : State) (p : Option Nat) : s.flew p = { s with pops := (s.flew p).pops } := by
  unfold State.flew
  split
  · rfl
  · split <;> rfl

/-- A change of a VF's state on a core that leaves its slots alone leaves each slot alone. -/
theorem State.slot_updCvf_of_slots (s : State) (c n : Nat) {f : CoreVf → CoreVf} (h : ∀ x, (f x).slots = x.slots) :
    (s.updCvf c f).slot c n = s.slot c n := by
  change FMap.getD ((s.updCvf c f).cvf c).slots n {} = FMap.getD (s.cvf c).slots n {}
  rw [cvf_updCvf, h]

/-- The core after a change of one of its slots runs the VF it ran. -/
theorem State.core_vf_updSlot (s : State) (c n : Nat) (f : Slot → Slot) : ((s.updSlot c n f).core c).vf = (s.core c).vf := by
  rw [State.updSlot, State.core_setSlot]
  rfl

/-- The core sets no counter of its running VF with a change of one of its slots. -/
theorem State.taskSeq_updSlot (s : State) (c n : Nat) (f : Slot → Slot) :
    ((s.updSlot c n f).cvf c).taskSeq = (s.cvf c).taskSeq := by
  rw [updSlot_eq, cvf_updCvf]

/-- The entries of a core up to a seq are home where none of them stands in its publication queue (R167). -/
theorem State.forced_core_iff (s : State) (c seq : Nat) : s.forced c seq false = true ↔ ∀ e ∈ (s.core c).pq, seq < e.seq := by
  simp [State.forced]

/-! ### One packet (R50, R51) -/

/-- The packet that an ASEND of a slot sends after `j` others of it: its payload, its sender, and the GTID in sequence (R51, R292). -/
def asendPacket (s : State) (c n : Nat) (pc : Word) (payload : List Word) (j : Nat) : Packet :=
  { pc := pc, payload := payload, g12 := BitVec.ofNat 64 c, g13 := 0, fmtd := (s.slot c n).fmtd, scale := (s.slot c n).scale
    gtid := BitVec.ofNat 48 (c % 2 ^ 16 * 2 ^ 32 + ((s.cvf c).taskSeq + BitVec.ofNat 32 j).toNat)
    vf := s.runVf c, pop := (s.slot c n).pop, sender := some c }

/-- What ASENDs of a slot to some targets have done: their packets stand in the channel in order, the GTIDs are used, and the slot
differs in the members it has served. -/
structure Injected (c n : Nat) (pc : Word) (payload : List Word) (ts : List Nat) (s u : State) : Prop where
  mem : u.mem = s.mem
  cur : u.cur = s.cur
  full : u.chanFull = s.chanFull
  vf : (u.core c).vf = (s.core c).vf
  taskSeq : (u.cvf c).taskSeq = (s.cvf c).taskSeq + BitVec.ofNat 32 ts.length
  slot : u.slot c n = { s.slot c n with served := (s.slot c n).served ++ ts.map fun t => ((s.slot c n).pc, t) }
  chan : u.chan = s.chan ++ ts.zipIdx.map fun e => (e.1, asendPacket s c n pc payload e.2)

/-- No target: nothing has changed. -/
theorem Injected.nil (c n : Nat) (pc : Word) (payload : List Word) (s : State) : Injected c n pc payload [] s s where
  mem := rfl
  cur := rfl
  full := rfl
  vf := rfl
  taskSeq := by simp
  slot := by simp
  chan := by simp

/-- What a slot remembers of a target it has served (R292). -/
def Slot.serve (t : Nat) (x : Slot) : Slot := { x with served := x.served ++ [(x.pc, t)] }

/-- A core has used its next GTID (R51). -/
def CoreVf.nextTask (x : CoreVf) : CoreVf := { x with taskSeq := x.taskSeq + 1 }

/-- The state in which the next GTID of a core is used and a packet stands in the channel (R50, R51). -/
def State.sentOne (s : State) (c : Nat) (q : Nat × Packet) : State :=
  { s.updCvf c CoreVf.nextTask with chan := s.chan ++ [q] }

theorem State.core_vf_updCvf (s : State) (c : Nat) (f : CoreVf → CoreVf) : ((s.updCvf c f).core c).vf = (s.core c).vf := by
  rw [State.updCvf, State.core_updCore]
  rfl

/-- An injection, but for the windows of the population that it restarts (R56). -/
theorem State.inject_eq (s : State) (c n t : Nat) (pc : Word) (payload : List Word) : s.inject c n t pc payload =
    { (s.sentOne c (t, asendPacket s c n pc payload 0)).updSlot c n (Slot.serve t) with
      pops := (s.inject c n t pc payload).pops } := by
  have hgtid : BitVec.ofNat 48 (c % 2 ^ 16 * 2 ^ 32 + ((s.cvf c).taskSeq + BitVec.ofNat 32 0).toNat) =
      BitVec.ofNat 48 (c % 2 ^ 16 * 2 ^ 32 + (s.cvf c).taskSeq.toNat) := by simp
  have hvf : (s.updCvf c CoreVf.nextTask).runVf c = s.runVf c := by rw [State.runVf, s.core_vf_updCvf, State.runVf]
  rw [asendPacket, hgtid, ← hvf, State.inject, State.flew_eq]
  rfl

/-- One packet enters the channel (R50). -/
theorem State.inject_injected (s : State) (c n t : Nat) (pc : Word) (payload : List Word) :
    Injected c n pc payload [t] s (s.inject c n t pc payload) := by
  have hslot : (s.sentOne c (t, asendPacket s c n pc payload 0)).slot c n = s.slot c n :=
    s.slot_updCvf_of_slots c n (f := CoreVf.nextTask) fun _ => rfl
  rw [State.inject_eq]
  refine ⟨rfl, rfl, rfl, ?vf, ?taskSeq, ?slot, rfl⟩
  case vf => exact (State.core_vf_updSlot _ c n _).trans (s.core_vf_updCvf c CoreVf.nextTask)
  case taskSeq =>
    exact (State.taskSeq_updSlot _ c n _).trans (congrArg CoreVf.taskSeq (cvf_updCvf s c CoreVf.nextTask))
  case slot => exact (State.slot_updSlot _ c n _).trans (congrArg (Slot.serve t) hslot)

/-- Later packets of an ASEND, seen from its first. -/
theorem Injected.asendPacket_succ {c n : Nat} {pc : Word} {payload : List Word} {t : Nat} {s u : State}
    (h : Injected c n pc payload [t] s u) (j : Nat) :
    asendPacket u c n pc payload j = asendPacket s c n pc payload (j + 1) := by
  have hvf : u.runVf c = s.runVf c := by rw [State.runVf, State.runVf, h.vf]
  have hseq : (u.cvf c).taskSeq + BitVec.ofNat 32 j = (s.cvf c).taskSeq + BitVec.ofNat 32 (j + 1) := by
    rw [h.taskSeq, BitVec.add_assoc, ← BitVec.ofNat_add, List.length_singleton, Nat.add_comm]
  simp only [asendPacket, hvf, hseq, h.slot]

/-- One packet, and then others. -/
theorem Injected.cons {c n : Nat} {pc : Word} {payload : List Word} {t : Nat} {r : List Nat} {s u v : State}
    (h : Injected c n pc payload [t] s u) (g : Injected c n pc payload r u v) : Injected c n pc payload (t :: r) s v where
  mem := g.mem.trans h.mem
  cur := g.cur.trans h.cur
  full := g.full.trans h.full
  vf := g.vf.trans h.vf
  taskSeq := by
    rw [g.taskSeq, h.taskSeq, BitVec.add_assoc, ← BitVec.ofNat_add, List.length_singleton, List.length_cons, Nat.add_comm]
  slot := by rw [g.slot, h.slot]; simp
  chan := by
    rw [g.chan, h.chan]
    simp [List.zipIdx_succ, h.asendPacket_succ]

/-- Where the channel admits every core, an ASEND serves all its targets at once (R36, R292). -/
theorem State.injectAll_of_admitted (c n : Nat) (pc : Word) (payload : List Word) (ts : List Nat) :
    ∀ s : State, s.chanFull = [] → ∃ u, s.injectAll c n pc payload ts = (u, []) ∧ Injected c n pc payload ts s u := by
  induction ts with
  | nil => exact fun s _ => ⟨s, rfl, .nil c n pc payload s⟩
  | cons t r ih =>
    intro s hfull
    have h := s.inject_injected c n t pc payload
    obtain ⟨u, hu, g⟩ := ih (s.inject c n t pc payload) (h.full.trans hfull)
    refine ⟨u, ?_, h.cons g⟩
    rw [State.injectAll, hfull, List.contains_nil, if_neg (by simp), hu]

/-! ### ASEND and ASEND.G (R50, R292) -/

/-- Members served for another bundle are served again. -/
theorem State.unserved_of_fresh {x : Slot} (h : ∀ r ∈ x.served, r.1 ≠ x.pc) (ts : List Nat) : State.unserved x ts = ts := by
  refine List.filter_eq_self.2 fun t _ => ?_
  simp only [Bool.not_eq_true', List.contains_eq_mem, decide_eq_false_iff_not]
  exact fun hm => h _ hm rfl

/-- With its stores home and every core admitted, an ASEND has sent to all its targets and does not park. -/
theorem State.sendAll_of_admitted {s : State} (pc : Word) (payload : List Word) (ts : List Nat) (g : Option Nat)
    (hpq : (s.core s.cur.core).pq = []) (hfull : s.chanFull = []) (hserved : ∀ r ∈ s.me.served, r.1 ≠ s.me.pc) :
    Injected s.cur.core s.cur.slot pc payload (s.asendTargets s.cur.core ts g) s (s.sendAll pc payload ts g) := by
  obtain ⟨u, hu, h⟩ := State.injectAll_of_admitted s.cur.core s.cur.slot pc payload (s.asendTargets s.cur.core ts g) s hfull
  have hforced : s.forced s.cur.core s.here.seq.toNat false = true := (s.forced_core_iff _ _).2 (by simp [hpq])
  simp only [State.sendAll, hforced, if_true, State.unserved_of_fresh hserved, hu, List.isEmpty_nil]
  exact h

/-- The payload registers of an ASEND (R72: they end at `g63`). -/
theorem State.payload_eq {s : State} {y : BitVec 6} {n : Nat} (h : y.toNat + n ≤ 64) :
    s.payload y n = (List.range n).map fun m => s.rg (BitVec.ofNat 6 (y.toNat + m)) := by
  refine List.map_congr_left fun m hm => ?_
  have hm := List.mem_range.1 hm
  rw [State.rgn, if_pos (by omega)]

/-- ASEND to a core of the partition. -/
theorem exec_asend_of_core {s : State} {y a b : BitVec 6} {n : BitVec 4} (hpc : (s.rg a).toNat % 4 = 0)
    (ht : (s.rg b).toNat < 2 ^ 16) (hin : s.coreIn (s.runPid s.cur.core) (s.rg b).toNat = true) :
    exec (.asend y a b n) s = .next (s.sendAll (s.rg a) (s.payload y n.toNat) [(s.rg b).toNat] none) := by
  change execAsend y a b n s = _
  simp only [execAsend, hpc, hin]
  rw [if_neg (by omega), if_neg (by simp), if_neg (by simp)]

/-- ASEND to a core outside the partition. -/
theorem exec_asend_of_noCore {s : State} {y a b : BitVec 6} {n : BitVec 4} (hpc : (s.rg a).toNat % 4 = 0)
    (ht : (s.rg b).toNat < 2 ^ 16) (hin : s.coreIn (s.runPid s.cur.core) (s.rg b).toNat = false) :
    exec (.asend y a b n) s = .next (s.raise 0x05 (s.rg b)) := by
  change execAsend y a b n s = _
  simp only [execAsend, hpc, hin]
  rw [if_neg (by omega), if_neg (by simp), if_pos (by simp)]

/-- ASEND of a pc that is not aligned. -/
theorem exec_asend_of_unaligned {s : State} {y a b : BitVec 6} {n : BitVec 4} (hpc : (s.rg a).toNat % 4 ≠ 0)
    (ht : (s.rg b).toNat < 2 ^ 16) : exec (.asend y a b n) s = .next (s.raise 0x04 (s.rg a)) := by
  change execAsend y a b n s = _
  simp only [execAsend]
  rw [if_neg (by omega), if_pos hpc]

/-- ASEND.G to a group with members. -/
theorem exec_asendG_of_group {s : State} {y a b : BitVec 6} {n : BitVec 4} {ms : List Nat} (hpc : (s.rg a).toNat % 4 = 0)
    (ht : (s.rg b).toNat < 2 ^ 8) (hg : s.group (s.runPid s.cur.core) (s.rg b).toNat = some ms) (hms : ms ≠ []) :
    exec (.asendG y a b n) s = .next (s.sendAll (s.rg a) (s.payload y n.toNat) [] (some (s.rg b).toNat)) := by
  change execAsendG y a b n s = _
  obtain ⟨m, r, rfl⟩ := List.exists_cons_of_ne_nil hms
  simp only [execAsendG, hpc, hg]
  rw [if_neg (by omega), if_neg (by simp)]

/-- ASEND.G to a group that is invalid or empty (R26). -/
theorem exec_asendG_of_noGroup {s : State} {y a b : BitVec 6} {n : BitVec 4} (hpc : (s.rg a).toNat % 4 = 0)
    (ht : (s.rg b).toNat < 2 ^ 8)
    (hg : s.group (s.runPid s.cur.core) (s.rg b).toNat = none ∨ s.group (s.runPid s.cur.core) (s.rg b).toNat = some []) :
    exec (.asendG y a b n) s = .next (s.raise 0x14 (s.rg b)) := by
  change execAsendG y a b n s = _
  simp only [execAsendG, hpc]
  rw [if_neg (by omega), if_neg (by simp)]
  rcases hg with hg | hg <;> rw [hg]

/-- ASEND.G of a pc that is not aligned. -/
theorem exec_asendG_of_unaligned {s : State} {y a b : BitVec 6} {n : BitVec 4} (hpc : (s.rg a).toNat % 4 ≠ 0)
    (ht : (s.rg b).toNat < 2 ^ 8) : exec (.asendG y a b n) s = .next (s.raise 0x04 (s.rg a)) := by
  change execAsendG y a b n s = _
  simp only [execAsendG]
  rw [if_neg (by omega), if_pos hpc]

/-- R50, R51, R292: what ASEND and ASEND.G send, and their traps. -/
theorem asendSendsPackets : Claims.AsendSendsPackets := by
  intro s y a b n c t pid sent
  have hsent {i : Instr} {ts us : List Nat} {g : Option Nat} (hg : s.asendTargets c ts g = us)
      (h : exec i s = .next (s.sendAll (s.rg a) (s.payload y n.toNat) ts g)) : sent i us := by
    intro hpq hfull hserved hy
    have k := State.sendAll_of_admitted (s.rg a) (s.payload y n.toNat) ts g hpq hfull hserved
    rw [hg] at k
    have hme : (s.sendAll (s.rg a) (s.payload y n.toNat) ts g).me =
        (s.sendAll (s.rg a) (s.payload y n.toNat) ts g).slot s.cur.core s.cur.slot := by rw [State.me, k.cur]
    refine ⟨_, h, k.mem, ?_, k.taskSeq, _, k.chan, ?_, fun j hj => ?_⟩
    · rw [hme, k.slot]
      rfl
    · simp [Function.comp_def]
    · rw [List.getElem_map, List.getElem_zipIdx, Nat.zero_add]
      exact ⟨rfl, State.payload_eq hy, rfl, rfl, rfl, rfl, rfl, rfl, rfl⟩
  refine ⟨fun hpc ht hin => ?core, fun hpc ht => ?unaligned, fun hpc ht hin => ?noCore, fun ms hpc ht hg hms => ?group,
    fun hpc ht hg => ?noGroup⟩
  case core => exact hsent rfl (exec_asend_of_core hpc ht hin)
  case unaligned =>
    exact ⟨traps_of_raise (exec_asend_of_unaligned hpc (by omega)), traps_of_raise (exec_asendG_of_unaligned hpc ht)⟩
  case noCore => exact traps_of_raise (exec_asend_of_noCore hpc ht hin)
  case group => exact hsent (g := some t) (congrArg (Option.getD · []) hg) (exec_asendG_of_group hpc ht hg hms)
  case noGroup => exact traps_of_raise (exec_asendG_of_noGroup hpc ht hg)

/-! ### ASEND_INJECT (R26, R292) -/

section Inject

variable {s : State} {c n seq : Nat} {pc : Word} {pay : List Word} {ts : List Nat} {g : Option Nat}
  (hw : (s.slot c n).cWait = some (.asend seq pc pay ts g))
include hw

/-- A store of the core is not home: nothing happens. -/
theorem exec_asendInject_of_undrained (h : s.forced c seq false = false) : exec (.asendInject c n) s = .next s := by
  change execAsendInject c n s = _
  simp [execAsendInject, hw, h]

/-- No target is left. -/
theorem exec_asendInject_of_served (h : s.forced c seq false = true)
    (hleft : State.unserved (s.slot c n) (s.asendTargets c ts g) = []) :
    exec (.asendInject c n) s = .next (s.updSlot c n fun x => { x with
      cWait := some (if (s.asendTargets c ts g).isEmpty ∧ g.isSome then .trap 0x14 (BitVec.ofNat 64 (g.getD 0)) else .done []) }) := by
  change execAsendInject c n s = _
  simp [execAsendInject, hw, h, hleft]

/-- The channel does not admit a packet of the next target. -/
theorem exec_asendInject_of_full {t : Nat} {r : List Nat} (h : s.forced c seq false = true)
    (hleft : State.unserved (s.slot c n) (s.asendTargets c ts g) = t :: r) (ht : t ∈ s.chanFull) :
    exec (.asendInject c n) s = .next (s.updSlot c n fun x => { x with cWait := some (.asend seq pc pay (t :: r) none) }) := by
  change execAsendInject c n s = _
  simp [execAsendInject, hw, h, hleft, ht]

/-- The next target is served. -/
theorem exec_asendInject_of_admitted {t : Nat} {r : List Nat} (h : s.forced c seq false = true)
    (hleft : State.unserved (s.slot c n) (s.asendTargets c ts g) = t :: r) (ht : t ∉ s.chanFull) :
    exec (.asendInject c n) s = .next ((s.inject c n t pc pay).updSlot c n fun x => { x with
      cWait := some (if r = [] then .done [] else .asend seq pc pay r none) }) := by
  change execAsendInject c n s = _
  simp [execAsendInject, hw, h, hleft, ht]

end Inject

/-- R26, R50, R292: a parked ASEND, event by event. -/
theorem asendInjectsWhenAdmitted : Claims.AsendInjectsWhenAdmitted := by
  intro s c n seq pc pay ts g hw x all left
  have hall : s.asendTargets c ts g = all := by cases g <;> rfl
  have hleft : State.unserved (s.slot c n) (s.asendTargets c ts g) = left := by rw [hall]; rfl
  refine ⟨fun h => ?undrained, fun h => ?_⟩
  case undrained =>
    obtain ⟨e, he, hle⟩ := h
    refine ⟨s, exec_asendInject_of_undrained hw (Bool.eq_false_iff.2 fun hf => ?_), rfl⟩
    exact absurd ((s.forced_core_iff c seq).1 hf e he) (by omega)
  have hforced := (s.forced_core_iff c seq).2 h
  refine ⟨fun e hg hnil => ?noMember, fun hnil hor => ?served, fun t r hcons ht => ?full, fun t r hcons ht => ?admitted⟩
  case noMember =>
    have hl : left = [] := by simp only [left, hnil, List.filter_nil]
    refine ⟨_, exec_asendInject_of_served hw hforced (hleft.trans hl), onlySlot_updSlot s c n _, ?_⟩
    rw [State.slot_updSlot, hall, hnil, hg]
    rfl
  case served =>
    refine ⟨_, exec_asendInject_of_served hw hforced (hleft.trans hnil), onlySlot_updSlot s c n _, ?_⟩
    rw [State.slot_updSlot, hall, if_neg]
    rintro ⟨hempty, hsome⟩
    rcases hor with hne | hnone
    · exact hne (List.isEmpty_iff.1 hempty)
    · simp [hnone] at hsome
  case full =>
    refine ⟨_, exec_asendInject_of_full hw hforced (hleft.trans hcons) ht, onlySlot_updSlot s c n _, ?_⟩
    rw [State.slot_updSlot, hcons]
  case admitted =>
    have k := s.inject_injected c n t pc pay
    refine ⟨_, exec_asendInject_of_admitted hw hforced (hleft.trans hcons) ht, ⟨_, k.chan, rfl, rfl, rfl⟩, ?_, ?_, k.mem⟩
    · rw [State.slot_updSlot]
    · rw [State.slot_updSlot, k.slot]
      rfl

/-- Settles O36: an ASEND serves its targets by injections, each of which appends one packet and uses one GTID. -/
theorem messagesAreSent : Obligations.MessagesAreSent := ⟨asendSendsPackets, asendInjectsWhenAdmitted⟩

end Sys2Proof.Machine
end

section
/-! What the device answers to the world (R134, R149, R154, R255, R257, R277-R282, R362): attestation, links, temperature and power, the
debugger, soft errors, boot and peers. Settles O56. -/

namespace Sys2Proof.Machine

/-! ### Attestation (R277) -/

/-- An answer that something was reported before. -/
theorem State.spdm_report (s : State) (r : Report) (code nonce : Nat) : (s.report r).spdm code nonce =
    { s with free := s.free + 1, reports := s.reports ++ [r, .spdm code (Config.freeBytes nonce s.free)] } := by
  simp only [State.spdm, State.report, List.append_assoc, List.cons_append, List.nil_append]

/-- R277: SPDM requests are answered with free bytes, one for measurements also with the three registers. -/
theorem attestationAnswers : Claims.AttestationAnswers := by
  intro s nonce answered
  have h {i : Instr} {code : Nat} (e : exec i s = .next (s.spdm code nonce)) : answered i code := ⟨_, e, _, rfl⟩
  refine ⟨h rfl, h rfl, h rfl, h rfl, h rfl, h rfl, _, rfl, _, _, s.spdm_report _ 6 nonce⟩

/-! ### Links (R279, R280) -/

/-- The state of a listed Ubham port. -/
theorem State.uport_of_find {s : State} {port : Nat} {x : UPort} (h : FMap.find? s.uports port = some x) :
    s.uport port = x := by simp [State.uport, FMap.getD, h]

/-- A Ubham port meets a peer of major version 1 (R279). -/
theorem State.trainUbham_of_major_one (s : State) {port : Nat} (minor : Nat) (h : port < 24) : s.trainUbham port 1 minor =
    s.setUport port { st := 1, maj := 1, min := min minor 1, retries := (s.uport port).retries } := by
  rw [State.trainUbham, if_neg (by omega), if_pos rfl]

/-- A Ubham port meets a peer of another major version, and is down (R279). -/
theorem State.trainUbham_of_other_major (s : State) {port major : Nat} (minor : Nat) (h : port < 24) (hm : major ≠ 1) :
    s.trainUbham port major minor =
      (s.setUport port { st := 3, maj := 0, min := 0, retries := (s.uport port).retries }).report (.portDown port) := by
  rw [State.trainUbham, if_neg (by omega), if_neg hm]

theorem State.find_uports_setUport (s : State) (port : Nat) (x : UPort) :
    FMap.find? (s.setUport port x).uports port = some x := FMap.find?_insert_self _ _ _

/-- What a second-tier port holds after its training, up or down (R280). -/
def farTrained (pid : Option Nat) (rate width cap : Nat) : FarPort :=
  if 1 ≤ rate ∧ rate ≤ 3 ∧ 1 ≤ width ∧ width ≤ 3 then { rate := rate, width := width, cap := cap, pid := pid }
  else { rate := 0, width := 0, cap := 0, pid := pid }

/-- A second-tier port trains, or is down (R280). -/
theorem State.trainFar_eq (s : State) {port : Nat} (rate width cap : Nat) (h : port < 16) : ∃ pid,
    s.trainFar port rate width cap =
      { s with farPorts := FMap.insert s.farPorts port (farTrained pid rate width cap) } := by
  refine ⟨(FMap.getD s.farPorts port { rate := 0, width := 0, cap := 0, pid := none }).pid, ?_⟩
  simp only [State.trainFar, farTrained, if_pos h, Bool.and_eq_true, decide_eq_true_eq, and_assoc]

/-! ### Temperature and power (R281, R282) -/

/-- What is put into a table stands in it. -/
theorem FMap.mem_insert_self {α : Type} (m : FMap α) (n : Nat) (x : α) : (n, x) ∈ FMap.insert m n x := by
  induction m with
  | nil => simp [FMap.insert]
  | cons e r ih =>
    simp only [FMap.insert]
    split
    · simp
    · split
      · simp
      · exact List.mem_cons_of_mem _ ih

/-- A sensor's input (R282). -/
theorem exec_temperatureInput {s : State} {sensor : Nat} (temp : Nat) (h : sensor < 20) :
    exec (.temperatureInput sensor temp) s = .next (
      let t := { s with temps := FMap.insert s.temps sensor temp }
      { t with stretch := t.stretch || t.hotDie, doubleRefresh := t.hotHbm }) := by
  change execTemperatureInput sensor temp s = _
  rw [execTemperatureInput, if_neg (by omega)]

/-- A sensor at its trip limit stops the device (R282). -/
theorem exec_thermalTrip_of_tripped {s : State} {sensor : Nat} (h : s.tripped sensor = true) :
    exec (.thermalTrip sensor) s =
      .next (({ s with on := false, issuing := none } : State).report (.thermalTrip sensor)) := by
  change execThermalTrip sensor s = _
  rw [execThermalTrip, if_pos h]

/-- A sensor below its trip limit changes nothing. -/
theorem exec_thermalTrip_of_cool {s : State} {sensor : Nat} (h : s.tripped sensor = false) :
    exec (.thermalTrip sensor) s = .next s := by
  change execThermalTrip sensor s = _
  rw [execThermalTrip, if_neg (by simp [h])]

/-- The trip limits: 110 °C of a compute die and 100 °C of a stack (R282). -/
theorem State.tripped_iff {s : State} {sensor temp : Nat} (h : FMap.find? s.temps sensor = some temp) :
    s.tripped sensor = true ↔ (sensor < 4 ∧ 110 ≤ temp) ∨ (4 ≤ sensor ∧ 100 ≤ temp) := by
  simp only [State.tripped, h]
  split <;> simp <;> omega

/-- R279-R282: links, temperatures and the cap. -/
theorem linksAndLimits : Claims.LinksAndLimits := by
  intro s
  refine ⟨fun port major minor hp => ⟨?major1, ?majorOther⟩, fun port x hx => ⟨?laneLoss, ?flitRetry⟩,
    fun port rate width cap hp => ?far, fun sensor temp hs => ?temperature, fun sensor temp ht => ⟨?trip, ?cool⟩,
    fun watts => ⟨_, rfl, rfl, ?stretched, ?unstretched⟩⟩
  case major1 =>
    rintro rfl
    refine ⟨_, congrArg Host.Outcome.next (s.trainUbham_of_major_one minor hp), rfl, _, s.find_uports_setUport port _⟩
  case majorOther =>
    intro hm
    exact ⟨_, congrArg Host.Outcome.next (s.trainUbham_of_other_major minor hp hm), rfl, _, s.find_uports_setUport port _⟩
  case laneLoss =>
    intro h1
    refine ⟨(s.setUport port { x with st := 2 }).report (.degraded port), ?_, s.find_uports_setUport port _, rfl⟩
    change execUbhamLaneLoss port s = _
    simp only [execUbhamLaneLoss, State.uport_of_find hx, if_pos h1]
  case flitRetry =>
    intro h12
    refine ⟨s.setUport port { x with retries := x.retries + 1 }, ?_, rfl⟩
    change execUbhamFlitRetry port s = _
    simp only [execUbhamFlitRetry, State.uport_of_find hx, if_pos h12]
  case far =>
    obtain ⟨pid, h⟩ := s.trainFar_eq rate width cap hp
    refine ⟨_, congrArg Host.Outcome.next h, rfl, _, FMap.find?_insert_self _ _ _, fun h1 h2 h3 h4 => ?_, fun h => ?_⟩
    · rw [farTrained, if_pos ⟨h1, h2, h3, h4⟩]
      exact ⟨rfl, rfl, rfl⟩
    · rw [farTrained, if_neg (by omega)]
      exact ⟨rfl, rfl, rfl⟩
  case temperature =>
    have hmem := FMap.mem_insert_self s.temps sensor temp
    refine ⟨_, exec_temperatureInput temp hs, FMap.find?_insert_self _ _ _, fun h4 h95 => ?_, fun h4 h85 => ?_, rfl⟩
    · exact Bool.or_eq_true_iff.2 (.inr (List.any_eq_true.2 ⟨_, hmem, by simp [h4, h95]⟩))
    · exact List.any_eq_true.2 ⟨_, hmem, by simp [h4, h85]⟩
  case trip => exact fun h => ⟨_, exec_thermalTrip_of_tripped ((State.tripped_iff ht).2 h), rfl⟩
  case cool =>
    intro h
    exact ⟨s, exec_thermalTrip_of_cool (Bool.eq_false_iff.2 fun hf => by have := (State.tripped_iff ht).1 hf; omega), rfl⟩
  case stretched => exact fun h => by simp [h]
  case unstretched => exact fun h hcold => by simp [h, hcold]

/-! ### The debugger (R257) -/

/-- A partition's debugger is attached or detached. -/
theorem State.part_updPart {s : State} {pid : Nat} {p : Part} (h : s.part pid = some p) (f : Part → Part) :
    (s.updPart pid f).part pid = some (f p) ∧ s.updPart pid f = { s with parts := (s.updPart pid f).parts } := by
  simp only [State.updPart, h]
  exact ⟨FMap.find?_insert_self _ _ _, trivial⟩

/-- A HALTED slot is resumed. -/
theorem exec_debugResume_of_halted {s : State} {c n : Nat} (h : (s.slot c n).mode = .halted) :
    exec (.debugResume c n) s = .next (s.updSlot c n fun x => { x with mode := x.haltFrom }) := by
  change execDebugResume c n s = _
  rw [execDebugResume, if_pos h]
  rfl

/-- A slot that is not HALTED is not resumed. -/
theorem exec_debugResume_of_running {s : State} {c n : Nat} (h : (s.slot c n).mode ≠ .halted) :
    exec (.debugResume c n) s = .next s := by
  change execDebugResume c n s = _
  rw [execDebugResume, if_neg h]

/-- A general register of a HALTED slot is read (assumption 21). -/
theorem exec_debugRegisterAccess_of_read {s : State} {c n : Nat} (h : (s.slot c n).mode = .halted) (r : Fin 64) (v : Nat) :
    exec (.debugRegisterAccess c n r.val 0 v) s =
      .next (s.report (.debugValue (if r.val = 0 then 0 else (s.slot c n).g[r]))) := by
  change execDebugRegisterAccess c n r.val 0 v s = _
  rw [execDebugRegisterAccess, if_neg (by simp [h]), if_pos rfl, State.debugRead, if_pos r.isLt]
  simp [Vector.getD]

/-- A general register of a HALTED slot is written. -/
theorem exec_debugRegisterAccess_of_write {s : State} {c n : Nat} (h : (s.slot c n).mode = .halted) (r : Fin 64) {w : Nat}
    (hw : w ≠ 0) (v : Nat) : exec (.debugRegisterAccess c n r.val w v) s =
      .next (s.updSlot c n (·.wg (BitVec.ofNat 6 r.val) (BitVec.ofNat 64 v))) := by
  change execDebugRegisterAccess c n r.val w v s = _
  rw [execDebugRegisterAccess, if_neg (by simp [h]), if_neg hw, State.debugWrite, if_pos r.isLt]

/-- Of a slot that is not HALTED no register is accessed. -/
theorem exec_debugRegisterAccess_of_running {s : State} {c n : Nat} (h : (s.slot c n).mode ≠ .halted) (r w v : Nat) :
    exec (.debugRegisterAccess c n r w v) s = .next s := by
  change execDebugRegisterAccess c n r w v s = _
  rw [execDebugRegisterAccess, if_pos h]

/-- R257: the debugger's events. -/
theorem debuggersWork : Claims.DebuggersWork := by
  intro s
  refine ⟨fun pid on p hp => ⟨_, rfl, State.part_updPart hp _⟩, fun c n h => ⟨?resume, fun r v => ?read, fun r w v hw => ?write⟩,
    fun c n h => ⟨⟨s, exec_debugResume_of_running h, rfl⟩, fun r w v => ⟨s, exec_debugRegisterAccess_of_running h r w v, rfl⟩⟩⟩
  case resume => exact ⟨_, exec_debugResume_of_halted h, onlySlot_updSlot s c n _, State.slot_updSlot s c n _⟩
  case read => exact ⟨_, exec_debugRegisterAccess_of_read h r v, rfl⟩
  case write =>
    refine ⟨_, exec_debugRegisterAccess_of_write h r hw v, onlySlot_updSlot s c n _, ?_, ?_⟩
    · rw [State.slot_updSlot]
      exact Slot.regs_wg _ _ _
    · rw [State.slot_updSlot, Slot.wg_p]

/-! ### Soft errors (R134, R154) -/

/-- Below 2^16 a soft error is one flipped bit, which is corrected and logged (R154). -/
theorem exec_softError_of_corrected {s : State} {store bit : Nat} (unit idx : Nat) (hs : store ≠ 9) (hb : bit < 2 ^ 16) :
    exec (.softError store unit idx bit) s = .next { s with errorLog := s.errorLog + 1 } := by
  change execSoftError store unit idx bit s = _
  rw [execSoftError, if_neg hs, if_pos hb]

/-- From 2^16 on it is uncorrectable (R154). -/
theorem exec_softError_of_hard {s : State} {store bit : Nat} (unit idx : Nat) (hs : store ≠ 9) (hb : 2 ^ 16 ≤ bit) :
    exec (.softError store unit idx bit) s = .next (s.hardError store unit idx) := by
  change execSoftError store unit idx bit s = _
  rw [execSoftError, if_neg hs, if_neg (by omega)]

/-- A word that is poisoned where it is read from is poisoned (R154). -/
theorem State.poisoned_of_wordPoisoned {s : State} {w : Nat} (h : s.wordPoisoned w = true) : s.poisoned (8 * w) 8 = true := by
  refine List.any_eq_true.2 ⟨0, List.mem_range.2 (by omega), ?_⟩
  have hw : 8 * w / 8 + 0 = w := by omega
  rw [hw, h, Bool.and_true]
  simp only [overlap, Bool.and_eq_true, decide_eq_true_eq]
  omega

/-- A poison flag where no slice lacks the word's sector makes its word poisoned (R154). -/
theorem State.poisoned_insert {s : State} {w : Nat} (h : s.sectorAbsent w = false) :
    ({ s with poison := FMap.insert s.poison w () } : State).poisoned (8 * w) 8 = true := by
  refine State.poisoned_of_wordPoisoned ?_
  have h' : ({ s with poison := FMap.insert s.poison w () } : State).sectorAbsent w = false := h
  rw [State.wordPoisoned, h', if_neg (by simp), FMap.find?_insert_self]
  rfl

/-- No sector is absent of a line that no slice holds. -/
theorem State.sectorAbsent_of_not_holdsLine {s : State} {w : Nat} (h : s.holdsLine (w / 16) = false) :
    s.sectorAbsent w = false := by
  simp only [State.holdsLine, List.any_eq_false] at h
  refine List.any_eq_false.2 fun k hk hand => ?_
  obtain ⟨e, he, hl⟩ := List.any_eq_true.1 (Bool.and_eq_true_iff.1 hand).1
  obtain ⟨l, hl, hline⟩ := List.any_eq_true.1 hl
  exact h k hk (List.any_eq_true.2 ⟨e, he, List.any_eq_true.2 ⟨l, hl, (Bool.and_eq_true_iff.1 hline).1⟩⟩)

/-- No sector is absent where every copy of the line has it. -/
theorem State.sectorAbsent_of_all {s : State} {w : Nat} (h : ∀ k ∈ s.slices, ∀ e ∈ k.2.sets, ∀ l ∈ e.2, l.line = w / 16 →
    l.sectors.getLsbD (w % 16 / 4) = true) : s.sectorAbsent w = false := by
  refine List.any_eq_false.2 fun k hk hand => ?_
  obtain ⟨e, he, hl⟩ := List.any_eq_true.1 (Bool.and_eq_true_iff.1 hand).1
  obtain ⟨l, hl, hline⟩ := List.any_eq_true.1 hl
  obtain ⟨hline, habsent⟩ := Bool.and_eq_true_iff.1 hline
  rw [h k hk e he l hl (of_decide_eq_true hline)] at habsent
  cases habsent

/-- An uncorrectable error of the accumulator store, as a change of its cluster. -/
def Cluster.poisonElem (idx : Nat) (k : Cluster) : Cluster :=
  let t := FMap.getD k.ac (idx / 2 ^ 14) {}
  let e := FMap.getD t.elems (idx % 2 ^ 14) { val := 0, cnt := 0, poison := false }
  { k with ac := FMap.insert k.ac (idx / 2 ^ 14) { t with elems := FMap.insert t.elems (idx % 2 ^ 14) { e with poison := true } } }

/-- An element of an accumulator tile of a cluster; one that is not listed is 0 with count 0. -/
def Cluster.elem (k : Cluster) (tile m : Nat) : AcElem :=
  FMap.getD (FMap.getD k.ac tile {}).elems m { val := 0, cnt := 0, poison := false }

/-- The element with the error is poisoned, and every other one stands. -/
theorem Cluster.elem_poisonElem (k : Cluster) (idx tile m : Nat) : (k.poisonElem idx).elem tile m =
    if tile = idx / 2 ^ 14 ∧ m = idx % 2 ^ 14 then { k.elem tile m with poison := true } else k.elem tile m := by
  unfold Cluster.elem Cluster.poisonElem
  by_cases ht : tile = idx / 2 ^ 14
  · subst ht
    rw [FMap.getD_insert_self]
    by_cases hm : m = idx % 2 ^ 14
    · subst hm
      rw [if_pos ⟨rfl, rfl⟩, FMap.getD_insert_self]
    · rw [if_neg fun h => hm h.2, FMap.getD_insert_ne _ _ _ hm]
  · rw [if_neg fun h => ht h.1, FMap.getD_insert_ne _ _ _ ht]

/-- A change of one of a queue's records. -/
theorem State.queue_setQueue (s : State) (qid : Nat) (q : Queue) : (s.setQueue qid q).queue? qid = some q := by
  rw [State.queue?, State.setQueue, State.slice_updSlice]
  exact FMap.find?_insert_self _ _ _

/-- A flipped toggle or count changes its parity: where that was right, it is wrong from then on (R134). -/
theorem mem_flipped_parity {l : List Nat} {k : Nat} (h : k ∉ l) : k ∈ (if l.contains k then l.erase k else l ++ [k]) := by
  rw [if_neg (by simpa using h)]
  simp

/-- R134, R154: single errors are corrected, uncorrectable ones poison, and those of a counter break its parity. -/
theorem errorsArePoison : Claims.ErrorsArePoison := by
  intro s unit idx bit
  refine ⟨fun store hs hb => ⟨_, exec_softError_of_corrected unit idx hs hb, rfl⟩, fun hb => ?hard, ?toggle, ?count⟩
  case toggle => exact ⟨_, rfl, FMap.find?_insert_self _ _ _, mem_flipped_parity⟩
  case count =>
    exact ⟨_, rfl, rfl, FMap.getD_insert_self _ _ _ _, fun k hk => FMap.find?_insert_ne _ _ hk, mem_flipped_parity⟩
  have hard {store : Nat} (hs : store ≠ 9) := exec_softError_of_hard (s := s) unit idx hs hb
  refine ⟨fun hsp hline => ?hbm, fun hsp hline => ?hbmBehind, fun hword hall => ?slice, fun q r hq hr => ?record, ?tile⟩
  case hbm =>
    refine ⟨_, hard (store := 7) (by decide), ?_⟩
    simp only [State.hardError, hsp, hline, Bool.false_eq_true, if_false]
    exact ⟨State.poisoned_insert (State.sectorAbsent_of_not_holdsLine hline), trivial⟩
  case hbmBehind =>
    refine ⟨_, hard (store := 7) (by decide), ?_⟩
    simp only [State.hardError, hsp, hline, Bool.false_eq_true, if_false, if_true]
    exact ⟨trivial, FMap.find?_insert_self _ _ _⟩
  case slice =>
    refine ⟨_, hard (store := 0) (by decide), ?_⟩
    simp only [State.hardError, hword, if_true]
    exact ⟨State.poisoned_insert (State.sectorAbsent_of_all hall), trivial⟩
  case record =>
    refine ⟨_, hard (store := 1) (by decide), ?_⟩
    simp only [State.hardError, hq]
    refine ⟨_, { r with poison := true }, State.queue_setQueue s unit _, ?_, rfl, rfl⟩
    simp [hr]
  case tile =>
    refine ⟨s.updCluster unit (Cluster.poisonElem idx), hard (store := 4) (by decide), rfl,
      fun cl h => State.cluster_updCluster_ne s _ h, ?_, fun k m => ?_⟩
    · rw [State.cluster_updCluster]
      rfl
    · change ((s.updCluster unit (Cluster.poisonElem idx)).cluster unit).elem k m = _
      rw [State.cluster_updCluster]
      exact (s.cluster unit).elem_poisonElem idx k m

/-! ### Boot (R277, R278, R362) -/

/-- The part's fused map: each position below 1,024 that it names (R16, R18). -/
theorem mem_fuseMap_zero (l : List Nat) : 0 ∈ fuseMap l ↔ 0 ∈ l := by
  simp [fuseMap, Config.positions]

/-- A step of a boot is bad (R278): the world makes it fail, step 2 finds no image it may run, step 4 more fused cores than R16 allows or
node (0,0) fused. -/
def bootBad (f : List Nat) (sv m : Nat) (boot : Config.Boot) (i : Nat) : Prop :=
  i = boot.fail ∨ (i = 2 ∧ (boot.verified = false ∨ sv < m ∨ 2 ^ 16 ≤ sv)) ∨ (i = 4 ∧ (16 < f.length ∨ 0 ∈ f))

/-- The same, as a test. -/
def bootBadB (f : List Nat) (sv m : Nat) (boot : Config.Boot) (i : Nat) : Bool :=
  decide (i = boot.fail) || (decide (i = 2) && (!boot.verified || decide (sv < m) || decide (2 ^ 16 ≤ sv))) ||
    (decide (i = 4) && (decide (16 < f.length) || f.contains 0))

theorem bootBadB_iff (f : List Nat) (sv m : Nat) (boot : Config.Boot) (i : Nat) :
    bootBadB f sv m boot i = true ↔ bootBad f sv m boot i := by
  simp only [bootBadB, bootBad, Bool.or_eq_true, Bool.and_eq_true, decide_eq_true_eq, Bool.not_eq_true', List.contains_eq_mem,
    or_assoc]

theorem bootFails_eq (f : List Nat) (sv m : Nat) (boot : Config.Boot) : bootFails f sv m boot.verified boot.fail =
    ((List.range' 1 7).find? (bootBadB f sv m boot)).getD 0 := rfl

/-- A boot fails at the first bad step (R278). -/
theorem bootFails_of_first {f : List Nat} {sv m : Nat} {boot : Config.Boot} {step : Nat} (h1 : 1 ≤ step) (h7 : step ≤ 7)
    (hbad : bootBad f sv m boot step) (hfirst : ∀ i, 1 ≤ i → i < step → ¬ bootBad f sv m boot i) :
    bootFails f sv m boot.verified boot.fail = step := by
  have hfind : (List.range' 1 7).find? (bootBadB f sv m boot) = some step := by
    refine List.find?_range'_eq_some.2 ⟨(bootBadB_iff ..).2 hbad, List.mem_range'_1.2 ⟨h1, by omega⟩, fun j hj hlt => ?_⟩
    simpa [← bootBadB_iff] using hfirst j hj hlt
  rw [bootFails_eq, hfind]
  rfl

/-- A boot without a bad step does not fail. -/
theorem bootFails_eq_zero {f : List Nat} {sv m : Nat} {boot : Config.Boot}
    (h : ∀ i, 1 ≤ i → i ≤ 7 → ¬ bootBad f sv m boot i) : bootFails f sv m boot.verified boot.fail = 0 := by
  have hfind : (List.range' 1 7).find? (bootBadB f sv m boot) = none := by
    refine List.find?_eq_none.2 fun i hi => ?_
    obtain ⟨h1, h8⟩ := List.mem_range'_1.1 hi
    rw [bootBadB_iff]
    exact h i h1 (by omega)
  rw [bootFails_eq, hfind]
  rfl

/-! ### How the ports train at a boot (R278 step 5) -/

/-- The training of some second-tier ports, one after another. -/
def State.trainFars (s : State) (l : List (Nat × Nat × Nat × Nat)) : State :=
  l.foldl (fun t x => t.trainFar x.1 x.2.1 x.2.2.1 x.2.2.2) s

/-- The training of some Ubham ports, one after another. -/
def State.trainUbhams (s : State) (l : List (Nat × Nat × Nat)) : State :=
  l.foldl (fun t x => t.trainUbham x.1 x.2.1 x.2.2) s

theorem State.trainPorts_eq (s : State) (boot : Config.Boot) : s.trainPorts boot =
    (({ s with uports := [], farPorts := [] } : State).trainFars boot.far).trainUbhams boot.links := rfl

/-- The training of a second-tier port changes nothing but the ports of its tier. -/
theorem State.trainFar_frame (s : State) (port rate width cap : Nat) : s.trainFar port rate width cap =
    { s with farPorts := (s.trainFar port rate width cap).farPorts } := by
  simp only [State.trainFar]
  split <;> rfl

/-- The training of a second-tier port leaves the others. -/
theorem State.find_farPorts_trainFar_ne (s : State) {port p : Nat} (rate width cap : Nat) (h : p ≠ port) :
    FMap.find? (s.trainFar port rate width cap).farPorts p = FMap.find? s.farPorts p := by
  simp only [State.trainFar]
  split
  · exact FMap.find?_insert_ne _ _ h
  · rfl

theorem State.trainFars_frame (l : List (Nat × Nat × Nat × Nat)) (s : State) :
    s.trainFars l = { s with farPorts := (s.trainFars l).farPorts } := by
  induction l generalizing s with
  | nil => rfl
  | cons x r ih =>
    change (s.trainFar x.1 x.2.1 x.2.2.1 x.2.2.2).trainFars r = { s with
      farPorts := ((s.trainFar x.1 x.2.1 x.2.2.1 x.2.2.2).trainFars r).farPorts }
    rw [ih, State.trainFar_frame]

/-- A second-tier port that is not named stays as it was. -/
theorem State.find_farPorts_trainFars_of_unnamed {p : Nat} (l : List (Nat × Nat × Nat × Nat)) (s : State)
    (h : ∀ x ∈ l, x.1 ≠ p) : FMap.find? (s.trainFars l).farPorts p = FMap.find? s.farPorts p := by
  induction l generalizing s with
  | nil => rfl
  | cons x r ih =>
    change FMap.find? ((s.trainFar x.1 x.2.1 x.2.2.1 x.2.2.2).trainFars r).farPorts p = _
    rw [ih _ fun y hy => h y (List.mem_cons_of_mem _ hy), State.find_farPorts_trainFar_ne]
    exact (h x List.mem_cons_self).symm

/-- A second-tier port stands as its last training left it. -/
theorem State.find_farPorts_trainFars_of_last {p rate width cap : Nat} {l r : List (Nat × Nat × Nat × Nat)} (s : State)
    (hp : p < 16) (hr : ∀ x ∈ r, x.1 ≠ p) : ∃ pid,
    FMap.find? (s.trainFars (l ++ (p, rate, width, cap) :: r)).farPorts p = some (farTrained pid rate width cap) := by
  have hsplit : s.trainFars (l ++ (p, rate, width, cap) :: r) = ((s.trainFars l).trainFar p rate width cap).trainFars r := by
    simp only [State.trainFars, List.foldl_append, List.foldl_cons]
  obtain ⟨pid, h⟩ := (s.trainFars l).trainFar_eq rate width cap hp
  refine ⟨pid, ?_⟩
  rw [hsplit, State.find_farPorts_trainFars_of_unnamed r _ hr, h, FMap.find?_insert_self]

/-- The ports whose peers offered another major version, as they are reported. -/
def refusedPorts (l : List (Nat × Nat × Nat)) : List Report :=
  (l.filter fun x => decide (x.1 < 24 ∧ x.2.1 ≠ 1)).map fun x => .portDown x.1

/-- The training of a Ubham port changes nothing but the ports of its tier, and reports one whose peer is refused. -/
theorem State.trainUbham_frame (s : State) (x : Nat × Nat × Nat) : s.trainUbham x.1 x.2.1 x.2.2 =
    { s with uports := (s.trainUbham x.1 x.2.1 x.2.2).uports, reports := s.reports ++ refusedPorts [x] } := by
  obtain ⟨port, major, minor⟩ := x
  by_cases hp : port < 24
  · by_cases hm : major = 1
    · subst hm
      rw [s.trainUbham_of_major_one minor hp]
      simp [refusedPorts, State.setUport]
    · rw [s.trainUbham_of_other_major minor hp hm]
      simp [refusedPorts, State.setUport, State.report, hp, hm]
  · have h : s.trainUbham port major minor = s := by rw [State.trainUbham, if_pos (by omega)]
    rw [h]
    simp [refusedPorts, hp]

/-- The training of a Ubham port leaves the others. -/
theorem State.find_uports_trainUbham_ne (s : State) {port p : Nat} (major minor : Nat) (h : p ≠ port) :
    FMap.find? (s.trainUbham port major minor).uports p = FMap.find? s.uports p := by
  unfold State.trainUbham
  split
  · rfl
  · split <;> exact FMap.find?_insert_ne _ _ h

theorem State.trainUbhams_frame (l : List (Nat × Nat × Nat)) (s : State) :
    s.trainUbhams l = { s with uports := (s.trainUbhams l).uports, reports := s.reports ++ refusedPorts l } := by
  induction l generalizing s with
  | nil => simp [refusedPorts, State.trainUbhams]
  | cons x r ih =>
    have hcons : refusedPorts (x :: r) = refusedPorts [x] ++ refusedPorts r := by
      simp only [refusedPorts, ← List.map_append, ← List.filter_append, List.singleton_append]
    have hstep : s.trainUbhams (x :: r) = (s.trainUbham x.1 x.2.1 x.2.2).trainUbhams r := rfl
    rw [hstep, ih, State.trainUbham_frame, hcons]
    simp

/-- A Ubham port that is not named stays as it was. -/
theorem State.find_uports_trainUbhams_of_unnamed {p : Nat} (l : List (Nat × Nat × Nat)) (s : State)
    (h : ∀ x ∈ l, x.1 ≠ p) : FMap.find? (s.trainUbhams l).uports p = FMap.find? s.uports p := by
  induction l generalizing s with
  | nil => rfl
  | cons x r ih =>
    change FMap.find? ((s.trainUbham x.1 x.2.1 x.2.2).trainUbhams r).uports p = _
    rw [ih _ fun y hy => h y (List.mem_cons_of_mem _ hy), State.find_uports_trainUbham_ne]
    exact (h x List.mem_cons_self).symm

/-- What a Ubham port holds after its training (R279). -/
def ubhamTrained (retries major minor : Nat) : UPort :=
  if major = 1 then { st := 1, maj := 1, min := min minor 1, retries := retries }
  else { st := 3, maj := 0, min := 0, retries := retries }

/-- A Ubham port stands as its last training left it. -/
theorem State.find_uports_trainUbhams_of_last {p major minor : Nat} {l r : List (Nat × Nat × Nat)} (s : State)
    (hp : p < 24) (hr : ∀ x ∈ r, x.1 ≠ p) : ∃ retries,
    FMap.find? (s.trainUbhams (l ++ (p, major, minor) :: r)).uports p = some (ubhamTrained retries major minor) := by
  have hsplit : s.trainUbhams (l ++ (p, major, minor) :: r) = ((s.trainUbhams l).trainUbham p major minor).trainUbhams r := by
    simp only [State.trainUbhams, List.foldl_append, List.foldl_cons]
  refine ⟨((s.trainUbhams l).uport p).retries, ?_⟩
  rw [hsplit, State.find_uports_trainUbhams_of_unnamed r _ hr]
  by_cases hm : major = 1
  · subst hm
    rw [State.trainUbham_of_major_one _ minor hp, State.find_uports_setUport, ubhamTrained, if_pos rfl]
  · rw [State.trainUbham_of_other_major _ minor hp hm, ubhamTrained, if_neg hm]
    exact State.find_uports_setUport _ p _

/-- The training of all ports at a boot changes nothing but the ports, and reports the refused ones. -/
theorem State.trainPorts_frame (s : State) (boot : Config.Boot) : s.trainPorts boot = { s with
    farPorts := (s.trainPorts boot).farPorts, uports := (s.trainPorts boot).uports
    reports := s.reports ++ refusedPorts boot.links } := by
  rw [State.trainPorts_eq, State.trainUbhams_frame, State.trainFars_frame]

/-! ### The device record (R362) -/

/-- A sum of the powers of two that some numbers below `n` pick has exactly those bits. -/
theorem testBit_sumOfBits (P : Nat → Bool) (n : Nat) :
    (List.range n).foldl (fun a k => if P k then a + 2 ^ k else a) 0 < 2 ^ n ∧
      ∀ j, ((List.range n).foldl (fun a k => if P k then a + 2 ^ k else a) 0).testBit j = (decide (j < n) && P j) := by
  induction n with
  | zero => simp
  | succ n ih =>
    rw [List.range_succ, List.foldl_append]
    generalize (List.range n).foldl (fun a k => if P k then a + 2 ^ k else a) 0 = a at ih
    obtain ⟨hlt, hbits⟩ := ih
    simp only [List.foldl_cons, List.foldl_nil]
    have hpow : 2 ^ (n + 1) = 2 ^ n + 2 ^ n := by omega
    cases hP : P n with
    | false =>
      refine ⟨by simp only [Bool.false_eq_true, if_false]; omega, fun j => ?_⟩
      simp only [Bool.false_eq_true, if_false, hbits]
      by_cases hj : j = n
      · subst hj; simp [hP]
      · congr 1; simp; omega
    | true =>
      simp only [if_true, Nat.add_comm a]
      refine ⟨by omega, fun j => ?_⟩
      rcases Nat.lt_trichotomy j n with hj | rfl | hj
      · rw [Nat.testBit_two_pow_add_gt hj, hbits]
        simp [hj, Nat.lt_succ_of_lt hj]
      · rw [Nat.testBit_two_pow_add_eq, hbits]
        simp [hP]
      · rw [Nat.testBit_lt_two_pow (Nat.lt_of_lt_of_le (by omega) (Nat.pow_le_pow_right (by omega) hj))]
        simp; omega

/-- A word of the device record, by its place. -/
theorem deviceRecord_getD (s : State) {i : Nat} (h : i < 58) :
    (deviceRecord s).getD i 0 = deviceWord s.fused s.secver s.farPorts s.uports i := by
  simp [deviceRecord, List.getD_eq_getElem?_getD, h]

/-- The words of the fused map: bit `p` of the record's words from 2 on (R362). -/
theorem getLsbD_deviceWord_fused (f : List Nat) (sv : Nat) (fp : FMap FarPort) (up : FMap UPort) {p : Nat} (h : p < 1024) :
    (deviceWord f sv fp up (2 + p / 64)).getLsbD (p % 64) = true ↔ p ∈ f := by
  have hbits := (testBit_sumOfBits (fun k => f.contains (64 * (p / 64) + k)) 64).2 (p % 64)
  have hp : 64 * (p / 64) + p % 64 = p := Nat.div_add_mod p 64
  rw [hp] at hbits
  rw [deviceWord, if_neg (by omega), if_neg (by omega), if_pos (by omega), Nat.add_sub_cancel_left, BitVec.getLsbD_ofNat, hbits]
  simp [Nat.mod_lt p]

/-- The word of a second-tier port that has not trained. -/
theorem deviceWord_far_of_untrained (f : List Nat) (sv : Nat) {fp : FMap FarPort} (up : FMap UPort) {p : Nat} (h : p < 16)
    (hf : FMap.find? fp p = none) : deviceWord f sv fp up (18 + p) = 0 := by
  rw [deviceWord, if_neg (by omega), if_neg (by omega), if_neg (by omega), if_pos (by omega), Nat.add_sub_cancel_left, hf]
  rfl

/-- The word of a second-tier port that has trained at a boot, or is down. -/
theorem deviceWord_farTrained (f : List Nat) (sv : Nat) {fp : FMap FarPort} (up : FMap UPort) {p rate width cap : Nat} {pid : Option Nat}
    (h : p < 16) (hf : FMap.find? fp p = some (farTrained pid rate width cap)) : deviceWord f sv fp up (18 + p) =
      if 1 ≤ rate ∧ rate ≤ 3 ∧ 1 ≤ width ∧ width ≤ 3 then BitVec.ofNat 64 (cap % 2 ^ 48 * 2 ^ 16 + width * 2 ^ 4 + rate) else 0 := by
  rw [deviceWord, if_neg (by omega), if_neg (by omega), if_neg (by omega), if_pos (by omega), Nat.add_sub_cancel_left, hf]
  by_cases hup : 1 ≤ rate ∧ rate ≤ 3 ∧ 1 ≤ width ∧ width ≤ 3
  · simp only [farTrained, if_pos hup, if_neg (show ¬ rate = 0 by omega), Nat.mod_eq_of_lt (show width < 16 by omega),
      Nat.mod_eq_of_lt (show rate < 16 by omega)]
    rfl
  · simp only [farTrained, if_neg hup, if_true]
    rfl

/-- The word of a Ubham port that has not trained. -/
theorem deviceWord_ubham_of_untrained (f : List Nat) (sv : Nat) (fp : FMap FarPort) {up : FMap UPort} {u : Nat}
    (hu : FMap.find? up u = none) : deviceWord f sv fp up (34 + u) = 0 := by
  rw [deviceWord, if_neg (by omega), if_neg (by omega), if_neg (by omega), if_neg (by omega), Nat.add_sub_cancel_left, hu]
  rfl

/-- The word of a Ubham port that has trained at a boot, or whose peer was refused. -/
theorem deviceWord_ubhamTrained (f : List Nat) (sv : Nat) (fp : FMap FarPort) {up : FMap UPort} {u retries major minor : Nat}
    (hu : FMap.find? up u = some (ubhamTrained retries major minor)) : deviceWord f sv fp up (34 + u) =
      BitVec.ofNat 64 (if major = 1 then 2 ^ 8 + 2 ^ 4 + min minor 1 else 3 * 2 ^ 8) := by
  rw [deviceWord, if_neg (by omega), if_neg (by omega), if_neg (by omega), if_neg (by omega), Nat.add_sub_cancel_left, hu]
  by_cases hm : major = 1
  · simp only [ubhamTrained, if_pos hm, Nat.mod_eq_of_lt (show min minor 1 < 16 by omega)]
    rfl
  · simp only [ubhamTrained, if_neg hm]
    rfl

/-! ### Memory at a boot (R154, R278) -/

/-- Part of a memory, by its keys. -/
theorem Memory.get_filter (m : Memory) (P : Nat → Bool) (a : Nat) :
    Memory.get (m.filter fun e => P e.1) a = if P a then m.get a else 0 := by
  induction m with
  | nil => simp [Memory.get, FMap.getD, FMap.find?, Memory.blank]
  | cons e r ih =>
    obtain ⟨k, b⟩ := e
    have hcons (m : Memory) : Memory.get ((k, b) :: m) a = if k = a then b else m.get a := by
      simp only [Memory.get, FMap.getD, FMap.find?]
      split <;> rfl
    rw [List.filter_cons, hcons]
    by_cases hk : k = a
    · subst hk
      cases hP : P k with
      | true => simp [hcons]
      | false => rw [if_neg (by simp), ih, hP]; rfl
    · rw [if_neg hk, ← ih]
      split
      · rw [hcons, if_neg hk]
      · rfl

/-- A table without a key has no entry of it. -/
theorem FMap.find?_of_not_mem_keys {α : Type} {m : FMap α} {n : Nat} (h : n ∉ FMap.keys m) : FMap.find? m n = none := by
  induction m with
  | nil => rfl
  | cons e r ih =>
    obtain ⟨k, v⟩ := e
    obtain ⟨hk, hr⟩ := List.ne_and_not_mem_of_not_mem_cons h
    rw [FMap.find?, if_neg hk.symm, ih hr]

/-- Bytes put one after another, at distinct keys: each stands, and the others are as they were. -/
theorem Memory.get_foldl_set (l : List Host.Cell) (h : (FMap.keys l).Nodup) (m : Memory) (a : Nat) :
    Memory.get (l.foldl (fun m c => m.set c.1 c.2) m) a = (FMap.find? l a).getD (m.get a) := by
  induction l generalizing m with
  | nil => rfl
  | cons e r ih =>
    obtain ⟨k, b⟩ := e
    obtain ⟨hk, hr⟩ := List.nodup_cons.1 h
    rw [List.foldl_cons, ih hr, FMap.find?]
    by_cases ha : k = a
    · subst ha
      rw [if_pos rfl, FMap.find?_of_not_mem_keys hk]
      exact Memory.get_set_self m k b
    · rw [if_neg ha, Memory.get_set_ne m b (Ne.symm ha)]

/-- The memory after a boot: the management queue's control block in the first 64 bytes, and what stood there elsewhere (R278). -/
theorem get_bootMemory (m : Memory) (a : Nat) :
    (bootMemory m).get a = if a < 64 then Memory.boot.get a else m.get a := by
  rw [bootMemory, Memory.get_foldl_set _ (by decide)]
  split
  next h =>
    have hlen : a < (List.replicate 64 (0 : Byte)).length := by simpa using h
    have hzero := Memory.get_write_inside m 0 a (List.replicate 64 0) hlen
    rw [Nat.zero_add, List.getElem_replicate] at hzero
    rw [hzero]
    rfl
  next h =>
    have habove : ∀ k ∈ FMap.keys Memory.boot, k < 64 := by decide
    rw [FMap.find?_of_not_mem_keys fun hk => h (habove a hk)]
    rw [Option.getD_none, Memory.get_write_outside]
    rw [List.length_replicate]
    omega

/-! ### The end of a boot (R278) -/

/-- The machine that a boot without a bad step has set up before its ports train, where no queue but the management queue was open: as after
reset, but for the part, its measurements, and what stood behind the homes. -/
def setUp (s : State) (f : List Nat) (sv m lost : Nat) : State :=
  let kept (l : List StackRec) : List StackRec := l.filter (·.queue ≠ 0)
  let mem := bootMemory (s.behind.filter fun e => !State.isSp e.1)
  { State.reset with
    fused := f, secver := sv, fuseMin := m, mem := mem, behind := mem, free := s.free + 1, tick := s.tick, agenda := s.agenda
    poison := s.memoryFlags.filter fun w => 8 ≤ w.1, nextQueue := Nat.max 1 s.nextQueue
    stackA := (s.loseStack lost).stackA.map kept, stackB := (s.loseStack lost).stackB.map kept
    reports := s.reports, temps := s.temps, images := s.images
    meas1 := Config.digest 1 [Config.freeValue s.free], meas2 := Config.digest 2 ((sv :: m :: f).map (BitVec.ofNat 64 ·)) }

/-- A boot that fails (R278). -/
theorem exec_powerOnReset_of_bad {s : State} {fused : List Nat} {sv step : Nat} {boot : Config.Boot} (h1 : 1 ≤ step)
    (h : bootFails (fuseMap fused) sv (max s.fuseMin boot.minver) boot.verified boot.fail = step) :
    exec (.powerOnReset fused sv boot) s = .next
      ((({ s with fuseMin := max s.fuseMin boot.minver } : State).loseStack boot.lost).recovery boot step) := by
  change Host.Outcome.next (if bootFails (fuseMap fused) sv (max s.fuseMin boot.minver) boot.verified boot.fail ≠ 0 then _ else _) = _
  subst h
  rw [if_pos (by omega)]
  rfl

/-- A boot without a bad step (R278), where no queue but the management queue was open. -/
theorem exec_powerOnReset_of_good {s : State} {fused : List Nat} {sv : Nat} {boot : Config.Boot} (hq : ∀ e ∈ s.queues, e.1 = 0)
    (h : bootFails (fuseMap fused) sv (max s.fuseMin boot.minver) boot.verified boot.fail = 0) :
    exec (.powerOnReset fused sv boot) s = .next (State.copyStacks
      (((setUp s (fuseMap fused) sv (max s.fuseMin boot.minver) boot.lost).trainPorts boot).report
        (.device (deviceRecord ((setUp s (fuseMap fused) sv (max s.fuseMin boot.minver) boot.lost).trainPorts boot))))) := by
  have hold : (({ s with fuseMin := max s.fuseMin boot.minver } : State).loseStack boot.lost).queues.filter (·.1 ≠ 0) = [] :=
    List.filter_eq_nil_iff.2 fun e he => by simp [hq e he]
  change Host.Outcome.next (if bootFails (fuseMap fused) sv (max s.fuseMin boot.minver) boot.verified boot.fail ≠ 0 then _ else _) = _
  rw [if_neg (by omega)]
  simp only [hold, List.foldl_nil]
  rfl

/-- A boot that fails leaves the device off, and reports its bad step, and before it the refused ports where they had trained. -/
theorem State.recovery_eq (s : State) (boot : Config.Boot) (step : Nat) : ∃ t, s.recovery boot step = t ∧ t.on = false ∧
    t.issuing = none ∧ t.fuseMin = s.fuseMin ∧
    t.reports = s.reports ++ (if 5 < step then refusedPorts boot.links else []) ++ [.bootFailed step] := by
  refine ⟨_, rfl, ?_⟩
  rw [State.recovery]
  split
  · rw [State.trainPorts_frame]
    exact ⟨rfl, rfl, rfl, rfl⟩
  · rw [List.append_nil]
    exact ⟨rfl, rfl, rfl, rfl⟩

/-- The record's words of the second-tier ports, as they have trained at the boot (R362). -/
theorem deviceRecord_far (s : State) (boot : Config.Boot) {p : Nat} (hp : p < 16) :
    ((∀ x ∈ boot.far, x.1 ≠ p) → (deviceRecord (s.trainPorts boot)).getD (18 + p) 0 = 0) ∧
    ∀ l r rate width cap, boot.far = l ++ (p, rate, width, cap) :: r → (∀ x ∈ r, x.1 ≠ p) →
      (deviceRecord (s.trainPorts boot)).getD (18 + p) 0 =
        if 1 ≤ rate ∧ rate ≤ 3 ∧ 1 ≤ width ∧ width ≤ 3 then BitVec.ofNat 64 (cap % 2 ^ 48 * 2 ^ 16 + width * 2 ^ 4 + rate) else 0 := by
  have hports : (s.trainPorts boot).farPorts = (({ s with uports := [], farPorts := [] } : State).trainFars boot.far).farPorts := by
    rw [State.trainPorts_eq, State.trainUbhams_frame]
  rw [deviceRecord_getD _ (by omega)]
  refine ⟨fun hnone => deviceWord_far_of_untrained _ _ _ hp ?_, fun l r rate width cap hl hr => ?_⟩
  · rw [hports, State.find_farPorts_trainFars_of_unnamed _ _ hnone]
    rfl
  · obtain ⟨pid, hfar⟩ := State.find_farPorts_trainFars_of_last (rate := rate) (width := width) (cap := cap) (l := l)
      ({ s with uports := [], farPorts := [] } : State) hp hr
    exact deviceWord_farTrained _ _ _ hp (by rw [hports, hl]; exact hfar)

/-- The record's words of the Ubham ports, as they have trained at the boot (R362). -/
theorem deviceRecord_ubham (s : State) (boot : Config.Boot) {u : Nat} (hu : u < 24) :
    ((∀ x ∈ boot.links, x.1 ≠ u) → (deviceRecord (s.trainPorts boot)).getD (34 + u) 0 = 0) ∧
    ∀ l r maj mn, boot.links = l ++ (u, maj, mn) :: r → (∀ x ∈ r, x.1 ≠ u) →
      (deviceRecord (s.trainPorts boot)).getD (34 + u) 0 =
        BitVec.ofNat 64 (if maj = 1 then 2 ^ 8 + 2 ^ 4 + min mn 1 else 3 * 2 ^ 8) := by
  rw [deviceRecord_getD _ (by omega), State.trainPorts_eq]
  refine ⟨fun hnone => deviceWord_ubham_of_untrained _ _ _ ?_, fun l r maj mn hl hr => ?_⟩
  · rw [State.find_uports_trainUbhams_of_unnamed _ _ hnone, State.trainFars_frame]
    rfl
  · obtain ⟨retries, hport⟩ := State.find_uports_trainUbhams_of_last (major := maj) (minor := mn) (l := l)
      (({ s with uports := [], farPorts := [] } : State).trainFars boot.far) hu hr
    exact deviceWord_ubhamTrained _ _ _ (by rw [hl]; exact hport)

/-- The record's words of the image, the usable cores and the fused map (R362). -/
theorem deviceRecord_part (s : State) (h : s.secver < 2 ^ 16) : (deviceRecord s).length = 58 ∧
    (deviceRecord s).getD 0 0 = BitVec.ofNat 64 (s.secver * 2 ^ 32 + 2 ^ 24 + (1024 - s.fused.length)) ∧
    ∀ p, p < 1024 → (((deviceRecord s).getD (2 + p / 64) 0).getLsbD (p % 64) = true ↔ p ∈ s.fused) := by
  refine ⟨by simp [deviceRecord], ?_, fun p hp => ?_⟩
  · rw [deviceRecord_getD _ (by omega), deviceWord, if_pos rfl, Nat.mod_eq_of_lt h]
    rfl
  · rw [deviceRecord_getD _ (by omega), getLsbD_deviceWord_fused _ _ _ _ hp]

theorem setUp_mem (s : State) (f : List Nat) (sv m lost : Nat) :
    (setUp s f sv m lost).mem = bootMemory (s.behind.filter fun e => !State.isSp e.1) := by
  simp only [setUp]

/-- The memory after a boot: the management queue's control block, and elsewhere what stands behind the homes (R154, R278). -/
theorem get_setUp_mem (s : State) (f : List Nat) (sv m lost a : Nat) : (setUp s f sv m lost).mem.get a =
    if a < 64 then Memory.boot.get a else if State.isSp a then 0 else s.behind.get a := by
  rw [setUp_mem, get_bootMemory, Memory.get_filter s.behind (fun k => !State.isSp k)]
  cases State.isSp a <;> rfl

/-- What a boot without a bad step has set up, its ports trained (R278): as after reset, but for the part, its reports and its memory. -/
structure Booted (s : State) (f : List Nat) (sv m : Nat) (boot : Config.Boot) (t : State) : Prop where
  on : t.on = true
  fused : t.fused = f
  secver : t.secver = sv
  fuseMin : t.fuseMin = m
  cores : t.cores = []
  clusters : t.clusters = []
  parts : t.parts = State.reset.parts
  vfs : t.vfs = State.reset.vfs
  queues : t.queues = State.reset.queues
  pcap : t.pcap = 2700
  mem (a : Nat) : t.mem.get a = if a < 64 then Memory.boot.get a else if State.isSp a then 0 else s.behind.get a
  reports : t.reports = s.reports ++ refusedPorts boot.links

theorem State.trainPorts_mem (s : State) (boot : Config.Boot) : (s.trainPorts boot).mem = s.mem := by
  rw [State.trainPorts_frame]

theorem State.copyStacks_report_mem (s : State) (r : Report) : (s.report r).copyStacks.mem = s.mem := rfl

theorem booted_trainPorts (s : State) (f : List Nat) (sv m : Nat) (boot : Config.Boot) :
    Booted s f sv m boot ((setUp s f sv m boot.lost).trainPorts boot) := by
  have hmem (a : Nat) : ((setUp s f sv m boot.lost).trainPorts boot).mem.get a =
      if a < 64 then Memory.boot.get a else if State.isSp a then 0 else s.behind.get a := by
    rw [State.trainPorts_mem, get_setUp_mem]
  revert hmem
  rw [State.trainPorts_frame]
  exact fun hmem => ⟨rfl, rfl, rfl, rfl, rfl, rfl, rfl, rfl, rfl, rfl, hmem, rfl⟩

/-- R278: how a boot fails, and what it leaves where it does not. -/
theorem devicesBoot : Claims.DevicesBoot := by
  intro s fused sv boot f m bad refused
  have hbad (i : Nat) : bad i ↔ bootBad (fuseMap fused) sv m boot i := by
    simp only [bootBad, mem_fuseMap_zero]
    rfl
  refine ⟨fun step h1 h7 hstep hfirst => ?bad, fun hgood hq => ?good⟩
  case bad =>
    have hfails := bootFails_of_first h1 h7 ((hbad step).1 hstep) fun i hi hlt h => hfirst i hi hlt ((hbad i).2 h)
    refine ⟨_, exec_powerOnReset_of_bad h1 hfails, ?_⟩
    obtain ⟨t, ht, hrest⟩ := State.recovery_eq (({ s with fuseMin := m } : State).loseStack boot.lost) boot step
    rw [ht]
    exact hrest
  case good =>
    have hfails := bootFails_eq_zero fun i h1 h7 h => hgood i h1 h7 ((hbad i).2 h)
    obtain ⟨hmin, hlt⟩ : m ≤ sv ∧ sv < 2 ^ 16 := by
      have h2 : ¬ (boot.verified = false ∨ sv < m ∨ 2 ^ 16 ≤ sv) := fun h => hgood 2 (by omega) (by omega) (Or.inr (Or.inl ⟨rfl, h⟩))
      omega
    have hexec := exec_powerOnReset_of_good hq hfails
    rw [show fuseMap fused = f from rfl, show max s.fuseMin boot.minver = m from rfl] at hexec
    clear_value f m -- the map of the part is not to be evaluated
    refine ⟨_, hexec, ?_⟩
    obtain ⟨hon, hfused, hsv, hfuseMin, hcores, hclusters, hparts, hvfs, hqueues, hpcap, hmem, hreports⟩ :=
      booted_trainPorts s f sv m boot
    obtain ⟨hlen, hzero, hmap⟩ := deviceRecord_part ((setUp s f sv m boot.lost).trainPorts boot) (by rw [hsv]; exact hlt)
    rw [hsv, hfused] at hzero
    rw [hfused] at hmap
    refine ⟨hon, hfused, hsv, hfuseMin, hfuseMin.trans_le (hmin.trans_eq hsv.symm), hcores, hclusters, hparts, hvfs, hqueues, hpcap,
      fun a ha => ?_, fun a ha => ?_, _, congrArg (· ++ _) hreports,
      hlen, hzero, hmap, fun p hp => deviceRecord_far _ boot hp, fun u hu => deviceRecord_ubham _ boot hu⟩
    · rw [State.copyStacks_report_mem, hmem, if_neg (by omega)]
    · rw [State.copyStacks_report_mem, hmem, if_pos ha]

/-! ### Slices at which no request waits (R152) -/

/-- No request waits at a slice: in its miss table, at its input, or for its filter (R152). -/
structure Slice.Idle (k : Slice) : Prop where
  waiters : ∀ e ∈ k.miss, e.waiters = []
  stalled : k.stalled = []
  filterWait : k.filterWait = []

namespace Slice.Idle
variable {k : Slice} (h : k.Idle)
include h

theorem waiters_of_entry? {line : Nat} {e : MissEntry} (he : k.entry? line = some e) : e.waiters = [] :=
  h.waiters e (List.mem_of_find?_eq_some he)

theorem putLine (set : Nat) (l : L2Line) : (k.putLine set l).Idle := ⟨h.waiters, h.stalled, h.filterWait⟩

theorem dropLine (set line : Nat) : (k.dropLine set line).Idle := ⟨h.waiters, h.stalled, h.filterWait⟩

theorem putEntry {e : MissEntry} (he : e.waiters = []) : (k.putEntry e).Idle := by
  rw [Slice.putEntry]
  split
  · refine ⟨fun x hx => ?_, h.stalled, h.filterWait⟩
    obtain ⟨y, hy, rfl⟩ := List.mem_map.1 hx
    split
    · exact he
    · exact h.waiters y hy
  · refine ⟨fun x hx => ?_, h.stalled, h.filterWait⟩
    obtain hx | hx := List.mem_append.1 hx
    · exact h.waiters x hx
    · rw [List.mem_singleton.1 hx, he]

/-- A request that meets an idle slice leaves it so, but for itself (R152, R153). -/
theorem access (set line sector vf limit tick : Nat) (m : BitVec 32) (rd wr : Bool) :
    (k.access set line sector vf limit tick m rd wr).slice.Idle := by
  unfold Slice.access
  extract_lets full mask res pend
  have hpend {k' : Slice} (hk : k'.Idle) (l : L2Line) (hit : Bool) (out gone : Option Nat) : (pend k' l hit out gone).slice.Idle := by
    simp only [pend]
    split
    next e he => exact (hk.putLine _ _).putEntry (h.waiters_of_entry? (e := e) he)
    next =>
      split
      · exact (hk.putLine _ _).putEntry rfl
      · exact h
  split
  next l _ =>
    dsimp only
    split
    · exact h.putLine _ _
    · split
      next e p he =>
        obtain ⟨x, hx, hp⟩ := Option.bind_eq_some_iff.1 he
        obtain ⟨q, -, hq⟩ := Option.map_eq_some_iff.1 hp
        cases hq
        split
        · exact h.putLine _ _
        · exact (h.putLine _ _).putEntry (h.waiters_of_entry? (e := e) hx)
      next => exact hpend h _ _ _ _
  next =>
    split
    · exact h
    · split
      next => exact h
      next w old _ =>
        split
        next => exact hpend h _ _ _ _
        next o _ =>
          have hdrop := h.dropLine set o.line
          split
          · refine hpend ?_ _ _ _ _
            exact ⟨hdrop.waiters, hdrop.stalled, hdrop.filterWait⟩
          · exact hpend hdrop _ _ _ _

end Slice.Idle

/-! ### What happens at slices where no request waits (R151-R154) -/

theorem FMap.find?_eq_none_iff {α : Type} {m : FMap α} {n : Nat} : FMap.find? m n = none ↔ ∀ e ∈ m, e.1 ≠ n := by
  induction m with
  | nil => simp [FMap.find?]
  | cons e r ih =>
    obtain ⟨k, v⟩ := e
    rw [FMap.find?, List.forall_mem_cons, ← ih]
    by_cases h : k = n <;> simp [h]

theorem FMap.find?_filter_eq_none {α : Type} {m : FMap α} {n : Nat} (p : Nat × α → Bool) (h : FMap.find? m n = none) :
    FMap.find? (m.filter p) n = none :=
  FMap.find?_eq_none_iff.2 fun e he => FMap.find?_eq_none_iff.1 h e (List.mem_of_mem_filter he)

theorem FMap.find?_erase_eq_none {α : Type} {m : FMap α} {n : Nat} (j : Nat) (h : FMap.find? m n = none) :
    FMap.find? (FMap.erase m j) n = none :=
  FMap.find?_eq_none_iff.2 fun e he => FMap.find?_eq_none_iff.1 h e (FMap.mem_erase he)

/-- Entries under other keys that are put in one after another leave a key without an entry. -/
theorem FMap.find?_foldl_insert_eq_none {α β : Type} (l : List β) (key : β → Nat) (x : α) {m : FMap α} {n : Nat}
    (hl : ∀ b ∈ l, key b ≠ n) (h : FMap.find? m n = none) : FMap.find? (l.foldl (fun m b => FMap.insert m (key b) x) m) n = none := by
  induction l generalizing m with
  | nil => exact h
  | cons b r ih =>
    obtain ⟨hb, hr⟩ := List.forall_mem_cons.1 hl
    exact ih hr ((FMap.find?_insert_ne m x hb.symm).trans h)

/-- Flags that are copied for a line raise none of a word that has a flag in neither copy (R154). -/
theorem find?_copyFlags_eq_none (line : Nat) {src dst : FMap Unit} {w : Nat} (hs : FMap.find? src w = none)
    (hd : FMap.find? dst w = none) : FMap.find? (State.copyFlags line src dst) w = none := by
  rw [State.copyFlags]
  refine FMap.find?_foldl_insert_eq_none _ _ _ (fun e he => ?_) (FMap.find?_filter_eq_none _ hd)
  exact FMap.find?_eq_none_iff.1 hs e (List.mem_of_mem_filter he)

namespace State

/-- No request waits at any slice. -/
def Idle (s : State) : Prop := ∀ k, (s.slice k).Idle

/-- A word of 8 bytes is poisoned neither at its home nor in the memory behind (R154). -/
def Sound (s : State) (w : Nat) : Prop := FMap.find? s.poison w = none ∧ FMap.find? s.hbmPoison w = none

/-- Flags that a write-back sets raise none of a sound word (R154). -/
theorem Sound.writtenFlags {s : State} {w : Nat} (h : s.Sound w) (line : Nat) : FMap.find? (s.writtenFlags line) w = none := by
  rw [State.writtenFlags]
  generalize (List.range 16).map (16 * line + ·) = l
  obtain ⟨hpoison, hm⟩ := h
  revert hm
  generalize s.hbmPoison = m
  intro hm
  induction l generalizing m with
  | nil => exact hm
  | cons v r ih =>
    rw [List.foldl_cons]
    refine ih _ ?_
    split
    · exact hm
    · split
      next hv =>
        refine (FMap.find?_insert_ne m _ ?_).trans hm
        rintro rfl
        simp [hpoison] at hv
      next => exact FMap.find?_erase_eq_none v hm

end State

/-- A step at slices where no request waits changes the bytes at home as `f` says, and reports nothing; no request waits then either, and
no sound word has become poisoned. -/
structure Performs (f : Memory → Memory) (s t : State) : Prop where
  mem : t.mem = f s.mem
  reports : t.reports = s.reports
  idle : t.Idle
  sound : ∀ w, s.Sound w → t.Sound w

/-- What a step does where no request waits at a slice. -/
def Does (f : Memory → Memory) (s t : State) : Prop := s.Idle → Performs f s t

/-- A step that no peer sees where no request waits at a slice: every byte at home stays. -/
def Unseen (s t : State) : Prop := Does id s t

theorem Does.trans {f g : Memory → Memory} {s t u : State} (h : Does f s t) (k : Does g t u) : Does (g ∘ f) s u := by
  intro hs
  obtain ⟨hmem, hrep, hidle, hsound⟩ := h hs
  obtain ⟨kmem, krep, kidle, ksound⟩ := k hidle
  exact ⟨by rw [kmem, hmem]; rfl, krep.trans hrep, kidle, fun w hw => ksound w (hsound w hw)⟩

/-- A step that changes neither bytes, slices nor poison, and reports nothing. -/
theorem Does.of_fields {f : Memory → Memory} {s t : State} (hm : t.mem = f s.mem) (hr : t.reports = s.reports)
    (hs : t.slices = s.slices) (hp : t.poison = s.poison) (hh : t.hbmPoison = s.hbmPoison) : Does f s t := by
  intro hidle
  refine ⟨hm, hr, fun k => ?_, fun w hw => ?_⟩
  · rw [State.slice, hs]
    exact hidle k
  · rw [State.Sound, hp, hh]
    exact hw

namespace Unseen

theorem refl (s : State) : Unseen s s := Does.of_fields rfl rfl rfl rfl rfl

theorem trans {s t u : State} (h : Unseen s t) (k : Unseen t u) : Unseen s u := Does.trans h k

theorem foldl {α : Type} (l : List α) {g : State → α → State} (h : ∀ t x, Unseen t (g t x)) (s : State) :
    Unseen s (l.foldl g s) := by
  induction l generalizing s with
  | nil => exact refl s
  | cons x r ih => exact (h s x).trans (ih _)

/-- A slice changes. -/
theorem updSlice (s : State) (k : Nat) {f : Slice → Slice} (hf : (s.slice k).Idle → (f (s.slice k)).Idle) :
    Unseen s (s.updSlice k f) := by
  intro h
  refine ⟨rfl, rfl, fun j => ?_, fun _ hw => hw⟩
  by_cases hj : j = k
  · subst hj
    rw [State.slice_updSlice]
    exact hf (h j)
  · rw [State.slice_updSlice_ne s f hj]
    exact h j

/-- A slice changes, and the poison of some words. -/
theorem updSlice_poison (s : State) (k : Nat) {f : Slice → Slice} {p : FMap Unit} (hf : (s.slice k).Idle → (f (s.slice k)).Idle)
    (hp : ∀ w, s.Sound w → FMap.find? p w = none) : Unseen s { s.updSlice k f with poison := p } := by
  intro h
  exact ⟨rfl, rfl, (updSlice s k hf h).idle, fun w hw => ⟨hp w hw, hw.2⟩⟩

/-- The poison of some words changes. -/
theorem of_poison {s t : State} (hm : t.mem = s.mem) (hr : t.reports = s.reports) (hs : t.slices = s.slices)
    (hw : ∀ w, s.Sound w → t.Sound w) : Unseen s t := by
  intro hidle
  refine ⟨hm, hr, fun k => ?_, hw⟩
  rw [State.slice, hs]
  exact hidle k

theorem ticked (s : State) : Unseen s s.ticked := Does.of_fields rfl rfl rfl rfl rfl

theorem publishLine (s : State) (line : Nat) : Unseen s (s.publishLine line) := by
  rw [State.publishLine]
  split
  · exact refl s
  · refine of_poison rfl rfl rfl fun w hw => ⟨hw.1, ?_⟩
    change FMap.find? (if s.holdsLine line then _ else _) w = none
    split
    · exact hw.writtenFlags line
    · exact FMap.find?_filter_eq_none _ hw.2

theorem leaveClean (s : State) (line : Nat) : Unseen s (s.leaveClean line) :=
  of_poison rfl rfl rfl fun _ hw => ⟨find?_copyFlags_eq_none line hw.2 hw.1, FMap.find?_filter_eq_none _ hw.2⟩

theorem enterLine (s : State) (line : Nat) : Unseen s (s.enterLine line) :=
  of_poison rfl rfl rfl fun _ hw => ⟨hw.1, find?_copyFlags_eq_none line hw.1 hw.2⟩

theorem wroteMemory (s : State) (key n : Nat) : Unseen s (s.wroteMemory key n) :=
  of_poison rfl rfl rfl fun _ hw => ⟨hw.1, FMap.find?_filter_eq_none _ hw.2⟩

theorem l2 (s : State) (home key n vf : Nat) (rd wr : Bool) : Unseen s (s.l2 home key n vf rd wr).2 := by
  intro h
  unfold State.l2
  extract_lets a t u v
  have ha : a.slice.Idle := (h _).access _ _ _ _ _ _ _ _ _
  have ht : Unseen s t := by
    simp only [t]
    split
    · exact publishLine s _
    · exact refl s
  have hu : Unseen t u := (updSlice t _ fun _ => ha).trans (ticked _)
  have hv : Unseen u v := by
    simp only [v]
    split
    · exact leaveClean u _
    · exact refl u
  have hw : Unseen v (if a.new then v.enterLine (key / 128) else v) := by
    split
    · exact enterLine v _
    · exact refl v
  exact ((ht.trans hu).trans hv).trans hw h

theorem serveWaiters (s : State) (sl line : Nat) : Unseen s (s.serveWaiters sl line) := by
  intro h
  rw [State.serveWaiters]
  split
  · exact refl s h
  next e he =>
    rw [(h sl).waiters_of_entry? he]
    exact refl s h

theorem retryStalled (s : State) (sl : Nat) : Unseen s (s.retryStalled sl) := by
  intro h
  rw [State.retryStalled, (h sl).stalled]
  exact updSlice s sl (fun hk => ⟨hk.waiters, rfl, hk.filterWait⟩) h

theorem freeEntry (s : State) (sl line : Nat) : Unseen s (s.freeEntry sl line) :=
  updSlice s sl fun hk => ⟨fun e he => hk.waiters e (List.mem_of_mem_filter he), hk.stalled, hk.filterWait⟩

theorem fillSector (s : State) (sl line sector : Nat) : Unseen s (s.fillSector sl line sector) := by
  unfold State.fillSector
  split
  · exact refl s
  next e he =>
    refine updSlice_poison s sl (fun hk => ?_) (fun w hw => ?_)
    · have hput := hk.putEntry (e := { e with pend := FMap.erase e.pend sector }) (hk.waiters_of_entry? (e := e) he)
      exact ⟨hput.waiters, hput.stalled, hput.filterWait⟩
    · refine FMap.find?_foldl_insert_eq_none _ id _ (fun v hv hvw => ?_) hw.1
      have hbad := (List.mem_filter.1 hv).2
      have hnone : FMap.find? s.hbmPoison v = none := by
        rw [show v = w from hvw]
        exact hw.2
      simp [State.fillsPoison, hnone] at hbad

theorem ackWrite (s : State) (sl line : Nat) : Unseen s (s.ackWrite sl line) := by
  intro h
  rw [State.ackWrite, (h sl).filterWait]
  exact (updSlice s sl fun hk => ⟨hk.waiters, hk.stalled, by rw [hk.filterWait]; rfl⟩).trans (retryStalled _ sl) h

theorem ackAll (s : State) (sl : Nat) : Unseen s (s.ackAll sl) := foldl _ (fun t l => ackWrite t sl l) s

theorem returnFills (s : State) (sl : Nat) : Unseen s (s.returnFills sl) :=
  (foldl _ (fun t (e : MissEntry) => foldl _ (fun t q => (fillSector t sl e.line q).trans (serveWaiters _ sl e.line)) t) s).trans
    (foldl _ (fun t (e : MissEntry) => freeEntry t sl e.line) _)

theorem settle (s : State) (sl n : Nat) : Unseen s (s.settle sl n) := by
  induction n generalizing s with
  | zero => exact refl s
  | succ n ih => exact (((returnFills s sl).trans (ackAll _ sl)).trans (retryStalled _ sl)).trans (ih _)

theorem updCluster (s : State) (k : Nat) (f : Cluster → Cluster) : Unseen s (s.updCluster k f) :=
  Does.of_fields rfl rfl rfl rfl rfl

theorem pinLines (s : State) (ls : List (Nat × Nat)) (up : Bool) : Unseen s (s.pinLines ls up) := by
  unfold State.pinLines
  extract_lets t
  have hpin : Unseen s t := by
    refine foldl _ (fun t e => updSlice t _ fun hk => ?_) s
    split
    · exact hk.putLine _ _
    · exact hk
  split
  · exact hpin
  · exact hpin.trans (foldl _ (fun t sl => retryStalled t sl) _)

theorem dropPrefetch (s : State) (cl : Nat) : Unseen s (s.dropPrefetch cl) :=
  (updCluster s cl _).trans (pinLines _ _ false)

theorem makeRoom (s : State) (sl : Nat) (unpin : Bool) : Unseen s (s.makeRoom sl unpin) := by
  unfold State.makeRoom
  extract_lets t cs u
  have ht : Unseen s t := settle s sl _
  have hu : Unseen t u := foldl _ dropPrefetch t
  split
  · exact (ht.trans hu).trans (settle u sl _)
  · exact ht

theorem roomAt (s : State) (home key n vf : Nat) (rd wr : Bool) : Unseen s (s.roomAt home key n vf rd wr) := by
  unfold State.roomAt
  extract_lets ok sl
  split
  · exact refl s
  · split
    · exact makeRoom s sl false
    · exact makeRoom s sl true

theorem readSector (s : State) (home key n vf : Nat) : Unseen s (s.readSector home key n vf) := by
  have hl2 := l2 s home key n vf true false
  simp only [State.readSector]
  split
  · exact (((hl2.trans (fillSector _ _ _ _)).trans (serveWaiters _ _ _)).trans (freeEntry _ _ _)).trans (retryStalled _ _)
  · exact hl2

theorem readThrough (s : State) (home key n vf : Nat) : Unseen s (s.readThrough home key n vf) :=
  foldl _ (fun t _ => readSector t home _ 32 vf) s

theorem flushLine (s : State) (home line : Nat) : Unseen s (s.flushLine home line) := by
  refine (updSlice s _ fun hk => ?_).trans (publishLine _ line)
  dsimp only
  split
  · exact ⟨hk.waiters, hk.stalled, hk.filterWait⟩
  · exact ⟨hk.waiters, hk.stalled, hk.filterWait⟩

theorem ackUntil (s : State) (home n : Nat) : Unseen s (s.ackUntil home n) := by
  induction n generalizing s with
  | zero => exact refl s
  | succ n ih =>
    rw [State.ackUntil]
    split
    · exact refl s
    · exact (ackAll s _).trans (ih _)

theorem flushNow (s : State) (home line : Nat) : Unseen s (s.flushNow home line) :=
  (ackUntil s home _).trans (flushLine _ home line)

end Unseen

/-! ### Writes at homes at which no request waits (R153, R160, R172) -/

theorem FMap.find?_map {α β : Type} (m : FMap α) (f : α → β) (n : Nat) :
    FMap.find? (m.map fun e => (e.1, f e.2)) n = (FMap.find? m n).map f := by
  induction m with
  | nil => rfl
  | cons e r ih =>
    rw [List.map_cons, FMap.find?, FMap.find?, ih]
    split <;> rfl

theorem Memory.write_append (m : Memory) (a : Nat) (l r : List Byte) : m.write a (l ++ r) = (m.write a l).write (a + l.length) r := by
  induction l generalizing m a with
  | nil => rfl
  | cons b l ih =>
    rw [List.length_cons, Nat.add_comm l.length, ← Nat.add_assoc]
    exact ih (m.set a b) (a + 1)

/-- Bytes that are written in two parts. -/
theorem Memory.write_take_drop (m : Memory) (a n : Nat) (bs : List Byte) :
    m.write a bs = (m.write a (bs.take n)).write (a + n) (bs.drop n) := by
  rcases Nat.le_total n bs.length with h | h
  · have hlen : (bs.take n).length = n := List.length_take_of_le h
    have happ := Memory.write_append m a (bs.take n) (bs.drop n)
    rwa [hlen, List.take_append_drop] at happ
  · rw [List.take_of_length_le h, List.drop_eq_nil_of_le h]
    rfl

namespace Unseen

theorem updCore (s : State) (c : Nat) (f : Core → Core) : Unseen s (s.updCore c f) := Does.of_fields rfl rfl rfl rfl rfl

theorem updSlot (s : State) (c n : Nat) (f : Slot → Slot) : Unseen s (s.updSlot c n f) := Does.of_fields rfl rfl rfl rfl rfl

theorem updSlotV (s : State) (c vk n : Nat) (f : Slot → Slot) : Unseen s (s.updSlotV c vk n f) :=
  Does.of_fields rfl rfl rfl rfl rfl

theorem setMarks (s : State) (key : Nat) (ms : List Mark) : Unseen s (s.setMarks key ms) := Does.of_fields rfl rfl rfl rfl rfl

theorem homeDirect (s : State) (c key n : Nat) (cached : Bool) : Unseen s (s.homeDirect c key n cached) := by
  rw [State.homeDirect]
  split
  · exact updCore s c _
  · exact refl s

theorem finishAcquire (s : State) (c vk n : Nat) (acq sys keep : Bool) (ms : List Mark) (ws : List Wr) :
    Unseen s (s.finishAcquire c vk n acq sys keep ms ws) := by
  rw [State.finishAcquire]
  split
  · split
    · exact (updCore s c _).trans (updSlotV _ c vk n _)
    · exact updSlotV s c vk n _
  · exact updSlotV s c vk n _

theorem recompareAt (s : State) (c n key : Nat) : Unseen s (s.recompareAt c n key) := by
  unfold State.recompareAt
  split
  · split
    · exact refl s
    · split
      · exact updSlot s c n _
      · split
        · exact updSlot s c n _
        · split
          · exact (homeDirect s c _ _ _).trans (finishAcquire _ c _ n _ _ _ _ _)
          · exact refl s
  · exact refl s

theorem recompare (s : State) (key : Nat) : Unseen s (s.recompare key) := by
  rw [State.recompare]
  refine foldl _ (fun t e => ?_) s
  exact foldl _ (fun t n => recompareAt t e.1 n key) t

end Unseen

namespace Does

/-- A step that no peer sees comes after. -/
theorem unseen {f : Memory → Memory} {s t u : State} (h : Does f s t) (k : Unseen t u) : Does f s u := h.trans k

/-- A step that no peer sees comes before. -/
theorem after {f : Memory → Memory} {s t u : State} (k : Does f t u) (h : Unseen s t) : Does f s u := Does.trans h k

theorem putHome (s : State) (key : Nat) (bs : List Byte) : Does (·.write key bs) s (s.putHome key bs) := by
  intro h
  refine ⟨rfl, rfl, h, fun w hw => ⟨?_, hw.2⟩⟩
  change FMap.find? (if bs.length = 8 then _ else _) w = none
  split
  · exact FMap.find?_erase_eq_none _ hw.1
  · exact hw.1

theorem storeHome (s : State) (key : Nat) (bs : List Byte) : Does (·.write key bs) s (s.storeHome key bs) := by
  rw [State.storeHome]
  exact ((putHome s key bs).unseen (Unseen.setMarks _ key [])).unseen (Unseen.recompare _ key)

/-- Bytes that reach their words one after another are written as they stand (R160). -/
theorem writeHome {n : Nat} (s : State) {key : Nat} {bs : List Byte} (h : key % 8 + bs.length ≤ 8 * n) :
    Does (·.write key bs) s (s.writeHome key n bs) := by
  induction n generalizing s key bs with
  | zero =>
    have hb : bs = [] := List.eq_nil_of_length_eq_zero (by omega)
    subst hb
    exact Unseen.refl s
  | succ n ih =>
    rw [State.writeHome]
    split
    next hb =>
      rw [List.isEmpty_iff.1 hb]
      exact Unseen.refl s
    next =>
      have hfirst := storeHome s key (bs.take (8 - key % 8))
      have hrest := ih (s.storeHome key (bs.take (8 - key % 8))) (key := key + (8 - key % 8)) (bs := bs.drop (8 - key % 8)) (by
        rw [List.length_drop]
        omega)
      have hmem : (fun m : Memory => m.write key bs) =
          (·.write (key + (8 - key % 8)) (bs.drop (8 - key % 8))) ∘ (·.write key (bs.take (8 - key % 8))) := by
        funext m
        exact m.write_take_drop key _ bs
      rw [hmem]
      exact hfirst.trans hrest

/-- A block is written as engines write it (R172). -/
theorem engineWrite (s : State) (key : Nat) (bs : List Byte) : Does (·.write key bs) s (s.engineWrite key bs) := by
  unfold State.engineWrite
  extract_lets t
  have ht : Does (·.write key bs) s t := writeHome s (by omega)
  split
  · exact ht
  · exact (ht.unseen (Unseen.wroteMemory t key bs.length)).unseen (Does.of_fields rfl rfl rfl rfl rfl)

/-- Bytes are written past the line array (R153). -/
theorem memWrite (s : State) (key : Nat) (bs : List Byte) : Does (·.write key bs) s (s.memWrite key bs) := by
  unfold State.memWrite
  extract_lets t meets masked u
  have ht : Does (·.write key bs) s t := engineWrite s key bs
  have hmask (e : MissEntry) : (masked e).waiters = e.waiters := by
    simp only [masked]
    split <;> rfl
  have hu : Unseen t u := by
    refine fun h => ⟨rfl, rfl, fun k => ?_, fun w hw => hw⟩
    have hk := h k
    rw [State.slice, FMap.getD] at hk ⊢
    rw [show FMap.find? u.slices k = _ from FMap.find?_map t.slices (fun x => { x with miss := x.miss.map masked }) k]
    generalize FMap.find? t.slices k = o at hk ⊢
    cases o with
    | none => exact hk
    | some x =>
      refine ⟨fun e he => ?_, hk.stalled, hk.filterWait⟩
      obtain ⟨y, hy, rfl⟩ := List.mem_map.1 he
      exact (hmask y).trans (hk.waiters y hy)
  split
  · exact ht
  · refine (ht.unseen hu).unseen (Unseen.foldl _ (fun v k => ?_) u)
    exact Unseen.foldl _ (fun v (e : MissEntry) => Unseen.serveWaiters v k.1 e.line) v

/-- Bytes are stored through their slice, or past it (R151-R153). -/
theorem storeThrough (s : State) (home key vf : Nat) (bs : List Byte) :
    Does (·.write key bs) s (s.storeThrough home key vf bs) := by
  unfold State.storeThrough
  extract_lets t r
  have ht : Unseen s t := Unseen.roomAt s home key bs.length vf false true
  have hr : Unseen t r.2 := Unseen.l2 t home key bs.length vf false true
  split
  · exact ((writeHome r.2 (by omega)).after (ht.trans hr)).unseen (Unseen.serveWaiters _ _ _)
  · exact (memWrite t key bs).after ht

end Does

/-! ### Operations of peers (R149, R152, R255) -/

/-- A range of sound words is not poisoned (R154). -/
theorem State.poisoned_of_clean {s : State} {key n : Nat} (h : Claims.Clean s key n) : s.poisoned key n = false := by
  refine List.any_eq_false.2 fun i _ hi => ?_
  obtain ⟨hover, hw⟩ := Bool.and_eq_true_iff.1 hi
  obtain ⟨hlo, hhi⟩ := Bool.and_eq_true_iff.1 hover
  obtain ⟨hpoison, hhbm⟩ := h (key / 8 + i) (by have := of_decide_eq_true hlo; omega) (by have := of_decide_eq_true hhi; omega)
  rw [State.wordPoisoned] at hw
  split at hw
  · simp [hhbm] at hw
  · simp [hpoison] at hw

namespace Unseen

/-- A peer's read takes its line as every read does (R151, R152). -/
theorem peerTake (s : State) (o : PeerOp) (key : Nat) (cached : Bool) (home : Nat) : Unseen s (s.peerTake o key cached home) := by
  rw [State.peerTake]
  split
  · exact (roomAt s home key o.size o.vf true false).trans (readThrough _ home key o.size o.vf)
  · exact refl s

/-- The line of a peer's write is published (R149, R166). -/
theorem peerPublish (s : State) (o : PeerOp) (key : Nat) (cached : Bool) (home : Nat) :
    Unseen s (s.peerPublish o key cached home) := by
  rw [State.peerPublish]
  split
  · exact flushNow s home (key / 128)
  · exact (wroteMemory s key o.size).trans (publishLine _ (key / 128))

end Unseen

section
variable {s : State} {o : PeerOp} {key home : Nat} {cached : Bool} (hp : s.peerPlace o = some (key, cached, home))
include hp

/-- A peer's write (R149). -/
theorem State.peerApply_of_write (ho : o.op = 1) : s.peerApply o =
    ((if cached then s.storeThrough home key o.vf (leBytes o.size o.value.toNat) else
      s.storeHome key (leBytes o.size o.value.toNat)).peerPublish o key cached home).report (.peerReply o.win 0) := by
  simp only [State.peerApply, hp, ho, if_true]
  rfl

/-- A peer's read (R149). -/
theorem State.peerApply_of_read (ho : o.op = 0) (hc : (s.peerTake o key cached home).poisoned key o.size = false) :
    s.peerApply o = (s.peerTake o key cached home).report
      (.peerReply o.win (BitVec.ofNat 64 ((s.peerTake o key cached home).home key o.size))) := by
  simp only [State.peerApply, hp, ho, hc, Bool.false_eq_true, if_false, if_true, Nat.zero_ne_one]

/-- A peer's atomic operation that writes (R149). -/
theorem State.peerApply_of_atomic (ho : o.op = 2) (hc : (s.peerTake o key cached home).poisoned key o.size = false) {x : Nat}
    (hx : amoNew o.amo o.size ((s.peerTake o key cached home).home key o.size) o.value.toNat o.cmp.toNat = some x) :
    s.peerApply o = (((((s.peerTake o key cached home).putHome key (leBytes o.size x)).recompare key).peerPublish o key cached home).report
      (.peerReply o.win (BitVec.ofNat 64 ((s.peerTake o key cached home).home key o.size)))) := by
  simp [State.peerApply, hp, ho, hc, hx]

end

/-! What an operation of a peer meets. -/

section
variable {s : State} {port op addr value : Nat} {v : Vf} (hv : s.vfRec (addr / 2 ^ 64) = some v)
include hv

theorem exec_peerOpHeld : exec (.peerOpHeld port op addr value) s = .next (
    if v.moved then s.report (.peerMoved port)
    else if v.paused && (peerOpOf port op addr value).op ≠ 0 then { s with heldOps := s.heldOps ++ [peerOpOf port op addr value] }
    else s) := by
  change execPeerOpHeld port op addr value s = _
  rw [execPeerOpHeld, show s.vfRec (peerOpOf port op addr value).vf = some v from hv]

theorem exec_peerRequest : exec (.peerRequest port op addr value) s = .next (
    if v.moved || (v.paused && (peerOpOf port op addr value).op ≠ 0) || s.peerBehind (peerOpOf port op addr value) then s
    else s.peerApply (peerOpOf port op addr value)) := by
  change execPeerRequest port op addr value s = _
  rw [execPeerRequest, show s.vfRec (peerOpOf port op addr value).vf = some v from hv]

end

/-- Operation 0 is the read (assumption 19). -/
theorem peerOpOf_op_eq_zero_iff (port op addr value : Nat) : (peerOpOf port op addr value).op = 0 ↔ op % 16 = 0 := by
  change min (op % 16) 2 = 0 ↔ _
  omega

/-- Operations 0 to 2 keep their numbers (assumption 19). -/
theorem peerOpOf_op (port addr value : Nat) {op n : Nat} (h : op % 16 = n) (hn : n ≤ 2) : (peerOpOf port op addr value).op = n := by
  change min (op % 16) 2 = n
  omega

/-- Without a request at a slice's input no operation waits behind one (R152). -/
theorem State.peerBehind_of_quiet {s : State} (h : Claims.QuietSlices s) (o : PeerOp) : s.peerBehind o = false := by
  rw [State.peerBehind]
  split
  next key home _ =>
    obtain ⟨-, hstalled, -⟩ := h (home / 256)
    rw [State.stalledOn, State.blockers, hstalled]
    rfl
  next => rfl

/-- A request for the same line at the slice's input, on which nothing is due, holds an operation up (R152, assumption 85). -/
theorem State.peerBehind_of_stalled {s : State} {o : PeerOp} {key home q : Nat} {r : Req} (hp : s.peerPlace o = some (key, true, home))
    (hq : q ∈ (s.slice (home / 256)).stalled) (hr : FMap.find? s.reqs q = some r) (hline : r.key / 128 = key / 128)
    (hdue : r.due = none) : s.peerBehind o = true := by
  have hmem : none ∈ s.blockers (home / 256) key o.size :=
    List.mem_filterMap.2 ⟨q, hq, by simp [hr, hline, hdue]⟩
  have hne := List.ne_nil_of_mem hmem
  simp only [State.peerBehind, hp, State.stalledOn]
  cases h : s.blockers (home / 256) key o.size with
  | nil => exact absurd h hne
  | cons d ds => rfl

/-- What writes some bytes at home writes them and no others. -/
theorem writes_of_mem_eq {s t : State} {key : Nat} {bs : List Byte} (h : t.mem = s.mem.write key bs) : Claims.Writes s t key bs := by
  rw [Claims.Writes, h]
  exact ⟨Memory.read_write _ _ _, fun a ha => Memory.get_write_outside _ _ _ _ ha⟩

/-- Where no request is under way at a slice, none waits. -/
theorem State.idle_of_quiet {s : State} (h : Claims.QuietSlices s) : s.Idle := fun k => by
  obtain ⟨hmiss, hstalled, hfilter⟩ := h k
  exact ⟨by simp [hmiss], hstalled, hfilter⟩

/-- The sum of an add of 8 bytes (R290). -/
theorem amoNew_add_eight (old cmp : Nat) (x : Word) : amoNew .add 8 old x.toNat cmp = some ((old + x.toNat) % 2 ^ 64) := by
  rw [amoNew, Nat.mod_eq_of_lt (show x.toNat < 2 ^ (8 * 8) from x.isLt)]

/-! What a performed operation leaves. -/

section
variable {s : State} {o : PeerOp} {key home : Nat} {cached : Bool} (hp : s.peerPlace o = some (key, cached, home))
  (hq : Claims.QuietSlices s)
include hq

/-- What a peer's read meets once it has taken its line: the bytes of before, and no poison. -/
theorem peerTake_effect (cached : Bool) (home : Nat) (hc : Claims.Clean s key o.size) :
    Performs id s (s.peerTake o key cached home) ∧ (s.peerTake o key cached home).poisoned key o.size = false ∧
      (s.peerTake o key cached home).home key o.size = leVal (s.mem.read key o.size) := by
  have hu := Unseen.peerTake s o key cached home (State.idle_of_quiet hq)
  refine ⟨hu, State.poisoned_of_clean fun w hlo hhi => hu.sound w (hc w hlo hhi), ?_⟩
  rw [State.home, hu.mem]
  rfl

include hp

/-- A peer's read changes no byte and answers with what stands at home (R149). -/
theorem peerApply_read_effect (ho : o.op = 0) (hc : Claims.Clean s key o.size) :
    (s.peerApply o).mem = s.mem ∧
      (s.peerApply o).reports = s.reports ++ [.peerReply o.win (BitVec.ofNat 64 (leVal (s.mem.read key o.size)))] := by
  obtain ⟨hu, hpoison, hhome⟩ := peerTake_effect hq cached home hc
  rw [State.peerApply_of_read hp ho hpoison, hhome]
  exact ⟨hu.mem, congrArg (· ++ _) hu.reports⟩

/-- A peer's write writes its bytes (R149). -/
theorem peerApply_write_effect (ho : o.op = 1) :
    Claims.Writes s (s.peerApply o) key (leBytes o.size o.value.toNat) ∧
      (s.peerApply o).reports = s.reports ++ [.peerReply o.win 0] := by
  rw [State.peerApply_of_write hp ho]
  have hstore : Does (·.write key (leBytes o.size o.value.toNat)) s
      (if cached then s.storeThrough home key o.vf (leBytes o.size o.value.toNat)
      else s.storeHome key (leBytes o.size o.value.toNat)) := by
    split
    · exact Does.storeThrough s home key o.vf _
    · exact Does.storeHome s key _
  have hall := hstore.unseen (Unseen.peerPublish _ o key cached home) (State.idle_of_quiet hq)
  exact ⟨writes_of_mem_eq hall.mem, congrArg (· ++ _) hall.reports⟩

/-- A peer's add of 8 bytes writes the sum and answers with the old value (R149, R290). -/
theorem peerApply_add_effect (ho : o.op = 2) (hamo : o.amo = .add) (hsize : o.size = 8) (hc : Claims.Clean s key o.size) :
    Claims.Writes s (s.peerApply o) key (leBytes 8 ((leVal (s.mem.read key 8) + o.value.toNat) % 2 ^ 64)) ∧
      (s.peerApply o).reports = s.reports ++ [.peerReply o.win (BitVec.ofNat 64 (leVal (s.mem.read key 8)))] := by
  obtain ⟨hu, hpoison, hhome⟩ := peerTake_effect hq cached home hc
  rw [hsize] at hhome
  have hnew : amoNew o.amo o.size ((s.peerTake o key cached home).home key o.size) o.value.toNat o.cmp.toNat =
      some ((leVal (s.mem.read key 8) + o.value.toNat) % 2 ^ 64) := by
    rw [hamo, hsize, hhome, amoNew_add_eight]
  rw [State.peerApply_of_atomic hp ho hpoison hnew, hsize, hhome]
  have hput := Does.putHome (s.peerTake o key cached home) key (leBytes 8 ((leVal (s.mem.read key 8) + o.value.toNat) % 2 ^ 64))
  have hall := ((hput.after (Unseen.peerTake s o key cached home)).unseen (Unseen.recompare _ key)).unseen
    (Unseen.peerPublish _ o key cached home) (State.idle_of_quiet hq)
  exact ⟨writes_of_mem_eq hall.mem, congrArg (· ++ _) hall.reports⟩

end

/-! A window that is retargeted. -/

/-- The mask of a window's peer number. -/
theorem getLsbD_peerMask {i : Nat} (h : i < 64) : (~~~0xFFFF000000#64).getLsbD i = decide (i < 24 ∨ 40 ≤ i) := by
  have hall : ∀ j : Fin 64, (~~~0xFFFF000000#64).getLsbD j.val = decide (j.val < 24 ∨ 40 ≤ j.val) := by decide
  exact hall ⟨i, h⟩

/-- A retargeted window: bits 39 to 24 name the new peer, and the others stay (R255). -/
theorem getLsbD_retarget (w : Word) (peer : Nat) {i : Nat} (h : i < 64) :
    ((w &&& ~~~0xFFFF000000#64) ||| BitVec.ofNat 64 (peer % 2 ^ 16 * 2 ^ 24)).getLsbD i =
      if 24 ≤ i ∧ i < 40 then peer.testBit (i - 24) else w.getLsbD i := by
  rw [BitVec.getLsbD_or, BitVec.getLsbD_and, getLsbD_peerMask h, BitVec.getLsbD_ofNat, Nat.testBit_mul_two_pow, Nat.testBit_mod_two_pow]
  split
  next hi =>
    obtain ⟨hlo, hhi⟩ := hi
    simp [h, hlo, show ¬ i < 24 by omega, show ¬ 40 ≤ i by omega, show i - 24 < 16 by omega]
  next hi =>
    rcases Nat.lt_or_ge i 24 with hlo | hlo
    · simp [hlo, show ¬ 24 ≤ i by omega]
    · simp [show 40 ≤ i by omega, show ¬ i - 24 < 16 by omega]

/-- A window that a MOVED answer has retargeted (R255). -/
def retargeted (x : Window) (peer : Nat) : Window :=
  { x with w1 := (x.w1 &&& ~~~0xFFFF000000#64) ||| BitVec.ofNat 64 (peer % 2 ^ 16 * 2 ^ 24) }

theorem exec_peerMovedReply {s : State} {win : Nat} {x : Window} (peer : Nat) (h : FMap.find? s.windows win = some x) :
    exec (.peerMovedReply win peer) s = .next { s with windows := FMap.insert s.windows win (retargeted x peer) } := by
  change execPeerMovedReply win peer s = _
  rw [execPeerMovedReply, h]
  rfl

theorem retargeted_fields (x : Window) (peer : Nat) : (retargeted x peer).w1.extractLsb' 24 16 = BitVec.ofNat 16 peer ∧
    (retargeted x peer).w1.extractLsb' 40 24 = x.w1.extractLsb' 40 24 ∧
    (retargeted x peer).w1.extractLsb' 0 24 = x.w1.extractLsb' 0 24 := by
  refine ⟨?peer, ?above, ?below⟩ <;> refine BitVec.eq_of_getLsbD_eq fun i hi => ?_
  case peer =>
    rw [BitVec.getLsbD_extractLsb', retargeted, getLsbD_retarget _ _ (by omega), if_pos (by omega), BitVec.getLsbD_ofNat,
      Nat.add_sub_cancel_left]
  case above =>
    rw [BitVec.getLsbD_extractLsb', BitVec.getLsbD_extractLsb', retargeted, getLsbD_retarget _ _ (by omega), if_neg (by omega)]
  case below =>
    rw [BitVec.getLsbD_extractLsb', BitVec.getLsbD_extractLsb', retargeted, getLsbD_retarget _ _ (by omega), if_neg (by omega)]

/-! What becomes of an operation that arrives. -/

section
variable {s : State} {port op addr value : Nat} {v : Vf} (hv : s.vfRec (addr / 2 ^ 64) = some v)
include hv

/-- For a VF that has moved an arrival is answered MOVED (R255). -/
theorem exec_peerOpHeld_of_moved (hm : v.moved = true) :
    exec (.peerOpHeld port op addr value) s = .next (s.report (.peerMoved port)) := by
  rw [exec_peerOpHeld hv, if_pos hm]

/-- A write or an atomic operation for a paused VF is held (R255). -/
theorem exec_peerOpHeld_of_paused (hm : v.moved = false) (hpa : v.paused = true) (hop : op % 16 ≠ 0) :
    exec (.peerOpHeld port op addr value) s = .next { s with heldOps := s.heldOps ++ [peerOpOf port op addr value] } := by
  have hop' : (peerOpOf port op addr value).op ≠ 0 := mt (peerOpOf_op_eq_zero_iff ..).1 hop
  rw [exec_peerOpHeld hv, if_neg (by simp [hm]), if_pos (by simp [hpa, hop'])]

/-- Everything else is not held. -/
theorem exec_peerOpHeld_of_running (hm : v.moved = false) (hrun : v.paused = false ∨ op % 16 = 0) :
    exec (.peerOpHeld port op addr value) s = .next s := by
  have hop := peerOpOf_op_eq_zero_iff port op addr value
  rw [exec_peerOpHeld hv, if_neg (by simp [hm]), if_neg (by simpa [hop] using hrun.elim (fun h h' => by simp [h] at h') (fun h _ => h))]

/-- An operation that is held, answered MOVED or held up at its slice is not performed (R152, R255). -/
theorem exec_peerRequest_of_refused (h : v.moved = true ∨ (v.paused = true ∧ op % 16 ≠ 0) ∨
    s.peerBehind (peerOpOf port op addr value) = true) : exec (.peerRequest port op addr value) s = .next s := by
  have hop := peerOpOf_op_eq_zero_iff port op addr value
  rw [exec_peerRequest hv, if_pos (by simpa [hop, or_assoc] using h)]

/-- Every other operation is performed (R149). -/
theorem exec_peerRequest_of_performed (hm : v.moved = false) (hrun : v.paused = false ∨ op % 16 = 0)
    (hb : s.peerBehind (peerOpOf port op addr value) = false) :
    exec (.peerRequest port op addr value) s = .next (s.peerApply (peerOpOf port op addr value)) := by
  have hop := peerOpOf_op_eq_zero_iff port op addr value
  rw [exec_peerRequest hv, if_neg (by simpa [hm, hb, hop] using hrun.elim (fun h h' => by simp [h] at h') (fun h _ => h))]

end

/-- R149, R152, R255: operations of peers. -/
theorem peersAreServed : Claims.PeersAreServed := by
  refine ⟨?arrivals, fun s win peer x hx => ?moved⟩
  case moved => exact ⟨_, exec_peerMovedReply peer hx, _, rfl, FMap.find?_insert_self _ _ _, rfl, rfl, retargeted_fields x peer⟩
  case arrivals =>
    intro s port op addr value v hv o
    refine ⟨fun hm => ?moved, fun hm hpa hop => ?paused, fun hm hrun => ?running, fun key home q r hm hrun hp hq hr hline hdue => ?behind,
      fun key home cached hm hp hq hc => ?performed⟩
    case moved => exact ⟨⟨_, exec_peerOpHeld_of_moved hv hm, rfl⟩, _, exec_peerRequest_of_refused hv (Or.inl hm), rfl⟩
    case paused =>
      exact ⟨⟨_, exec_peerOpHeld_of_paused hv hm hpa hop, rfl⟩, _, exec_peerRequest_of_refused hv (Or.inr (Or.inl ⟨hpa, hop⟩)), rfl⟩
    case running => exact ⟨_, exec_peerOpHeld_of_running hv hm hrun, rfl⟩
    case behind =>
      exact ⟨_, exec_peerRequest_of_refused hv (Or.inr (Or.inr (State.peerBehind_of_stalled hp hq hr hline hdue))), rfl⟩
    case performed =>
      have hexec := fun hrun => exec_peerRequest_of_performed hv hm hrun (State.peerBehind_of_quiet hq o)
      refine ⟨fun hop => ⟨_, hexec (Or.inr hop), ?read⟩, fun hop hpa => ⟨_, hexec (Or.inl hpa), ?write⟩,
        fun hop hsize hpa => ⟨_, hexec (Or.inl hpa), ?add⟩⟩
      case read => exact peerApply_read_effect hp hq (peerOpOf_op port addr value hop (by omega)) hc
      case write => exact peerApply_write_effect hp hq (peerOpOf_op port addr value hop (by omega))
      case add =>
        have hadd := peerApply_add_effect hp hq (peerOpOf_op port addr value hop (by omega)) (congrArg peerAmo hop)
          (congrArg (2 ^ ·) hsize) hc
        have hvalue : (leVal (s.mem.read key 8) + o.value.toNat) % 2 ^ 64 = (leVal (s.mem.read key 8) + value) % 2 ^ 64 := by
          rw [show o.value.toNat = value % 2 ^ 64 from BitVec.toNat_ofNat value 64, Nat.add_mod_mod]
        rwa [hvalue] at hadd

/-- Settles O56, claim by claim: the peers where no request waits at a slice, whose steps then change no byte but those written. -/
theorem theDeviceAnswersOutside : Obligations.TheDeviceAnswersOutside :=
  ⟨peersAreServed, devicesBoot, attestationAnswers, linksAndLimits, debuggersWork, errorsArePoison⟩

end Sys2Proof.Machine
end

section
/-! Words that the instruction reference writes out (R53, R227, R284-R330), and what SRD reads (R28, R332). Settles O3 and O32. -/

namespace Sys2Proof.Machine

/-- Settles O3: each word by running the decoder. -/
theorem wordsOfTheManualDecode : Obligations.WordsOfTheManualDecode := by
  unfold Obligations.WordsOfTheManualDecode
  decide

/-! ### SRD (R332) -/

/-- SRD on a compute core writes what the register holds, unless it is a generator register and draws are pending (R100). -/
theorem result_srd {s : State} {d : BitVec 6} {y : BitVec 12} {v : Word} (hc : s.cur.core < 2048)
    (hy : State.isRseed y = true → s.drawsPending = false) (hv : s.srdValue y.toNat = v) : Claims.Result (.srd d y) s d v := by
  have hfree : ¬(Config.cscBase ≤ s.cur.core ∧ (y = 1 ∨ y = 2)) := fun h => absurd h.1 (by simp only [Config.cscBase]; omega)
  refine ⟨s.wg d v, ?_, writesG_wg s d v⟩
  change execSrd d y s = _
  unfold execSrd
  rw [hv, if_neg hfree]
  split
  next h => simp [State.afterDraws, hy h, State.wg, State.updMe, State.updSlot, State.setSlot, State.setCore]
  next => rfl

/-- A selector of 0x800 or above reads the register of the core (assumption log entry 52). -/
theorem srdValue_of_firmware (s : State) {n : Nat} (h : 0x800 ≤ n) :
    s.srdValue n = FMap.getD (s.core s.cur.core).fwRegs n 0 := by
  unfold State.srdValue
  simp (disch := omega) only [if_neg]
  rfl

/-- %PMC0-7 (R250). -/
theorem srdValue_of_pmc (s : State) (n : Fin 8) : s.srdValue (0x100 + n) = ((s.cvf s.cur.core).pmc[n]).zeroExtend 64 := by
  unfold State.srdValue
  simp (disch := omega) only [if_neg]
  rw [if_pos (by omega), show (0x100 + n.val) % 8 = n.val by omega]
  simp [Vector.getD]

/-- %PMSEL0-7 (R250). -/
theorem srdValue_of_pmsel (s : State) (n : Fin 8) : s.srdValue (0x110 + n) = (s.cvf s.cur.core).pmsel[n] := by
  unfold State.srdValue
  simp (disch := omega) only [if_neg]
  rw [if_pos (by omega), show (0x110 + n.val) % 8 = n.val by omega]
  simp [Vector.getD]

/-- Settles O32: each register by the branch of `srdValue` for its selector. -/
theorem specialRegisterReads : Obligations.SpecialRegisterReads := by
  intro s d hc x k pos
  have hcsc : ¬ Config.cscBase ≤ s.cur.core := by simp only [Config.cscBase]; omega
  refine ⟨?listed, fun n => ⟨?pmc, ?pmsel⟩, fun cl (hcl : s.src.slot.claim = some cl) => ⟨?vlen, ?vregs⟩,
    fun (hcl : s.src.slot.claim = none) => ⟨?noVlen, ?noVregs⟩, fun hd n => ?rseed, fun y hy => ?firmware⟩
  case listed =>
    simp only [List.forall_mem_cons]
    refine ⟨?_, ?_, ?_, ?_, ?_, ?_, ?_, ?_, ?_, ?_, ?_, ?_, ?_, ?_, ?_, ?_, ?_, ?_, ?_, ?_, ?_, ?_, ?_, ?_, ?_, ?_,
      List.forall_mem_nil _⟩
    all_goals
      refine result_srd hc (fun h => absurd h (by decide)) ?_
      simp [State.srdValue, hcsc, x, k, pos, Nat.mul_comm, BitVec.or_comm, gtidWord, State.here, State.ncore, Config.positions]
  case pmc =>
    have hn : (BitVec.ofNat 12 (0x100 + n)).toNat = 0x100 + n := by simp; omega
    exact result_srd hc (fun h => absurd h (by revert n; decide)) ((congrArg s.srdValue hn).trans (srdValue_of_pmc s n))
  case pmsel =>
    have hn : (BitVec.ofNat 12 (0x110 + n)).toNat = 0x110 + n := by simp; omega
    exact result_srd hc (fun h => absurd h (by revert n; decide)) ((congrArg s.srdValue hn).trans (srdValue_of_pmsel s n))
  case vlen => exact result_srd hc (fun h => absurd h (by decide)) (by simp [State.srdValue, Slot.vlen, hcl])
  case vregs => exact result_srd hc (fun h => absurd h (by decide)) (by simp [State.srdValue, Slot.vregs, hcl])
  case noVlen => exact result_srd hc (fun h => absurd h (by decide)) (by simp [State.srdValue, Slot.vlen, hcl])
  case noVregs => exact result_srd hc (fun h => absurd h (by decide)) (by simp [State.srdValue, Slot.vregs, hcl])
  case rseed =>
    refine result_srd hc (fun _ => drawsPending_of_noDraws hd) ?_
    fin_cases n <;> rfl
  case firmware =>
    have hplain : ¬ State.isRseed y = true := by simp [State.isRseed]; omega
    exact result_srd hc (fun h => absurd h hplain) (srdValue_of_firmware s hy)

end Sys2Proof.Machine
end

section
/-! What the machine keeps account of beside the work of its slots: performance counters with their overflow traps (R250-R253), the
windows of populations (R55, R56), wait tables, FABFLIT's free values. One relation says that nothing else is different. -/

namespace Sys2Proof.Machine

/-! ### Counting events on one core -/

/-- Events have been counted in what a core holds for a VF: its slots differ in a pending overflow trap alone (R250, R253). -/
structure CoreVf.Counted (x y : CoreVf) : Prop where
  rest : { y with slots := x.slots, pmc := x.pmc, pmOvf := x.pmOvf, deferred := x.deferred } = x
  slots : ∀ n, ∃ b, FMap.getD y.slots n {} = { FMap.getD x.slots n {} with pendOvf := b }

namespace CoreVf.Counted

theorem refl (x : CoreVf) : Counted x x := ⟨rfl, fun _ => ⟨_, rfl⟩⟩

theorem trans {x y z : CoreVf} (h : Counted x y) (k : Counted y z) : Counted x z where
  rest := (congrArg (fun y : CoreVf =>
    { y with slots := x.slots, pmc := x.pmc, pmOvf := x.pmOvf, deferred := x.deferred }) k.rest).trans h.rest
  slots n := by
    obtain ⟨b, hb⟩ := h.slots n
    obtain ⟨d, hd⟩ := k.slots n
    exact ⟨d, by rw [hd, hb]⟩

theorem foldl {α : Type} (l : List α) {g : CoreVf → α → CoreVf} (h : ∀ x a, Counted x (g x a)) (x : CoreVf) :
    Counted x (l.foldl g x) := by
  induction l generalizing x with
  | nil => exact refl x
  | cons a r ih => exact (h x a).trans (ih _)

/-- A slot's overflow trap becomes pending, the counters change (R253). -/
theorem of_overflow (x : CoreVf) (pmc : Vector (BitVec 48) 8) (ovf : BitVec 8) (n : Nat) : Counted x { x with
    pmc := pmc, pmOvf := ovf, slots := FMap.insert x.slots n { FMap.getD x.slots n {} with pendOvf := true } } where
  rest := rfl
  slots m := by
    by_cases h : m = n
    · subst h
      exact ⟨true, FMap.getD_insert_self ..⟩
    · exact ⟨_, FMap.getD_insert_ne _ _ _ h⟩

theorem addCounter (x : CoreVf) (i ev sl n : Nat) : Counted x (State.addCounter x i ev sl n) := by
  unfold State.addCounter
  split
  case isFalse => exact refl x
  case isTrue =>
    dsimp only
    split
    case isFalse => exact refl x
    case isTrue =>
      split
      case isFalse => exact ⟨rfl, fun _ => ⟨_, rfl⟩⟩
      case isTrue => exact of_overflow x _ _ _

theorem addEvent (x : CoreVf) (ev sl n : Nat) : Counted x (State.addEvent x ev sl n) :=
  foldl _ (fun x i => addCounter x i ev sl n) x

theorem cycleCounter (x : CoreVf) (i : Nat) : Counted x (Machine.cycleCounter x i) := by
  unfold Machine.cycleCounter
  split
  case isFalse => exact refl x
  case isTrue =>
    dsimp only
    split
    case isTrue => exact addCounter ..
    case isFalse =>
      split
      · exact addCounter ..
      · exact refl x

end CoreVf.Counted

/-! ### Bookkeeping of the machine -/

/-- What a core holds for the VF of a key. -/
def State.cvfV (s : State) (c vk : Nat) : CoreVf := FMap.getD (s.core c).vfs vk {}

theorem State.cvfV_vk (s : State) (c : Nat) : s.cvfV c (s.vk c) = s.cvf c := rfl

/-- Nothing but what is kept account of is different: counters, windows, wait tables, free values drawn. -/
structure Bookkept (s t : State) : Prop where
  rest : { t with cores := s.cores, clusters := s.clusters, pops := s.pops, free := s.free } = s
  core : ∀ c, { t.core c with vfs := [] } = { s.core c with vfs := [] }
  cvfV : ∀ c vk, CoreVf.Counted (s.cvfV c vk) (t.cvfV c vk)

namespace Bookkept

theorem refl (s : State) : Bookkept s s := ⟨rfl, fun _ => rfl, fun _ _ => .refl _⟩

theorem trans {s t u : State} (h : Bookkept s t) (k : Bookkept t u) : Bookkept s u where
  rest := (congrArg (fun t : State => { t with cores := s.cores, clusters := s.clusters, pops := s.pops, free := s.free })
    k.rest).trans h.rest
  core c := (k.core c).trans (h.core c)
  cvfV c vk := (h.cvfV c vk).trans (k.cvfV c vk)

/-- The cores stand. -/
theorem of_cores {s t : State} (h : { t with clusters := s.clusters, pops := s.pops, free := s.free } = s) : Bookkept s t := by
  have hc : t.cores = s.cores := by rw [← h]
  have core : ∀ c, t.core c = s.core c := fun c => by rw [State.core, State.core, hc]
  refine ⟨?_, fun c => by rw [core], fun c vk => ?_⟩
  · rw [← hc]
    exact h
  · rw [State.cvfV, State.cvfV, core]
    exact .refl _

/-- Events are counted on one core for one VF. -/
theorem updCore (s : State) (c vk : Nat) {f : Core → Core} (hf : { f (s.core c) with vfs := [] } = { s.core c with vfs := [] })
    (hk : CoreVf.Counted (s.cvfV c vk) (FMap.getD (f (s.core c)).vfs vk {}))
    (ho : ∀ v, v ≠ vk → FMap.getD (f (s.core c)).vfs v {} = s.cvfV c v) : Bookkept s (s.updCore c f) where
  rest := rfl
  core d := by
    by_cases h : d = c
    · subst h
      rw [State.core_updCore]
      exact hf
    · rw [State.core_updCore_ne s f h]
  cvfV d v := by
    by_cases h : d = c
    · subst h
      rw [State.cvfV, State.cvfV, State.core_updCore]
      by_cases hv : v = vk
      · subst hv
        exact hk
      · rw [ho v hv]
        exact .refl _
    · rw [State.cvfV, State.cvfV, State.core_updCore_ne s f h]
      exact .refl _

theorem updCvf (s : State) (c : Nat) {f : CoreVf → CoreVf} (h : CoreVf.Counted (s.cvf c) (f (s.cvf c))) :
    Bookkept s (s.updCvf c f) := by
  refine updCore s c (s.vk c) rfl ?_ fun v hv => ?_
  · rw [← Core.cvf_setCvf (s.core c) (f (s.cvf c))] at h
    exact h
  · exact FMap.getD_insert_ne _ _ _ hv

theorem countFor (s : State) (c vk ev sl n : Nat) : Bookkept s (s.countFor c vk ev sl n) := by
  refine updCore s c vk ?_ ?_ fun v hv => ?_
  all_goals split
  next => rfl
  next => rfl
  next h =>
    simp only [Bool.and_eq_true, decide_eq_true_eq] at h
    obtain ⟨rfl, -⟩ := h
    have h := CoreVf.Counted.addEvent (s.cvf c) ev sl n
    rw [← Core.cvf_setCvf (s.core c) (State.addEvent (s.cvf c) ev sl n)] at h
    exact h
  next =>
    rw [FMap.getD_insert_self]
    exact ⟨rfl, fun _ => ⟨_, rfl⟩⟩
  next h =>
    simp only [Bool.and_eq_true, decide_eq_true_eq] at h
    obtain ⟨rfl, -⟩ := h
    exact FMap.getD_insert_ne _ _ _ hv
  next => exact FMap.getD_insert_ne _ _ _ hv

theorem count (s : State) (c ev sl n : Nat) : Bookkept s (s.count c ev sl n) := countFor s c _ ev sl n

theorem countTag (s : State) (c vf n tag : Nat) : Bookkept s (s.countTag c vf n tag) := by
  unfold State.countTag
  split
  · exact countFor ..
  · split
    · exact (countFor ..).trans (countFor ..)
    · exact countFor ..

theorem moved (s : State) (p : Option Nat) : Bookkept s (s.moved p) := by
  unfold State.moved
  split
  · exact refl s
  · split
    · exact of_cores rfl
    · exact refl s

theorem flew (s : State) (p : Option Nat) : Bookkept s (s.flew p) := by
  rw [State.flew_eq]
  exact of_cores rfl

theorem reportWaits (s : State) (c : Nat) : Bookkept s (s.reportWaits c) := of_cores rfl

theorem countFlits (s : State) (c : Nat) : Bookkept s (s.countFlits c) := by
  unfold State.countFlits
  split
  case isFalse => exact refl s
  case isTrue =>
    refine (of_cores (t := s.draw.2) rfl).trans (updCvf _ c (CoreVf.Counted.foldl _ (fun x i => ?_) _))
    split
    · exact .addCounter ..
    · exact .refl x

/-- The end of a core's cycle (R250, R55). -/
theorem endCycle (s : State) (c : Nat) : Bookkept s (s.endCycle c) :=
  ((updCvf s c (CoreVf.Counted.foldl _ CoreVf.Counted.cycleCounter _)).trans (countFlits _ c)).trans (reportWaits _ c)

/-! What stands. -/

variable {s t : State} (h : Bookkept s t)
include h

theorem mem : t.mem = s.mem := by rw [← h.rest]
theorem cur : t.cur = s.cur := by rw [← h.rest]
theorem issuing : t.issuing = s.issuing := by rw [← h.rest]
theorem reports : t.reports = s.reports := by rw [← h.rest]
theorem reqs : t.reqs = s.reqs := by rw [← h.rest]
theorem migs : t.migs = s.migs := by rw [← h.rest]
theorem vf (c : Nat) : (t.core c).vf = (s.core c).vf := (congrArg Core.vf (h.core c) :)
theorem pq (c : Nat) : (t.core c).pq = (s.core c).pq := (congrArg Core.pq (h.core c) :)
theorem l1 (c : Nat) : (t.core c).l1 = (s.core c).l1 := (congrArg Core.l1 (h.core c) :)
theorem cyc (c : Nat) : (t.core c).cyc = (s.core c).cyc := (congrArg Core.cyc (h.core c) :)
theorem buf (c : Nat) : (t.core c).buf = (s.core c).buf := (congrArg Core.buf (h.core c) :)
theorem vk (c : Nat) : t.vk c = s.vk c := by rw [State.vk, Core.vkey, h.vf c]; rfl
theorem cvf (c : Nat) : CoreVf.Counted (s.cvf c) (t.cvf c) := by
  rw [← State.cvfV_vk, ← State.cvfV_vk, h.vk]
  exact h.cvfV c _
theorem deque (c : Nat) : (t.cvf c).deque = (s.cvf c).deque := by rw [← (h.cvf c).rest]
theorem taskSeq (c : Nat) : (t.cvf c).taskSeq = (s.cvf c).taskSeq := by rw [← (h.cvf c).rest]
theorem kept (c : Nat) : (t.cvf c).kept = (s.cvf c).kept := by rw [← (h.cvf c).rest]

/-- A slot differs in a pending overflow trap alone. -/
theorem slotV (c vk n : Nat) : ∃ b, t.slotV c vk n = { s.slotV c vk n with pendOvf := b } := (h.cvfV c vk).slots n

theorem slot (c n : Nat) : ∃ b, t.slot c n = { s.slot c n with pendOvf := b } := (h.cvf c).slots n

theorem me : ∃ b, t.me = { s.me with pendOvf := b } := by
  rw [State.me, h.cur]
  exact h.slot _ _

end Bookkept

end Sys2Proof.Machine
end

section
/-! Bundles (R31, R59-R63): what the end of a bundle changes, fetching of lone words and pairs, a step of the machine; the settlement of O4
and O5. -/

namespace Sys2Proof.Machine

/-! ### The end of a bundle -/

/-- The mode of a slot, or that at which it was halted (R257). -/
def Slot.bundleMode (x : Slot) : SlotMode := if x.mode = .halted then x.haltFrom else x.mode

/-- A slot after the end of its bundle (R31, R62). -/
def Slot.committed (x : Slot) : Slot := match x.fate with
  | .ok => if x.bundleMode = .parked then x else State.stepSlot x
  | _ => { x with fate := .ok }

/-- Writing a slot as it is changes nothing. -/
theorem Bookkept.of_updSlot_same (s : State) (c n : Nat) {f : Slot → Slot} (h : f (s.slot c n) = s.slot c n) :
    Bookkept (s.updSlot c n f) s where
  rest := rfl
  core d := by
    by_cases hd : d = c
    · subst hd
      rw [State.updSlot, State.setSlot, State.core_setCore]
      rfl
    · rw [State.updSlot, State.setSlot, State.core_setCore_ne s _ hd]
  cvfV d v := by
    by_cases hd : d = c
    · subst hd
      rw [State.cvfV, State.cvfV, State.updSlot, State.setSlot, State.core_setCore]
      by_cases hv : v = (s.core d).vkey
      · subst hv
        change CoreVf.Counted (((s.core d).setSlot n (f (s.slot d n))).cvf) _
        rw [Core.setSlot, Core.cvf_setCvf, h]
        refine ⟨rfl, fun m => ?_⟩
        by_cases hm : m = n
        · subst hm
          exact ⟨_, (FMap.getD_insert_self ..).symm⟩
        · exact ⟨_, (FMap.getD_insert_ne _ _ _ hm).symm⟩
      · rw [show FMap.getD ((s.core d).setSlot n (f (s.slot d n))).vfs v {} = FMap.getD (s.core d).vfs v {} from
          FMap.getD_insert_ne _ _ _ hv]
        exact .refl _
    · rw [State.cvfV, State.cvfV, State.updSlot, State.setSlot, State.core_setCore_ne s _ hd]
      exact .refl _

theorem Bookkept.bundleDone (s : State) (c n : Nat) (p : Option Nat) :
    Bookkept (s.updSlot c n State.stepSlot) (s.bundleDone c n p) :=
  (countFor _ c _ _ _ _).trans (moved _ p)

/-- The end of a bundle changes its slot, and what is kept account of. -/
theorem Bookkept.commit (s : State) (c n : Nat) :
    Bookkept ({ s.updSlot c n Slot.committed with cur := {} }) (s.commit c n) := by
  have hsame {f : Slot → Slot} (h : f (s.slot c n) = (s.slot c n).committed) :
      ({ s.updSlot c n Slot.committed with cur := {} } : State) = ({ s with cur := {} } : State).updSlot c n f :=
    congrArg (({ s with cur := {} } : State).setSlot c n) h.symm
  refine Bookkept.trans ?_ (endCycle _ c)
  split
  next hf =>
    change Bookkept _ (if (s.slot c n).bundleMode = .parked then _ else _)
    split
    next hm =>
      have h : (s.slot c n).committed = s.slot c n := by simp only [Slot.committed, hf, if_pos hm]
      rw [hsame (f := id) h.symm]
      exact (of_updSlot_same ({ s with cur := {} } : State) c n rfl).trans (moved _ _)
    next hm =>
      have h : (s.slot c n).committed = State.stepSlot (s.slot c n) := by simp only [Slot.committed, hf, if_neg hm]
      rw [hsame h.symm]
      exact bundleDone _ c n _
  next hf =>
    have h : (s.slot c n).committed = { s.slot c n with fate := .ok } := by
      unfold Slot.committed
      split
      next h => exact absurd h hf
      next => rfl
    rw [hsame (f := fun y => { y with fate := .ok }) h.symm]
    exact moved _ _

/-- The slot of a bundle that has ended. -/
theorem slot_commit (s : State) (c n : Nat) : ∃ b, (s.commit c n).slot c n = { (s.slot c n).committed with pendOvf := b } := by
  obtain ⟨b, hb⟩ := (Bookkept.commit s c n).slot c n
  have h : ({ s.updSlot c n Slot.committed with cur := {} } : State).slot c n = (s.slot c n).committed := State.slot_updSlot ..
  rw [h] at hb
  exact ⟨b, hb⟩

/-! What a step of the slot leaves. -/

@[simp] theorem stepSlot_pc (x : Slot) : (State.stepSlot x).pc = x.nextPc := by unfold State.stepSlot; dsimp only; split <;> rfl
@[simp] theorem stepSlot_g (x : Slot) : (State.stepSlot x).g = x.g := by unfold State.stepSlot; dsimp only; split <;> rfl
@[simp] theorem stepSlot_p (x : Slot) : (State.stepSlot x).p = x.p := by unfold State.stepSlot; dsimp only; split <;> rfl
theorem stepSlot_mode_of_ready {x : Slot} (h : x.mode = .ready) : (State.stepSlot x).mode = .ready := by
  simp [State.stepSlot, h]

theorem committed_of_ready {x : Slot} (hf : x.fate = .ok) (hm : x.mode = .ready) : x.committed = State.stepSlot x := by
  simp [Slot.committed, Slot.bundleMode, hf, hm]

theorem committed_of_parked {x : Slot} (hf : x.fate = .ok) (hm : x.mode = .parked) : x.committed = x := by
  simp [Slot.committed, Slot.bundleMode, hf, hm]

theorem committed_of_fate {x : Slot} (hf : x.fate ≠ .ok) : x.committed = { x with fate := .ok } := by
  unfold Slot.committed
  split
  next h => exact absurd h hf
  next => rfl

theorem committed_g (x : Slot) : x.committed.g = x.g := by
  unfold Slot.committed
  split
  · split
    · rfl
    · exact stepSlot_g x
  · rfl

theorem committed_p (x : Slot) : x.committed.p = x.p := by
  unfold Slot.committed
  split
  · split
    · rfl
    · exact stepSlot_p x
  · rfl

theorem commitMovesThePc : Claims.CommitMovesThePc := by
  intro s c n
  obtain ⟨b, hb⟩ := slot_commit s c n
  rw [hb]
  refine ⟨fun hf hm => ?_, fun hf hm => ?_, fun hf => ?_, committed_g _, committed_p _, ?_⟩
  · rw [committed_of_ready hf hm]
    exact ⟨stepSlot_pc _, stepSlot_mode_of_ready hm⟩
  · rw [committed_of_parked hf hm]
    exact ⟨rfl, hm⟩
  · rw [committed_of_fate hf]
    exact ⟨rfl, rfl⟩
  · exact (Bookkept.commit s c n).mem

/-! ### Fetching -/

theorem legal_of_decode {w : Nat} {i : Instr} (h : decode w = some i) (hw : i.wellFormed = true) : legal w = some i := by
  simp [legal, h, hw]

theorem checkLone_of_legal {w : Nat} {i : Instr} {fw : Bool} (h : legal w = some i) (hp : i.privileged = true → fw = true) :
    checkLone w fw = .lone w i := by
  have : (i.privileged && !fw) = false := by
    cases hi : i.privileged
    · rfl
    · simp [hp hi]
  simp [checkLone, h, this]

theorem checkLone_of_illegal {w : Nat} {fw : Bool} (h : legal w = none) : checkLone w fw = .trap 0x01 (BitVec.ofNat 64 w) := by
  simp [checkLone, h]

theorem isSeedWrite_eq_false {i : Instr} (h : ∀ q a, i ≠ .rseedWrite q a) : isSeedWrite i = false := by
  unfold isSeedWrite
  split
  next q a => exact absurd rfl (h q a)
  next => rfl

theorem checkPair_of_legal {wc wa : Nat} {i j : Instr} {fw : Bool} (h31 : fld wa 31 1 = 0) (h30 : fld wa 30 1 = 1)
    (hc : legal wc = some i) (ha : legal wa = some j) (hd : i.sameDest j = false) (hs : isSeedWrite i = false)
    (hp : i.privileged = true → fw = true) : checkPair wc wa fw = .pair wc wa i j := by
  have : (i.privileged && !fw) = false := by
    cases hi : i.privileged
    · rfl
    · simp [hp hi]
  simp [checkPair, h31, h30, hc, ha, hd, hs, this]

/-- A lone word at the pc. -/
theorem fetchBundle_of_lone {s u : State} {c n w : Nat} (h : s.fetchWord c (s.slot c n).pc = .word w u) (h31 : fld w 31 1 = 1) :
    s.fetchBundle c n = (checkLone w (s.slot c n).fw, u) := by
  simp [State.fetchBundle, h, h31]

/-- Two words at an 8-byte-aligned pc. -/
theorem fetchBundle_of_pair {s t u : State} {c n w v : Nat} (h : s.fetchWord c (s.slot c n).pc = .word w t)
    (h8 : (s.slot c n).pc.toNat % 8 = 0) (h31 : fld w 31 1 = 0) (h30 : fld w 30 1 = 0)
    (h' : t.fetchWord c ((s.slot c n).pc + 4) = .word v u) : s.fetchBundle c n = (checkPair w v (s.slot c n).fw, u) := by
  simp only [State.fetchBundle, h, h31, h30, h8, h', zero_ne_one, if_false, or_self, show (0 : Nat) ≠ 4 by decide]

/-! ### The step -/

theorem step_of_issuing {s : State} {c n : Nat} (h : s.issuing = some (c, n)) : step s = runBundle exec s (c, n) := by
  simp only [step, h]

/-- Settles O4, by the fetch and the check of the lone word. -/
theorem stepRunsTheDecodedInstruction : Obligations.StepRunsTheDecodedInstruction := by
  intro s u c n w i hi hf h31 hd hw hp
  have hb := (fetchBundle_of_lone hf h31).trans (congrArg (·, u) (checkLone_of_legal (legal_of_decode hd hw) hp))
  rw [step_of_issuing hi]
  simp only [runBundle, hb] <;> rfl

theorem stepRunsTheDecodedPair : Claims.StepRunsTheDecodedPair := by
  intro s t u c n wc wa i j hi hf h8 h31 h30 hf' h31' h30' hdi hwi hdj hwj hsd hs hp
  have hb := (fetchBundle_of_pair hf h8 h31 h30 hf').trans (congrArg (·, u)
    (checkPair_of_legal h31' h30' (legal_of_decode hdi hwi) (legal_of_decode hdj hwj) hsd (isSeedWrite_eq_false hs) hp))
  rw [step_of_issuing hi]
  simp only [runBundle, hb]

theorem powersOn_eq_false {i : Instr} (h : ∀ f v b, i ≠ .powerOnReset f v b) : powersOn i = false := by
  unfold powersOn
  split
  next f v b => exact absurd rfl (h f v b)
  next => rfl

theorem stepRunsTheEventAtHand : Claims.StepRunsTheEventAtHand := by
  intro s i r hi ha
  have hstep : step s = if s.on || powersOn i then exec i { s with agenda := r } else .next { s with agenda := r } := by
    simp only [step, hi, nextMove, ha]
  rw [hstep]
  refine ⟨?_, fun hon hne => by simp [hon, powersOn_eq_false hne]⟩
  rintro (hon | ⟨f, v, b, rfl⟩)
  · simp [hon]
  · simp [powersOn]

/-! ### A pair of JALR and ADD (R60) -/

/-- JALR to an aligned target (R316). -/
theorem exec_jalr_of_aligned {s : State} {d a : BitVec 6} {i : BitVec 12} (h : (s.rg a + i.signExtend 64) &&& 3 = 0) :
    exec (.jalr d a i) s = .next ((s.wg d s.successor).goto (s.rg a + i.signExtend 64)) := by
  change execJalr d a i s = _
  have h' : (s.rg a + imm12 i) &&& 3 = 0 := h
  simp only [execJalr, h', ne_eq, not_true_eq_false, if_false]
  rfl

/-- ADD of 64 bits (R284). -/
theorem exec_add_wide (s : State) (d a b : BitVec 6) : exec (.add d a b 0) s = .next (s.wg d (s.rg a + s.rg b)) := by
  change execAdd d a b 0 s = _
  have h : resBits (bitsA 0) (opAdd (bitsA 0) (srcBits (bitsA 0) (s.rg a)) (srcBits (bitsA 0) (s.rg b))) = s.rg a + s.rg b := by
    apply BitVec.eq_of_toNat_eq
    simp [resBits, bitsA, opAdd, srcBits, BitVec.toNat_add]
  rw [execAdd, State.alu2, h]

/-- A slot on which the C-word of a pair waits for nothing keeps no prior registers. -/
theorem Bookkept.keepPrior_of_none {s : State} {c n : Nat} (old : Slot) (h : (s.slot c n).cWait = none) :
    Bookkept (s.keepPrior old c n) s := by
  refine of_updSlot_same s c n ?_
  rw [h]

/-- What a word of a pair runs under: it reads the slot as it stands before either writes (R60). -/
def pairCur (s : State) (c n w : Nat) (second : Bool) : Cur :=
  { core := c, slot := n, word := BitVec.ofNat 32 w, pairA := second, pair := true
    src := some { g := (s.slot c n).g, p := (s.slot c n).p, slot := s.slot c n } }

/-- A pair of two words that complete (R60, R62): the A-word's registers are written, then the C-word's, and the bundle ends. -/
theorem runPair_of_completes {s t u v : State} {c n wc wa : Nat} {i j : Instr}
    (hi : exec i { s.begin_ c n 8 with cur := pairCur (s.begin_ c n 8) c n wc false } = .next t) (ht : (t.slot c n).fate = .ok)
    (hj : exec j { s.begin_ c n 8 with cur := pairCur (s.begin_ c n 8) c n wa true } = .next u) (hu : (u.slot c n).fate = .ok)
    (hi' : exec i { u with cur := pairCur (s.begin_ c n 8) c n wc false } = .next v)
    (hq : (v.slot c n).vqueue ≤ Config.vqueue) :
    runPair exec s (c, n) wc wa i j = .next ((v.keepPrior ((s.begin_ c n 8).slot c n) c n).commit c n) := by
  unfold pairCur at hi hj hi'
  simp only [runPair, State.fate, hi, ht, hj, hu, hi', ne_eq, not_true_eq_false, if_false, not_lt.2 hq]

/-- A slot as its bundle begins (R59). -/
def Slot.atBegin (x : Slot) (len : Nat) : Slot := { x with fate := .ok, raised := 0, nextPc := x.pc + BitVec.ofNat 64 len }

theorem slot_begin_ (s : State) (c n len : Nat) : (s.begin_ c n len).slot c n = (s.slot c n).atBegin len := State.slot_updSlot ..

/-- What two writes leave in each register. -/
theorem g_wg_wg (x : Slot) (d d' : BitVec 6) (v v' : Word) (m : Fin 64) :
    ((x.wg d' v').wg d v).g[m] = if m.val = d.toNat ∧ m.val ≠ 0 then v
      else if m.val = d'.toNat ∧ m.val ≠ 0 then v' else x.g[m] := by
  rw [Slot.regs_wg _ d v m, Slot.regs_wg x d' v' m]

theorem pairReadsBeforeItWrites : Claims.PairReadsBeforeItWrites := by
  intro s c n wc wa d a d' a' b' i x g hm hw hq ht _
  have hb : (s.begin_ c n 8).slot c n = x.atBegin 8 := slot_begin_ s c n 8
  set ci := pairCur (s.begin_ c n 8) c n wc false with hci
  set ca := pairCur (s.begin_ c n 8) c n wa true with hca
  have hrg (u : State) (m : BitVec 6) : State.rg { u with cur := ci } m = g m := by
    simp only [State.rg, State.src, hci, pairCur, hb]
    rfl
  have hrg' (u : State) (m : BitVec 6) : State.rg { u with cur := ca } m = g m := by
    simp only [State.rg, State.src, hca, pairCur, hb]
    rfl
  have hjalr (u : State) (h : (u.slot c n).pc = x.pc) : exec (.jalr d a i) { u with cur := ci } =
      .next ((State.wg { u with cur := ci } d (x.pc + 8)).goto (g a + i.signExtend 64)) := by
    rw [exec_jalr_of_aligned (by rwa [hrg]), hrg]
    have hs : State.successor { u with cur := ci } = x.pc + 8 := by rw [← h]; rfl
    rw [hs]
  have hslot (u : State) : ((State.wg { u with cur := ci } d (x.pc + 8)).goto (g a + i.signExtend 64)).slot c n =
      { (u.slot c n).wg d (x.pc + 8) with nextPc := g a + i.signExtend 64 } := by
    refine (State.slot_updSlot ..).trans (congrArg (fun y : Slot => { y with nextPc := g a + i.signExtend 64 }) ?_)
    exact State.slot_updSlot ..
  set u := State.wg { s.begin_ c n 8 with cur := ca } d' (g a' + g b') with hu
  have hadd : exec (.add d' a' b' 0) { s.begin_ c n 8 with cur := ca } = .next u := by rw [exec_add_wide, hrg', hrg']
  have huslot : u.slot c n = (x.atBegin 8).wg d' (g a' + g b') := hb ▸ State.slot_updSlot ..
  have hvslot := huslot ▸ hslot u
  set v := (State.wg { u with cur := ci } d (x.pc + 8)).goto (g a + i.signExtend 64)
  have hrun := runPair_of_completes (wc := wc) (wa := wa) (hjalr _ (by rw [hb]; rfl)) (by rw [hslot, hb]; simp [Slot.atBegin])
    hadd (by rw [huslot]; simp [Slot.atBegin]) (hjalr u (by rw [huslot]; simp [Slot.atBegin]))
    (by rw [hvslot]; simpa [Slot.vqueue, Slot.atBegin] using hq)
  refine ⟨_, hrun, ?_⟩
  obtain ⟨b, hcommit⟩ := slot_commit (v.keepPrior ((s.begin_ c n 8).slot c n) c n) c n
  have hkeep : (v.keepPrior ((s.begin_ c n 8).slot c n) c n).slot c n = v.slot c n := by
    refine (State.slot_updSlot ..).trans ?_
    rw [show (v.slot c n).cWait = none by rw [hvslot]; simpa [Slot.atBegin] using hw]
  rw [hcommit, hkeep, committed_of_ready (by rw [hvslot]; simp [Slot.atBegin]) (by rw [hvslot]; simpa [Slot.atBegin] using hm)]
  refine ⟨(stepSlot_pc _).trans (by rw [hvslot]), fun m => ?_⟩
  have hg : (v.slot c n).g = (((x.atBegin 8).wg d' (g a' + g b')).wg d (x.pc + 8)).g := by rw [hvslot]
  change (State.stepSlot (v.slot c n)).g[m] = _
  rw [stepSlot_g, hg]
  exact g_wg_wg (x.atBegin 8) d d' _ _ m

/-- Settles O5: fetching and checking gives the pair, the agenda's head its event; the end of a bundle by what it leaves of a slot. -/
theorem bundlesRunAsPairsAndEvents : Obligations.BundlesRunAsPairsAndEvents :=
  ⟨stepRunsTheDecodedPair, stepRunsTheEventAtHand, pairReadsBeforeItWrites, commitMovesThePc⟩

end Sys2Proof.Machine
end

section
/-! Tasks without a trace ring (R40-R46, R260, R307): taking a record from the deque, the dispatch of a record, and the end of a task; the
settlement of O34. -/

namespace Sys2Proof.Machine

open Sys2Proof.Claims

/-! ### Two changes of what a core holds for its running VF -/

theorem OnlyCore.trans {c : Nat} {s t u : State} (h : OnlyCore c s t) (k : OnlyCore c t u) : OnlyCore c s u :=
  ⟨h.rest.trans k.rest, fun d hd => (k.cores d hd).trans (h.cores d hd)⟩

theorem OnlyCvf.trans {c : Nat} {s t u : State} (h : OnlyCvf c s t) (k : OnlyCvf c t u) : OnlyCvf c s u :=
  ⟨h.core.trans k.core, k.rest.trans h.rest, fun v hv => (k.vfs v (by rwa [h.vk])).trans (h.vfs v hv)⟩

/-- The executing slot stays the executing slot. -/
theorem OnlyCvf.me {c : Nat} {s t : State} (h : OnlyCvf c s t) : t.me = t.slot s.cur.core s.cur.slot := by
  have hc : t.cur = s.cur := (congrArg State.cur h.core.rest : { t with cores := s.cores }.cur = s.cur)
  rw [State.me, hc]

theorem onlyCvf_updSlot (s : State) (c n : Nat) (f : Slot → Slot) : OnlyCvf c s (s.updSlot c n f) :=
  (onlySlot_updSlot s c n f).cvf

theorem cvf_updSlot (s : State) (c n : Nat) (f : Slot → Slot) :
    (s.updSlot c n f).cvf c = { s.cvf c with slots := FMap.insert (s.cvf c).slots n (f (s.slot c n)) } := by
  rw [updSlot_eq, cvf_updCvf]
  rfl

/-! ### Trace records -/

/-- Where no partition has a trace ring, none is written (R260). -/
theorem traceFor_of_untraced {s : State} (h : Untraced s) (c vf kind : Nat) (gtid : BitVec 48) (stolen : Bool) (arg cyc : Nat) :
    s.traceFor c vf kind gtid stolen arg cyc = s := by
  unfold State.traceFor
  dsimp only
  split
  next => rfl
  next p hp =>
    rw [if_pos]
    rw [Bool.or_eq_true, decide_eq_true_eq]
    exact .inl (h _ p hp)

theorem trace_of_untraced {s : State} (h : Untraced s) (c kind : Nat) (gtid : BitVec 48) (stolen : Bool) (arg : Nat) :
    s.trace c kind gtid stolen arg = s := traceFor_of_untraced h ..

/-! ### The dispatch of a record (R41) -/

theorem dispatchRec_of_untraced {s : State} (h : Untraced s) (c n : Nat) (r : TaskRec) : s.dispatchRec c n r =
    s.updSlot c n fun x => x.begun r.pc (contRegs x.g[2] r.fp r.g4 r.g5 r.g6) r.fmtd r.scale r.gtid :=
  trace_of_untraced (s := s.updSlot c n _) h ..

/-- The general registers of a dispatched continuation (R41). -/
theorem contRegs_getElem (g2 fp g4 g5 g6 : Word) (n : Fin 64) : (contRegs g2 fp g4 g5 g6)[n] =
    if n.val = 2 then g2 else if n.val = 3 then fp else if n.val = 4 then g4 else if n.val = 5 then g5
    else if n.val = 6 then g6 else 0 := by
  simp only [contRegs, Fin.getElem_fin, Vector.getElem_set, Vector.getElem_replicate]
  grind

/-- A slot that has begun a record's task runs it (R41). -/
theorem runsRecord_begun (x : Slot) (r : TaskRec) :
    RunsRecord x (x.begun r.pc (contRegs x.g[2] r.fp r.g4 r.g5 r.g6) r.fmtd r.scale r.gtid) r :=
  ⟨rfl, rfl, rfl, rfl, rfl, rfl, rfl, rfl, rfl, rfl, fun n => (contRegs_getElem _ _ _ _ _ n).trans (by
    by_cases h : n.val = 2
    · simp [h]
    · simp [h])⟩

/-! ### The end of a task (R46, R307) -/

/-- A slot whose task EXIT ends: its causes 0x0E, 0x0F and 0x10 are discarded, its timer is disarmed and IN_TRAP clear (R307). -/
def Slot.exiting (x : Slot) : Slot :=
  { x with pendEngine := [], pendTimer := none, tcmp := 0, pendHang := none, tstat := x.tstat &&& ~~~1#64 }

/-- The word that ends a task waits for its partner (R62). -/
theorem endTask_of_partner {s : State} {c n : Nat} (exit : Bool) (ha : (s.slot c n).aWait ≠ none) :
    s.endTask c n exit = (s.unhold c n).await c n (.partner 0) (some (.ended exit)) := by
  rw [State.endTask, State.afterPartner, if_pos (Option.isSome_iff_ne_none.2 ha)]

theorem endTask_exit {s : State} {c n : Nat} (hu : Untraced s) (ha : (s.slot c n).aWait = none) :
    s.endTask c n true = (s.updSlot c n Slot.exiting).popOrSteal c n true := by
  have hu' : Untraced (s.updSlot c n Slot.exiting) := hu
  simp only [State.endTask, State.afterPartner, ha, Option.isSome_none, Bool.false_eq_true, if_false, if_true]
  exact congrArg (State.popOrSteal · c n true) (trace_of_untraced hu' ..)

theorem endTask_tend {s : State} {c n : Nat} (hu : Untraced s) (ha : (s.slot c n).aWait = none) :
    s.endTask c n false = s.popOrSteal c n false := by
  simp only [State.endTask, State.afterPartner, ha, Option.isSome_none, Bool.false_eq_true, if_false, trace_of_untraced hu]

/-- A slot without a claim that begins to wait (R33). -/
theorem becomes_unhold_await (s : State) (w : Wait) (k : Option Cont) (hc : s.me.claim = none) (hm : s.me.mode ≠ .halted) :
    Becomes s ((s.unhold s.cur.core s.cur.slot).await s.cur.core s.cur.slot w k)
      { s.me with mode := .parked, cWait := some w, cont := k } := by
  refine ⟨(onlySlot_updSlot s ..).trans (onlySlot_updSlot ..), ?_⟩
  refine (State.slot_updSlot ..).trans ?_
  have hh : (s.unhold s.cur.core s.cur.slot).slot s.cur.core s.cur.slot = s.me := by
    refine (State.slot_updSlot ..).trans ?_
    rw [show (s.slot s.cur.core s.cur.slot).claim = none from hc, Option.map_none, ← hc]
    rfl
  rw [hh, if_neg hm]

/-- Take the youngest record of the hardware deque. -/
def CoreVf.popped (x : CoreVf) : CoreVf := CoreVf.released { x with deque := x.deque.dropLast }

theorem CoreVf.popped_deque (x : CoreVf) : x.popped.deque = x.deque.dropLast := by
  unfold popped released
  split <;> rfl

theorem CoreVf.popped_slots (x : CoreVf) : x.popped.slots = x.slots := by
  unfold popped released
  split <;> rfl

/-- The task in a slot that ends takes the youngest record of its population (R46). -/
theorem popOrSteal_of_record {s : State} {c n : Nat} {l : List TaskRec} {r : TaskRec} (exit : Bool) (hu : Untraced s)
    (hd : (s.cvf c).deque = l ++ [r]) (hp : (s.cvf c).dqPop = (s.slot c n).pop) :
    s.popOrSteal c n exit = ((s.updCvf c CoreVf.popped).updSlot c n fun x =>
      x.begun r.pc (contRegs x.g[2] r.fp r.g4 r.g5 r.g6) r.fmtd r.scale r.gtid).updSlot c n fun x =>
        { x with cWait := none, cont := none } := by
  have hholds : (s.cvf c).holdsFor (s.slot c n).pop = true := by simp [CoreVf.holdsFor, CoreVf.hasRecords, hd, hp]
  have hbank : s.bottomBank c = none := by simp [State.bottomBank, hd]
  have hpop : s.popBottom c = some (r, s.updCvf c CoreVf.popped) := by
    simp only [State.popBottom, hd, List.getLast?_append, List.getLast?_singleton, Option.some_or]
    rfl
  have hu' : Untraced (s.updCvf c CoreVf.popped) := hu
  simp only [State.popOrSteal, hholds, hbank, hpop, if_true, trace_of_untraced hu', dispatchRec_of_untraced hu']

/-- What a slot does that has taken its population's youngest record. -/
theorem popOrSteal_runsRecord {s : State} {c n : Nat} {l : List TaskRec} {r : TaskRec} (exit : Bool) (hu : Untraced s)
    (hd : (s.cvf c).deque = l ++ [r]) (hp : (s.cvf c).dqPop = (s.slot c n).pop) :
    OnlyCvf c s (s.popOrSteal c n exit) ∧ ((s.popOrSteal c n exit).cvf c).deque = l ∧
      RunsRecord (s.slot c n) ((s.popOrSteal c n exit).slot c n) r := by
  rw [popOrSteal_of_record exit hu hd hp]
  refine ⟨((onlyCvf_updCvf s c _).trans (onlyCvf_updSlot _ c n _)).trans (onlyCvf_updSlot _ c n _), ?_, ?_⟩
  · rw [cvf_updSlot, cvf_updSlot, cvf_updCvf]
    exact (CoreVf.popped_deque _).trans (by rw [hd, List.dropLast_concat])
  · rw [State.slot_updSlot, State.slot_updSlot, State.slot_updCvf_of_slots s c n CoreVf.popped_slots]
    exact runsRecord_begun (s.slot c n) r

/-- The deque holds no record of the population. -/
theorem holdsFor_of_noRecord {x : CoreVf} {p : Option Nat} (h : (x.deque = [] ∧ x.ringCount = 0) ∨ x.dqPop ≠ p) :
    x.holdsFor p = false := by
  rcases h with ⟨hd, hr⟩ | hp
  · simp [CoreVf.holdsFor, CoreVf.hasRecords, hd, hr]
  · simp [CoreVf.holdsFor, hp]

theorem vbusy_of_unclaimed {s : State} {c n : Nat} (h : (s.slot c n).claim = none) : s.vbusy c n = false := by
  simp [State.vbusy, h]

/-- Without a record EXIT frees its slot (R307). -/
theorem popOrSteal_exit_of_noRecord {s : State} {c n : Nat} (hc : (s.slot c n).claim = none)
    (h : (s.cvf c).holdsFor (s.slot c n).pop = false) : s.popOrSteal c n true = s.freeSlot c n := by
  simp [State.popOrSteal, h, vbusy_of_unclaimed hc]

/-- A slot that searches for work (R48). -/
def Slot.searching (x : Slot) (cyc : Nat) : Slot :=
  { x with
    mode := .idleSteal, cWait := none, cont := none, tcmp := 0
    steal := some { pos := 0, failed := 0, since := cyc, backoff := none, asked := none, answer := none } }

/-- Without a record a task of a population that ends leaves its slot searching (R46). -/
theorem popOrSteal_of_noRecord {s : State} {c n : Nat} (hc : (s.slot c n).claim = none) (hp : (s.slot c n).pop ≠ none)
    (h : (s.cvf c).holdsFor (s.slot c n).pop = false) :
    s.popOrSteal c n false = (s.dropClaim c n).updSlot c n fun x => x.searching (s.core c).cyc.toNat := by
  have hp' : (s.slot c n).pop.isNone = false := by rwa [Option.isNone_eq_false_iff, Option.isSome_iff_ne_none]
  simp [State.popOrSteal, h, vbusy_of_unclaimed hc, hp', Slot.searching]

@[simp] theorem forget_cores (s : State) (c n : Nat) : (s.forget c n).cores = (s.updCvf c fun x =>
    { x with semWait := x.semWait.map fun e => (e.1, e.2.filter (· ≠ n)) }).cores := rfl
@[simp] theorem freeSlot_mem (s : State) (c n : Nat) : (s.freeSlot c n).mem = s.mem := rfl
@[simp] theorem freeSlot_cur (s : State) (c n : Nat) : (s.freeSlot c n).cur = s.cur := rfl

/-- A slot that is freed (R27). -/
theorem slot_freeSlot (s : State) (c n : Nat) : ∃ b, (s.freeSlot c n).slot c n = { pendOvf := b } :=
  ⟨_, State.slot_updSlot ..⟩

/-! ### The statement -/

theorem exec_exit (s : State) : exec .exit s = .next (s.endTask s.cur.core s.cur.slot true) := rfl

theorem exec_tend_of_frameless {s : State} (h : s.rg 3 = 0) :
    exec .tend s = .next (s.endTask s.cur.core s.cur.slot false) := by
  change execTend s = _
  simp only [execTend, if_pos h]

/-- Settles O34, by the deque's youngest record, or the slot's two ends without one. -/
theorem taskEndTakesTheNextRecord : Obligations.TaskEndTakesTheNextRecord := by
  intro s i hi hu hc c
  have hexec : exec i s = .next (s.endTask c s.cur.slot (decide (i = .exit))) := by
    rcases hi with rfl | ⟨rfl, h3⟩
    · exact exec_exit s
    · exact exec_tend_of_frameless h3
  refine ⟨fun ha hm => ⟨_, hexec, ?_⟩, fun ha => ⟨fun l r hd hp => ⟨_, hexec, ?_⟩, fun hn he => ⟨_, hexec, ?_⟩,
    fun hn he hp => ⟨_, hexec, ?_⟩⟩⟩
  · rw [endTask_of_partner _ ha]
    exact becomes_unhold_await s _ _ hc hm
  · cases decide (i = .exit) with
    | false =>
      rw [endTask_tend hu ha]
      obtain ⟨honly, hdeque, hrun⟩ := popOrSteal_runsRecord false hu hd hp
      exact ⟨honly, hdeque, honly.me ▸ hrun⟩
    | true =>
      rw [endTask_exit hu ha]
      obtain ⟨honly, hdeque, hrun⟩ := popOrSteal_runsRecord (s := s.updSlot c s.cur.slot Slot.exiting) true hu
        (by rwa [cvf_updSlot]) (by rw [cvf_updSlot, State.slot_updSlot]; exact hp)
      rw [State.slot_updSlot] at hrun
      have honly := (onlyCvf_updSlot s c _ _).trans honly
      exact ⟨honly, hdeque, honly.me ▸ hrun⟩
  · rw [decide_eq_true he, endTask_exit hu ha, popOrSteal_exit_of_noRecord (by rw [State.slot_updSlot]; exact hc)
      (holdsFor_of_noRecord (by rw [cvf_updSlot, State.slot_updSlot]; exact hn))]
    obtain ⟨b, hb⟩ := slot_freeSlot (s.updSlot c s.cur.slot Slot.exiting) c s.cur.slot
    change State.me _ = _ at hb
    rw [hb]
    exact ⟨rfl, rfl, freeSlot_mem ..⟩
  · rw [decide_eq_false (by rw [he]; decide), endTask_tend hu ha, popOrSteal_of_noRecord hc hp (holdsFor_of_noRecord hn)]
    have honly : OnlySlot c s.cur.slot s ((s.dropClaim c s.cur.slot).updSlot c s.cur.slot fun x =>
        x.searching (s.core c).cyc.toNat) := (onlySlot_updSlot s c _ _).trans (onlySlot_updSlot _ c _ _)
    refine ⟨honly.cvf, honly, ?_⟩
    refine (State.slot_updSlot ..).trans ?_
    rw [State.dropClaim, State.slot_updSlot, ← hc]
    rfl

end Sys2Proof.Machine
end

section
/-! Tasks that start (R34-R37, R48, R50, R239): self-invalidation, the lowest FREE slot, the packet as it starts a task; timers (R30); the
settlement of O37. -/

namespace Sys2Proof.Machine

open Sys2Proof.Claims

/-! ### The L view after a self-invalidation (R165) -/

theorem ownedView_selfInvalidate (k : Core) : OwnedView k.selfInvalidate := by
  intro e he w hw
  simp only [Core.selfInvalidate, List.mem_filter, List.mem_map] at he
  obtain ⟨⟨d, -, rfl⟩, -⟩ := he
  exact (List.mem_filter.1 hw).2

theorem ownedView_congr {k l : Core} (h : OwnedView k) (h1 : l.l1 = k.l1) (hq : l.pq = k.pq) : OwnedView l := by
  intro e he w hw
  rw [Core.owned, hq]
  exact h e (h1 ▸ he) w hw

/-- Bookkeeping does not touch the L view. -/
theorem Bookkept.ownedView {s t : State} (h : Bookkept s t) {c : Nat} (k : OwnedView (s.core c)) : OwnedView (t.core c) :=
  ownedView_congr k (h.l1 c) (h.pq c)

theorem ownedView_updSlot {s : State} {c : Nat} (h : OwnedView (s.core c)) (d n : Nat) (f : Slot → Slot) :
    OwnedView ((s.updSlot d n f).core c) := by
  by_cases hc : c = d
  · subst hc
    rw [State.updSlot, State.core_setSlot]
    exact ownedView_congr h rfl rfl
  · rwa [State.updSlot, State.core_setSlot_ne s _ _ hc]

/-! ### The lowest FREE slot (R35) -/

theorem freeSlot?_eq_some {s : State} {c n : Nat} (hn : n < 16) (hf : (s.slot c n).mode = .free)
    (hl : ∀ m, m < n → (s.slot c m).mode ≠ .free) : s.freeSlot? c = some n := by
  rw [State.freeSlot?, List.find?_range_eq_some]
  exact ⟨by simp [hf], List.mem_range.2 hn, fun m hm => by simp [hl m hm]⟩

theorem freeSlot?_eq_none {s : State} {c : Nat} (h : ∀ m, m < 16 → (s.slot c m).mode ≠ .free) : s.freeSlot? c = none := by
  rw [State.freeSlot?, List.find?_range_eq_none]
  exact fun m hm => by simp [h m hm]

/-! ### A packet starts its task (R34, R35) -/

/-- The general registers of a task that a packet starts. -/
def Packet.regs (p : Packet) : Vector Word 64 :=
  ((p.payload.zipIdx.foldl (fun (g : Vector Word 64) e => g.setIfInBounds (4 + e.2) e.1) (.replicate 64 0)).set 12 p.g12).set 13
    p.g13

/-- Words put one after another from a register on leave those before it. -/
theorem getElem?_putWords_of_lt (l : List Word) {k j : Nat} (g : Vector Word 64) (h : j < 4 + k) :
    ((l.zipIdx k).foldl (fun (g : Vector Word 64) e => g.setIfInBounds (4 + e.2) e.1) g)[j]? = g[j]? := by
  induction l generalizing k g with
  | nil => rfl
  | cons a l ih =>
    rw [List.zipIdx_cons, List.foldl_cons, ih _ (by omega), Vector.getElem?_setIfInBounds_ne (by omega)]

/-- Words put one after another from a register on. -/
theorem getElem?_putWords (l : List Word) (k : Nat) (g : Vector Word 64) {i : Nat} (hi : i < l.length) (hb : 4 + (k + i) < 64) :
    ((l.zipIdx k).foldl (fun (g : Vector Word 64) e => g.setIfInBounds (4 + e.2) e.1) g)[4 + (k + i)]? = some l[i] := by
  induction l generalizing k g i with
  | nil => simp at hi
  | cons a l ih =>
    rw [List.zipIdx_cons, List.foldl_cons]
    cases i with
    | zero =>
      rw [getElem?_putWords_of_lt l _ (by omega), Nat.add_zero, Vector.getElem?_setIfInBounds_self_of_lt (by omega)]
      rfl
    | succ i =>
      rw [show k + (i + 1) = k + 1 + i by omega]
      exact ih (k + 1) _ (by simpa using hi) (by omega)

theorem Packet.regs_payload (p : Packet) {i : Nat} (h : i < p.payload.length) (h8 : i < 8) : p.regs[4 + i]? = some p.payload[i] := by
  have hput := getElem?_putWords p.payload 0 (.replicate 64 0) h (by omega)
  rw [Nat.zero_add] at hput
  rw [Packet.regs, Vector.getElem?_set_ne _ (by omega), Vector.getElem?_set_ne _ (by omega)]
  exact hput

theorem Packet.regs_12 (p : Packet) : p.regs[12] = p.g12 := by simp [Packet.regs]
theorem Packet.regs_13 (p : Packet) : p.regs[13] = p.g13 := by simp [Packet.regs]

/-- A slot whose packet has started its task. -/
def Slot.activated (x : Slot) (p : Packet) (readyAt : Nat) (fw : Bool) : Slot :=
  { ({ pop := p.pop, pendOvf := x.pendOvf } : Slot).begun p.pc p.regs p.fmtd p.scale p.gtid with readyAt := readyAt, fw := fw }

/-- A packet starts its task, and self-invalidates the L view (R35, R50). -/
theorem Bookkept.activate {s : State} (hu : Untraced s) (c n : Nat) (p : Packet) : ∃ r b, Bookkept
    ((s.updCore c fun k => { k.selfInvalidate with l1i := if p.sender.isNone then [] else k.l1i }).updSlot c n fun x =>
      x.activated p r b) (s.activate c n p) := by
  let s' := s.updCore c fun k => { k.selfInvalidate with l1i := if p.sender.isNone then [] else k.l1i }
  let t := s'.updSlot c n fun x => x.activated p ((s'.core c).cyc.toNat + 1) (p.pop.isNone && Config.cscBase ≤ c)
  refine ⟨_, _, (moved t p.pop).trans ?_⟩
  have ht : t.trace c 4 p.gtid false 0 = t := trace_of_untraced (s := t) hu ..
  rw [show s.activate c n p = ((t.trace c 4 p.gtid false 0).moved p.pop).flew p.pop from rfl, ht]
  exact flew _ _

/-- A slot in which a packet has started its task (R34, R35). -/
structure StartsPacket (y : Slot) (p : Packet) : Prop where
  mode : y.mode = .ready
  pc : y.pc = p.pc
  gtid : y.gtid = p.gtid
  pop : y.pop = p.pop
  preds : y.p = 1
  regs : y.g = p.regs

/-- What a core and its slot are when a packet has started its task there. -/
theorem activate_starts {s : State} (hu : Untraced s) (c n : Nat) (p : Packet) :
    StartsPacket ((s.activate c n p).slot c n) p ∧ OwnedView ((s.activate c n p).core c) ∧ (s.activate c n p).mem = s.mem ∧
      ((s.activate c n p).core c).buf = (s.core c).buf ∧ ((s.activate c n p).cvf c).kept = (s.cvf c).kept := by
  obtain ⟨r, b, h⟩ := Bookkept.activate hu c n p
  refine ⟨?_, h.ownedView (ownedView_updSlot ?_ c n _), h.mem, (h.buf c).trans ?_, (h.kept c).trans ?_⟩
  · obtain ⟨d, hd⟩ := h.slot c n
    rw [hd, State.slot_updSlot]
    exact ⟨rfl, rfl, rfl, rfl, rfl, rfl⟩
  · rw [State.core_updCore]
    exact ownedView_congr (ownedView_selfInvalidate _) rfl rfl
  · rw [State.updSlot, State.core_setSlot, State.core_updCore]
    rfl
  · rw [cvf_updSlot, State.cvf, State.core_updCore]
    rfl

/-! ### Launch packets (R37, R51) -/

/-- A message has its registers and its GTID when it is sent. -/
theorem numbered_of_sender {s : State} {c : Nat} {p : Packet} (h : p.sender ≠ none) : s.numbered c p = (p, s) := by
  cases hs : p.sender with
  | none => exact absurd hs h
  | some _ => simp only [State.numbered, hs]

/-- A launch packet gets its index at its core. -/
theorem numbered_of_launch {s : State} {c q : Nat} {p : Packet} {x : Pop} (h : p.sender = none) (hp : p.pop = some q)
    (hq : FMap.find? s.pops q = some x) : (s.numbered c p).1 = { p with
      g12 := BitVec.ofNat 64 (x.quota * x.cores.findIdx (· = c) + FMap.getD x.seen c 0)
      g13 := BitVec.ofNat 64 (x.quota * x.cores.length)
      gtid := p.gtid.extractLsb' 32 16 ++ (p.gtid.setWidth 32 + BitVec.ofNat 32 (FMap.getD x.seen c 0)) } := by
  simp only [State.numbered, h, hp, hq]

/-- What a packet keeps on its arrival. -/
theorem numbered_fst (s : State) (c : Nat) (p : Packet) : (s.numbered c p).1 =
    { p with g12 := (s.numbered c p).1.g12, g13 := (s.numbered c p).1.g13, gtid := (s.numbered c p).1.gtid } := by
  unfold State.numbered
  split
  · split <;> rfl
  · rfl

/-- What the arrival of a packet leaves alone. -/
theorem numbered_snd (s : State) (c : Nat) (p : Packet) : (s.numbered c p).2 = { s with pops := (s.numbered c p).2.pops } := by
  unfold State.numbered
  split
  · split <;> rfl
  · rfl

/-! ### Packets that arrive (R35, R36, R239) -/

/-- The state whose channel has delivered a packet to a core. -/
def State.taken (s : State) (c : Nat) (p : Packet) : State := { s with chan := s.chan.erase (c, p) }

/-- A packet is kept for a VF (R239). -/
def Core.keep (p : Packet) (vk : Nat) (k : Core) : Core :=
  let x : CoreVf := FMap.getD k.vfs vk {}
  { k with vfs := FMap.insert k.vfs vk { x with kept := x.kept ++ [p] } }

section Arrival

variable {s : State} {c : Nat} {p : Packet} {r : List (Nat × Packet)} (hc : s.chan.filter (·.1 = c) = (c, p) :: r)
include hc

/-- The oldest packet of a core starts its task where nothing waits before it and a slot is FREE. -/
theorem exec_activationPacket_of_free {n : Nat} (hv : (s.core c).vf = some p.vf) (hs : (s.core c).switchTo = none)
    (hb : (s.core c).buf = []) (hf : s.freeSlot? c = some n) : exec (.activationPacket c 0) s =
      .next (((s.taken c p).numbered c p).2.activate c n ((s.taken c p).numbered c p).1) := by
  change execActivationPacket c 0 s = _
  simp [execActivationPacket, hc, hv, hs, hb, hf, State.taken]

/-- With every slot in use it waits in the buffer. -/
theorem exec_activationPacket_of_busy (hv : (s.core c).vf = some p.vf) (hs : (s.core c).switchTo = none)
    (hf : s.freeSlot? c = none) (hb : (s.core c).buf.length < 4) : exec (.activationPacket c 0) s =
      .next ((((s.taken c p).numbered c p).2.updCore c fun k =>
        { k with buf := k.buf ++ [((s.taken c p).numbered c p).1] }).flew p.pop) := by
  change execActivationPacket c 0 s = _
  simp [execActivationPacket, hc, hv, hs, hb, hf, State.taken, Config.actBuf]

/-- For a VF that does not run there it is kept. -/
theorem exec_activationPacket_of_away (hv : (s.core c).vf ≠ some p.vf) : exec (.activationPacket c 0) s =
      .next ((((s.taken c p).numbered c p).2.updCore c (Core.keep ((s.taken c p).numbered c p).1 (p.vf + 1))).flew p.pop) := by
  change execActivationPacket c 0 s = _
  simp only [execActivationPacket, hc, List.getElem?_cons_zero, List.take_zero, List.any_nil, Bool.false_eq_true, if_false,
    ne_eq, hv, not_false_eq_true, true_or, if_true]
  rfl

end Arrival

theorem core_flew (s : State) (c : Nat) (p : Option Nat) : (s.flew p).core c = s.core c := by
  rw [State.flew_eq]
  rfl

@[simp] theorem flew_mem (s : State) (p : Option Nat) : (s.flew p).mem = s.mem := by
  rw [State.flew_eq]

theorem packetsStartTasks : Claims.PacketsStartTasks := by
  intro s c p r hc hu k
  refine ⟨fun n hv hs hb hn hf hl => ⟨_, exec_activationPacket_of_free hc hv hs hb (freeSlot?_eq_some hn hf hl), ?_⟩,
    fun hv hs hf hb hp => ⟨_, exec_activationPacket_of_busy hc hv hs (freeSlot?_eq_none hf) hb, ?_⟩,
    fun hv hp => ⟨_, exec_activationPacket_of_away hc hv, ?_⟩⟩
  · have hu' : Untraced ((s.taken c p).numbered c p).2 := by rw [numbered_snd]; exact hu
    obtain ⟨hstart, hview, hmem, -, -⟩ := activate_starts hu' c n ((s.taken c p).numbered c p).1
    have hfst := numbered_fst (s.taken c p) c p
    refine ⟨hstart.mode, ?_, ?_, hstart.preds, hview, hmem.trans ?_, fun i hi h8 => ?_, fun hp => ?_, fun q x hp hq hx => ?_⟩
    · rw [hstart.pc, hfst]
    · rw [hstart.pop, hfst]
    · rw [numbered_snd]
      rfl
    · have hpay : ((s.taken c p).numbered c p).1.payload = p.payload := (congrArg Packet.payload hfst :)
      rw [hstart.regs, Packet.regs_payload _ (by rwa [hpay]) h8]
      simp only [hpay]
    · rw [numbered_of_sender hp] at hstart ⊢
      simp only [hstart.regs, hstart.gtid]
      exact ⟨Packet.regs_12 p, Packet.regs_13 p, trivial⟩
    · have hnum := numbered_of_launch (s := s.taken c p) (c := c) hp hq hx
      simp only [hstart.regs, hstart.gtid]
      simp only [hnum]
      refine ⟨Packet.regs_12 _, Packet.regs_13 _, ?_⟩
      rw [BitVec.setWidth_append_eq_right]
  · rw [numbered_of_sender hp]
    dsimp only
    rw [core_flew, State.core_updCore, flew_mem]
    exact ⟨rfl, rfl⟩
  · rw [numbered_of_sender hp]
    dsimp only
    rw [core_flew, State.core_updCore, flew_mem]
    exact ⟨rfl, rfl, _, FMap.find?_insert_self .., List.mem_append_right _ (List.mem_singleton.2 rfl)⟩

/-- The oldest buffered packet starts its task; the oldest of those kept enters the buffer. -/
theorem exec_activationBufferDispatch {s : State} {c n : Nat} {p : Packet} {r : List Packet} (hb : (s.core c).buf = p :: r)
    (hv : (s.core c).vf = some p.vf) (hs : (s.core c).switchTo = none) (hf : s.freeSlot? c = some n) :
    exec (.activationBufferDispatch c) s = .next ((s.updCore c fun k =>
      { k.setCvf { k.cvf with kept := k.cvf.kept.drop 1 } with buf := r ++ k.cvf.kept.take 1 }).activate c n p) := by
  change execActivationBufferDispatch c s = _
  simp only [execActivationBufferDispatch, hb, hf, hv, hs, Option.isNone_none, and_self, if_true]

theorem bufferedPacketsStart : Claims.BufferedPacketsStart := by
  intro s c n p r hb hv hs hn hf hl hu
  refine ⟨_, exec_activationBufferDispatch hb hv hs (freeSlot?_eq_some hn hf hl), ?_⟩
  obtain ⟨hstart, hview, -, hbuf, hkept⟩ := activate_starts (s := s.updCore c fun k =>
    { k.setCvf { k.cvf with kept := k.cvf.kept.drop 1 } with buf := r ++ k.cvf.kept.take 1 }) hu c n p
  refine ⟨hstart.mode, hstart.pc, hstart.gtid, hstart.pop, hbuf.trans ?_, hkept.trans ?_, hview⟩
  · rw [State.core_updCore]
    rfl
  · rw [State.cvf, State.core_updCore]
    exact congrArg CoreVf.kept (Core.cvf_setCvf _ _)

/-! ### Timers (R30) -/

theorem timerDue_iff (x : Slot) (now : Nat) :
    x.timerDue now = true ↔ x.mode ≠ .free ∧ x.tcmp ≠ 0 ∧ x.tcmp.toNat ≤ now := by
  simp only [Slot.timerDue, Bool.and_eq_true, decide_eq_true_eq]
  tauto

theorem timersFallDue : Claims.TimersFallDue := by
  intro s c n x due
  have hexec : exec (.timerExpiry c n) s = .next (if x.timerDue (s.core c).cyc.toNat then
      s.updSlot c n (·.timer (s.core c).cyc.toNat) else s) := rfl
  refine ⟨fun h => ⟨_, hexec, ?_⟩, fun h => ⟨_, hexec, if_neg (mt (timerDue_iff x _).1 h)⟩⟩
  have hdue := (timerDue_iff x _).2 h
  rw [if_pos hdue]
  exact ⟨onlySlot_updSlot s c n _, (State.slot_updSlot ..).trans (if_pos hdue)⟩

/-- Settles O37: a packet starts its task where its core delivers it, and a timer by what makes it due. -/
theorem packetsAndTimers : Obligations.PacketsAndTimers := ⟨packetsStartTasks, bufferedPacketsStart, timersFallDue⟩

end Sys2Proof.Machine
end

section
/-! Work that is stolen (R48, R49): the search order, and each step of a steal; the settlement of O38. -/

namespace Sys2Proof.Machine

open Sys2Proof.Claims

/-! ### The search order (R48) -/

/-- A core comes before another in a thief's search order, or is that one. -/
@[reducible] def State.Nearer (s : State) (c v w : Nat) : Prop :=
  s.distance c v < s.distance c w ∨ (s.distance c v = s.distance c w ∧ v ≤ w)

theorem byDistance_eq_orderedInsert (s : State) (c v : Nat) (l : List Nat) :
    s.byDistance c v l = l.orderedInsert (s.Nearer c) v := by
  induction l with
  | nil => rfl
  | cons w r ih => rw [State.byDistance, List.orderedInsert_cons, ih]

theorem victims_eq_insertionSort {s : State} {p : Nat} {x : Pop} (c : Nat) (h : FMap.find? s.pops p = some x) :
    s.victims c (some p) = (x.cores.filter (· ≠ c)).insertionSort (s.Nearer c) := by
  simp only [State.victims, Option.bind_some, h, byDistance_eq_orderedInsert]
  rfl

theorem thievesSearchByDistance : Claims.ThievesSearchByDistance := by
  intro s c p x h
  rw [victims_eq_insertionSort c h]
  refine ⟨List.perm_insertionSort .., ?_⟩
  have htotal : Std.Total (s.Nearer c) := ⟨fun v w => by unfold State.Nearer; omega⟩
  have htrans : IsTrans Nat (s.Nearer c) := ⟨fun u v w => by unfold State.Nearer; omega⟩
  exact List.pairwise_insertionSort ..

/-! ### The steps of a steal -/

theorem stealOf_of_idle {s : State} {c n : Nat} {st : Steal} (hm : (s.slot c n).mode = .idleSteal)
    (hs : (s.slot c n).steal = some st) : s.stealOf c n = some st := by
  rw [State.stealOf, if_pos hm, hs]

/-- A change of the search alone. -/
theorem slot_setSteal (s : State) (c n : Nat) (x : Steal) :
    (s.setSteal c n x).slot c n = { s.slot c n with steal := some x } := State.slot_updSlot ..

theorem drainUpTo_of_empty {s : State} {c : Nat} (seq : Nat) (h : (s.core c).pq = []) : s.drainUpTo c seq = s := by
  rw [State.drainUpTo, h, List.foldl_nil]

theorem forced_of_empty {s : State} {c : Nat} (seq : Nat) (h : (s.core c).pq = []) : s.forced c seq false = true := by
  simp [State.forced, h]

/-- The oldest record of a deque without a ring. -/
theorem popTop_of_deque {s : State} {c : Nat} {r : TaskRec} {rest : List TaskRec} (hr : (s.cvf c).ringCount = 0)
    (hd : (s.cvf c).deque = r :: rest) :
    s.popTop c = some (r, s.updCvf c fun x => CoreVf.released { x with deque := rest }) := by
  simp [State.popTop, hr, hd]

theorem released_deque (x : CoreVf) : x.released.deque = x.deque := by
  unfold CoreVf.released
  split <;> rfl

theorem deque_updSlot (s : State) (c n : Nat) (f : Slot → Slot) (d : Nat) :
    ((s.updSlot c n f).cvf d).deque = (s.cvf d).deque := by
  by_cases hd : d = c
  · subst hd
    rw [cvf_updSlot]
  · rw [State.cvf, State.updSlot, State.core_setSlot_ne s _ _ hd]
    rfl

/-- A victim gives its oldest record (R48). -/
theorem exec_stealAnswer_of_record {s : State} {c n v : Nat} {st : Steal} {r : TaskRec} {rest : List TaskRec}
    (hst : s.stealOf c n = some st) (ha : st.asked = some v) (hb : st.answer = none) (hv : (s.core v).vf = (s.core c).vf)
    (hp : (s.cvf v).dqPop = (s.slot c n).pop) (hr : (s.cvf v).ringCount = 0) (hd : (s.cvf v).deque = r :: rest)
    (hq : (s.core v).pq = []) (hu : Untraced s) : exec (.stealAnswer c n) s =
      .next ((s.updCvf v fun x => CoreVf.released { x with deque := rest }).setSteal c n { st with answer := some (some r) }) := by
  change execStealAnswer c n s = _
  have hholds : (s.cvf v).holdsFor (s.slot c n).pop = true := by simp [CoreVf.holdsFor, CoreVf.hasRecords, hd, hp]
  have hgo : ¬ ((s.core v).vf ≠ (s.core c).vf ∨ (!(s.cvf v).holdsFor (s.slot c n).pop) = true) := by simp [hv, hholds]
  have hbank : s.topBank v = none := by simp [State.topBank, hr]
  have hu' : Untraced (s.updCvf v fun x => CoreVf.released { x with deque := rest }) := hu
  simp only [execStealAnswer, hst, ha, hb, if_neg hgo, drainUpTo_of_empty _ hq, forced_of_empty _ hq, hbank, popTop_of_deque hr hd,
    trace_of_untraced hu', Bool.not_true, Bool.false_eq_true, if_false]

theorem slot_selfInvalidate (s : State) (c n : Nat) : (s.updCore c (·.selfInvalidate)).slot c n = s.slot c n := by
  rw [State.slot, State.core_updCore]
  rfl

/-- The thief's core, its L view self-invalidated, with the record's task in the slot (R41, R48). -/
def State.thief (s : State) (c n : Nat) (r : TaskRec) : State :=
  ((s.updCore c (·.selfInvalidate)).updSlot c n fun x => { x with steal := none }).updSlot c n fun x =>
    x.begun r.pc (contRegs x.g[2] r.fp r.g4 r.g5 r.g6) r.fmtd r.scale r.gtid

theorem ownedView_thief (s : State) (c n : Nat) (r : TaskRec) : OwnedView ((s.thief c n r).core c) := by
  refine ownedView_updSlot (ownedView_updSlot ?_ c n _) c n _
  rw [State.core_updCore]
  exact ownedView_selfInvalidate _

theorem runsRecord_thief (s : State) (c n : Nat) (r : TaskRec) : RunsRecord (s.slot c n) ((s.thief c n r).slot c n) r := by
  rw [State.thief, State.slot_updSlot, State.slot_updSlot, slot_selfInvalidate]
  exact runsRecord_begun (s.slot c n) r

/-- A record starts in the thief's slot (R48). -/
theorem exec_stealReply_of_record {s : State} {c n : Nat} {st : Steal} {r : TaskRec} (hst : s.stealOf c n = some st)
    (ha : st.answer = some (some r)) (hu : Untraced s) : exec (.stealReply c n) s =
      .next ((((s.thief c n r).updSlot c n fun x =>
        { x with readyAt := ((s.thief c n r).core c).cyc.toNat + 1 }).count c 0x40 n 1).moved (s.slot c n).pop) := by
  change execStealReply c n s = _
  have hu' : Untraced ((s.updCore c (·.selfInvalidate)).updSlot c n fun x => { x with steal := none }) := hu
  simp only [execStealReply, hst, ha, State.traceAt, traceFor_of_untraced hu', dispatchRec_of_untraced hu']
  rfl

/-- A search that a FAIL moves on, with the number of its victims (R48). -/
def Steal.failedOn (st : Steal) (len cyc : Nat) : Steal :=
  { st with
    pos := st.pos + 1, failed := st.failed + 1, asked := none, answer := none
    backoff := if len ≤ st.pos + 1 then some (cyc + 1024) else none }

/-- A FAIL moves the search on (R48). -/
theorem exec_stealReply_of_fail {s : State} {c n : Nat} {st : Steal} (hst : s.stealOf c n = some st) (ha : st.answer = some none) :
    exec (.stealReply c n) s = .next
      ((s.setSteal c n (st.failedOn (s.victims c (s.slot c n).pop).length (s.core c).cyc.toNat)).count c 0x41 n 1) := by
  change execStealReply c n s = _
  simp only [execStealReply, hst, ha, decide_eq_true_eq]
  rfl

theorem stealingMovesTheOldestRecord : Claims.StealingMovesTheOldestRecord := by
  intro s c n st hm hs hu pop becomes
  have hst := stealOf_of_idle hm hs
  have hsteal (x : Steal) : ((s.setSteal c n x).slot c n).steal = some x ∧ ((s.setSteal c n x).slot c n).mode = .idleSteal ∧
      (s.setSteal c n x).mem = s.mem := by
    rw [slot_setSteal]
    exact ⟨rfl, hm, rfl⟩
  refine ⟨?request, ?last, ?fail, ?give, ?take, ?next, ?expired, ?waits⟩
  case request =>
    intro v ha hb hv
    refine ⟨_, ?_, hsteal _⟩
    change execStealRequest c n s = _
    simp only [execStealRequest, hst, ha, hb, hv, Option.isSome_none, Bool.false_eq_true, or_self, if_false, pop]
  case last =>
    intro ha hb hv
    refine ⟨_, ?_, hsteal _⟩
    change execStealRequest c n s = _
    simp only [execStealRequest, hst, ha, hb, hv, Option.isSome_none, Bool.false_eq_true, or_self, if_false, pop]
    rfl
  case fail =>
    intro v ha hb hv
    refine ⟨_, ?_, hsteal _⟩
    change execStealAnswer c n s = _
    have hv' : (s.core v).vf ≠ (s.core c).vf ∨ (!(s.cvf v).holdsFor (s.slot c n).pop) = true := hv.imp_right (by simp [pop, ·])
    simp only [execStealAnswer, hst, ha, hb, if_pos hv']
  case give =>
    intro v r rest ha hb hv hp hr hd hq
    refine ⟨_, exec_stealAnswer_of_record hst ha hb hv hp hr hd hq hu, ?_, ?_, rfl⟩
    · rw [slot_setSteal]
    · rw [State.setSteal, deque_updSlot, cvf_updCvf]
      exact released_deque _
  case take =>
    intro r ha
    refine ⟨_, exec_stealReply_of_record hst ha hu, ?_⟩
    have h := (Bookkept.count ((s.thief c n r).updSlot c n fun x => { x with readyAt := ((s.thief c n r).core c).cyc.toNat + 1 })
      c 0x40 n 1).trans (.moved _ pop)
    obtain ⟨b, hb⟩ := h.slot c n
    refine ⟨?_, h.ownedView (ownedView_updSlot (ownedView_thief s c n r) c n _), h.mem⟩
    rw [hb, State.slot_updSlot]
    exact runsRecord_thief s c n r
  case next =>
    intro ha
    have h := Bookkept.count (s.setSteal c n (st.failedOn (s.victims c pop).length (s.core c).cyc.toNat)) c 0x41 n 1
    obtain ⟨b, hb⟩ := h.slot c n
    refine ⟨_, exec_stealReply_of_fail hst ha, ?_⟩
    rw [slot_setSteal] at hb
    exact ⟨congrArg Slot.steal hb, (congrArg Slot.mode hb).trans hm, h.mem⟩
  case expired =>
    intro w hb hw
    refine ⟨_, ?_, hsteal _⟩
    change execStealBackoffExpiry c n s = _
    simp only [execStealBackoffExpiry, hst, hb, if_pos hw]
  case waits =>
    intro w hb hw
    refine ⟨_, ?_, rfl⟩
    change execStealBackoffExpiry c n s = _
    simp only [execStealBackoffExpiry, hst, hb, if_neg (not_le.2 hw)]

/-- Settles O38: the search order is an insertion sort, and each event of a steal makes its step. -/
theorem workIsStolen : Obligations.WorkIsStolen := ⟨thievesSearchByDistance, stealingMovesTheOldestRecord⟩

end Sys2Proof.Machine
end

section
/-! Migration and %LIVE (R52, R53): scratchpad addresses, the departure, the arrival, its acknowledgement and its refusal; SETLIVE; the
settlement of O39 and O59. -/

namespace Sys2Proof.Machine

open Sys2Proof.Claims

/-! ### Scratchpad addresses (R141) -/

/-- An aligned address in the scratchpad aperture. -/
theorem resolve_of_aperture {s : State} {va : Word} {n : Nat} (c : Nat) (k : Access) (peerOk : Bool) (hlo : 0x01E000000000 ≤ va.toNat)
    (hhi : va.toNat < 0x020000000000) (hn : va.toNat % n = 0) : s.resolve c k va n peerOk = (s.aperture c va, s) := by
  have hcan : canonical va = true := by
    simp only [canonical, Bool.or_eq_true, decide_eq_true_eq]
    omega
  have hap : inAperture va = true := by
    rw [inAperture, Bool.and_eq_true]
    exact ⟨decide_eq_true hlo, decide_eq_true hhi⟩
  simp [State.resolve, hcan, hn, hap]

/-- An address in a core's window. -/
theorem aperture_of_window {s : State} {c o off : Nat} (ho : o < 1024) (hoff : off < 2 ^ 18) (h : s.coreIn (s.runPid c) o = true) :
    s.aperture c (BitVec.ofNat 64 (0x01F000000000 + o * 2 ^ 18 + off)) = .at (.sp o off) := by
  have hva : (BitVec.ofNat 64 (0x01F000000000 + o * 2 ^ 18 + off)).toNat = 0x01F000000000 + o * 2 ^ 18 + off := by
    rw [BitVec.toNat_ofNat, Nat.mod_eq_of_lt (by omega)]
  have hsub : 0x01F000000000 + o * 2 ^ 18 + off - 0x01F000000000 = o * 2 ^ 18 + off := by omega
  have hdiv : (o * 2 ^ 18 + off) / 2 ^ 18 = o := by omega
  have hmod : (o * 2 ^ 18 + off) % 2 ^ 18 = off := by omega
  simp only [State.aperture, hva, Config.spAlias, Config.spBytes, Config.spWindow]
  rw [if_neg (by omega), if_pos (by omega), hsub, hdiv, hmod, if_pos h]

/-! ### The departure (R52) -/

/-- An access that may migrate, to the window of another core. -/
theorem access_of_remote {s : State} {va : Word} {n o off : Nat} (k : Access) (peerOk : Bool) (go : Place → State → State)
    (h : s.resolve s.cur.core k va n peerOk = (.at (.sp o off), s)) (ho : o ≠ s.cur.core) (ht : s.me.tstat.getLsbD 1 = true)
    (hc : s.me.claim = none) (hm : s.me.noMig ≠ some s.me.pc) : s.access k va n peerOk true go = s.depart o := by
  simp only [State.access, h, if_neg ho, ht, hc, Option.isNone_none, Bool.true_and, ne_eq, hm, not_false_eq_true, decide_true, if_true]

/-- The slot of a departure waits, with nothing of its bundle done. -/
theorem depart_departs (s : State) (o : Nat) : (s.depart o).mem = s.mem ∧ (s.depart o).me.g = s.me.g ∧
    (s.depart o).me.mode = .parked ∧ (s.depart o).me.fate = .replay ∧ ∃ m, (s.depart o).migs = s.migs ++ [m] ∧
      m.core = s.cur.core ∧ m.slot = s.cur.slot ∧ m.owner = o ∧ m.image = s.me := by
  have hme : (s.depart o).me = { s.me with
      mode := .parked, cWait := some .migrate, fate := .replay, tabs := some (s.me.tabs.getD (s.cvf s.cur.core).tables) } :=
    State.me_updMe ..
  rw [hme]
  exact ⟨rfl, rfl, rfl, rfl, _, rfl, rfl, rfl, rfl, rfl⟩

/-- A load from the window of another core departs (R52). -/
theorem exec_ldd_of_remote {s : State} {d a : BitVec 6} {i : BitVec 12} {o off : Nat}
    (hva : s.rg a + i.signExtend 64 = BitVec.ofNat 64 (0x01F000000000 + o * 2 ^ 18 + off)) (ho : o < 1024) (hoff : off < 2 ^ 18)
    (h8 : off % 8 = 0) (hne : o ≠ s.cur.core) (hin : s.coreIn (s.runPid s.cur.core) o = true) (ht : s.me.tstat.getLsbD 1 = true)
    (hc : s.me.claim = none) (hm : s.me.noMig ≠ some s.me.pc) : exec (.ldd d a i) s = .next (s.depart o) := by
  have hnat : (BitVec.ofNat 64 (0x01F000000000 + o * 2 ^ 18 + off)).toNat = 0x01F000000000 + o * 2 ^ 18 + off := by
    rw [BitVec.toNat_ofNat, Nat.mod_eq_of_lt (by omega)]
  have hres := resolve_of_aperture (s := s) (va := BitVec.ofNat 64 (0x01F000000000 + o * 2 ^ 18 + off)) (n := 8) s.cur.core 0 false
    (by omega) (by omega) (by omega)
  rw [aperture_of_window ho hoff hin, ← hva] at hres
  rw [show exec (.ldd d a i) s = .next (s.load d a i 8 false) from rfl, State.load]
  exact congrArg Host.Outcome.next (access_of_remote 0 false _ hres hne ht hc hm)

/-! ### The arrival (R52) -/

/-- The owner of a migration with its slot taken, the L view self-invalidated and the acknowledgement on its way. -/
def State.arrived (s : State) (m : Mig) (n : Nat) : State :=
  ((s.updCore m.owner (·.selfInvalidate)).updSlot m.owner n fun old =>
    s.landed (s.departing m) old).replyMig m true

/-- A migration whose stores are home arrives in the owner's lowest FREE slot. -/
theorem exec_migrationArrival_of_free {s : State} {m : Mig} {n : Nat} (hm : s.migOf m.core m.slot = some m) (hr : m.reply = none)
    (hq : (s.core m.core).pq = []) (hv : (s.core m.owner).vf = some m.vf) (hs : (s.core m.owner).switchTo = none)
    (hf : s.freeSlot? m.owner = some n) (hu : Untraced s) : ∃ t, exec (.migrationArrival m.core m.slot) s = .next t ∧
      Bookkept (s.arrived m n) t := by
  refine ⟨_, ?_, (Bookkept.moved _ (s.departing m).image.pop).trans (.flew _ (s.departing m).image.pop)⟩
  change execMigrationArrival m.core m.slot s = _
  have hu' : Untraced ((s.updCore m.owner (·.selfInvalidate)).updSlot m.owner n fun old =>
    s.landed (s.departing m) old) := hu
  simp only [execMigrationArrival, hm, hr, drainUpTo_of_empty _ hq, forced_of_empty _ hq, traceFor_of_untraced hu, hv, hs, hf,
    trace_of_untraced hu', Option.isSome_none, Option.isNone_none, Bool.not_true, Bool.false_eq_true, and_self, if_true, if_false]
  rfl

/-- The registers that %LIVE names (R53). -/
theorem getElem_liveRegs (g : Vector Word 64) (live : Word) (j : Fin 64) :
    (liveRegs g live)[j] = if live.getLsbD j.val then g[j] else 0 := by
  simp [liveRegs]

/-- The slot in which a migration has arrived. -/
theorem slot_arrived (s : State) (m : Mig) (n : Nat) :
    (s.arrived m n).slot m.owner n = s.landed (s.departing m) (s.slot m.owner n) :=
  (State.slot_updSlot ..).trans (by rw [slot_selfInvalidate])

theorem ownedView_arrived (s : State) (m : Mig) (n : Nat) : OwnedView ((s.arrived m n).core m.owner) := by
  refine ownedView_updSlot (s := s.updCore m.owner (·.selfInvalidate)) ?_ m.owner n _
  rw [State.core_updCore]
  exact ownedView_selfInvalidate _

theorem mem_migs_arrived {s : State} {m : Mig} {n : Nat} (hm : s.migOf m.core m.slot = some m) :
    { m with reply := some true } ∈ (s.arrived m n).migs :=
  List.mem_map.2 ⟨m, List.mem_of_find?_eq_some hm, if_pos rfl⟩

/-! ### The acknowledgement and the refusal (R52) -/

theorem slotV_updSlotV (s : State) (c vk n : Nat) (f : Slot → Slot) :
    (s.updSlotV c vk n f).slotV c vk n = f (s.slotV c vk n) := by
  rw [State.slotV, State.updSlotV, State.core_updCore, FMap.getD_insert_self, FMap.getD_insert_self]
  rfl

/-- The mode of a slot that is back before its bundle. -/
theorem undoSlot_mode_of_parked {x : Slot} (h : x.mode = .parked) : (State.undoSlot x).mode = .ready := by
  unfold State.undoSlot
  cases x.prior with
  | none => exact if_pos h
  | some p => exact if_pos h

theorem exec_migrationAck {s : State} {m : Mig} (hm : s.migOf m.core m.slot = some m) (hr : m.reply = some true) :
    exec (.migrationAck m.core m.slot) s =
      .next (({ s with migs := s.migs.erase m } : State).updSlotV m.core (m.vf + 1) m.slot (·.freed)) := by
  change execMigrationAck m.core m.slot s = _
  simp only [execMigrationAck, hm, if_pos hr]

/-- The origin slot of a refused migration, back before its bundle. -/
def Slot.refused (x : Slot) (readyAt : Nat) : Slot :=
  { State.undoSlot x with noMig := some x.pc, readyAt := readyAt }

theorem exec_migrationRefusal {s : State} {m : Mig} (hm : s.migOf m.core m.slot = some m) (hr : m.reply = some false) :
    exec (.migrationRefusal m.core m.slot) s =
      .next ((({ s with migs := s.migs.erase m } : State).updSlotV m.core (m.vf + 1) m.slot
        (·.refused ((s.core m.core).cyc.toNat + 1))).flew m.image.pop) := by
  change execMigrationRefusal m.core m.slot s = _
  simp only [execMigrationRefusal, hm, if_pos hr]
  rfl

theorem slotV_flew (s : State) (p : Option Nat) (c vk n : Nat) : (s.flew p).slotV c vk n = s.slotV c vk n := by
  rw [State.slotV, core_flew]
  rfl

/-- Settles O39, by the migration packet's way to the owner and back. -/
theorem migrationCarriesLiveRegisters : Obligations.MigrationCarriesLiveRegisters := by
  refine ⟨?_, fun s m n hm hr hq hv hs hn hf hl hu => ?_, fun s m hm => ⟨fun hr => ?_, fun hr hp => ?_⟩⟩
  · intro s d a i o off va hva ho hoff h8 hne hin ht hc hm
    exact ⟨_, exec_ldd_of_remote hva ho hoff h8 hne hin ht hc hm, depart_departs s o⟩
  · obtain ⟨t, ht, h⟩ := exec_migrationArrival_of_free hm hr hq hv hs (freeSlot?_eq_some hn hf hl) hu
    obtain ⟨b, hb⟩ := h.slot m.owner n
    rw [slot_arrived] at hb
    refine ⟨t, ht, ?_⟩
    dsimp only
    rw [hb]
    exact ⟨rfl, rfl, rfl, rfl, rfl, rfl, rfl, rfl, rfl, fun j => getElem_liveRegs _ _ j, h.ownedView (ownedView_arrived s m n),
      h.migs ▸ mem_migs_arrived hm, h.mem⟩
  · refine ⟨_, exec_migrationAck hm hr, rfl, ?_⟩
    rw [slotV_updSlotV]
    rfl
  · refine ⟨_, exec_migrationRefusal hm hr, ?_, ?_⟩
    · rw [State.flew_eq]
      rfl
    · rw [slotV_flew, slotV_updSlotV]
      exact ⟨undoSlot_mode_of_parked hp, rfl⟩

end Sys2Proof.Machine
end

section
/-! SETLIVE (R53): its word, what a word of its major with a field that must be zero does, and a lone word that is no instruction; the
settlement of O59. -/

namespace Sys2Proof.Machine

open Sys2Proof.Claims

/-! ### The word (R53, R66) -/

/-- A word of SETLIVE's major with bit 31 set. -/
def setliveWord (d a b f : BitVec 6) : Nat := 0xAA000000 + d.toNat * 2 ^ 18 + a.toNat * 2 ^ 12 + b.toNat * 2 ^ 6 + f.toNat

theorem fld_setliveWord (d a b f : BitVec 6) : fld (setliveWord d a b f) 31 1 = 1 ∧ fld (setliveWord d a b f) 30 1 = 0 ∧
    fld (setliveWord d a b f) 24 6 = 0x2A ∧ fld (setliveWord d a b f) 18 6 = d.toNat ∧ fld (setliveWord d a b f) 12 6 = a.toNat ∧
    fld (setliveWord d a b f) 0 12 = b.toNat * 64 + f.toNat := by
  have hd := d.isLt
  have ha := a.isLt
  have hb := b.isLt
  have hf := f.isLt
  simp only [fld, setliveWord]
  omega

/-- The words of SETLIVE's major. -/
theorem decode_setliveWord (d a b f : BitVec 6) : decode (setliveWord d a b f) =
    if d = 0 ∧ b = 0 ∧ f = 0 then some (.setlive a) else none := by
  obtain ⟨-, h30, hmajor, h18, h12, h0⟩ := fld_setliveWord d a b f
  have hdecode : decode (setliveWord d a b f) =
      if b.toNat * 64 + f.toNat = 0 ∧ d.toNat = 0 then some (.setlive (.ofNat 6 a.toNat)) else none := by
    rw [decode, if_pos h30, hmajor, ← h18, ← h12, ← h0]
    rfl
  have hzero : (b.toNat * 64 + f.toNat = 0 ∧ d.toNat = 0) ↔ (d = 0 ∧ b = 0 ∧ f = 0) := by
    simp only [← BitVec.toNat_inj, show (0 : BitVec 6).toNat = 0 from rfl]
    omega
  rw [hdecode, BitVec.ofNat_toNat, BitVec.setWidth_eq]
  simp only [hzero]

/-! ### A lone word that is no instruction (R62, R71) -/

/-- A step at a lone illegal word takes trap 0x01. -/
theorem step_of_illegal {s u : State} {c n w : Nat} (hi : s.issuing = some (c, n))
    (hf : ({ s with issuing := none, cur := { core := c, slot := n } } : State).fetchWord c (s.slot c n).pc = .word w u)
    (h31 : fld w 31 1 = 1) (hl : legal w = none) : step s = .next
      (((u.takeTrap c n true 0x01 (BitVec.ofNat 64 w)).updSlot c n fun x =>
        { x with fate := .trap 0x01 (BitVec.ofNat 64 w) }).commit c n) := by
  have hb := (fetchBundle_of_lone hf h31).trans (congrArg (·, u) (checkLone_of_illegal (fw := (s.slot c n).fw) hl))
  rw [step_of_issuing hi]
  simp only [runBundle, hb]

/-- A trap that is taken, whatever its slot's fate is. -/
theorem TookTrap.updFate {c n cause : Nat} {val : Word} {s t : State} (h : TookTrap c n cause val s t) (x : Fate) :
    TookTrap c n cause val s (t.updSlot c n fun y => { y with fate := x }) := by
  obtain ⟨honly, hslot⟩ := h
  refine ⟨honly.trans (onlySlot_updSlot t c n _), ?_⟩
  rw [State.slot_updSlot, hslot]

/-- Settles O59, by the decoding of SETLIVE's major and the arrival of a migration. -/
theorem setliveWritesLive : Obligations.SetliveWritesLive := by
  refine ⟨fun s a => ⟨_, rfl, becomes_updMe s _⟩, by decide +kernel, fun a => ⟨?_, rfl⟩, ?_,
    fun s m n hm hr hq hv hs hn hf hl hu => ?_⟩
  · have h := decode_setliveWord 0 a 0 0
    rw [if_pos ⟨rfl, rfl, rfl⟩] at h
    exact h
  · intro s u c n d a b f hi w hf hne ht hx
    have hl : legal w = none := by
      have h : decode w = none := (decode_setliveWord d a b f).trans (if_neg (by tauto))
      rw [legal, h]
    exact ⟨_, (takeTrap_tookTrap u c n _ _ ht hx).updFate _, step_of_illegal hi hf (fld_setliveWord d a b f).1 hl⟩
  · obtain ⟨t, ht, h⟩ := exec_migrationArrival_of_free hm hr hq hv hs (freeSlot?_eq_some hn hf hl) hu
    obtain ⟨b, hb⟩ := h.slot m.owner n
    rw [slot_arrived] at hb
    refine ⟨t, ht, ?_⟩
    dsimp only
    rw [hb]
    exact ⟨rfl, fun j => getElem_liveRegs _ _ j⟩

end Sys2Proof.Machine
end

section
/-! Completion messages (R198, R199, R327) and the judging of populations (R56, R174): a slot that is freed, one that leaves its wait; the
settlement of O40. -/

namespace Sys2Proof.Machine

open Sys2Proof.Claims

/-! ### Messages (R199) -/

/-- The registers that a message gives are written one after another. -/
theorem wrs_msgRegs (x : Slot) (d : Nat) (m : Msg) : x.wrs (State.msgRegs d m) =
    (((x.wg (BitVec.ofNat 6 d) m.w0).wg (BitVec.ofNat 6 (d + 1)) m.w1).wg (BitVec.ofNat 6 (d + 2)) m.w2).wg
      (BitVec.ofNat 6 (d + 3)) m.w3 := rfl

/-- A write of a general register changes the general registers alone. -/
theorem exists_wg_eq (x : Slot) (d : BitVec 6) (v : Word) : ∃ g, x.wg d v = { x with g := g } := by
  unfold Slot.wg
  split
  · exact ⟨_, rfl⟩
  · exact ⟨_, rfl⟩

theorem exists_wrs_msgRegs_eq (x : Slot) (d : Nat) (m : Msg) : ∃ g, x.wrs (State.msgRegs d m) = { x with g := g } := by
  obtain ⟨g0, h0⟩ := exists_wg_eq x (BitVec.ofNat 6 d) m.w0
  obtain ⟨g1, h1⟩ := exists_wg_eq { x with g := g0 } (BitVec.ofNat 6 (d + 1)) m.w1
  obtain ⟨g2, h2⟩ := exists_wg_eq { x with g := g1 } (BitVec.ofNat 6 (d + 2)) m.w2
  obtain ⟨g3, h3⟩ := exists_wg_eq { x with g := g2 } (BitVec.ofNat 6 (d + 3)) m.w3
  exact ⟨g3, by rw [wrs_msgRegs, h0, h1, h2, h3]⟩

/-- The general registers after a message has been taken. -/
theorem getElem_wrs_msgRegs (x : Slot) {d : Nat} (m : Msg) (hd : d ≤ 60) (n : Fin 64) : (x.wrs (State.msgRegs d m)).g[n] =
    if n.val = 0 then x.g[n] else if n.val = d then m.w0 else if n.val = d + 1 then m.w1 else if n.val = d + 2 then m.w2
    else if n.val = d + 3 then m.w3 else x.g[n] := by
  have htoNat {k : Nat} (hk : k < 64) : (BitVec.ofNat 6 k).toNat = k := by
    rw [BitVec.toNat_ofNat]
    omega
  rw [wrs_msgRegs, Slot.regs_wg, Slot.regs_wg, Slot.regs_wg, Slot.regs_wg, htoNat (by omega), htoNat (by omega), htoNat (by omega),
    htoNat (by omega)]
  grind

/-- A message is taken into four registers, out of the inbox (R199). -/
theorem takeMsg_takes (s : State) (m : Msg) {d : BitVec 6} (hd : d.toNat ≤ 60) :
    let t := (s.takeMsg s.cur.core m).updMe (·.wrs (State.msgRegs d.toNat m))
    OnlyCore s.cur.core s t ∧ t.me = { s.me with g := t.me.g } ∧ (t.core s.cur.core).inbox = (s.core s.cur.core).inbox.erase m ∧
      OwnedView (t.core s.cur.core) ∧
      ∀ n : Fin 64, t.me.g[n] = if n.val = 0 then s.me.g[n] else if n.val = d.toNat then m.w0
        else if n.val = d.toNat + 1 then m.w1 else if n.val = d.toNat + 2 then m.w2
        else if n.val = d.toNat + 3 then m.w3 else s.me.g[n] := by
  intro t
  have hcore : (s.takeMsg s.cur.core m).core s.cur.core =
      { s.core s.cur.core with inbox := (s.core s.cur.core).inbox.erase m }.selfInvalidate := by
    rw [State.takeMsg, State.core_updCore, State.core_updCore]
  have hslot : (s.takeMsg s.cur.core m).me = s.me := by
    change ((s.takeMsg s.cur.core m).core s.cur.core).slot s.cur.slot = _
    rw [hcore]
    rfl
  have hme : t.me = s.me.wrs (State.msgRegs d.toNat m) := (State.me_updMe ..).trans (by rw [hslot])
  have hcore' : t.core s.cur.core = ((s.takeMsg s.cur.core m).core s.cur.core).setSlot s.cur.slot t.me := by
    rw [hme, ← hslot]
    exact State.core_setSlot ..
  refine ⟨((onlyCore_updCore s _ _).trans (onlyCore_updCore _ _ _)).trans (onlyCvf_updSlot _ _ _ _).core, ?_, ?_, ?_, fun n => ?_⟩
  · obtain ⟨g, hg⟩ := exists_wrs_msgRegs_eq s.me d.toNat m
    rw [hme, hg]
  · rw [hcore', hcore]
    rfl
  · rw [hcore', hcore]
    exact ownedView_congr (ownedView_selfInvalidate _) rfl rfl
  · rw [hme]
    exact getElem_wrs_msgRegs s.me m hd n

theorem inboxMessages : Claims.InboxMessages := by
  intro s d hd c mine
  refine ⟨fun m hm => ?_, fun hm => ?_⟩
  · have hmsg : s.message c s.cur.slot (s.runVf c) s.me.pop = some m := hm
    refine ⟨fun i hi => ⟨_, ?_, takeMsg_takes s m hd⟩, s, ?_, rfl⟩
    · rcases hi with rfl | rfl
      · change execIbx d s = _
        simp only [execIbx, hmsg, c]
      · change execIbxTry d s = _
        simp only [execIbxTry, hmsg, c]
    · change execPark s = _
      simp only [execPark, hmsg, c]
  · have hmsg : s.message c s.cur.slot (s.runVf c) s.me.pop = none := hm
    have hibx : exec (.ibx d) s = .next (s.parkC (.ibx d.toNat)) := by
      change execIbx d s = _
      simp only [execIbx, hmsg, c]
    have htry : exec (.ibxTry d) s = .next (s.wg d 0) := by
      change execIbxTry d s = _
      simp only [execIbxTry, hmsg, c]
    have hpark : exec .park s = .next (s.parkC .park) := by
      change execPark s = _
      simp only [execPark, hmsg, c]
    exact ⟨⟨_, hibx, becomes_updMe s _, congrArg Slot.waitCode (State.me_updMe ..)⟩, ⟨_, htry, writesG_wg s d 0⟩,
      ⟨_, hpark, becomes_updMe s _, congrArg Slot.waitCode (State.me_updMe ..)⟩⟩

/-! ### A slot that is freed (R27) -/

theorem slot_forget (s : State) (c n d m : Nat) : (s.forget c n).slot d m = s.slot d m := by
  rw [State.slot, State.core, forget_cores]
  change State.slot (s.updCvf c _) d m = s.slot d m
  by_cases hd : d = c
  · subst hd
    exact State.slot_updCvf_of_slots s d m fun _ => rfl
  · rw [State.slot, State.updCvf, State.core_updCore_ne s _ hd]
    rfl

theorem slot_freeSlot_ne (s : State) {c n d m : Nat} (h : (d, m) ≠ (c, n)) : (s.freeSlot c n).slot d m = s.slot d m := by
  rw [State.freeSlot, State.slot_updSlot_ne _ _ h, slot_forget, State.dropClaim, State.slot_updSlot_ne s _ h]

@[simp] theorem freeSlot_pops (s : State) (c n : Nat) : (s.freeSlot c n).pops = s.pops := rfl

/-- A FREE slot stays FREE when a slot is freed. -/
theorem mode_freeSlot_of_free {s : State} {d m : Nat} (c n : Nat) (h : (s.slot d m).mode = .free) :
    ((s.freeSlot c n).slot d m).mode = .free := by
  by_cases hc : (d, m) = (c, n)
  · obtain ⟨rfl, rfl⟩ := Prod.mk.inj hc
    obtain ⟨b, hb⟩ := slot_freeSlot s d m
    rw [hb]
  · rwa [slot_freeSlot_ne s hc]

/-- Free the slots of a list. -/
def State.freeAll (s : State) (xs : List (Nat × Nat × Nat × Slot)) : State := xs.foldl (fun t e => t.freeSlot e.1 e.2.2.1) s

theorem freeAll_cons (s : State) (e : Nat × Nat × Nat × Slot) (xs : List (Nat × Nat × Nat × Slot)) :
    s.freeAll (e :: xs) = (s.freeSlot e.1 e.2.2.1).freeAll xs := rfl

theorem freeAll_mem_pops (s : State) (xs : List (Nat × Nat × Nat × Slot)) :
    (s.freeAll xs).mem = s.mem ∧ (s.freeAll xs).pops = s.pops := by
  induction xs generalizing s with
  | nil => exact ⟨rfl, rfl⟩
  | cons e xs ih =>
    rw [freeAll_cons]
    exact ih _

theorem mode_freeAll_of_free {s : State} {d m : Nat} (xs : List (Nat × Nat × Nat × Slot)) (h : (s.slot d m).mode = .free) :
    ((s.freeAll xs).slot d m).mode = .free := by
  induction xs generalizing s with
  | nil => exact h
  | cons e xs ih =>
    rw [freeAll_cons]
    exact ih (mode_freeSlot_of_free _ _ h)

/-- Each slot of the list becomes FREE. -/
theorem mode_freeAll {s : State} {xs : List (Nat × Nat × Nat × Slot)} {e : Nat × Nat × Nat × Slot} (he : e ∈ xs) :
    ((s.freeAll xs).slot e.1 e.2.2.1).mode = .free := by
  induction xs generalizing s with
  | nil => exact absurd he (List.not_mem_nil)
  | cons f xs ih =>
    rw [freeAll_cons]
    rcases List.mem_cons.1 he with rfl | he
    · obtain ⟨b, hb⟩ := slot_freeSlot s e.1 e.2.2.1
      exact mode_freeAll_of_free xs (by rw [hb])
    · exact ih he

/-! ### A population is complete (R56, R198) -/

/-- The messages of a population are discarded and its status is written. -/
def State.completed (s : State) (p : Nat) (x : Pop) : State :=
  { s with
    cores := s.cores.map fun c => (c.1, { c.2 with inbox := c.2.inbox.filter (·.pop ≠ some p) })
    pops := FMap.insert s.pops p { x with status := .complete } }

/-- A core without a population's messages. -/
def Core.discard (p : Nat) (k : Core) : Core := { k with inbox := k.inbox.filter (·.pop ≠ some p) }

theorem core_completed (s : State) (p : Nat) (x : Pop) (c : Nat) : (s.completed p x).core c = (s.core c).discard p := by
  have h : FMap.find? (s.completed p x).cores c = (FMap.find? s.cores c).map (Core.discard p) :=
    FMap.find?_map s.cores (Core.discard p) c
  rw [State.core, State.core, FMap.getD, FMap.getD, h]
  cases FMap.find? s.cores c with
  | none => rfl
  | some k => rfl

/-- The last check of a population that searches everywhere. -/
theorem exec_populationComplete {s : State} {p : Nat} {x : Pop} (hp : FMap.find? s.pops p = some x) :
    exec (.populationComplete p) s = .next (if x.status = .running ∧ 65536 ≤ x.quiet ∧ s.noRecords p = true ∧
      ∀ e ∈ s.popSlots p, s.unjudged e = false ∧ e.2.2.2.mode = .idleSteal then (s.freeAll (s.popSlots p)).completed p x else s) := by
  change execPopulationComplete p s = _
  simp only [execPopulationComplete, hp, List.all_eq_true, Bool.and_eq_true, Bool.not_eq_true', decide_eq_true_eq]
  rfl

theorem slot_completed (s : State) (p : Nat) (x : Pop) (c n : Nat) : (s.completed p x).slot c n = s.slot c n := by
  rw [State.slot, core_completed]
  rfl

theorem completed_completes {s : State} {p : Nat} (x : Pop) (xs : List (Nat × Nat × Nat × Slot)) :
    let t := (s.freeAll xs).completed p x
    FMap.find? t.pops p = some { x with status := .complete } ∧ (∀ c, ∀ m ∈ (t.core c).inbox, m.pop ≠ some p) ∧
      (∀ e ∈ xs, (t.slot e.1 e.2.2.1).mode = .free) ∧
      (∀ q, q ≠ p → FMap.find? t.pops q = FMap.find? s.pops q) ∧ t.mem = s.mem := by
  obtain ⟨hmem, hpops⟩ := freeAll_mem_pops s xs
  refine ⟨FMap.find?_insert_self .., fun c m hm => ?_, fun e he => ?_, fun q hq => ?_, hmem⟩
  · rw [core_completed] at hm
    simpa using (List.mem_filter.1 hm).2
  · rw [slot_completed]
    exact mode_freeAll he
  · exact (FMap.find?_insert_ne _ _ hq).trans (by rw [hpops])

/-! ### A slot that leaves its wait (R56, R201, R240) -/

/-- A slot that is back before its bundle, its barrier marked. -/
def Slot.abandoned (x : Slot) : Slot := { State.undoSlot (State.markBar x) with tabs := none, dtld := none }

/-- The state without a slot's request. -/
def State.unrequested (s : State) (c n : Nat) : State := match State.requestOf (s.slot c n) with
  | some rid => s.endReq rid
  | none => s

theorem abandon_eq (s : State) (c n : Nat) :
    s.abandon c n = ((s.unrequested c n).forget c n).updSlot c n Slot.abandoned := rfl

theorem unrequested_cores (s : State) (c n : Nat) : (s.unrequested c n).cores = s.cores := by
  unfold State.unrequested
  split <;> rfl

theorem unrequested_eq (s : State) (c n : Nat) : s.unrequested c n = { s with reqs := (s.unrequested c n).reqs } := by
  unfold State.unrequested
  split <;> rfl

theorem slot_unrequested (s : State) (c n d m : Nat) : (s.unrequested c n).slot d m = s.slot d m := by
  rw [unrequested_eq]
  rfl

theorem slot_abandon (s : State) (c n : Nat) : (s.abandon c n).slot c n = (s.slot c n).abandoned := by
  rw [abandon_eq, State.slot_updSlot, slot_forget, slot_unrequested]

theorem slot_abandon_ne (s : State) {c n d m : Nat} (h : (d, m) ≠ (c, n)) : (s.abandon c n).slot d m = s.slot d m := by
  rw [abandon_eq, State.slot_updSlot_ne _ _ h, slot_forget, slot_unrequested]

theorem undoSlot_cWait (x : Slot) : (State.undoSlot x).cWait = none := by
  unfold State.undoSlot
  cases x.prior with
  | none => rfl
  | some p => rfl

theorem undoSlot_pc (x : Slot) : (State.undoSlot x).pc = x.pc := by
  unfold State.undoSlot
  cases x.prior with
  | none => rfl
  | some p => rfl

theorem undoSlot_pendHang (x : Slot) : (State.undoSlot x).pendHang = x.pendHang := by
  unfold State.undoSlot
  cases x.prior with
  | none => rfl
  | some p => rfl

/-- A parked slot that leaves its wait is READY where its bundle stands, and keeps what is pending. -/
theorem abandoned_of_parked {x : Slot} (h : x.mode = .parked) : x.abandoned.mode = .ready ∧ x.abandoned.cWait = none ∧
    x.abandoned.pc = x.pc ∧ x.abandoned.pendHang = x.pendHang := by
  have hmark : ∃ l, State.markBar x = { x with arrived := l } := by
    unfold State.markBar
    split
    · exact ⟨_, rfl⟩
    · exact ⟨_, rfl⟩
  obtain ⟨l, hl⟩ := hmark
  have hy : (State.markBar x).mode = .parked ∧ (State.markBar x).pc = x.pc ∧ (State.markBar x).pendHang = x.pendHang := by
    rw [hl]
    exact ⟨h, rfl, rfl⟩
  obtain ⟨hmode, hpc, hpend⟩ := hy
  exact ⟨undoSlot_mode_of_parked hmode, undoSlot_cWait (State.markBar x), (undoSlot_pc _).trans hpc, (undoSlot_pendHang _).trans hpend⟩

theorem abandon_reqs (s : State) (c n : Nat) : (s.abandon c n).reqs = (s.unrequested c n).reqs := by
  rw [abandon_eq]
  rfl

/-- What the wait of one slot leaves of the requests. -/
theorem find?_reqs_abandon (s : State) (c n rid : Nat) (h : (s.slot c n).cWait ≠ some (.request rid)) :
    FMap.find? (s.abandon c n).reqs rid = FMap.find? s.reqs rid := by
  rw [abandon_reqs]
  unfold State.unrequested
  split
  next r hr =>
    refine FMap.find?_erase_ne _ fun e => h ?_
    subst e
    unfold State.requestOf at hr
    split at hr
    next hw => rw [hw, Option.some.inj hr]
    next => cases hr
  next => rfl

/-! ### A population is hung (R56) -/

/-- What a slot's wait reports by does not depend on its pending hang trap. -/
theorem waitCode_pendHang (s : State) (c : Nat) (x : Slot) (v : Option Word) :
    s.waitCode c { x with pendHang := v } = s.waitCode c x := rfl

theorem parked_of_waitCode {s : State} {c : Nat} {x : Slot} {code : Nat} (h : s.waitCode c x = some code) : x.mode = .parked := by
  by_contra hm
  rw [State.waitCode, if_pos hm] at h
  cases h

/-- A wait's code depends on the requests, and on the stores of its core that have still to be forced. -/
theorem waitCode_congr {s t : State} {c : Nat} {x : Slot} (hq : (t.core c).pq = (s.core c).pq)
    (hu : (t.core c).unpub = (s.core c).unpub)
    (hr : ∀ rid, x.cWait = some (.request rid) → FMap.find? t.reqs rid = FMap.find? s.reqs rid) :
    t.waitCode c x = s.waitCode c x := by
  unfold State.waitCode
  split
  next => rfl
  next =>
    split
    next => rw [State.forced, State.forced, hq, hu]
    next => rfl
    next rid hw => rw [hr rid hw]
    next => rfl

/-- A slot that takes the hang trap, in a handler or not (R56). -/
def Slot.hung (x : Slot) (code : Nat) : Slot :=
  if x.inTrap then { x with pendHang := some (BitVec.ofNat 64 code) } else { x with pendHang := some (BitVec.ofNat 64 code) }.abandoned

theorem slot_hangSlot {s : State} {c n code : Nat} (h : s.waitCode c (s.slot c n) = some code)
    (ht : (s.slot c n).tstat.getLsbD 3 = true) : (s.hangSlot c n).slot c n = (s.slot c n).hung code := by
  simp only [State.hangSlot, h, ht, if_true, Slot.hung]
  split
  · rw [State.slot_updSlot]
  · rw [slot_abandon, State.slot_updSlot]

theorem hangSlot_of_unasked {s : State} {c n : Nat} (ht : (s.slot c n).tstat.getLsbD 3 = false) : s.hangSlot c n = s := by
  simp only [State.hangSlot, ht, Bool.false_eq_true, if_false]
  split <;> rfl

theorem hangSlot_of_awake {s : State} {c n : Nat} (h : s.waitCode c (s.slot c n) = none) : s.hangSlot c n = s := by
  simp only [State.hangSlot, h]

theorem slot_hangSlot_ne (s : State) {c n d m : Nat} (h : (d, m) ≠ (c, n)) : (s.hangSlot c n).slot d m = s.slot d m := by
  unfold State.hangSlot
  dsimp only
  split
  case h_2 => rfl
  case h_1 =>
    split
    case isFalse => rfl
    case isTrue =>
      split
      · rw [State.slot_updSlot_ne s _ h]
      · rw [slot_abandon_ne _ h, State.slot_updSlot_ne s _ h]

theorem find?_reqs_hangSlot {s : State} {c n rid : Nat} (h : (s.slot c n).cWait ≠ some (.request rid)) :
    FMap.find? (s.hangSlot c n).reqs rid = FMap.find? s.reqs rid := by
  unfold State.hangSlot
  dsimp only
  split
  case h_2 => rfl
  case h_1 =>
    split
    case isFalse => rfl
    case isTrue =>
      split
      · rfl
      · exact find?_reqs_abandon _ c n rid (by rwa [State.slot_updSlot])

/-- A core that differs in what it holds for its VFs alone. -/
theorem OnlyCvf.core_rest {c : Nat} {s t : State} (h : OnlyCvf c s t) (d : Nat) :
    { t.core d with vfs := [] } = { s.core d with vfs := [] } := by
  by_cases hd : d = c
  · subst hd
    exact h.rest
  · rw [h.core.cores d hd]

theorem waitCode_updSlot (s : State) (c n : Nat) (f : Slot → Slot) (d : Nat) (x : Slot) :
    (s.updSlot c n f).waitCode d x = s.waitCode d x :=
  have h := (onlyCvf_updSlot s c n f).core_rest d
  waitCode_congr (congrArg Core.pq h :) (congrArg Core.unpub h :) fun _ _ => rfl

/-- What the judging of a hung population leaves of the machine, slot by slot. -/
structure HangKept (s t : State) : Prop where
  reports : t.reports = s.reports
  mem : t.mem = s.mem
  pops : t.pops = s.pops
  core : ∀ d, { t.core d with vfs := [] } = { s.core d with vfs := [] }
  waits : ∀ d m rid, (t.slot d m).cWait = some (.request rid) → (s.slot d m).cWait = some (.request rid)

namespace HangKept

theorem refl (s : State) : HangKept s s := ⟨rfl, rfl, rfl, fun _ => rfl, fun _ _ _ h => h⟩

theorem trans {s t u : State} (h : HangKept s t) (k : HangKept t u) : HangKept s u where
  reports := k.reports.trans h.reports
  mem := k.mem.trans h.mem
  pops := k.pops.trans h.pops
  core d := (k.core d).trans (h.core d)
  waits d m rid e := h.waits d m rid (k.waits d m rid e)

/-- One slot changes, and waits for no other request than before. -/
theorem updSlot (s : State) (c n : Nat) {f : Slot → Slot}
    (h : ∀ rid, (f (s.slot c n)).cWait = some (.request rid) → (s.slot c n).cWait = some (.request rid)) :
    HangKept s (s.updSlot c n f) where
  reports := rfl
  mem := rfl
  pops := rfl
  core d := (onlyCvf_updSlot s c n f).core_rest d
  waits d m rid e := by
    by_cases hd : (d, m) = (c, n)
    · obtain ⟨rfl, rfl⟩ := Prod.mk.inj hd
      rw [State.slot_updSlot] at e
      exact h rid e
    · rwa [State.slot_updSlot_ne s f hd] at e

theorem unrequested (s : State) (c n : Nat) : HangKept s (s.unrequested c n) := by
  rw [unrequested_eq]
  exact ⟨rfl, rfl, rfl, fun _ => rfl, fun _ _ _ h => h⟩

theorem forget (s : State) (c n : Nat) : HangKept s (s.forget c n) where
  reports := rfl
  mem := rfl
  pops := rfl
  core d := by
    rw [State.core, forget_cores]
    exact (onlyCvf_updCvf s c _).core_rest d
  waits d m rid e := by rwa [slot_forget] at e

theorem hangSlot (s : State) (c n : Nat) : HangKept s (s.hangSlot c n) := by
  cases h : s.waitCode c (s.slot c n) with
  | none =>
    rw [hangSlot_of_awake h]
    exact refl s
  | some code =>
    have hup := updSlot s c n (f := fun x => { x with pendHang := some (BitVec.ofNat 64 code) }) fun _ e => e
    simp only [State.hangSlot, h]
    split
    case isFalse => exact refl s
    case isTrue =>
      split
      case isTrue => exact hup
      case isFalse =>
        rw [abandon_eq]
        refine ((hup.trans (unrequested _ c n)).trans (forget _ c n)).trans (updSlot _ c n fun rid e => ?_)
        rw [slot_forget, slot_unrequested, State.slot_updSlot] at e
        rw [(abandoned_of_parked (x := { s.slot c n with pendHang := some (BitVec.ofNat 64 code) }) (parked_of_waitCode h)).2.1] at e
        cases e

end HangKept

/-- The slots of a list take the hang trap, each where it asks for it. -/
def State.hangAll (s : State) (xs : List (Nat × Nat × Nat × Slot)) : State := xs.foldl (fun t e => t.hangSlot e.1 e.2.2.1) s

theorem hangAll_cons (s : State) (e : Nat × Nat × Nat × Slot) (xs : List (Nat × Nat × Nat × Slot)) :
    s.hangAll (e :: xs) = (s.hangSlot e.1 e.2.2.1).hangAll xs := rfl

theorem HangKept.hangAll (s : State) (xs : List (Nat × Nat × Nat × Slot)) : HangKept s (s.hangAll xs) := by
  induction xs generalizing s with
  | nil => exact refl s
  | cons e xs ih =>
    rw [hangAll_cons]
    exact (hangSlot s _ _).trans (ih _)

/-- A slot that does not ask for the trap stands. -/
theorem slot_hangAll_of_unasked {s : State} {c n : Nat} (xs : List (Nat × Nat × Nat × Slot))
    (ht : (s.slot c n).tstat.getLsbD 3 = false) : (s.hangAll xs).slot c n = s.slot c n := by
  induction xs generalizing s with
  | nil => rfl
  | cons e xs ih =>
    rw [hangAll_cons]
    have h : (s.hangSlot e.1 e.2.2.1).slot c n = s.slot c n := by
      by_cases he : (c, n) = (e.1, e.2.2.1)
      · obtain ⟨rfl, rfl⟩ := Prod.mk.inj he
        rw [hangSlot_of_unasked ht]
      · exact slot_hangSlot_ne s he
    rw [ih (by rwa [h]), h]

section Target

variable {s : State} {c n code : Nat} (hw : s.waitCode c (s.slot c n) = some code) (ht : (s.slot c n).tstat.getLsbD 3 = true)
  (hone : ∀ d m rid, (s.slot c n).cWait = some (.request rid) → (s.slot d m).cWait = some (.request rid) → (c, n) = (d, m))

/-- The slot has not taken the trap yet, and still waits. -/
def Awaits (s : State) (c n code : Nat) (t : State) : Prop :=
  t.slot c n = s.slot c n ∧ t.waitCode c (s.slot c n) = some code

/-- The slot has taken the trap; in a handler it waits on. -/
def TookHang (s : State) (c n code : Nat) (t : State) : Prop :=
  t.slot c n = (s.slot c n).hung code ∧ ((s.slot c n).inTrap = true → t.waitCode c (s.slot c n) = some code)

include hone in
/-- Another slot's trap does not touch the wait. -/
theorem waitCode_hangSlot_ne {t : State} (k : HangKept s t) {d m : Nat} (hd : (c, n) ≠ (d, m)) :
    (t.hangSlot d m).waitCode c (s.slot c n) = t.waitCode c (s.slot c n) := by
  have hcore := (HangKept.hangSlot t d m).core c
  refine waitCode_congr (congrArg Core.pq hcore :) (congrArg Core.unpub hcore :) fun rid hr => ?_
  exact find?_reqs_hangSlot fun e => hd (hone d m rid hr (k.waits d m rid e))

include ht in
/-- The slot takes the trap. -/
theorem tookHang_of_awaits {t : State} (h : Awaits s c n code t) : TookHang s c n code (t.hangSlot c n) := by
  obtain ⟨hslot, hcode⟩ := h
  have hcode' : t.waitCode c (t.slot c n) = some code := by rwa [hslot]
  have ht' : (t.slot c n).tstat.getLsbD 3 = true := by rwa [hslot]
  refine ⟨by rw [slot_hangSlot hcode' ht', hslot], fun hin => ?_⟩
  have hin' : (t.slot c n).inTrap = true := by rwa [hslot]
  simp only [State.hangSlot, hcode', ht', hin', if_true]
  rwa [waitCode_updSlot]

include hw ht in
/-- A slot that has taken the trap takes no other. -/
theorem tookHang_of_tookHang {t : State} (h : TookHang s c n code t) : TookHang s c n code (t.hangSlot c n) := by
  obtain ⟨hslot, hcode⟩ := h
  cases hin : (s.slot c n).inTrap with
  | true =>
    have hhung : (s.slot c n).hung code = { s.slot c n with pendHang := some (BitVec.ofNat 64 code) } := if_pos hin
    rw [hhung] at hslot
    have hcode' : t.waitCode c (t.slot c n) = some code := by rw [hslot, waitCode_pendHang, hcode hin]
    have ht' : (t.slot c n).tstat.getLsbD 3 = true := by rwa [hslot]
    have hin' : (t.slot c n).inTrap = true := by rwa [hslot]
    refine ⟨?_, fun _ => ?_⟩
    · rw [slot_hangSlot hcode' ht', Slot.hung, if_pos hin', hslot, hhung]
    · simp only [State.hangSlot, hcode', ht', hin', if_true]
      rw [waitCode_updSlot, hcode hin]
  | false =>
    have hready : (t.slot c n).mode = .ready := by
      rw [hslot, Slot.hung, if_neg (by rw [hin]; decide)]
      exact (abandoned_of_parked (x := { s.slot c n with pendHang := some (BitVec.ofNat 64 code) }) (parked_of_waitCode hw)).1
    have hnone : t.waitCode c (t.slot c n) = none := by rw [State.waitCode, if_pos (by rw [hready]; decide)]
    rw [hangSlot_of_awake hnone]
    exact ⟨hslot, hcode⟩

include hw ht hone in
theorem tookHang_hangAll_of_tookHang {t : State} (k : HangKept s t) (h : TookHang s c n code t)
    (xs : List (Nat × Nat × Nat × Slot)) : TookHang s c n code (t.hangAll xs) := by
  induction xs generalizing t with
  | nil => exact h
  | cons e xs ih =>
    rw [hangAll_cons]
    refine ih (k.trans (.hangSlot t _ _)) ?_
    by_cases he : (c, n) = (e.1, e.2.2.1)
    · obtain ⟨hc, hn⟩ := Prod.mk.inj he
      rw [← hc, ← hn]
      exact tookHang_of_tookHang hw ht h
    · exact ⟨(slot_hangSlot_ne t he).trans h.1, fun hin => (waitCode_hangSlot_ne hone k he).trans (h.2 hin)⟩

include hw ht hone in
/-- A waiting slot of the list takes the trap, once. -/
theorem tookHang_hangAll {t : State} (k : HangKept s t) (h : Awaits s c n code t) {xs : List (Nat × Nat × Nat × Slot)}
    {e : Nat × Nat × Nat × Slot} (he : e ∈ xs) (hc : e.1 = c) (hn : e.2.2.1 = n) : TookHang s c n code (t.hangAll xs) := by
  induction xs generalizing t with
  | nil => exact absurd he List.not_mem_nil
  | cons f xs ih =>
    rw [hangAll_cons]
    by_cases hf : (c, n) = (f.1, f.2.2.1)
    · obtain ⟨hc', hn'⟩ := Prod.mk.inj hf
      rw [← hc', ← hn']
      exact tookHang_hangAll_of_tookHang hw ht hone (k.trans (.hangSlot t _ _)) (tookHang_of_awaits ht h) xs
    · rcases List.mem_cons.1 he with rfl | he
      · exact absurd (by rw [hc, hn]) hf
      · exact ih (k.trans (.hangSlot t _ _))
          ⟨(slot_hangSlot_ne t hf).trans h.1, (waitCode_hangSlot_ne hone k hf).trans h.2⟩ he

include hw in
/-- The slot that has taken the trap. -/
theorem TookHang.slot {t : State} (h : TookHang s c n code t) : (t.slot c n).pendHang = some (BitVec.ofNat 64 code) ∧
    (t.slot c n).pc = (s.slot c n).pc ∧ ((s.slot c n).inTrap = false → (t.slot c n).mode = .ready) ∧
    ((s.slot c n).inTrap = true → (t.slot c n).mode = .parked) := by
  have hp := parked_of_waitCode hw
  rw [h.1, Slot.hung]
  split
  next hin => exact ⟨rfl, rfl, fun h => absurd (hin.symm.trans h) (by decide), fun _ => hp⟩
  next hin =>
    obtain ⟨hmode, -, hpc, hpend⟩ := abandoned_of_parked (x := { s.slot c n with pendHang := some (BitVec.ofNat 64 code) }) hp
    exact ⟨hpend, hpc, fun _ => hmode, fun h => absurd h hin⟩

end Target

/-- A population is marked hung, and the host is told (R56). -/
def State.hungPop (s : State) (p : Nat) (x : Pop) : State :=
  ({ s with pops := FMap.insert s.pops p { x with hung := true, still := 0 } } : State).report (.hung p)

theorem exec_populationHung {s : State} {p : Nat} {x : Pop} (hp : FMap.find? s.pops p = some x) :
    exec (.populationHung p) s = .next (if x.status = .running ∧ 65536 ≤ x.still ∧
      (∃ e ∈ s.popSlots p, (s.waitCode e.1 e.2.2.2).isSome = true) ∧ ∀ e ∈ s.popSlots p, s.unjudged e = false
      then (s.hungPop p x).hangAll (s.popSlots p) else s) := by
  change execPopulationHung p s = _
  simp only [execPopulationHung, hp, List.all_eq_true, List.any_eq_true, Bool.not_eq_true']
  rfl

theorem exec_completionReport {s : State} {p : Nat} {x : Pop} (hp : FMap.find? s.pops p = some x) :
    exec (.completionReport p) s = .next (if x.status = .complete ∧
      (∀ k ∈ s.clusters, ∀ j ∈ k.2.queue ++ k.2.running, j.pop ≠ some p) ∧
      (∀ c ∈ s.cores, ∀ e ∈ c.2.pq ++ c.2.unpub, e.pop ≠ some p) ∧ (∀ o ∈ s.peerOps, o.2.pop ≠ some p)
      then { s with pops := FMap.insert s.pops p { x with status := .reported } } else s) := by
  change execCompletionReport p s = _
  simp only [execCompletionReport, hp, List.all_eq_true, decide_eq_true_eq]

theorem populationsAreJudged : Claims.PopulationsAreJudged := by
  intro s p x hp
  refine ⟨fun hr hq hn hs => ⟨_, exec_populationComplete hp, ?_⟩, fun h => ⟨_, exec_populationComplete hp, ?_⟩,
    fun hr hst hw hu hone => ⟨_, exec_populationHung hp, ?_⟩, fun h => ⟨_, exec_populationHung hp, ?_⟩,
    fun hc hj hpq ho => ⟨_, exec_completionReport hp, ?_⟩, fun h => ⟨_, exec_completionReport hp, ?_⟩⟩
  · rw [if_pos ⟨hr, hq, hn, hs⟩]
    exact completed_completes x _
  · exact if_neg fun ⟨hr, hq, _⟩ => h.elim (absurd hr) (by omega)
  · rw [if_pos ⟨hr, hst, hw, hu⟩]
    have k := HangKept.hangAll (s.hungPop p x) (s.popSlots p)
    refine ⟨?_, k.reports, k.mem, fun c n code hmem hcode => ⟨fun ht => ?_, fun ht => ?_⟩⟩
    · rw [k.pops]
      exact FMap.find?_insert_self ..
    · exact (tookHang_hangAll (s := s.hungPop p x) hcode ht (fun d m rid h h' => Prod.ext_iff.2 (hone c n d m rid h h')) (.refl _)
        ⟨rfl, hcode⟩ hmem rfl rfl).slot hcode
    · exact slot_hangAll_of_unasked (s := s.hungPop p x) _ ht
  · exact if_neg fun ⟨hr, hst, _⟩ => h.elim (absurd hr) (by omega)
  · exact if_pos ⟨hc, hj, hpq, ho⟩
  · exact if_neg fun ⟨hc, _⟩ => h hc

/-- Settles O40: messages by their registers, populations by what their judging does slot by slot. -/
theorem inboxesAndPopulations : Obligations.InboxesAndPopulations := ⟨inboxMessages, populationsAreJudged⟩

end Sys2Proof.Machine
end

section
/-! Jobs of the engines (R196-R201, R204, R213): submission, admission, start, completion and JPOLL; the settlement of O42. -/

namespace Sys2Proof.Machine

open Sys2Proof.Claims

/-! ### Formats without a table (R91) -/

theorem isTab_of_plain {f : BitVec 4} (h : PlainFormat f) : isTab f = false := by
  revert f
  unfold PlainFormat plainFormats
  decide

/-- An instruction that names a format without a table has its own effect. -/
theorem withFmt_of_plain {f : BitVec 4} (h : PlainFormat f) (s : State) (enc : Bool) (k : List Half → State) :
    s.withFmt f enc k = k [] := by
  simp [State.withFmt, State.tabAbsent, State.fmtTable, tableFault, isTab_of_plain h]

theorem fmtdRnd_ne_two {v : Word} (h : v.extractLsb' 14 2 ≠ 2) : fmtdRnd v ≠ 2 := by
  intro e
  rw [fmtdRnd, show (4 : Nat) = 2 ^ 2 from rfl, toNat_div_mod_eq_extractLsb'] at e
  exact h (BitVec.eq_of_toNat_eq e)

/-- Without stochastic rounding a submission draws nothing (R100). -/
theorem submitDrawing_of_plain {s : State} (h : s.src.slot.fmtd.extractLsb' 14 2 ≠ 2) (d : BitVec 6) (sys : Bool)
    (mk : Vector (BitVec 32) 4 → Job) :
    s.submitDrawing d (fmtdRnd s.src.slot.fmtd = 2) sys mk = s.submit d sys (mk #v[0, 0, 0, 0]) := by
  simp [State.submitDrawing, fmtdRnd_ne_two h]

/-! ### Submission (R196, R197) -/

theorem forced_of_home {s : State} {c : Nat} (seq : Nat) (sys : Bool) (hp : (s.core c).pq = []) (hu : (s.core c).unpub = []) :
    s.forced c seq sys = true := by
  simp [State.forced, hp, hu]

/-- No parked submission enters the queue: only the clock goes on. -/
theorem admitAll_of_none {s : State} {cl : Nat} (n : Nat) (h : s.admitNext cl = none) : s.admitAll cl n = s := by
  cases n with
  | zero => rfl
  | succ n => simp only [State.admitAll, h]

theorem nextSubmission_ticked (s : State) (cl : Nat) : s.ticked.nextSubmission cl = s.nextSubmission cl := rfl

theorem admitNext_ticked {s : State} {cl : Nat} (h : s.admitNext cl = none) : s.ticked.admitNext cl = none := by
  unfold State.admitNext at h ⊢
  rw [nextSubmission_ticked]
  split at h
  next c n d j hn =>
    split at h
    next => cases h
    next ha => exact if_neg ha
  next => rfl

/-- A submission after which nothing has to wait. -/
theorem submit_of_admitNext_none {s : State} (d : BitVec 6) (sys : Bool) (j : Job) (h : s.admitNext (s.clusterOf s.cur.core) = none) :
    s.submit d sys j = if s.forced s.cur.core s.here.seq.toNat sys && s.admits s.cur.core
      then ((s.ticked.newJob (s.clusterOf s.cur.core) j).2.wg d ((s.cluster (s.clusterOf s.cur.core)).nextJob.zeroExtend 64))
      else s.ticked.parkC (.submit s.here.seq.toNat sys d.toNat j) := by
  rw [State.submit]
  simp only [admitAll_of_none Config.jobs (admitNext_ticked h)]
  rfl

/-- A submission names a slot of a core of the cluster. -/
theorem clusterOf_of_mem_submissions {s : State} {cl : Nat} {e : Nat × Nat × Nat × Bool × Nat × Job} (h : e ∈ s.submissions cl) :
    s.clusterOf e.1 = cl := by
  simp only [State.submissions, List.mem_flatMap] at h
  obtain ⟨c, -, he⟩ := h
  split at he
  next => simp at he
  next hc =>
    obtain ⟨x, -, hx⟩ := List.mem_filterMap.1 he
    split at hx
    next =>
      rw [← Option.some.inj hx]
      exact not_not.1 hc
    next => cases hx

/-- Of a parked submission and the best one before it, the next (R196). -/
def State.pickSubmission (s : State) (b : Option (Nat × Nat × Nat × Job)) (e : Nat × Nat × Nat × Bool × Nat × Job) :
    Option (Nat × Nat × Nat × Job) :=
  match e with
  | (c, n, seq, sys, d, j) =>
    if !s.forced c seq sys then b
    else match b with
      | none => some (c, n, d, j)
      | some x => if j.age < x.2.2.2.age then some (c, n, d, j) else some x

theorem nextSubmission_eq (s : State) (cl : Nat) : s.nextSubmission cl = (s.submissions cl).foldl s.pickSubmission none := rfl

theorem pickSubmission_eq_some {s : State} {b : Option (Nat × Nat × Nat × Job)} {e : Nat × Nat × Nat × Bool × Nat × Job}
    {y : Nat × Nat × Nat × Job} (h : s.pickSubmission b e = some y) : y.1 = e.1 ∨ b = some y := by
  unfold State.pickSubmission at h
  dsimp only at h
  split at h
  next => exact .inr h
  next =>
    split at h
    next => exact .inl (by rw [← Option.some.inj h])
    next x =>
      split at h
      next => exact .inl (by rw [← Option.some.inj h])
      next => exact .inr h

/-- What is picked is in the list, or was picked before. -/
theorem foldl_pickSubmission {s : State} {l : List (Nat × Nat × Nat × Bool × Nat × Job)} {b : Option (Nat × Nat × Nat × Job)}
    {y : Nat × Nat × Nat × Job} (h : l.foldl s.pickSubmission b = some y) : (∃ e ∈ l, y.1 = e.1) ∨ b = some y := by
  induction l generalizing b with
  | nil => exact .inr h
  | cons e l ih =>
    rcases ih h with ⟨x, hx, hy⟩ | hb
    · exact .inl ⟨x, List.mem_cons_of_mem _ hx, hy⟩
    · exact (pickSubmission_eq_some hb).imp_left fun hy => ⟨e, List.mem_cons_self .., hy⟩

/-- The next submission names a slot of a core of the cluster. -/
theorem clusterOf_of_nextSubmission {s : State} {cl : Nat} {x : Nat × Nat × Nat × Job} (h : s.nextSubmission cl = some x) :
    s.clusterOf x.1 = cl := by
  rcases foldl_pickSubmission ((nextSubmission_eq s cl).symm.trans h) with ⟨e, he, hx⟩ | hb
  · rw [hx]
    exact clusterOf_of_mem_submissions he
  · cases hb

/-- With the queue full no submission of the cluster enters it. -/
theorem admitNext_of_full {s : State} {cl : Nat} (h : 64 ≤ (s.cluster cl).queue.length) : s.admitNext cl = none := by
  unfold State.admitNext
  split
  next c n d j hn =>
    have hcl : s.clusterOf c = cl := clusterOf_of_nextSubmission hn
    have hadmits : s.admits c = false := by simp [State.admits, hcl, Config.jobs, h]
    rw [hadmits]
    rfl
  next => rfl

/-- The registers of a descriptor (R197). -/
theorem rgn_eq_rg (s : State) {a : BitVec 6} {n m : Nat} (h : a.toNat + n ≤ 64) (hm : m < n) :
    s.rgn (a.toNat + m) = s.rg (BitVec.ofNat 6 (a.toNat + m)) := if_pos (by omega)

/-- What a new job leaves of its cluster's queue. -/
theorem newJob_queue (s : State) (cl : Nat) (j : Job) :
    ((s.newJob cl j).2.cluster cl).queue = (s.cluster cl).queue ++ [{ j with id := (s.cluster cl).nextJob }] ∧
      ((s.newJob cl j).2.cluster cl).nextJob =
        if (s.cluster cl).nextJob + 1 = 0 then 1 else (s.cluster cl).nextJob + 1 := by
  rw [State.newJob, State.cluster_updCluster]
  exact ⟨rfl, rfl⟩

/-- A submission enters the queue where it may (R196, R197). -/
theorem submits_of_exec {i : Instr} {s : State} {d a : BitVec 6} {sys : Bool} {kind mode n : Nat} {tables : FMap (List Half)}
    {rng : Vector (BitVec 32) 4} (h : exec i s = .next (s.submit d sys (s.jobOf kind mode a n tables rng))) :
    Submits i s d kind mode a n := by
  intro hp hu hq ho hn ha
  have hadmits : s.admits s.cur.core = true := by simp [State.admits, Config.jobs, ho, hq]
  have hforced : s.forced s.cur.core s.here.seq.toNat sys = true := forced_of_home _ _ hp hu
  rw [submit_of_admitNext_none d sys _ hn, hforced, hadmits, Bool.and_self, if_pos rfl] at h
  obtain ⟨hqueue, hnext⟩ := newJob_queue s.ticked (s.clusterOf s.cur.core) (s.jobOf kind mode a n tables rng)
  refine ⟨_, h, rfl, ?_, { s.jobOf kind mode a n tables rng with id := (s.cluster (s.clusterOf s.cur.core)).nextJob }, hqueue, rfl, rfl,
    rfl, rfl, rfl, rfl, rfl, rfl, rfl, ?_, ?_, hnext⟩
  · rw [State.me_wg, Slot.wg_mode]
    rfl
  · exact List.map_congr_left fun m hm => rgn_eq_rg s ha (List.mem_range.1 hm)
  · rw [State.me_wg]
    exact Slot.regs_wg s.me d _

/-- A submission waits while the queue or its core's budget is full (R54, R196). -/
theorem waits_of_exec {i : Instr} {s : State} {d : BitVec 6} {sys : Bool} {j : Job} (h : exec i s = .next (s.submit d sys j)) :
    Waits i s := by
  intro hfull
  have hn : s.admitNext (s.clusterOf s.cur.core) = none := hfull.elim admitNext_of_full And.right
  have hadmits : s.admits s.cur.core = false := by
    rw [State.admits, Bool.and_eq_false_iff, decide_eq_false_iff_not, decide_eq_false_iff_not, not_lt, not_lt]
    exact hfull.imp_right And.left
  rw [submit_of_admitNext_none d sys _ hn, hadmits, Bool.and_false, if_neg (by decide)] at h
  have hme : (s.ticked.parkC (.submit s.here.seq.toNat sys d.toNat j)).me =
      { s.me with mode := .parked, cWait := some (.submit s.here.seq.toNat sys d.toNat j) } := State.me_updMe ..
  refine ⟨_, h, ?_, fun hp hu => ?_, ?_, rfl, rfl⟩
  · rw [hme]
  · rw [hme]
    have hforced := forced_of_home (s := s) s.here.seq.toNat sys hp hu
    refine (waitCode_updSlot s.ticked ..).trans ?_
    exact if_pos hforced
  · rw [hme]

theorem exec_cpyCvt_of_plain {s : State} (d a : BitVec 6) (ha : PlainFormat (fmtdAF s.src.slot.fmtd))
    (ho : PlainFormat (fmtdOF s.src.slot.fmtd)) (hr : s.src.slot.fmtd.extractLsb' 14 2 ≠ 2) :
    exec (.cpyCvt d a) s = .next (s.submit d false (s.jobOf 1 1 a 6
      (State.tables2 (fmtdAF s.src.slot.fmtd) (fmtdOF s.src.slot.fmtd) [] []) #v[0, 0, 0, 0])) := by
  change execCpyCvt d a s = _
  rw [execCpyCvt, withFmt_of_plain ha, withFmt_of_plain ho, submitDrawing_of_plain hr]

theorem exec_mxMul_of_plain {s : State} (d a : BitVec 6) (ha : PlainFormat (fmtdAF s.src.slot.fmtd))
    (hb : PlainFormat (fmtdBF s.src.slot.fmtd)) : exec (.mxMul d a) s = .next (s.submit d false (s.jobOf 2 0 a 8
      (State.tables2 (fmtdAF s.src.slot.fmtd) (fmtdBF s.src.slot.fmtd) [] []) #v[0, 0, 0, 0])) := by
  change execMxMul d a s = _
  rw [execMxMul, withFmt_of_plain ha, withFmt_of_plain hb]

theorem exec_mxDrain_of_plain {s : State} (d a : BitVec 6) (ho : PlainFormat (fmtdOF s.src.slot.fmtd))
    (hr : s.src.slot.fmtd.extractLsb' 14 2 ≠ 2) : exec (.mxDrain d a) s =
      .next (s.submit d false (s.jobOf 4 0 a 3 (State.tableOf (fmtdOF s.src.slot.fmtd) []) #v[0, 0, 0, 0])) := by
  change execMxDrain d a s = _
  rw [execMxDrain, withFmt_of_plain ho, submitDrawing_of_plain hr]

theorem exec_mxLoad_of_plain {s : State} (d a : BitVec 6) (ha : PlainFormat (fmtdAF s.src.slot.fmtd)) :
    exec (.mxLoad d a) s =
      .next (s.submit d false (s.jobOf 6 0 a 3 (State.tableOf (fmtdAF s.src.slot.fmtd) []) #v[0, 0, 0, 0])) := by
  change execMxLoad d a s = _
  rw [execMxLoad, withFmt_of_plain ha]

theorem submissionsEnterTheQueue : Claims.SubmissionsEnterTheQueue := by
  intro s d a f af bf of' both
  have hboth {i : Instr} {kind mode n : Nat} {sys : Bool} {tables : FMap (List Half)} {rng : Vector (BitVec 32) 4}
      (h : exec i s = .next (s.submit d sys (s.jobOf kind mode a n tables rng))) : both i kind mode n :=
    ⟨submits_of_exec h, waits_of_exec h⟩
  exact ⟨hboth rfl, hboth rfl, hboth rfl, hboth rfl, fun ha ho hr => hboth (exec_cpyCvt_of_plain d a ha ho hr),
    fun ha hb => hboth (exec_mxMul_of_plain d a ha hb), hboth rfl, fun ho hr => hboth (exec_mxDrain_of_plain d a ho hr), hboth rfl,
    fun ha => hboth (exec_mxLoad_of_plain d a ha)⟩

/-! ### Admission and start (R196, R213) -/

theorem exec_jobAdmit {s : State} {cl c n d : Nat} {j : Job} (hn : s.nextSubmission cl = some (c, n, d, j)) (ha : s.admits c = true) :
    exec (.jobAdmit cl) s = .next ((s.newJob cl j).2.updSlot c n fun x =>
      { x with cWait := some (.done [.g d ((s.cluster cl).nextJob.zeroExtend 64)]) }) := by
  change execJobAdmit cl s = _
  simp only [execJobAdmit, State.admitNext, hn, ha, if_true, Option.getD_some]
  rfl

/-- The head of a queue runs. -/
def State.started (s : State) (cl : Nat) (j : Job) (r : List Job) : State :=
  s.updCluster cl fun k => { k with queue := r, running := k.running ++ [{ j with status := .running }] }

theorem cluster_started (s : State) (cl : Nat) (j : Job) (r : List Job) : (s.started cl j r).cluster cl =
    { s.cluster cl with queue := r, running := (s.cluster cl).running ++ [{ j with status := .running }] } :=
  State.cluster_updCluster ..

/-- A job that has just started is the running job with its id. -/
theorem jobAt_started {s : State} {cl : Nat} {j : Job} (r : List Job) (h : ∀ x ∈ (s.cluster cl).running, x.id ≠ j.id) :
    (s.started cl j r).jobAt cl j.id.toNat = some { j with status := .running } := by
  rw [State.jobAt, cluster_started, List.find?_append, List.find?_eq_none.2, Option.none_or]
  · simp
  · intro x hx
    simpa [← BitVec.toNat_inj] using h x hx

/-- The last of some jobs with different ids is replaced. -/
theorem map_replace_last {l : List Job} {j y : Job} (h : ∀ x ∈ l, x.id ≠ y.id) (hj : j.id = y.id) :
    (l ++ [j]).map (fun x => if x.id = y.id then y else x) = l ++ [y] := by
  have hold : l.map (fun x => if x.id = y.id then y else x) = l.map id := List.map_congr_left fun x hx => if_neg (h x hx)
  rw [List.map_append, List.map_singleton, if_pos hj, hold, List.map_id]

theorem cluster_setJob (s : State) (cl : Nat) (y : Job) : (s.setJob cl y).cluster cl =
    { s.cluster cl with running := (s.cluster cl).running.map fun x => if x.id = y.id then y else x } :=
  State.cluster_updCluster ..

/-- The running jobs after a job that has just started is replaced. -/
theorem setJob_started {s : State} {cl : Nat} {j y : Job} (r : List Job) (h : ∀ x ∈ (s.cluster cl).running, x.id ≠ j.id)
    (hy : y.id = j.id) : (((s.started cl j r).setJob cl y).cluster cl).queue = r ∧
      (((s.started cl j r).setJob cl y).cluster cl).running = (s.cluster cl).running ++ [y] := by
  rw [cluster_setJob, cluster_started]
  exact ⟨rfl, map_replace_last (fun x hx => hy ▸ h x hx) hy.symm⟩

/-- A tile that is cleared leaves the jobs (R213). -/
theorem cluster_setTile_setJob (s : State) (cl vf n : Nat) (y : Job) : ((s.setTile cl vf n {}).setJob cl y).cluster cl =
    { (s.setJob cl y).cluster cl with ac := FMap.insert (s.cluster cl).ac (64 * vf + n) {} } := by
  rw [cluster_setJob, cluster_setJob, State.setTile, State.cluster_updCluster]

/-- A drive of a job that neither drains nor loads changes nothing (R211, R213). -/
theorem driveMx_of_idle {s : State} {cl id : Nat} (h : ∀ j, s.jobAt cl id = some j → j.status = .running → j.kind ≠ 4 ∧ j.kind ≠ 6) :
    s.driveMx cl id = s := by
  refine List.foldl_fixed' (fun _ => ?_) _
  split
  next j hj =>
    split
    next => rfl
    next hs =>
      obtain ⟨h4, h6⟩ := h j hj (not_not.1 hs)
      rw [if_neg h4, if_neg h6]
  next => rfl

/-- A copy starts where fewer than four run (R196, R204). -/
theorem exec_jobStart_copy {s : State} {cl : Nat} {j : Job} {r : List Job} (hq : (s.cluster cl).queue = j :: r)
    (hid : ∀ x ∈ (s.cluster cl).running, x.id ≠ j.id) (hk : j.kind = 1)
    (hf : ((s.cluster cl).running.filter (·.kind = 1)).length < 4) : exec (.jobStart cl) s = .next
      (if j.cpyBad = true then (s.started cl j r).failJob cl { j with status := .running } 4 0 else s.started cl j r) := by
  change execJobStart cl s = _
  have hfree : s.engineFree cl j = true := by simp [State.engineFree, hk, hf]
  have hdrive : (s.started cl j r).driveMx cl j.id.toNat = s.started cl j r := by
    refine driveMx_of_idle fun x hx _ => ?_
    rw [jobAt_started r hid] at hx
    rw [← Option.some.inj hx]
    exact ⟨by rw [hk]; decide, by rw [hk]; decide⟩
  have hkind (m : Nat) (hm : (1 : Nat) ≠ m) : (j.kind = m) = False := eq_false (hk ▸ hm)
  simp only [execJobStart, hq, eq_true hk, hfree, true_or, if_true, Bool.not_true, Bool.false_eq_true, if_false, false_and, or_self,
    hkind 2 (by decide), hkind 6 (by decide), hkind 3 (by decide), hkind 5 (by decide)]
  split
  next => rfl
  next => exact congrArg Host.Outcome.next hdrive

/-- With four copies running a fifth waits. -/
theorem exec_jobStart_full {s : State} {cl : Nat} {j : Job} {r : List Job} (hq : (s.cluster cl).queue = j :: r) (hk : j.kind = 1)
    (hf : 4 ≤ ((s.cluster cl).running.filter (·.kind = 1)).length) : exec (.jobStart cl) s = .next s := by
  change execJobStart cl s = _
  have hfree : s.engineFree cl j = false := by simp [State.engineFree, hk, hf]
  simp only [execJobStart, hq, hfree, Bool.not_false, if_true]

/-- An MX.ZERO of a tile of its VF clears it at once (R213). -/
theorem exec_jobStart_zero {s : State} {cl : Nat} {j : Job} {r : List Job} (hq : (s.cluster cl).queue = j :: r) (hk : j.kind = 5)
    (ht : j.reg 0 = BitVec.ofNat 64 j.tile) (hf : ∀ x ∈ (s.cluster cl).running, x.kind = 1)
    (hb : FMap.find? (s.cluster cl).tileTag j.tile = some j.vf) : exec (.jobStart cl) s = .next
      (((s.started cl j r).setTile cl j.vf j.tile {}).setJob cl { j with status := .finished, buf := [] }) := by
  change execJobStart cl s = _
  have hfree : s.engineFree cl j = true := by simpa [State.engineFree, hk] using hf
  have hlt : j.tile < 64 := Nat.mod_lt _ (by decide)
  have hbad : j.mxBad = false := by
    have hn : (j.reg 0).toNat < 64 := by
      rw [ht, BitVec.toNat_ofNat]
      omega
    simp [Job.mxBad, hk, hn]
  have hbanks : (State.jobBanks j).filter (fun b => s.clusterBank cl b ≠ some j.vf) = [] := by
    simp [State.jobBanks, State.clusterBank, hk, hb]
  have hkind (m : Nat) (hm : (5 : Nat) ≠ m) : (j.kind = m) = False := eq_false (hk ▸ hm)
  simp only [execJobStart, hq, eq_true hk, hfree, hbad, hbanks, Bool.not_true, Bool.false_eq_true, if_false, or_self, false_and, if_true,
    hkind 1 (by decide), hkind 2 (by decide), hkind 6 (by decide), hkind 3 (by decide)]
  rfl

/-- What was prefetched for another job stays. -/
theorem unprefetch_of_other {s : State} {cl : Nat} {id : BitVec 16} (h : ∀ f, (s.cluster cl).prefetched = some f → f.1 ≠ id) :
    s.unprefetch cl id = s := by
  unfold State.unprefetch
  split
  next f hf => exact if_neg (h f hf)
  next => rfl

theorem failJob_started {s : State} {cl : Nat} {j : Job} (r : List Job) (h : ∀ f, (s.cluster cl).prefetched = some f → f.1 ≠ j.id)
    (reason : Nat) (place : Word) : (s.started cl j r).failJob cl { j with status := .running } reason place =
      (s.started cl j r).setJob cl { j with status := .faulted reason place, buf := [] } := by
  rw [State.failJob, unprefetch_of_other]
  rw [cluster_started]
  exact h

/-! ### Completion (R198, R201) -/

theorem running_updCluster (s : State) (k : Nat) {f : Cluster → Cluster} (h : ∀ x, (f x).running = x.running) (cl : Nat) :
    ((s.updCluster k f).cluster cl).running = (s.cluster cl).running := by
  by_cases hc : cl = k
  · subst hc
    rw [State.cluster_updCluster, h]
  · rw [State.cluster_updCluster_ne s f hc]

/-- A slot that leaves its wait changes nothing of its core but its VF's part. -/
theorem core_abandon (s : State) (c n d : Nat) : { (s.abandon c n).core d with vfs := [] } = { s.core d with vfs := [] } := by
  have hkept : HangKept s (((s.unrequested c n).forget c n)) := (HangKept.unrequested s c n).trans (.forget _ c n)
  rw [abandon_eq]
  exact ((onlyCvf_updSlot _ c n _).core_rest d).trans (hkept.core d)

theorem mem_abandon (s : State) (c n : Nat) : (s.abandon c n).mem = s.mem := by
  have hkept : HangKept s (((s.unrequested c n).forget c n)) := (HangKept.unrequested s c n).trans (.forget _ c n)
  rw [abandon_eq]
  exact hkept.mem

/-- What the wake of a slot by a job's fault leaves of memory, of running jobs and of inboxes. -/
structure JobKept (s t : State) : Prop where
  mem : t.mem = s.mem
  running : ∀ cl, (t.cluster cl).running = (s.cluster cl).running
  inbox : ∀ c, (t.core c).inbox = (s.core c).inbox

namespace JobKept

theorem refl (s : State) : JobKept s s := ⟨rfl, fun _ => rfl, fun _ => rfl⟩

theorem trans {s t u : State} (h : JobKept s t) (k : JobKept t u) : JobKept s u :=
  ⟨k.mem.trans h.mem, fun cl => (k.running cl).trans (h.running cl), fun c => (k.inbox c).trans (h.inbox c)⟩

/-- The clusters stand, and the inboxes. -/
theorem of_bookkept {s t : State} (h : Bookkept s t) (hc : t.clusters = s.clusters) : JobKept s t :=
  ⟨h.mem, fun cl => by rw [State.cluster, hc]; rfl, fun c => (congrArg Core.inbox (h.core c) :)⟩

theorem countFor (s : State) (c vk ev sl n : Nat) : JobKept s (s.countFor c vk ev sl n) := of_bookkept (.countFor ..) rfl

theorem moved (s : State) (p : Option Nat) : JobKept s (s.moved p) := by
  refine of_bookkept (.moved ..) ?_
  unfold State.moved
  split
  · rfl
  · split <;> rfl

theorem updSlotV (s : State) (c vk n : Nat) (f : Slot → Slot) : JobKept s (s.updSlotV c vk n f) := by
  refine ⟨rfl, fun _ => rfl, fun d => ?_⟩
  by_cases hd : d = c
  · subst hd
    rw [State.updSlotV, State.core_updCore]
  · rw [State.updSlotV, State.core_updCore_ne s _ hd]

theorem abandon (s : State) (c n : Nat) : JobKept s (s.abandon c n) := by
  refine ⟨mem_abandon s c n, fun cl => ?_, fun d => (congrArg Core.inbox (core_abandon s c n d) :)⟩
  have hforget (u : State) : ((u.forget c n).cluster cl).running = (u.cluster cl).running :=
    running_updCluster (u.updCvf c fun x => { x with semWait := x.semWait.map fun e => (e.1, e.2.filter (· ≠ n)) })
      (u.clusterOf c) (f := fun k => { k with claims := k.claims.filter fun r => !(r.1 = c && r.2.1 = n) }) (fun _ => rfl) cl
  rw [abandon_eq]
  refine (hforget _).trans ?_
  rw [unrequested_eq]
  rfl

end JobKept

/-- A cluster no longer runs a job that has ended. -/
def State.ended (s : State) (cl : Nat) (j : Job) : State :=
  s.updCluster cl fun k => { k with running := k.running.filter (·.id ≠ j.id) }

/-- The state that has counted an ended job (R251). -/
def State.endCounted (s : State) (cl : Nat) (j : Job) : State :=
  if j.kind ≠ 1 then (s.ended cl j).countFor j.core (j.vf + 1) 0x21 j.slot 1 else s.ended cl j

theorem endCounted_kept (s : State) (cl : Nat) (j : Job) : JobKept (s.ended cl j) (s.endCounted cl j) := by
  unfold State.endCounted
  split
  · exact .countFor ..
  · exact .refl _

theorem endCounted_pops (s : State) (cl : Nat) (j : Job) : (s.endCounted cl j).pops = s.pops := by
  unfold State.endCounted
  split
  · rfl
  · rfl

/-- Its message has entered the inbox. -/
def State.delivered (s : State) (cl : Nat) (j : Job) : State :=
  (s.endCounted cl j).updCore j.core fun k => { k with inbox := k.inbox ++ [j.msg cl] }

/-- An ended job of a running population (R198, R201). -/
theorem completeJob_kept {s : State} {cl p : Nat} {j : Job} {x : Pop} (hp : j.pop = some p) (hx : FMap.find? s.pops p = some x)
    (hr : x.status = .running) : JobKept (s.delivered cl j) (s.completeJob cl j) := by
  have hpop : FMap.find? (s.endCounted cl j).pops p = some x := by rw [endCounted_pops, hx]
  have hmoved := JobKept.moved (s.delivered cl j) j.pop
  unfold State.completeJob
  extract_lets u v gone w faulted y z
  have hgone : gone = false := by
    have hv : v = s.endCounted cl j := rfl
    simp only [gone, hp, Option.bind_some, hv, hpop, hr, ne_eq, not_true_eq_false, decide_false]
  have hw : JobKept (s.delivered cl j) w := hmoved
  have hz : JobKept w z := .updSlotV ..
  rw [hgone, if_neg (by decide)]
  split
  · split
    · exact (hw.trans hz).trans (.abandon ..)
    · exact hw.trans hz
  · exact hw

/-- The message in the inbox, the job's departure and the frame (R198). -/
theorem completeJob_of_running {s : State} {cl p : Nat} {j : Job} {x : Pop} (hp : j.pop = some p) (hx : FMap.find? s.pops p = some x)
    (hr : x.status = .running) : (∀ y ∈ ((s.completeJob cl j).cluster cl).running, y.id ≠ j.id) ∧ (s.completeJob cl j).mem = s.mem ∧
      ((s.completeJob cl j).core j.core).inbox = (s.core j.core).inbox ++ [j.msg cl] := by
  have hkept := completeJob_kept (cl := cl) hp hx hr
  have hcount := endCounted_kept s cl j
  refine ⟨fun y hy => ?_, hkept.mem.trans hcount.mem, ?_⟩
  · rw [hkept.running cl] at hy
    have hy : y ∈ ((s.endCounted cl j).cluster cl).running := hy
    rw [hcount.running cl, State.ended, State.cluster_updCluster] at hy
    exact of_decide_eq_true (List.mem_filter.mp hy).2
  · rw [hkept.inbox, State.delivered, State.core_updCore]
    exact congrArg (· ++ [j.msg cl]) (hcount.inbox j.core)

theorem msg_finished {j : Job} {cl : Nat} (h : j.status = .finished) :
    (j.msg cl).w0 = BitVec.ofNat 64 (j.kind * 2 ^ 32 + j.id.toNat * 2 ^ 16) ∧
      (j.msg cl).w1 = (if j.csat then 1 else 0) ∧ (j.msg cl).w3 = BitVec.ofNat 64 (if j.kind = 1 then j.done else 0) := by
  simp only [Job.msg, h, Nat.add_zero, and_self]

theorem msg_faulted {j : Job} {cl q : Nat} {v : Word} (h : j.status = .faulted q v) :
    (j.msg cl).w0 = BitVec.ofNat 64 (j.kind * 2 ^ 32 + j.id.toNat * 2 ^ 16 + 2) ∧
      (j.msg cl).w1 = BitVec.ofNat 64 q ∧ (j.msg cl).w2 = v := by
  simp only [Job.msg, h, and_self]

theorem msg_addressee (j : Job) (cl : Nat) :
    (j.msg cl).slot = j.slot ∧ (j.msg cl).pop = j.pop ∧ (j.msg cl).vf = j.vf ∧ (j.msg cl).cluster = cl := by
  unfold Job.msg
  split <;> exact ⟨rfl, rfl, rfl, rfl⟩

/-- A job that has ended is not driven on. -/
theorem exec_jobComplete {s : State} {cl : Nat} {j : Job} (hj : s.jobAt cl j.id.toNat = some j)
    (hend : j.status = .finished ∨ ∃ q v, j.status = .faulted q v) :
    exec (.jobComplete cl j.id.toNat) s = .next (s.completeJob cl j) := by
  have hidle : s.driveMx cl j.id.toNat = s := by
    refine driveMx_of_idle fun y hy hrun => ?_
    rw [← Option.some.inj (hj.symm.trans hy)] at hrun
    obtain h | ⟨q, v, h⟩ := hend
    · rw [h] at hrun
      nomatch hrun
    · rw [h] at hrun
      nomatch hrun
  change execJobComplete cl j.id.toNat s = _
  unfold execJobComplete
  rw [hidle]
  obtain h | ⟨q, v, h⟩ := hend
  · simp only [hj, h]
  · simp only [hj, h]

/-! ### JPOLL (R200) -/

/-- No job has id 0 or an id past 16 bits. -/
theorem result_jpoll_of_noId {s : State} {d a : BitVec 6} (h : s.rg a = 0 ∨ 2 ^ 16 ≤ (s.rg a).toNat) :
    Claims.Result (.jpoll d a) s d 3 := by
  refine ⟨s.wg d 3, ?_, writesG_wg s d 3⟩
  have hv : (s.rg a).toNat = 0 ∨ 2 ^ 16 ≤ (s.rg a).toNat := h.imp_left fun h => by rw [h]; rfl
  change execJpoll d a s = _
  simp only [execJpoll, if_pos hv]

/-- A job that is queued or runs. -/
theorem result_jpoll_of_listed {s : State} {d a : BitVec 6} {j : Job}
    (hj : j ∈ (s.cluster (s.clusterOf s.cur.core)).queue ++ (s.cluster (s.clusterOf s.cur.core)).running)
    (hid : s.rg a = j.id.zeroExtend 64) (h0 : s.rg a ≠ 0) : Claims.Result (.jpoll d a) s d 0 := by
  refine ⟨s.wg d 0, ?_, writesG_wg s d 0⟩
  have hid : j.id.toNat = (s.rg a).toNat := by rw [hid, BitVec.zeroExtend, BitVec.toNat_setWidth_of_le (by decide)]
  have hv : ¬((s.rg a).toNat = 0 ∨ 2 ^ 16 ≤ (s.rg a).toNat) := by
    have hlt := j.id.isLt
    have hne : (s.rg a).toNat ≠ 0 := fun h => h0 (BitVec.eq_of_toNat_eq h)
    omega
  have hany : ((s.cluster (s.clusterOf s.cur.core)).queue ++ (s.cluster (s.clusterOf s.cur.core)).running).any
      (fun x => decide (x.id.toNat = (s.rg a).toNat)) = true := List.any_eq_true.2 ⟨j, hj, decide_eq_true hid⟩
  change execJpoll d a s = _
  simp only [execJpoll, if_neg hv, hany, if_true]

/-- An id that no job and no message has. -/
theorem result_jpoll_of_unlisted {s : State} {d a : BitVec 6}
    (hj : ∀ j ∈ (s.cluster (s.clusterOf s.cur.core)).queue ++ (s.cluster (s.clusterOf s.cur.core)).running,
      s.rg a ≠ j.id.zeroExtend 64)
    (hm : ∀ e ∈ s.cores, ∀ m ∈ e.2.inbox, m.w0.toNat / 2 ^ 16 % 2 ^ 16 ≠ (s.rg a).toNat) : Claims.Result (.jpoll d a) s d 3 := by
  by_cases hv : s.rg a = 0 ∨ 2 ^ 16 ≤ (s.rg a).toNat
  · exact result_jpoll_of_noId hv
  refine ⟨s.wg d 3, ?_, writesG_wg s d 3⟩
  have hany : ((s.cluster (s.clusterOf s.cur.core)).queue ++ (s.cluster (s.clusterOf s.cur.core)).running).any
      (fun x => decide (x.id.toNat = (s.rg a).toNat)) = false := by
    refine List.any_eq_false.2 fun j hmem => ?_
    rw [decide_eq_true_eq]
    intro h
    refine hj j hmem (BitVec.eq_of_toNat_eq ?_)
    rw [BitVec.zeroExtend, BitVec.toNat_setWidth_of_le (by decide), h]
  have hmsgs : (s.cores.flatMap fun e => e.2.inbox.filter fun m =>
      m.cluster = s.clusterOf s.cur.core && m.w0.toNat / 2 ^ 16 % 2 ^ 16 = (s.rg a).toNat) = [] := by
    refine List.flatMap_eq_nil_iff.2 fun e he => List.filter_eq_nil_iff.2 fun m hmem => ?_
    rw [decide_eq_false (hm e he m hmem), Bool.and_false]
    decide
  change execJpoll d a s = _
  simp only [execJpoll, hany, hmsgs, Bool.false_eq_true, if_false, ite_self]

/-! ### The obligation -/

theorem jobsRunToTheirMessage : Claims.JobsRunToTheirMessage := by
  intro s cl
  dsimp only
  refine ⟨fun c n d j hn ha => ?_, fun j r hq hid => ⟨fun hk hf hp => ?_, fun hk hf => ?_, fun hk ht hf hb => ?_⟩,
    fun j p x hj hp hx hr hend => ?_, fun d a => ⟨result_jpoll_of_noId, fun j hj hv h0 => result_jpoll_of_listed hj hv h0,
      result_jpoll_of_unlisted⟩⟩
  · refine ⟨_, exec_jobAdmit hn ha, (newJob_queue s cl j).1, ?_, rfl⟩
    rw [State.slot_updSlot]
    rfl
  · refine ⟨_, exec_jobStart_copy hq hid hk hf, ?_⟩
    by_cases hb : j.cpyBad = true
    · rw [if_pos hb, if_pos hb, failJob_started r hp]
      obtain ⟨hqueue, hrunning⟩ := setJob_started (y := { j with status := .faulted 4 0, buf := [] }) r hid rfl
      exact ⟨hqueue, hrunning, rfl⟩
    · rw [if_neg hb, if_neg hb]
      dsimp only
      rw [cluster_started]
      exact ⟨rfl, rfl, rfl⟩
  · exact ⟨_, exec_jobStart_full hq hk hf, rfl⟩
  · refine ⟨_, exec_jobStart_zero hq hk ht hf hb, ?_⟩
    obtain ⟨hqueue, hrunning⟩ := setJob_started (y := { j with status := .finished, buf := [] }) r hid rfl
    have hcluster := cluster_setTile_setJob (s.started cl j r) cl j.vf j.tile { j with status := .finished, buf := [] }
    refine ⟨?_, ?_, rfl, ?_⟩
    · rw [hcluster]
      exact hqueue
    · rw [State.tileOf, hcluster, FMap.getD_insert_self]
    · rw [hcluster]
      exact hrunning
  · obtain ⟨hrunning, hmem, hinbox⟩ := completeJob_of_running (cl := cl) hp hx hr
    obtain ⟨hslot, hpop, hvf, hcl⟩ := msg_addressee j cl
    exact ⟨_, exec_jobComplete hj hend, hrunning, hmem, j.msg cl, hinbox, hslot, hpop, hvf, hcl, msg_finished,
      fun _ _ => msg_faulted⟩

/-- Settles O42: a submission reaches its cluster's queue with what the slot holds, and a job that has ended leaves the engine for
one message. -/
theorem enginesTakeTheirJobs : Obligations.EnginesTakeTheirJobs := ⟨submissionsEnterTheQueue, jobsRunToTheirMessage⟩

end Sys2Proof.Machine
end

section
/-! What the work of homes and slices leaves of the machine: stores that drain and are published (R159, R160, R166), requests that are
served (R152, R153, R163), watches that compare again (R168). A slot that waits may wait for something else afterwards, and no slot begins
or ends a wait; reports, populations and what cores run stand. -/

namespace Sys2Proof.Machine

/-! ### The relation -/

/-- Every value of a table changes, and the default with them. -/
theorem FMap.getD_map_default {α : Type} (m : FMap α) (n : Nat) {d : α} {f : α → α} (hd : f d = d) :
    FMap.getD (m.map fun e => (e.1, f e.2)) n d = f (FMap.getD m n d) := by
  rw [FMap.getD, FMap.getD, FMap.find?_map]
  cases FMap.find? m n with
  | none => exact hd.symm
  | some x => rfl

/-- A slot may wait for something else, and its vector loads have moved on. -/
structure Slot.Awaits (x y : Slot) : Prop where
  rest : { y with cWait := x.cWait, owed := x.owed, claim := x.claim, pendOvf := x.pendOvf } = x
  waits : y.cWait.isSome = x.cWait.isSome

namespace Slot.Awaits

theorem refl (x : Slot) : Awaits x x := ⟨rfl, rfl⟩

theorem trans {x y z : Slot} (h : Awaits x y) (k : Awaits y z) : Awaits x z where
  rest := (congrArg (fun y : Slot =>
    { y with cWait := x.cWait, owed := x.owed, claim := x.claim, pendOvf := x.pendOvf }) k.rest).trans h.rest
  waits := k.waits.trans h.waits

/-- A slot that waits waits for something else. -/
theorem of_wait {x : Slot} (w : Wait) (h : x.cWait.isSome = true) : Awaits x { x with cWait := some w } := ⟨rfl, h.symm⟩

/-- What a fill gives a slot's loads (R162). -/
theorem filled (x : Slot) (fid : Nat) (give : MemOp → Option Wait) : Awaits x (x.filled fid give) := by
  refine ⟨rfl, ?_⟩
  unfold Slot.filled
  dsimp only
  split
  next h =>
    rw [h]
    split
    · rfl
    · split <;> rfl
  next => rfl

variable {x y : Slot} (h : Awaits x y)
include h

theorem mode : y.mode = x.mode := by rw [← h.rest]
theorem pop : y.pop = x.pop := by rw [← h.rest]
theorem cWait_eq_none (hx : x.cWait = none) : y.cWait = none := by
  have hw := h.waits
  rw [hx] at hw
  exact Option.isSome_eq_false_iff.1 hw |> Option.isNone_iff_eq_none.1

end Slot.Awaits

/-- What a core runs and its cycle, apart from its stores and its views of memory. -/
def Core.running (k : Core) : Core :=
  { k with vfs := [], spTag := [], pq := [], unpub := [], l1 := [], fills := [], uses := 0 }

/-- Two cores differ in their stores and their views of memory alone. -/
def Core.SameWork (k k' : Core) : Prop := k'.running = k.running ∧ k'.vfs = k.vfs

theorem Core.SameWork.trans {k k' k'' : Core} (h : SameWork k k') (g : SameWork k' k'') : SameWork k k'' :=
  ⟨g.1.trans h.1, g.2.trans h.2⟩

theorem Core.SameWork.foldl {α : Type} (l : List α) {g : Core → α → Core} (h : ∀ k x, SameWork k (g k x)) (k : Core) :
    SameWork k (l.foldl g k) := by
  induction l generalizing k with
  | nil => exact ⟨rfl, rfl⟩
  | cons x r ih => exact (h k x).trans (ih _)

/-- The work of homes on which nothing but memory and the waits of slots depends; `P` says of which slots it tells. -/
structure HomeWork (P : Nat → Nat → Nat → Prop) (s t : State) : Prop where
  reports : t.reports = s.reports
  pops : t.pops = s.pops
  issuing : t.issuing = s.issuing
  core : ∀ c, (t.core c).running = (s.core c).running
  slotV : ∀ c vk n, P c vk n → Slot.Awaits (s.slotV c vk n) (t.slotV c vk n)

namespace HomeWork

variable {P : Nat → Nat → Nat → Prop}

theorem refl (s : State) : HomeWork P s s := ⟨rfl, rfl, rfl, fun _ => rfl, fun _ _ _ _ => .refl _⟩

theorem trans {s t u : State} (h : HomeWork P s t) (k : HomeWork P t u) : HomeWork P s u where
  reports := k.reports.trans h.reports
  pops := k.pops.trans h.pops
  issuing := k.issuing.trans h.issuing
  core c := (k.core c).trans (h.core c)
  slotV c vk n hp := (h.slotV c vk n hp).trans (k.slotV c vk n hp)

theorem foldl {α : Type} (l : List α) {g : State → α → State} (h : ∀ t x, HomeWork P t (g t x)) (s : State) :
    HomeWork P s (l.foldl g s) := by
  induction l generalizing s with
  | nil => exact refl s
  | cons x r ih => exact (h s x).trans (ih _)

/-- Less is told of. -/
theorem mono {Q : Nat → Nat → Nat → Prop} {s t : State} (hq : ∀ c vk n, Q c vk n → P c vk n) (h : HomeWork P s t) : HomeWork Q s t :=
  ⟨h.reports, h.pops, h.issuing, h.core, fun c vk n hn => h.slotV c vk n (hq c vk n hn)⟩

/-- The cores stand. -/
theorem of_cores {s t : State} (hr : t.reports = s.reports) (hp : t.pops = s.pops) (hi : t.issuing = s.issuing)
    (hc : t.cores = s.cores) : HomeWork P s t := by
  have core (c : Nat) : t.core c = s.core c := by rw [State.core, State.core, hc]
  refine ⟨hr, hp, hi, fun c => by rw [core], fun c vk n _ => ?_⟩
  rw [State.slotV, State.slotV, core]
  exact .refl _

theorem of_bookkept {s t : State} (h : Bookkept s t) (hp : t.pops = s.pops) : HomeWork P s t := by
  refine ⟨h.reports, hp, h.issuing, fun c => ?_, fun c vk n _ => ?_⟩
  · exact congrArg (fun k : Core => { k with spTag := [], pq := [], unpub := [], l1 := [], fills := [], uses := 0 }) (h.core c)
  · obtain ⟨b, hb⟩ := h.slotV c vk n
    rw [hb]
    exact ⟨rfl, rfl⟩

/-- A core changes. -/
theorem updCore (s : State) (c : Nat) {f : Core → Core} (hf : (f (s.core c)).running = (s.core c).running)
    (hs : ∀ vk n, P c vk n → Slot.Awaits (s.slotV c vk n) (FMap.getD (FMap.getD (f (s.core c)).vfs vk {}).slots n {})) :
    HomeWork P s (s.updCore c f) := by
  refine ⟨rfl, rfl, rfl, fun d => ?_, fun d vk n hn => ?_⟩
  · by_cases hd : d = c
    · subst hd
      rw [State.core_updCore, hf]
    · rw [State.core_updCore_ne s f hd]
  · by_cases hd : d = c
    · subst hd
      have hslot : (s.updCore d f).slotV d vk n = FMap.getD (FMap.getD (f (s.core d)).vfs vk {}).slots n {} := by
        rw [State.slotV, State.core_updCore]
      rw [hslot]
      exact hs vk n hn
    · rw [State.slotV, State.slotV, State.core_updCore_ne s f hd]
      exact .refl _

/-- A core's stores, or its views of memory, change. -/
theorem updCore_of_vfs (s : State) (c : Nat) {f : Core → Core} (hf : (f (s.core c)).running = (s.core c).running)
    (hv : (f (s.core c)).vfs = (s.core c).vfs) : HomeWork P s (s.updCore c f) :=
  updCore s c hf fun vk n _ => by
    rw [hv]
    exact .refl _

/-- A slot changes. -/
theorem updSlotV (s : State) (c vk n : Nat) {f : Slot → Slot} (h : P c vk n → Slot.Awaits (s.slotV c vk n) (f (s.slotV c vk n))) :
    HomeWork P s (s.updSlotV c vk n f) := by
  refine updCore s c rfl fun v m hm => ?_
  dsimp only
  by_cases hv : v = vk
  · subst hv
    rw [FMap.getD_insert_self]
    by_cases hn : m = n
    · subst hn
      rw [FMap.getD_insert_self]
      exact h hm
    · rw [FMap.getD_insert_ne _ _ _ hn]
      exact .refl _
  · rw [FMap.getD_insert_ne _ _ _ hv]
    exact .refl _

theorem updSlot (s : State) (c n : Nat) {f : Slot → Slot} (h : P c (s.vk c) n → Slot.Awaits (s.slot c n) (f (s.slot c n))) :
    HomeWork P s (s.updSlot c n f) := updSlotV s c (s.vk c) n h

/-- Each core that stands changes in its stores or its views of memory. -/
theorem of_cores_map {s t : State} {g : Core → Core} (hr : t.reports = s.reports) (hp : t.pops = s.pops) (hi : t.issuing = s.issuing)
    (hc : t.cores = s.cores.map fun e => (e.1, g e.2)) (h0 : g {} = {}) (hg : ∀ k : Core, k.SameWork (g k)) : HomeWork P s t := by
  have core (c : Nat) : t.core c = g (s.core c) := by
    rw [State.core, State.core, hc, FMap.getD_map_default _ _ h0]
  refine ⟨hr, hp, hi, fun c => ?_, fun c vk n _ => ?_⟩
  · rw [core]
    exact (hg _).1
  · rw [State.slotV, State.slotV, core, (hg _).2]
    exact .refl _

/-! ### Homes (R160, R162, R165, R168) -/

theorem updSlice (s : State) (k : Nat) (f : Slice → Slice) : HomeWork P s (s.updSlice k f) := of_cores rfl rfl rfl rfl

theorem updCluster (s : State) (k : Nat) (f : Cluster → Cluster) : HomeWork P s (s.updCluster k f) := of_cores rfl rfl rfl rfl

theorem ticked (s : State) : HomeWork P s s.ticked := of_cores rfl rfl rfl rfl

theorem setMarks (s : State) (key : Nat) (ms : List Mark) : HomeWork P s (s.setMarks key ms) := of_cores rfl rfl rfl rfl

theorem putHome (s : State) (key : Nat) (bs : List Byte) : HomeWork P s (s.putHome key bs) := of_cores rfl rfl rfl rfl

theorem setReq (s : State) (rid : Nat) (r : Req) : HomeWork P s (s.setReq rid r) := of_cores rfl rfl rfl rfl

theorem endReq (s : State) (rid : Nat) : HomeWork P s (s.endReq rid) := of_cores rfl rfl rfl rfl

theorem countFor (s : State) (c vk ev sl n : Nat) : HomeWork P s (s.countFor c vk ev sl n) := of_bookkept (.countFor ..) rfl

theorem countTag (s : State) (c vf n tag : Nat) : HomeWork P s (s.countTag c vf n tag) := by
  refine of_bookkept (.countTag ..) ?_
  unfold State.countTag
  split
  · rfl
  · split <;> rfl

theorem selfInvalidate (s : State) (c : Nat) : HomeWork P s (s.updCore c (·.selfInvalidate)) := updCore_of_vfs s c rfl rfl

end HomeWork

theorem l1Put_sameWork (k : Core) (line set : Nat) (f : L1Line → L1Line) : k.SameWork (State.l1Put k line set f) := by
  unfold State.l1Put
  split
  · exact ⟨rfl, rfl⟩
  · exact ⟨rfl, rfl⟩

theorem patchL1_sameWork (k : Core) (line : Nat) (ws : List (Nat × Half)) : k.SameWork (State.patchL1 k line ws) := by
  refine Core.SameWork.foldl ws (fun k w => ?_) k
  dsimp only
  split
  · exact Core.SameWork.trans ⟨rfl, rfl⟩ (l1Put_sameWork ..)
  · split
    · split <;> exact ⟨rfl, rfl⟩
    · exact ⟨rfl, rfl⟩

namespace HomeWork

variable {P : Nat → Nat → Nat → Prop}

theorem updCore_of_sameWork (s : State) (c : Nat) {f : Core → Core} (h : (s.core c).SameWork (f (s.core c))) :
    HomeWork P s (s.updCore c f) := updCore_of_vfs s c h.1 h.2

theorem homeDirect (s : State) (c key n : Nat) (cached : Bool) : HomeWork P s (s.homeDirect c key n cached) := by
  rw [State.homeDirect]
  split
  · exact updCore_of_sameWork s c (patchL1_sameWork ..)
  · exact refl s

/-- A slot that waits waits for something else. -/
theorem setWait {s : State} {c vk n : Nat} (h : P c vk n → (s.slotV c vk n).cWait.isSome = true) (w : Wait) :
    HomeWork P s (s.setWait c vk n w) := updSlotV s c vk n fun hp => .of_wait w (h hp)

theorem finishAcquire {s : State} {c vk n : Nat} (h : P c vk n → (s.slotV c vk n).cWait.isSome = true) (acq sys keep : Bool)
    (ms : List Mark) (ws : List Wr) : HomeWork P s (s.finishAcquire c vk n acq sys keep ms ws) := by
  rw [State.finishAcquire]
  split
  · split
    · have hinv : HomeWork P s (s.updCore c (·.selfInvalidate)) := selfInvalidate s c
      exact hinv.trans (setWait (fun hp => (hinv.slotV c vk n hp).waits.trans (h hp)) _)
    · exact setWait h _
  · exact setWait h _

theorem recompareAt (s : State) (c n key : Nat) : HomeWork P s (s.recompareAt c n key) := by
  unfold State.recompareAt
  split
  next op u pd hw =>
    have hwaits : (s.slot c n).cWait.isSome = true := by rw [hw]; rfl
    split
    · exact refl s
    · split
      · exact updSlot s c n fun _ => .of_wait _ hwaits
      · split
        · exact updSlot s c n fun _ => .of_wait _ hwaits
        · split
          · have hdirect : HomeWork P s (s.homeDirect c op.key op.size op.cached) := homeDirect ..
            exact hdirect.trans (finishAcquire (fun hp => (hdirect.slotV c _ n hp).waits.trans hwaits) _ _ _ _ _)
          · exact refl s
  next => exact refl s

theorem recompare (s : State) (key : Nat) : HomeWork P s (s.recompare key) := by
  rw [State.recompare]
  refine foldl _ (fun t e => ?_) s
  exact foldl _ (fun t n => recompareAt t e.1 n key) t

theorem entryHome (s : State) (e : PqEntry) : HomeWork P s (s.entryHome e) :=
  (((putHome s e.key e.bytes).trans (setMarks _ e.key _)).trans (ticked _)).trans (recompare _ e.key)

theorem wroteMemory (s : State) (key n : Nat) : HomeWork P s (s.wroteMemory key n) := of_cores rfl rfl rfl rfl

/-- Stores that are published are no longer unpublished (R166). -/
theorem publishLine (s : State) (line : Nat) : HomeWork P s (s.publishLine line) := by
  unfold State.publishLine
  split
  · exact refl s
  · exact of_cores_map (g := fun k => { k with unpub := k.unpub.filter fun q => q.key / 128 ≠ line }) rfl rfl rfl rfl rfl
      fun _ => ⟨rfl, rfl⟩

theorem drainEntry (s : State) (c : Nat) (e : PqEntry) : HomeWork P s (s.drainEntry c e) := by
  unfold State.drainEntry
  extract_lets t
  have ht : HomeWork P s t := (entryHome s e).trans (updCore_of_vfs _ c rfl rfl)
  split
  · exact (ht.trans (wroteMemory t _ _)).trans (publishLine _ _)
  · exact ht

/-! ### Slices (R150-R154) -/

theorem leaveClean (s : State) (line : Nat) : HomeWork P s (s.leaveClean line) := of_cores rfl rfl rfl rfl

theorem enterLine (s : State) (line : Nat) : HomeWork P s (s.enterLine line) := of_cores rfl rfl rfl rfl

theorem l2 (s : State) (home key n vf : Nat) (rd wr : Bool) : HomeWork P s (s.l2 home key n vf rd wr).2 := by
  unfold State.l2
  extract_lets a t u v
  have ht : HomeWork P s t := by
    simp only [t]
    split
    · exact publishLine s _
    · exact refl s
  have hu : HomeWork P t u := (updSlice t _ _).trans (ticked _)
  have hv : HomeWork P u v := by
    simp only [v]
    split
    · exact leaveClean u _
    · exact refl u
  have hw : HomeWork P v (if a.new then v.enterLine (key / 128) else v) := by
    split
    · exact enterLine v _
    · exact refl v
  exact ((ht.trans hu).trans hv).trans hw

theorem fillSector (s : State) (sl line sector : Nat) : HomeWork P s (s.fillSector sl line sector) := by
  unfold State.fillSector
  split
  · exact refl s
  · exact of_cores rfl rfl rfl rfl

theorem freeEntry (s : State) (sl line : Nat) : HomeWork P s (s.freeEntry sl line) := updSlice s sl _

theorem flushLine (s : State) (home line : Nat) : HomeWork P s (s.flushLine home line) := (updSlice s _ _).trans (publishLine _ line)

theorem wroteLine (s : State) (home line : Nat) : HomeWork P s (s.wroteLine home line) := (updSlice s _ _).trans (ticked _)

end HomeWork

end Sys2Proof.Machine
end

section
/-! What the work of slices and of the publication queue leaves of the machine: requests that are served (R152, R153, R163), entries that drain
(R159, R160), a core's stores brought home and published (R228). -/

namespace Sys2Proof.Machine

namespace HomeWork

variable {P : Nat → Nat → Nat → Prop}

/-- One change after another, each of a state that the work before has left. -/
theorem foldl_of_work {α : Type} (l : List α) {g : State → α → State} {s : State}
    (h : ∀ t, HomeWork P s t → ∀ x ∈ l, HomeWork P t (g t x)) : HomeWork P s (l.foldl g s) := by
  have hall : ∀ t, HomeWork P s t → ∀ r : List α, (∀ x ∈ r, x ∈ l) → HomeWork P s (r.foldl g t) := by
    intro t ht r
    induction r generalizing t with
    | nil => exact fun _ => ht
    | cons x r ih =>
      intro hr
      obtain ⟨hx, hr⟩ := List.forall_mem_cons.1 hr
      exact ih _ (ht.trans (h t ht x hx)) hr
  exact hall s (refl s) l fun _ hx => hx

/-- A slot that waits waits on. -/
theorem isSome {s t : State} (h : HomeWork P s t) {c vk n : Nat} (hw : P c vk n → (s.slotV c vk n).cWait.isSome = true) :
    P c vk n → (t.slotV c vk n).cWait.isSome = true := fun hp => (h.slotV c vk n hp).waits.trans (hw hp)

/-- What a branch of a definition leaves. -/
theorem ite {s t u : State} {p : Prop} [Decidable p] (ht : HomeWork P s t) (hu : HomeWork P s u) :
    HomeWork P s (if p then t else u) := by
  split
  · exact ht
  · exact hu

/-! ### Requests performed at home (R163) -/

theorem missCounted (s : State) (c vk n : Nat) (op : MemOp) : HomeWork P s (s.missCounted c vk n op) :=
  ite (countFor ..) (refl s)

theorem countReply (s : State) (c vk n tag : Nat) : HomeWork P s (s.countReply c vk n tag) :=
  ite (updSlotV s c vk n fun _ => ⟨rfl, rfl⟩) (countTag ..)

theorem roomForEntry {s t : State} {key : Nat} (h : s.roomForEntry key = some t) : HomeWork P s t := by
  unfold State.roomForEntry at h
  split at h
  · rw [← Option.some.inj h]
    exact refl s
  · split at h
    · rw [← Option.some.inj h]
      exact refl s
    · split at h
      · rw [← Option.some.inj h]
        exact setMarks ..
      · nomatch h

theorem giveMark {s t : State} {key : Nat} {m : Mark} (h : s.giveMark key m = some t) : HomeWork P s t := by
  unfold State.giveMark at h
  extract_lets ms m' u at h
  have hu : HomeWork P s u := ticked s
  clear_value ms
  split at h
  · rw [← Option.some.inj h]
    exact hu.trans (setMarks ..)
  · split at h
    · split at h
      · rw [← Option.some.inj h]
        exact hu.trans (setMarks ..)
      · nomatch h
    · obtain ⟨v, hv, rfl⟩ := Option.map_eq_some_iff.1 h
      exact (hu.trans (roomForEntry hv)).trans (setMarks ..)

/-- A memory operation is performed at its home for a slot that waits for it. -/
theorem performAt {s t : State} {rid : Nat} {r : Req} {op : MemOp}
    (hw : P r.core (r.vf + 1) r.slot → (s.slotV r.core (r.vf + 1) r.slot).cWait.isSome = true)
    (h : s.performAt rid r op = some t) : HomeWork P s t := by
  unfold State.performAt at h
  extract_lets c vk u done v ms g flush at h
  have hu : HomeWork P s u := ticked s
  have hdone {x : State} (hx : HomeWork P u x) : HomeWork P s (done x) :=
    (hu.trans hx).trans ((ite (countReply ..) (refl x)).trans (endReq ..))
  have huw := hu.isSome hw
  have hacquire {x : State} (hx : HomeWork P u x) (keep : Bool) (ws : List Wr) :
      HomeWork P u (x.finishAcquire c vk r.slot op.acq op.sys keep ms ws) := hx.trans (finishAcquire (hx.isSome huw) ..)
  have hdirect : HomeWork P u (u.homeDirect c op.key op.size op.cached) := homeDirect ..
  split at h
  · rw [← Option.some.inj h]
    exact hdone (setWait huw _)
  split at h
  · rw [← Option.some.inj h]
    exact hdone ((setWait huw _).trans (missCounted ..))
  · rw [← Option.some.inj h]
    exact hdone (hacquire hdirect _ _)
  · split at h
    · rw [← Option.some.inj h]
      exact hdone (setWait huw _)
    · rw [← Option.some.inj h]
      exact hdone (hacquire hdirect _ _)
  · split at h
    · rw [← Option.some.inj h]
      exact hdone (hacquire hdirect _ _)
    · split at h
      · rw [← Option.some.inj h]
        exact hdone (setWait huw _)
      · rw [← Option.some.inj h]
        exact hdone (setWait huw _)
  · split at h
    · rw [← Option.some.inj h]
      exact hdone (hacquire hdirect _ _)
    · split at h
      · nomatch h
      next x hx =>
        extract_lets y z w at h
        rw [← Option.some.inj h]
        have hmark : HomeWork P u x := by
          split at hx
          · nomatch hx
          · split at hx
            · exact giveMark hx
            · rw [← Option.some.inj hx]
              exact refl u
        have hz : HomeWork P u z := (hmark.trans ((putHome ..).trans (recompare ..))).trans (homeDirect ..)
        have hwritten : HomeWork P u w :=
          hz.trans (ite (flushLine ..) (ite (ite (wroteLine ..) ((wroteMemory ..).trans (publishLine ..))) (refl z)))
        exact hdone (hacquire hwritten _ _)
  · rw [← Option.some.inj h]
    exact hdone (refl u)

/-- A memory operation is performed at its home, for a slot that waits for it or for none. -/
theorem performMem {s t : State} {rid : Nat} {r : Req} {op : MemOp} (h : s.performMem rid r op = some t) : HomeWork P s t := by
  obtain ⟨u, hu, rfl⟩ := Option.map_eq_some_iff.1 h
  split
  next hw => exact performAt (fun _ => by rw [hw]; rfl) hu
  next =>
    have hothers : HomeWork (fun c vk n => P c vk n ∧ (c, vk, n) ≠ (r.core, r.vf + 1, r.slot)) s u :=
      performAt (fun hp => absurd rfl hp.2) hu
    have hslots := hothers.trans (updSlotV u r.core (r.vf + 1) r.slot (f := fun _ => s.slotV r.core (r.vf + 1) r.slot)
      fun hp => absurd rfl hp.2)
    refine ⟨hslots.reports, hslots.pops, hslots.issuing, hslots.core, fun c vk n hp => ?_⟩
    by_cases he : (c, vk, n) = (r.core, r.vf + 1, r.slot)
    · obtain ⟨rfl, rfl, rfl⟩ : c = r.core ∧ vk = r.vf + 1 ∧ n = r.slot := by simpa using he
      rw [slotV_updSlotV]
      exact .refl _
    · exact hslots.slotV c vk n ⟨hp, he⟩

/-! ### Fills (R153, R161, R162) -/

theorem refreshFills (s : State) (c key : Nat) : HomeWork P s (s.refreshFills c key) := by
  unfold State.refreshFills
  exact updCore_of_vfs s c rfl rfl

theorem readHome (s : State) (c : Nat) (op : MemOp) : HomeWork P s (s.readHome c op) := by
  unfold State.readHome
  exact (refreshFills s c _).trans (updCore_of_vfs _ c rfl rfl)

theorem performFill (s : State) (rid : Nat) (r : Req) (fid : Nat) : HomeWork P s (s.performFill rid r fid) := by
  refine (HomeWork.trans (updCore_of_sameWork s r.core ?_) (refreshFills ..)).trans (endReq ..)
  split <;> exact ⟨rfl, rfl⟩

theorem countFill (s : State) (c fid vf slot tag : Nat) : HomeWork P s (s.countFill c fid vf slot tag) := by
  unfold State.countFill
  split
  · exact ite (refl s) (HomeWork.trans (updCore_of_vfs s c rfl rfl) (countTag ..))
  · exact refl s

/-- A load that waits has what it reads. -/
theorem answerLoad {s : State} {c : Nat} {w : Nat × Nat × MemOp}
    (h : P c w.1 w.2.1 → (s.slotV c w.1 w.2.1).cWait.isSome = true) (a : Wait) : HomeWork P s (s.answerLoad c w a) := by
  unfold State.answerLoad
  split
  · exact (setWait h _).trans (missCounted ..)
  · exact setWait h _

/-- The slots that wait for a fill wait. -/
theorem isSome_of_fillWaiters {s : State} {c fid : Nat} {w : Nat × Nat × MemOp} (h : w ∈ s.fillWaiters c fid) :
    (s.slotV c w.1 w.2.1).cWait.isSome = true := by
  obtain ⟨vk, -, h⟩ := List.mem_flatMap.1 h
  obtain ⟨n, -, h⟩ := List.mem_filterMap.1 h
  split at h
  next hw =>
    split at h
    · rw [← Option.some.inj h, hw]
      rfl
    · nomatch h
  next => nomatch h

/-- Loads of a core take what a fill gives them (R162). -/
theorem filled (s : State) (c fid : Nat) (give : MemOp → Option Wait) : HomeWork P s (s.updCore c fun k =>
    { k with vfs := k.vfs.map fun v => (v.1, { v.2 with slots := v.2.slots.map fun x => (x.1, x.2.filled fid give) }) }) := by
  refine updCore s c rfl fun vk n _ => ?_
  have hvfs := FMap.getD_map_default (s.core c).vfs vk (d := {})
    (f := fun x : CoreVf => { x with slots := x.slots.map fun x => (x.1, x.2.filled fid give) }) rfl
  have hslots := FMap.getD_map_default (FMap.getD (s.core c).vfs vk {}).slots n (d := {}) (f := fun x : Slot => x.filled fid give) rfl
  rw [hvfs, hslots]
  exact .filled _ fid give

theorem earlyLoads (s : State) (r : Req) (fid tag : Nat) (p : BitVec 32) : HomeWork P s (s.earlyLoads r fid tag p) := by
  unfold State.earlyLoads
  split
  · exact refl s
  · extract_lets ws given others t u
    refine ite (refl s) ?_
    have ht : HomeWork P s t := (countFill ..).trans (foldl _ (fun t op => readHome t _ op) _)
    have hu : HomeWork P s u := ht.trans (filled ..)
    refine hu.trans (foldl_of_work ws fun v hv w hw => answerLoad ?_ w.2)
    obtain ⟨x, hx, hgive⟩ := List.mem_filterMap.1 hw
    obtain ⟨a, -, rfl⟩ := Option.map_eq_some_iff.1 hgive
    exact hv.isSome (hu.isSome fun _ => isSome_of_fillWaiters hx)

/-! ### Requests at a slice (R152, R153) -/

theorem serve {s t : State} {rid tag : Nat} {r : Req} (h : s.serve rid r tag = some t) : HomeWork P s t := by
  unfold State.serve at h
  extract_lets r' at h
  split at h
  · rw [← Option.some.inj h]
    exact performFill ..
  · exact performMem h
  · nomatch h

/-- A request is served, or what stands in its place. -/
theorem serve_getD {s u : State} {rid tag : Nat} {r : Req} (h : HomeWork P s u) : HomeWork P s ((s.serve rid r tag).getD u) := by
  cases hs : s.serve rid r tag with
  | none => exact h
  | some t => exact serve hs

theorem stall (s : State) (rid : Nat) (r : Req) (sl tag : Nat) (due : Option Nat) : HomeWork P s (s.stall rid r sl tag due) :=
  (updSlice s sl _).trans (setReq ..)

theorem arrive (s : State) (rid : Nat) (r : Req) (h : Nat) : HomeWork P s (s.arrive rid r h) := by
  unfold State.arrive
  extract_lets line r' hold a tag t
  have hhold {t : State} (ht : HomeWork P s t) (tag : Nat) : HomeWork P s (hold t tag) := ht.trans (setReq ..)
  split
  · exact stall ..
  · have ha : HomeWork P s a.2 := l2 ..
    split
    · cases hs : a.2.serve rid r' tag with
      | none => exact stall ..
      | some t => exact ha.trans (serve hs)
    · have ht : HomeWork P s t := hhold (ha.trans (updSlice ..)) _
      split
      · exact ht.trans (earlyLoads ..)
      · exact ht
    · exact stall ..
    · exact serve_getD (refl s)
    · exact hhold (updSlice ..) _

theorem retryStalled (s : State) (sl : Nat) : HomeWork P s (s.retryStalled sl) := by
  unfold State.retryStalled
  refine (updSlice s sl _).trans (foldl _ (fun t rid => ?_) _)
  split
  · exact arrive ..
  · exact refl t

theorem serveWaiters (s : State) (sl line : Nat) : HomeWork P s (s.serveWaiters sl line) := by
  unfold State.serveWaiters
  split
  · exact refl s
  · refine foldl _ (fun t rid => ?_) s
    split
    · extract_lets p u
      have hu : HomeWork P t u := updSlice ..
      refine ite (hu.trans ?_) (refl t)
      split
      · exact stall ..
      · exact serve_getD (stall ..)
    · exact updSlice ..

theorem ackWrite (s : State) (sl line : Nat) : HomeWork P s (s.ackWrite sl line) := by
  unfold State.ackWrite
  refine ((updSlice s sl _).trans (foldl _ (fun t rid => ?_) _)).trans (retryStalled _ sl)
  split
  · exact serve_getD (setReq ..)
  · exact refl t

theorem ackAll (s : State) (sl : Nat) : HomeWork P s (s.ackAll sl) := foldl _ (fun t l => ackWrite t sl l) s

theorem returnFills (s : State) (sl : Nat) : HomeWork P s (s.returnFills sl) :=
  (foldl _ (fun t (e : MissEntry) => foldl _ (fun t q => (fillSector t sl e.line q).trans (serveWaiters _ sl e.line)) t) s).trans
    (foldl _ (fun t (e : MissEntry) => freeEntry t sl e.line) _)

theorem settle (s : State) (sl n : Nat) : HomeWork P s (s.settle sl n) := by
  induction n generalizing s with
  | zero => exact refl s
  | succ n ih => exact (((returnFills s sl).trans (ackAll _ sl)).trans (retryStalled _ sl)).trans (ih _)

theorem pinLines (s : State) (ls : List (Nat × Nat)) (up : Bool) : HomeWork P s (s.pinLines ls up) := by
  unfold State.pinLines
  extract_lets t
  have hpin : HomeWork P s t := foldl _ (fun t e => updSlice t _ _) s
  exact ite hpin (hpin.trans (foldl _ (fun t sl => retryStalled t sl) _))

theorem dropPrefetch (s : State) (cl : Nat) : HomeWork P s (s.dropPrefetch cl) := (updCluster s cl _).trans (pinLines _ _ false)

theorem makeRoom (s : State) (sl : Nat) (unpin : Bool) : HomeWork P s (s.makeRoom sl unpin) := by
  unfold State.makeRoom
  extract_lets t cs u
  have ht : HomeWork P s t := settle s sl _
  have hu : HomeWork P t u := foldl _ dropPrefetch t
  exact ite ((ht.trans hu).trans (settle u sl _)) ht

theorem ackUntil (s : State) (home n : Nat) : HomeWork P s (s.ackUntil home n) := by
  induction n generalizing s with
  | zero => exact refl s
  | succ n ih => exact ite (refl s) ((ackAll s _).trans (ih _))

theorem flushNow (s : State) (home line : Nat) : HomeWork P s (s.flushNow home line) :=
  (ackUntil s home _).trans (flushLine _ home line)

/-! ### The publication queue drains (R159, R160, R228) -/

theorem tryDrain {s t : State} {c : Nat} {e : PqEntry} (h : s.tryDrain c e = some t) : HomeWork P s t := by
  unfold State.tryDrain at h
  split at h
  · nomatch h
  split at h
  · nomatch h
  next u hu =>
    have hroom : HomeWork P s u := by
      split at hu
      · exact roomForEntry hu
      · rw [← Option.some.inj hu]
        exact refl s
    split at h
    · rw [← Option.some.inj h]
      exact hroom.trans (drainEntry ..)
    · split at h
      · split at h
        · nomatch h
        · extract_lets r at h
          have hr : HomeWork P s r.2 := hroom.trans (l2 ..)
          split at h
          · rw [← Option.some.inj h]
            exact ((hr.trans (countTag ..)).trans (drainEntry ..)).trans (serveWaiters ..)
          · nomatch h
      · rw [← Option.some.inj h]
        exact (hroom.trans (countTag ..)).trans (drainEntry ..)

theorem takeBank (s : State) (key vf : Nat) : HomeWork P s (s.takeBank key vf) :=
  ite (refl s) (updCore_of_vfs s _ rfl rfl)

theorem pushUpTo {push : State → Nat → PqEntry → State} (h : ∀ s c e, HomeWork P s (push s c e)) (s : State) (m : Mark) :
    HomeWork P s (State.pushUpTo push s m) := by
  unfold State.pushUpTo
  extract_lets t
  have ht : HomeWork P s t := foldl _ (fun t e => h t m.core e) s
  exact ite (ht.trans (foldl _ (fun t (_ : PqEntry) => flushNow t _ _) t)) ht

theorem pushVictim {push : State → Nat → PqEntry → State} (h : ∀ s c e, HomeWork P s (push s c e)) (s : State) (e : PqEntry) :
    HomeWork P s (State.pushVictim push s e) := by
  unfold State.pushVictim
  split
  · exact (foldl _ (fun t m => pushUpTo h t m) s).trans (setMarks ..)
  · exact refl s

theorem pushEntry (fuel : Nat) (s : State) (c : Nat) (e : PqEntry) : HomeWork P s (State.pushEntry fuel s c e) := by
  induction fuel generalizing s c e with
  | zero => exact ite (drainEntry ..) (refl s)
  | succ fuel ih =>
    unfold State.pushEntry
    split
    · exact refl s
    · extract_lets u sl v
      have hu : HomeWork P s u := (takeBank s _ _).trans (pushVictim ih _ e)
      split
      next t ht => exact hu.trans (tryDrain ht)
      · split
        next t ht => exact (hu.trans (makeRoom ..)).trans (tryDrain ht)
        · have hv : HomeWork P s v := hu.trans (makeRoom ..)
          cases hd : v.tryDrain c e with
          | none => exact hv.trans (drainEntry ..)
          | some t => exact hv.trans (tryDrain hd)

/-- A core's stores go home (R228). -/
theorem drainCore (s : State) (c : Nat) : HomeWork P s (s.drainCore c) := foldl _ (fun t e => pushEntry _ t c e) s

/-- A core's stores are published (R166, R228). -/
theorem publishCore (s : State) (c : Nat) : HomeWork P s (s.publishCore c) := foldl _ (fun t (_ : PqEntry) => flushNow t _ _) s

end HomeWork

end Sys2Proof.Machine
end

section
/-! The end of a population (R228): what it leaves of slots and cores, the fatal trap, and the settlement of O15. -/

namespace Sys2Proof.Machine

open Sys2Proof.Claims

/-! ### Slots that are left or freed -/

/-- A slot goes on with its task, or has none any more. -/
def Slot.Left (x y : Slot) : Prop :=
  (y.mode = x.mode ∧ y.pop = x.pop ∧ (x.cWait = none → y.cWait = none)) ∨ (y.mode = .free ∧ y.pop = none ∧ y.cWait = none)

namespace Slot.Left

theorem refl (x : Slot) : Left x x := .inl ⟨rfl, rfl, id⟩

theorem freed (x : Slot) : Left x x.freed := .inr ⟨rfl, rfl, rfl⟩

theorem trans {x y z : Slot} (h : Left x y) (k : Left y z) : Left x z := by
  obtain ⟨km, kp, kw⟩ | k := k
  · obtain ⟨hm, hp, hw⟩ | ⟨hm, hp, hw⟩ := h
    · exact .inl ⟨km.trans hm, kp.trans hp, kw ∘ hw⟩
    · exact .inr ⟨km.trans hm, kp.trans hp, kw hw⟩
  · exact .inr k

theorem of_awaits {x y : Slot} (h : Slot.Awaits x y) : Left x y := .inl ⟨h.mode, h.pop, h.cWait_eq_none⟩

/-- A slot that is not of a population does not come to it. -/
theorem pop_ne {x y : Slot} {p : Nat} (h : Left x y) (hx : x.pop ≠ some p) : y.pop ≠ some p := by
  obtain ⟨-, hp, -⟩ | ⟨-, hp, -⟩ := h
  · rwa [hp]
  · rw [hp]
    exact nofun

/-- A slot that has left its population is FREE. -/
theorem freed_of_pop_ne {x y : Slot} {p : Nat} (h : Left x y) (hx : x.pop = some p) (hy : y.pop ≠ some p) :
    y.mode = .free ∧ y.pop = none := by
  obtain ⟨-, hp, -⟩ | ⟨hm, hp, -⟩ := h
  · exact absurd (hp.trans hx) hy
  · exact ⟨hm, hp⟩

theorem cWait_eq_none {x y : Slot} (h : Left x y) (hx : x.cWait = none) : y.cWait = none := by
  obtain ⟨-, -, hw⟩ | ⟨-, -, hw⟩ := h
  · exact hw hx
  · exact hw

end Slot.Left

/-- What the end of a population leaves: reports and the records of populations, the VF and the cycle of each core; each slot goes on, or has no
task any more. -/
structure Ending (s t : State) : Prop where
  reports : t.reports = s.reports
  pops : t.pops = s.pops
  issuing : t.issuing = s.issuing
  core : ∀ c, (t.core c).vf = (s.core c).vf ∧ (t.core c).cyc = (s.core c).cyc
  slotV : ∀ c vk n, Slot.Left (s.slotV c vk n) (t.slotV c vk n)

namespace Ending

theorem refl (s : State) : Ending s s := ⟨rfl, rfl, rfl, fun _ => ⟨rfl, rfl⟩, fun _ _ _ => .refl _⟩

theorem trans {s t u : State} (h : Ending s t) (k : Ending t u) : Ending s u where
  reports := k.reports.trans h.reports
  pops := k.pops.trans h.pops
  issuing := k.issuing.trans h.issuing
  core c := ⟨(k.core c).1.trans (h.core c).1, (k.core c).2.trans (h.core c).2⟩
  slotV c vk n := (h.slotV c vk n).trans (k.slotV c vk n)

theorem foldl {α : Type} (l : List α) {g : State → α → State} (h : ∀ t x, Ending t (g t x)) (s : State) : Ending s (l.foldl g s) := by
  induction l generalizing s with
  | nil => exact refl s
  | cons x r ih => exact (h s x).trans (ih _)

theorem of_homeWork {s t : State} (h : HomeWork (fun _ _ _ => True) s t) : Ending s t :=
  ⟨h.reports, h.pops, h.issuing, fun c => ⟨(congrArg Core.vf (h.core c) :), (congrArg Core.cyc (h.core c) :)⟩,
    fun c vk n => .of_awaits (h.slotV c vk n trivial)⟩

theorem of_cores {s t : State} (hr : t.reports = s.reports) (hp : t.pops = s.pops) (hi : t.issuing = s.issuing)
    (hc : t.cores = s.cores) : Ending s t := of_homeWork (.of_cores hr hp hi hc)

/-- A core changes. -/
theorem updCore (s : State) (c : Nat) {f : Core → Core} (hv : (f (s.core c)).vf = (s.core c).vf) (hy : (f (s.core c)).cyc = (s.core c).cyc)
    (hs : ∀ vk n, Slot.Left (s.slotV c vk n) (FMap.getD (FMap.getD (f (s.core c)).vfs vk {}).slots n {})) :
    Ending s (s.updCore c f) := by
  refine ⟨rfl, rfl, rfl, fun d => ?_, fun d vk n => ?_⟩
  · by_cases hd : d = c
    · subst hd
      rw [State.core_updCore]
      exact ⟨hv, hy⟩
    · rw [State.core_updCore_ne s f hd]
      exact ⟨rfl, rfl⟩
  · by_cases hd : d = c
    · subst hd
      have hslot : (s.updCore d f).slotV d vk n = FMap.getD (FMap.getD (f (s.core d)).vfs vk {}).slots n {} := by
        rw [State.slotV, State.core_updCore]
      rw [hslot]
      exact hs vk n
    · rw [State.slotV, State.slotV, State.core_updCore_ne s f hd]
      exact .refl _

/-- What a core holds for its running VF changes. -/
theorem updCvf (s : State) (c : Nat) {f : CoreVf → CoreVf}
    (h : ∀ n, Slot.Left (s.slot c n) (FMap.getD (f (s.cvf c)).slots n {})) : Ending s (s.updCvf c f) := by
  refine updCore s c rfl rfl fun vk n => ?_
  by_cases hv : vk = s.vk c
  · subst hv
    have hc : FMap.getD ((s.core c).setCvf (f (s.core c).cvf)).vfs (s.vk c) {} = f (s.cvf c) := FMap.getD_insert_self ..
    rw [hc]
    exact h n
  · have hc : FMap.getD ((s.core c).setCvf (f (s.core c).cvf)).vfs vk {} = FMap.getD (s.core c).vfs vk {} := FMap.getD_insert_ne _ _ _ hv
    rw [hc]
    exact .refl _

theorem updSlot (s : State) (c n : Nat) {f : Slot → Slot} (h : Slot.Left (s.slot c n) (f (s.slot c n))) : Ending s (s.updSlot c n f) := by
  refine updCvf s c (f := fun x => { x with slots := FMap.insert x.slots n (f (s.slot c n)) }) fun m => ?_
  by_cases hm : m = n
  · subst hm
    rw [FMap.getD_insert_self]
    exact h
  · rw [FMap.getD_insert_ne _ _ _ hm]
    exact .refl _

theorem forget (s : State) (c n : Nat) : Ending s (s.forget c n) :=
  ((updCvf s c (f := fun x => { x with semWait := x.semWait.map fun e => (e.1, e.2.filter (· ≠ n)) }) fun _ => .refl _).trans
    (of_cores rfl rfl rfl rfl)).trans (of_cores rfl rfl rfl rfl)

theorem freeSlot (s : State) (c n : Nat) : Ending s (s.freeSlot c n) :=
  ((updSlot s c n (.inl ⟨rfl, rfl, id⟩)).trans (forget _ c n)).trans (updSlot _ c n (.freed _))

theorem endPopCore (s : State) (p c : Nat) : Ending s (s.endPopCore p c) := by
  refine foldl _ (fun t n => ?_) s
  split
  · exact freeSlot ..
  · exact refl t

theorem endPopJobs (s : State) (p cl : Nat) : Ending s (s.endPopJobs p cl) := by
  unfold State.endPopJobs
  extract_lets k both rot mine got dead t
  have ht : Ending s t := by
    simp only [t]
    split
    · split
      · exact of_homeWork (.dropPrefetch s cl)
      · exact refl s
    · exact refl s
  exact ht.trans (of_cores rfl rfl rfl rfl)

end Ending

/-! ### The end of a population (R228) -/

/-- A stored slot of a population that ends is FREE, another stands. -/
theorem endPopStored_slot (p : Nat) (x : CoreVf) (n : Nat) : FMap.getD (State.endPopStored p x).slots n ({} : Slot) =
    if (FMap.getD x.slots n {}).pop = some p then (FMap.getD x.slots n {}).freed else FMap.getD x.slots n {} := by
  have h := FMap.getD_map_default x.slots n (d := ({} : Slot)) (f := fun y => if y.pop = some p then y.freed else y) rfl
  rw [← h]
  refine congrArg (fun l => FMap.getD l n ({} : Slot)) (List.map_congr_left fun e _ => ?_)
  split <;> rfl

/-- What a core has of a population leaves it. -/
def Core.quit (k : Core) (p : Nat) : Core :=
  { k with
    vfs := k.vfs.map fun e => (e.1, State.endPopStored p e.2)
    buf := k.buf.filter (·.pop ≠ some p)
    inbox := k.inbox.filter fun m => m.pop ≠ some p }

theorem quit_slot (k : Core) (p vk n : Nat) : FMap.getD (FMap.getD (k.quit p).vfs vk {}).slots n {} =
    if (FMap.getD (FMap.getD k.vfs vk {}).slots n {}).pop = some p then (FMap.getD (FMap.getD k.vfs vk {}).slots n {}).freed
    else FMap.getD (FMap.getD k.vfs vk {}).slots n {} := by
  have hdefault : State.endPopStored p {} = {} := by
    simp [State.endPopStored]
  rw [Core.quit, FMap.getD_map_default k.vfs vk hdefault, endPopStored_slot]

theorem Ending.quit (s : State) (p c : Nat) : Ending s (s.updCore c (·.quit p)) := by
  refine .updCore s c rfl rfl fun vk n => ?_
  rw [quit_slot]
  split
  · exact .freed _
  · exact .refl _

/-- No slot of the core is of the population. -/
def State.Without (s : State) (p c : Nat) : Prop := ∀ vk n, (s.slotV c vk n).pop ≠ some p

theorem Ending.without {s t : State} (h : Ending s t) {p c : Nat} (hs : s.Without p c) : t.Without p c :=
  fun vk n => (h.slotV c vk n).pop_ne (hs vk n)

theorem without_quit (s : State) (p c : Nat) : (s.updCore c (·.quit p)).Without p c := by
  intro vk n
  rw [State.slotV, State.core_updCore, quit_slot]
  split
  · exact nofun
  next h => exact h

/-- Every core of a list is left. -/
theorem without_foldl_quit (p : Nat) {c : Nat} {l : List Nat} (hc : c ∈ l) (s : State) :
    (l.foldl (fun t c => t.updCore c (·.quit p)) s).Without p c := by
  induction l generalizing s with
  | nil => nomatch hc
  | cons d r ih =>
    by_cases hr : c ∈ r
    · exact ih hr _
    · obtain rfl | h := List.mem_cons.1 hc
      · exact (Ending.foldl r (fun t d => Ending.quit t p d) _).without (without_quit s p c)
      · exact absurd h hr

/-- A core of which nothing is kept has no slot of a population. -/
theorem without_of_absent {s : State} {c : Nat} (h : c ∉ FMap.keys s.cores) (p : Nat) : s.Without p c := by
  intro vk n
  have hcore : s.core c = {} := by
    rw [State.core, FMap.getD, FMap.find?_eq_none_iff.2 fun e he hk => h (List.mem_map.2 ⟨e, he, hk⟩)]
    rfl
  rw [State.slotV, hcore]
  exact nofun

/-- A population ends: its work is gone, and its record has the new status (R228). -/
theorem endPop_eq (s : State) (p : Nat) (st : PopStatus) : ∃ t, Ending s t ∧ (∀ c, t.Without p c) ∧
    (∀ x, FMap.find? s.pops p = some x → s.endPop p st = { t with pops := FMap.insert s.pops p { x with status := st } }) ∧
    (FMap.find? s.pops p = none → s.endPop p st = t) := by
  unfold State.endPop
  extract_lets home cs u v w z
  have hu : Ending s u := .foldl _ (fun t c => .endPopCore t p c) s
  have hv : Ending u v := .foldl _ (fun t c => .quit t p c) u
  have hw : Ending v w := .of_cores rfl rfl rfl rfl
  have hz : Ending w z := .foldl _ (fun t cl => .endPopJobs t p cl) w
  have hall : Ending v z := hw.trans hz
  have hgone (c : Nat) : v.Without p c := by
    by_cases hc : c ∈ cs
    · exact without_foldl_quit p hc u
    · exact (hu.trans hv).without (without_of_absent hc p)
  have hsz : Ending s z := (hu.trans hv).trans hall
  have hdrain : Ending z (home.foldl (fun t c => (t.drainCore c).publishCore c) z) :=
    .foldl _ (fun t c => .of_homeWork ((HomeWork.drainCore t c).trans (.publishCore _ c))) z
  cases hx : FMap.find? s.pops p with
  | none =>
    rw [← hsz.pops] at hx
    refine ⟨z, hsz, fun c => hall.without (hgone c), nofun, fun _ => ?_⟩
    simp only [hx]
  | some x =>
    have hpz : FMap.find? z.pops p = some x := by rw [hsz.pops, hx]
    refine ⟨_, hsz.trans hdrain, fun c => (hall.trans hdrain).without (hgone c), fun y hy => ?_, nofun⟩
    rw [← Option.some.inj hy]
    simp only [hpz]
    rw [(hsz.trans hdrain).pops]

/-! ### Fatal traps (R223, R228) -/

/-- The end of a population is read off reports, the records of populations and slots. -/
theorem endsPop_of_same {p c n cause : Nat} {val : Word} {s t u : State} (h : EndsPop p c n cause val s t)
    (hr : u.reports = t.reports) (hp : u.pops = t.pops)
    (hs : ∀ d m, (u.slot d m).mode = (t.slot d m).mode ∧ (u.slot d m).pop = (t.slot d m).pop) : EndsPop p c n cause val s u := by
  obtain ⟨hreport, hstatus, hmode, hgone, hothers⟩ := h
  refine ⟨hr.trans hreport, ?_, (hs c n).1.trans hmode, fun d m hm => ?_, fun q hq => ?_⟩
  · rw [hp]
    exact hstatus
  · rw [(hs d m).2]
    exact hgone d m hm
  · rw [hp]
    exact hothers q hq

/-- The fate of a slot's bundle is beside the end of its population. -/
theorem endsPop_updFate {p c n cause : Nat} {val : Word} {s t : State} (h : EndsPop p c n cause val s t) (d m : Nat) (x : Fate) :
    EndsPop p c n cause val s (t.updSlot d m fun y => { y with fate := x }) := by
  refine endsPop_of_same h rfl rfl fun e k => ?_
  by_cases he : (e, k) = (d, m)
  · obtain ⟨rfl, rfl⟩ : e = d ∧ k = m := by simpa using he
    rw [State.slot_updSlot]
    exact ⟨rfl, rfl⟩
  · rw [State.slot_updSlot_ne t _ he]
    exact ⟨rfl, rfl⟩

/-- A trap that is fatal to a population (R223, R228), in a slot whose population has a record. -/
structure Fatal (s : State) (p c n : Nat) (sync : Bool) : Prop where
  record : ∃ x, FMap.find? s.pops p = some x
  pop : (s.slot c n).pop = some p
  held : (s.cvf c).tvec = 0 ∨ (sync = true ∧ (s.slot c n).inTrap = true)

theorem takeTrap_of_fatal {s : State} {p c n : Nat} {sync : Bool} (h : Fatal s p c n sync) (cause : Nat) (val : Word) :
    s.takeTrap c n sync cause val = s.fatalTrap c n (s.slot c n).pc cause val := by
  refine if_pos ?_
  obtain htvec | ⟨rfl, hin⟩ := h.held
  · simp [htvec]
  · simp [hin]

/-- A fatal trap ends the population and frees its slot (R228). -/
theorem fatalTrap_endsPop {s : State} {p c n : Nat} {sync : Bool} (h : Fatal s p c n sync) (cause : Nat) (val : Word) :
    EndsPop p c n cause val s (s.fatalTrap c n (s.slot c n).pc cause val) ∧
      ((s.fatalTrap c n (s.slot c n).pc cause val).slot c n).pop = none := by
  obtain ⟨x, hx⟩ := h.record
  obtain ⟨t, ht, hgone, hend, -⟩ := endPop_eq s p .fatal
  have hend := hend x hx
  have hslot (d m : Nat) : t.slot d m = t.slotV d (s.vk d) m := by
    rw [← show t.vk d = s.vk d by rw [State.vk, Core.vkey, (ht.core d).1]; rfl]
    rfl
  have hpop (q : Nat) (y z : Pop) (hq : q ≠ p) : FMap.find? (FMap.insert (FMap.insert s.pops p y) p z) q = FMap.find? s.pops q := by
    rw [FMap.find?_insert_ne _ _ hq, FMap.find?_insert_ne _ _ hq]
  have hfreed : (t.slot c n).mode = .free ∧ (t.slot c n).pop = none := by
    rw [hslot]
    exact (ht.slotV c _ n).freed_of_pop_ne h.pop (hgone c _ n)
  have hnone (d m : Nat) : (t.slot d m).pop ≠ some p := by
    rw [hslot]
    exact hgone d _ m
  simp only [State.fatalTrap, h.pop, hend, State.fatalWord, State.report, FMap.find?_insert_self, Option.isSome_some, if_true]
  exact ⟨⟨congrArg (· ++ _) ht.reports, ⟨_, FMap.find?_insert_self .., rfl⟩, hfreed.1, fun d m _ => hnone d m,
    fun q hq => hpop q _ _ hq⟩, hfreed.2⟩

theorem takeTrap_endsPop {s : State} {p c n : Nat} {sync : Bool} (h : Fatal s p c n sync) (cause : Nat) (val : Word) :
    EndsPop p c n cause val s (s.takeTrap c n sync cause val) ∧ ((s.takeTrap c n sync cause val).slot c n).pop = none := by
  rw [takeTrap_of_fatal h]
  exact fatalTrap_endsPop h cause val

/-- The executing bundle's trap is fatal to its population. -/
theorem answers_endsPop_of_raise {i : Instr} {s : State} {p cause : Nat} {val : Word} (h : Fatal s p s.cur.core s.cur.slot true)
    (hi : exec i s = .next (s.raise cause val)) : Answers i s (EndsPop p s.cur.core s.cur.slot cause val s) :=
  ⟨_, hi, endsPop_updFate (takeTrap_endsPop h cause val).1 _ _ _⟩

/-- %TVAL of the executing word's traps (R62). -/
theorem wordTval_eq (s : State) : s.wordTval = BitVec.ofNat 64 (s.cur.word.toNat + if s.cur.pairA then 2 ^ 32 else 0) := by
  have hlt := s.cur.word.isLt
  refine BitVec.eq_of_toNat_eq ?_
  rw [State.wordTval]
  split
  next =>
    have hor : s.cur.word.toNat + 2 ^ 32 = s.cur.word.toNat ||| 2 ^ 32 := by
      rw [Nat.add_comm, Nat.or_comm]
      simpa using Nat.two_pow_add_eq_or_of_lt hlt 1
    rw [hor]
    simp
  next => simp

/-- A word that is no well-formed instruction is illegal (R71). -/
theorem legal_eq_none {w : Nat} (h : ∀ i, ¬(decode w = some i ∧ i.wellFormed = true)) : legal w = none := by
  unfold legal
  split
  next i hi => exact if_neg fun hw => h i ⟨hi, hw⟩
  next => rfl

/-- A target with bit 0 or 1 set is misaligned (R59). -/
theorem and_three_ne_zero {w : Word} (h : w.getLsbD 0 = true ∨ w.getLsbD 1 = true) : w &&& 3 ≠ 0 := by
  intro h0
  have hbit (i : Nat) (hi : (3 : Word).getLsbD i = true) : w.getLsbD i = false := by
    have h : (w &&& 3).getLsbD i = false := by
      rw [h0]
      exact BitVec.getLsbD_zero
    rwa [BitVec.getLsbD_and, hi, Bool.and_true] at h
  rw [hbit 0 (by decide), hbit 1 (by decide)] at h
  exact h.elim nofun nofun

/-- The end of a bundle that trapped, in a slot without a task, leaves the populations (R55). -/
theorem commit_pops {s : State} {c n : Nat} (hf : (s.slot c n).fate ≠ .ok) (hp : (s.slot c n).pop = none) :
    (s.commit c n).pops = s.pops := by
  unfold State.commit
  extract_lets x u
  have hcycle (v : State) : (v.endCycle c).pops = v.pops := by
    rw [State.endCycle, State.countFlits]
    split <;> rfl
  rw [hcycle]
  split
  next h => exact absurd h hf
  next => rw [show x.pop = none from hp]; rfl

/-- The end of a trapped bundle of a population that has ended (R62, R228). -/
theorem endsPop_commit {p c n cause : Nat} {val : Word} {s t : State} (h : EndsPop p c n cause val s t) (hp : (t.slot c n).pop = none)
    (hf : (t.slot c n).fate ≠ .ok) : EndsPop p c n cause val s (t.commit c n) := by
  have hb := Bookkept.commit t c n
  refine endsPop_of_same h hb.reports (commit_pops hf hp) fun d m => ?_
  obtain ⟨b, hslot⟩ := hb.slot d m
  rw [hslot]
  by_cases he : (d, m) = (c, n)
  · obtain ⟨rfl, rfl⟩ : d = c ∧ m = n := by simpa using he
    have hc : ({ t.updSlot d m Slot.committed with cur := {} } : State).slot d m = (t.slot d m).committed := State.slot_updSlot ..
    rw [hc, committed_of_fate hf]
    exact ⟨rfl, rfl⟩
  · have hc : ({ t.updSlot c n Slot.committed with cur := {} } : State).slot d m = t.slot d m := State.slot_updSlot_ne t _ he
    rw [hc]
    exact ⟨rfl, rfl⟩

theorem fatalTrapEndsThePopulation : Claims.FatalTrapEndsThePopulation := by
  intro s p x hx
  refine ⟨fun c n cause sync val hp hheld => (takeTrap_endsPop ⟨⟨x, hx⟩, hp, hheld⟩ cause val).1, fun hp hheld => ?_,
    fun r c n w hi hf h31 hbad hp hheld => ?_⟩
  · have hfatal : Fatal s p s.cur.core s.cur.slot true := ⟨⟨x, hx⟩, hp, hheld.imp_right fun h => ⟨rfl, h⟩⟩
    refine ⟨fun i => ⟨answers_endsPop_of_raise hfatal rfl, fun ha => answers_endsPop_of_raise hfatal ?_⟩, fun hin => ?_,
      fun d a i ht => answers_endsPop_of_raise hfatal ?_, fun a y ha => answers_endsPop_of_raise hfatal ?_⟩
    · change execDbrk i s = _
      rw [execDbrk, ha]
      rfl
    · rw [← wordTval_eq]
      refine answers_endsPop_of_raise hfatal ?_
      change execTret s = _
      rw [execTret, hin]
      rfl
    · exact congrArg Host.Outcome.next (if_pos (and_three_ne_zero ht))
    · exact congrArg Host.Outcome.next (if_pos ha)
  · have hfatal : Fatal s p c n true := ⟨⟨x, hx⟩, hp, hheld.imp_right fun h => ⟨rfl, h⟩⟩
    obtain ⟨hends, hnone⟩ := takeTrap_endsPop hfatal 0x01 (BitVec.ofNat 64 w)
    have hends := endsPop_updFate hends c n (.trap 0x01 (BitVec.ofNat 64 w))
    refine ⟨_, step_of_illegal hi hf h31 (legal_eq_none hbad), endsPop_commit hends ?_ ?_⟩
    · rw [State.slot_updSlot]
      exact hnone
    · rw [State.slot_updSlot]
      exact nofun

theorem asynchronousCausesInOrder : Claims.AsynchronousCausesInOrder := by
  intro x o
  refine ⟨fun h => by rw [State.nextAsync, if_pos h], fun h => ⟨fun v hv => ?_, fun hv => ⟨fun v hh => ?_, fun hh =>
    ⟨fun v r he => ?_, fun he => ⟨fun ho => ?_, fun ho => ⟨fun v ht => ?_, fun ht => ?_⟩⟩⟩⟩⟩⟩
  · simp only [State.nextAsync, h, hv, Bool.false_eq_true, if_false]
  · simp only [State.nextAsync, h, hv, hh, Bool.false_eq_true, if_false]
  · simp only [State.nextAsync, h, hv, hh, he, Bool.false_eq_true, if_false]
  · simp only [State.nextAsync, h, hv, hh, he, ho, Bool.false_eq_true, if_false, if_true]
  · simp only [State.nextAsync, h, hv, hh, he, ho, ht, Bool.false_eq_true, if_false]
  · simp only [State.nextAsync, h, hv, hh, he, ho, ht, Bool.false_eq_true, if_false]

/-- Settles O15: whatever its cause, a fatal trap frees every slot of the population, brings its stores home and reports it once. -/
theorem fatalAndHeldTraps : Obligations.FatalAndHeldTraps := ⟨fatalTrapEndsThePopulation, asynchronousCausesInOrder⟩

end Sys2Proof.Machine
end

section
/-! The issue cycle (R30, R31, R201, R226, R354): what a cycle begins with, which slots leave their wait, which slot is picked and what its
turn leaves of the others; the settlement of O41. -/

namespace Sys2Proof.Machine

open Sys2Proof.Claims

/-! ### What a turn leaves of a core -/

/-- A core's VF and cycle stand, and no slot of it that waits for nothing begins to wait. -/
structure Turned (c : Nat) (s t : State) : Prop where
  vf : (t.core c).vf = (s.core c).vf
  cyc : (t.core c).cyc = (s.core c).cyc
  wait : ∀ m, (s.slot c m).cWait = none → (t.slot c m).cWait = none

namespace Turned

variable {c : Nat}

theorem refl (s : State) : Turned c s s := ⟨rfl, rfl, fun _ h => h⟩

theorem trans {s t u : State} (h : Turned c s t) (k : Turned c t u) : Turned c s u :=
  ⟨k.vf.trans h.vf, k.cyc.trans h.cyc, fun m hm => k.wait m (h.wait m hm)⟩

theorem foldl {α : Type} (l : List α) {g : State → α → State} (h : ∀ t x, Turned c t (g t x)) (s : State) :
    Turned c s (l.foldl g s) := by
  induction l generalizing s with
  | nil => exact refl s
  | cons x r ih => exact (h s x).trans (ih _)

theorem of_cores {s t : State} (h : t.cores = s.cores) : Turned c s t := by
  have hc : t.core c = s.core c := by rw [State.core, State.core, h]
  refine ⟨by rw [hc], by rw [hc], fun m hm => ?_⟩
  rw [State.slot, hc]
  exact hm

theorem of_bookkept {s t : State} (h : Bookkept s t) : Turned c s t := by
  refine ⟨h.vf c, h.cyc c, fun m hm => ?_⟩
  obtain ⟨b, hb⟩ := h.slot c m
  rw [hb]
  exact hm

theorem of_ending {s t : State} (h : Ending s t) : Turned c s t := by
  refine ⟨(h.core c).1, (h.core c).2, fun m hm => ?_⟩
  have hv : t.vk c = s.vk c := by rw [State.vk, Core.vkey, (h.core c).1]; rfl
  have hslot : t.slot c m = t.slotV c (s.vk c) m := by
    rw [← hv]
    rfl
  rw [hslot]
  exact (h.slotV c _ m).cWait_eq_none hm

/-- A slot's wait ends, or stays. -/
theorem updSlot (s : State) (n : Nat) {f : Slot → Slot} (h : (s.slot c n).cWait = none → (f (s.slot c n)).cWait = none) :
    Turned c s (s.updSlot c n f) := by
  have hcore := (onlyCvf_updSlot s c n f).core_rest c
  refine ⟨(congrArg Core.vf hcore :), (congrArg Core.cyc hcore :), fun m hm => ?_⟩
  by_cases hn : m = n
  · subst hn
    rw [State.slot_updSlot]
    exact h hm
  · rw [State.slot_updSlot_ne s f (by simpa using hn)]
    exact hm

theorem setSlot (s : State) (n : Nat) {y : Slot} (h : (s.slot c n).cWait = none → y.cWait = none) :
    Turned c s (s.setSlot c n y) := updSlot s n (f := fun _ => y) h

end Turned

/-! ### Slots that leave their wait (R201, R354) -/

/-- Some slots of a core have left their wait. -/
structure Woken (c : Nat) (s t : State) : Prop where
  mem : t.mem = s.mem
  issuing : t.issuing = s.issuing
  core : { t.core c with vfs := [] } = { s.core c with vfs := [] }
  wait : ∀ m, (s.slot c m).cWait = none → (t.slot c m).cWait = none

namespace Woken

variable {c : Nat}

theorem refl (s : State) : Woken c s s := ⟨rfl, rfl, rfl, fun _ h => h⟩

theorem trans {s t u : State} (h : Woken c s t) (k : Woken c t u) : Woken c s u :=
  ⟨k.mem.trans h.mem, k.issuing.trans h.issuing, k.core.trans h.core, fun m hm => k.wait m (h.wait m hm)⟩

theorem foldl {α : Type} (l : List α) {g : State → α → State} (h : ∀ t x, Woken c t (g t x)) (s : State) : Woken c s (l.foldl g s) := by
  induction l generalizing s with
  | nil => exact refl s
  | cons x r ih => exact (h s x).trans (ih _)

theorem turned {s t : State} (h : Woken c s t) : Turned c s t :=
  ⟨(congrArg Core.vf h.core :), (congrArg Core.cyc h.core :), h.wait⟩

end Woken

theorem abandoned_cWait (x : Slot) : x.abandoned.cWait = none := undoSlot_cWait (State.markBar x)

theorem abandon_issuing (s : State) (c n : Nat) : (s.abandon c n).issuing = s.issuing := by
  rw [abandon_eq, unrequested_eq]
  rfl

theorem Woken.abandon (s : State) (c n : Nat) : Woken c s (s.abandon c n) := by
  refine ⟨mem_abandon s c n, abandon_issuing s c n, core_abandon s c n c, fun m hm => ?_⟩
  by_cases hn : m = n
  · subst hn
    rw [slot_abandon, abandoned_cWait]
  · rw [slot_abandon_ne s (by simpa using hn)]
    exact hm

/-- A slot is woken to take a trap, where one is due (R201, R354). -/
def State.wakeAt (s : State) (c n : Nat) : State :=
  let x := s.slot c n
  if (s.waitCode c x).isSome && !x.inTrap && (x.pendVpoison.isSome || x.pendHang.isSome || !x.pendEngine.isEmpty) then s.abandon c n else s

theorem wakeDue_eq (s : State) (c : Nat) : s.wakeDue c = (List.range 16).foldl (fun t n => t.wakeAt c n) s := rfl

theorem wakeAt_eq (s : State) (c n : Nat) [Decidable (WakeDue s c n)] :
    s.wakeAt c n = if WakeDue s c n then s.abandon c n else s := by
  unfold State.wakeAt
  refine if_congr ?_ rfl rfl
  simp only [WakeDue, Bool.and_eq_true, Bool.or_eq_true, Bool.not_eq_true', Option.isSome_iff_ne_none, List.isEmpty_eq_false_iff, ne_eq,
    and_assoc, or_assoc]

theorem wakeAt_of_not {s : State} {c n : Nat} (h : ¬WakeDue s c n) : s.wakeAt c n = s := by
  classical rw [wakeAt_eq, if_neg h]

theorem Woken.wakeAt (s : State) (c n : Nat) : Woken c s (s.wakeAt c n) := by
  classical
  rw [wakeAt_eq]
  split
  · exact .abandon s c n
  · exact .refl s

theorem Woken.wakeDue (s : State) (c : Nat) : Woken c s (s.wakeDue c) := .foldl _ (fun t n => .wakeAt t c n) s

/-- Up to the first slot that is due nothing is woken. -/
theorem foldl_wakeAt_of_not {s : State} {c m : Nat} (h : ∀ k, k < m → ¬WakeDue s c k) :
    (List.range m).foldl (fun t n => t.wakeAt c n) s = s := by
  induction m with
  | zero => rfl
  | succ m ih =>
    rw [List.range_succ, List.foldl_append, ih fun k hk => h k (by omega)]
    exact wakeAt_of_not (h m (by omega))

theorem wakeDue_of_not {s : State} {c : Nat} (h : ∀ k, k < 16 → ¬WakeDue s c k) : s.wakeDue c = s := foldl_wakeAt_of_not h

/-- The first slot that is due waits for nothing afterwards. -/
theorem wakeDue_cWait {s : State} {c m : Nat} (hm : m < 16) (hw : WakeDue s c m) (h : ∀ k, k < m → ¬WakeDue s c k) :
    ((s.wakeDue c).slot c m).cWait = none := by
  have hsplit : List.range 16 = List.range (m + 1) ++ (List.range (15 - m)).map (m + 1 + ·) := by
    rw [← List.range_add]
    congr 1
    omega
  rw [wakeDue_eq, hsplit, List.foldl_append, List.range_succ, List.foldl_append, foldl_wakeAt_of_not h]
  refine (Woken.foldl _ (fun t n => .wakeAt t c n) _).wait m ?_
  change ((s.wakeAt c m).slot c m).cWait = none
  classical
  rw [wakeAt_eq, if_pos hw, slot_abandon, abandoned_cWait]

/-! ### A cycle begins (R28, R30, R56) -/

/-- A cycle of a core passes, and its timers fall due (R28, R30). -/
def Core.ticking (k : Core) : Core :=
  let k := { k with cyc := k.cyc + 1, held := k.held + 1 }
  let x := k.cvf
  k.setCvf { x with slots := x.slots.map fun e => (e.1, e.2.timer k.cyc.toNat) }

/-- The cycle of a core has begun; no slot has been woken yet. -/
def State.ticking (s : State) (c : Nat) : State := (s.updCore c Core.ticking).popCycle c

theorem cycle_eq (s : State) (c : Nat) : s.cycle c = (s.ticking c).wakeDue c := rfl

theorem core_ticking (s : State) (c : Nat) : (s.ticking c).core c = (s.core c).ticking := State.core_updCore ..

theorem core_ticking_rest (s : State) (c : Nat) : { (s.ticking c).core c with vfs := [] } =
    { s.core c with cyc := (s.core c).cyc + 1, held := (s.core c).held + 1, vfs := [] } := by
  rw [core_ticking]
  rfl

theorem cvf_ticking (s : State) (c : Nat) : (s.ticking c).cvf c =
    { s.cvf c with slots := (s.cvf c).slots.map fun e => (e.1, e.2.timer ((s.core c).cyc + 1).toNat) } := by
  rw [State.cvf, core_ticking, Core.ticking, Core.cvf_setCvf]
  rfl

theorem slot_ticking (s : State) (c n : Nat) : (s.ticking c).slot c n = (s.slot c n).timer ((s.core c).cyc + 1).toNat := by
  change FMap.getD ((s.ticking c).cvf c).slots n {} = _
  rw [cvf_ticking]
  exact FMap.getD_map_default (s.cvf c).slots n (f := fun x => x.timer ((s.core c).cyc + 1).toNat) rfl

/-- A timer that falls due leaves all of a slot but what is pending of it (R30). -/
theorem timer_rest (x : Slot) (cyc : Nat) : ∃ o, x.timer cyc = { x with pendTimer := o } := by
  unfold Slot.timer
  split
  · exact ⟨_, rfl⟩
  · exact ⟨_, rfl⟩

theorem waitCode_ticking (s : State) (c : Nat) (x : Slot) : (s.ticking c).waitCode c x = s.waitCode c x :=
  waitCode_congr (congrArg Core.pq (core_ticking_rest s c) :) (congrArg Core.unpub (core_ticking_rest s c) :) fun _ _ => rfl

/-- The beginning of a cycle makes no wake due. -/
theorem wakeDue_ticking (s : State) (c n : Nat) : WakeDue (s.ticking c) c n ↔ WakeDue s c n := by
  obtain ⟨o, ho⟩ := timer_rest (s.slot c n) ((s.core c).cyc + 1).toNat
  unfold WakeDue
  dsimp only
  rw [slot_ticking, waitCode_ticking, ho]
  rfl

/-! ### The pick (R31) -/

/-- The better of the best slot so far and another. -/
def Core.better (k : Core) (best : Option Nat) (n : Nat) : Option Nat :=
  if (k.slot n).eligible k.cyc.toNat then best.elim (some n) fun b => if older (k.slot n) (k.slot b) then some n else best else best

theorem pick_eq (k : Core) : k.pick = (List.range 16).foldl k.better none := by
  refine congrArg (fun f => (List.range 16).foldl f none) (funext fun best => funext fun n => ?_)
  cases best <;> rfl

theorem eligible_iff (x : Slot) (now : Nat) : x.eligible now = true ↔ MayIssue x now := by
  unfold Slot.eligible MayIssue
  cases x.lastIssue with
  | none => simp
  | some l =>
    simp only [Bool.and_eq_true, decide_eq_true_eq, and_assoc, Option.some.injEq, forall_eq']
    exact Iff.rfl

/-- With no slot that may issue none is picked. -/
theorem pick_eq_none {k : Core} (h : ∀ n, n < 16 → ¬MayIssue (k.slot n) k.cyc.toNat) : k.pick = none := by
  have hstep (best : Option Nat) {n : Nat} (hn : n < 16) : k.better best n = best :=
    if_neg fun he => h n hn ((eligible_iff _ _).1 he)
  have hall : ∀ j, j ≤ 16 → (List.range j).foldl k.better none = none := by
    intro j hj
    induction j with
    | zero => rfl
    | succ j ih => rw [List.range_succ, List.foldl_append, ih (by omega), List.foldl_cons, List.foldl_nil, hstep none (by omega)]
  rw [pick_eq, hall 16 (by omega)]

/-- The better of two is the one so far, or a slot that may issue. -/
theorem better_eq_or (k : Core) (best : Option Nat) (n : Nat) :
    k.better best n = best ∨ (MayIssue (k.slot n) k.cyc.toNat ∧ k.better best n = some n) := by
  unfold Core.better
  split
  next he =>
    have hmay := (eligible_iff _ _).1 he
    cases best with
    | none => exact .inr ⟨hmay, rfl⟩
    | some b =>
      by_cases ho : older (k.slot n) (k.slot b) = true
      · exact .inr ⟨hmay, if_pos ho⟩
      · exact .inl (if_neg ho)
  next => exact .inl rfl

/-- A slot whose last issue is older than another's. -/
theorem older_of_before {x y : Slot} {n m : Nat} (h : Before x y n m) : (m < n → older x y = true) ∧ (n < m → older y x = false) := by
  unfold Before at h
  unfold older
  revert h
  generalize x.lastIssue = a
  generalize y.lastIssue = b
  intro h
  match a, b, h with
  | none, none, h => exact ⟨fun hmn => absurd hmn (by omega), fun _ => rfl⟩
  | none, some _, _ => exact ⟨fun _ => rfl, fun _ => rfl⟩
  | some a, some b, h => exact ⟨fun _ => decide_eq_true (by omega), fun _ => decide_eq_false (by omega)⟩

/-- The slot whose last issue is oldest is picked (R31 items 3-5). -/
theorem pick_eq_some {k : Core} {n : Nat} (hn : n < 16) (hm : MayIssue (k.slot n) k.cyc.toNat)
    (hb : ∀ m, m < 16 → MayIssue (k.slot m) k.cyc.toNat → Before (k.slot n) (k.slot m) n m) : k.pick = some n := by
  have hbelow : ∀ j, j ≤ n → ∀ b ∈ (List.range j).foldl k.better none, b < j ∧ MayIssue (k.slot b) k.cyc.toNat := by
    intro j hj
    induction j with
    | zero => exact fun b hb => nomatch hb
    | succ j ih =>
      intro b hbest
      rw [List.range_succ, List.foldl_append, List.foldl_cons, List.foldl_nil] at hbest
      obtain h | ⟨he, h⟩ := better_eq_or k ((List.range j).foldl k.better none) j
      · rw [h] at hbest
        obtain ⟨hlt, hmay⟩ := ih (by omega) b hbest
        exact ⟨by omega, hmay⟩
      · rw [h] at hbest
        rw [← Option.some.inj hbest]
        exact ⟨by omega, he⟩
  have hself : k.better ((List.range n).foldl k.better none) n = some n := by
    cases hbest : (List.range n).foldl k.better none with
    | none => exact if_pos ((eligible_iff _ _).2 hm)
    | some b =>
      obtain ⟨hlt, hmay⟩ := hbelow n (by omega) b hbest
      exact (if_pos ((eligible_iff _ _).2 hm)).trans (if_pos ((older_of_before (hb b (by omega) hmay)).1 hlt))
  have habove : ∀ j, n + 1 ≤ j → j ≤ 16 → (List.range j).foldl k.better none = some n := by
    intro j hnj
    induction j, hnj using Nat.le_induction with
    | base =>
      intro _
      rw [List.range_succ, List.foldl_append, List.foldl_cons, List.foldl_nil, hself]
    | succ j hnj ih =>
      intro hj
      rw [List.range_succ, List.foldl_append, ih (by omega), List.foldl_cons, List.foldl_nil]
      unfold Core.better
      split
      next he =>
        have hold := (older_of_before (hb j (by omega) ((eligible_iff _ _).1 he))).2 (by omega)
        simp [hold]
      next => rfl
  rw [pick_eq, habove 16 (by omega) (by omega)]

end Sys2Proof.Machine
end

section
/-! The turn of the slot that is picked (R31, R226, R259, R264); the settlement of O41. -/

namespace Sys2Proof.Machine

open Sys2Proof.Claims

/-! ### A slot's turn (R31, R259) -/

/-- No match register of the core's partition is armed (R259). -/
def Unarmed (s : State) (c : Nat) : Prop := ∀ p, s.part (s.runPid c) = some p → p.dbm = []

theorem Unarmed.congr {s t : State} {c : Nat} (h : Unarmed s c) (hp : t.parts = s.parts) (hv : t.vfs = s.vfs)
    (hc : (t.core c).vf = (s.core c).vf) : Unarmed t c := by
  have hpid : t.runPid c = s.runPid c := by
    rw [State.runPid, State.runPid, State.runVf, State.runVf, hc, State.pidOf, State.pidOf, State.vfRec, State.vfRec, hv]
  intro p hpart
  rw [hpid, State.part, hp] at hpart
  exact h p hpart

theorem Unarmed.updSlot {s : State} {c : Nat} (h : Unarmed s c) (n : Nat) (f : Slot → Slot) : Unarmed (s.updSlot c n f) c :=
  h.congr rfl rfl (congrArg Core.vf ((onlyCvf_updSlot s c n f).core_rest c) :)

theorem dbmMatch_of_unarmed {s : State} {c : Nat} (h : Unarmed s c) (x : Slot) : s.dbmMatch c x = [] := by
  unfold State.dbmMatch
  split
  next => rfl
  next p hp => rw [h p hp]; rfl

theorem turnOf_of_unarmed {s : State} {c : Nat} (h : Unarmed s c) (n : Nat) : s.turnOf c n =
    { s.updSlot c n fun y => { y with matched := none } with issuing := some (c, n) } := by
  simp only [State.turnOf, dbmMatch_of_unarmed h, ite_self, List.isEmpty_nil, if_true]

/-- An asynchronous cause that is taken leaves the rest of its slot (R226, R30). -/
theorem nextAsync_rest {x y : Slot} {o : BitVec 8} {cause : Nat} {v : Word} (h : State.nextAsync x o = some (cause, v, y)) :
    { y with pendVpoison := x.pendVpoison, pendHang := x.pendHang, pendEngine := x.pendEngine, pendOvf := x.pendOvf
             pendTimer := x.pendTimer, tcmp := x.tcmp } = x := by
  unfold State.nextAsync at h
  split at h
  · nomatch h
  split at h
  · obtain ⟨-, -, rfl⟩ := by simpa using h
    rfl
  split at h
  · obtain ⟨-, -, rfl⟩ := by simpa using h
    rfl
  split at h
  · obtain ⟨-, -, rfl⟩ := by simpa using h
    rfl
  split at h
  · obtain ⟨-, -, rfl⟩ := by simpa using h
    rfl
  split at h
  · obtain ⟨-, -, rfl⟩ := by simpa using h
    rfl
  · nomatch h

theorem nextAsync_pc {x y : Slot} {o : BitVec 8} {cause : Nat} {v : Word} (h : State.nextAsync x o = some (cause, v, y)) : y.pc = x.pc := by
  rw [← nextAsync_rest h]

theorem timer_pc (x : Slot) (cyc : Nat) : (x.timer cyc).pc = x.pc := by
  unfold Slot.timer
  split <;> rfl

/-- Which slot issues next is beside what slots hold. -/
theorem slot_issuing (u : State) (x : Option (Nat × Nat)) (c n : Nat) : ({ u with issuing := x } : State).slot c n = u.slot c n := rfl

/-- A slot that has entered its handler is in a trap (R224). -/
theorem inTrap_enter (x : Slot) (tvec tpc : Word) (cause : Nat) (v : Word) (f : Option Word) :
    ({ x.enter tvec tpc cause v with fate := .ok, matched := f } : Slot).inTrap = true := by
  change (x.tstat ||| 1).getLsbD 0 = true
  simp

/-- The cycle of a slot's last issue is beside its asynchronous causes. -/
theorem nextAsync_lastIssue (x : Slot) (o : BitVec 8) (l : Option Nat) : State.nextAsync { x with lastIssue := l } o =
    (State.nextAsync x o).map fun e => (e.1, e.2.1, { e.2.2 with lastIssue := l }) := by
  unfold State.nextAsync
  change (if x.inTrap then _ else _) = _
  split
  · rfl
  dsimp only
  split
  · rfl
  split
  · rfl
  split
  · rfl
  split
  · rfl
  split
  · rfl
  · rfl

/-! ### What a turn leaves of the other slots -/

/-- Every value of a table changes with its key, and the default with them. -/
theorem FMap.getD_map_key {α : Type} (m : FMap α) (n : Nat) {d : α} {f : Nat → α → α} (hd : f n d = d) :
    FMap.getD (m.map fun e => (e.1, f e.1 e.2)) n d = f n (FMap.getD m n d) := by
  induction m with
  | nil => exact hd.symm
  | cons e r ih =>
    rw [List.map_cons, FMap.getD, FMap.getD, FMap.find?, FMap.find?]
    split
    next h => rw [h]; rfl
    next => exact ih

/-- A slot of a population is to halt before its next issue (R259). -/
def Slot.stopFor (q : Nat) (spared : Bool) (x : Slot) : Slot := if x.pop = some q ∧ !spared then { x with stop := true } else x

/-- The slots of a population on a core are to halt, but for one. -/
def Core.stopFor (q c n d : Nat) (k : Core) : Core :=
  { k with vfs := k.vfs.map fun v => (v.1, { v.2 with slots := v.2.slots.map fun x => (x.1, x.2.stopFor q (d = c ∧ x.1 = n)) }) }

theorem stopAll_eq (s : State) (c n q : Nat) :
    s.stopAll c n (some q) = { s with cores := s.cores.map fun e => (e.1, e.2.stopFor q c n e.1) } := by
  have hslot (d : Nat) (x : Nat × Slot) : (if x.2.pop = some q ∧ !(d = c ∧ x.1 = n) then (x.1, { x.2 with stop := true }) else x) =
      (x.1, x.2.stopFor q (d = c ∧ x.1 = n)) := by
    unfold Slot.stopFor
    split <;> rfl
  simp only [State.stopAll, Core.stopFor, hslot]

theorem core_stopAll (s : State) (c n q d : Nat) : (s.stopAll c n (some q)).core d = (s.core d).stopFor q c n d := by
  rw [stopAll_eq]
  exact FMap.getD_map_key s.cores d rfl

theorem slot_stopAll (s : State) (c n q d m : Nat) :
    (s.stopAll c n (some q)).slot d m = (s.slot d m).stopFor q (d = c ∧ m = n) := by
  have hcvf : (s.stopAll c n (some q)).cvf d =
      { s.cvf d with slots := (s.cvf d).slots.map fun x => (x.1, x.2.stopFor q (d = c ∧ x.1 = n)) } := by
    rw [State.cvf, core_stopAll]
    exact FMap.getD_map_default (s.core d).vfs (s.core d).vkey (d := ({} : CoreVf))
      (f := fun v => { v with slots := v.slots.map fun x => (x.1, x.2.stopFor q (d = c ∧ x.1 = n)) }) rfl
  change FMap.getD ((s.stopAll c n (some q)).cvf d).slots m {} = _
  rw [hcvf]
  exact FMap.getD_map_key (s.cvf d).slots m (f := fun j x => x.stopFor q (d = c ∧ j = n)) rfl

theorem stopFor_cWait (q : Nat) (b : Bool) (x : Slot) : (x.stopFor q b).cWait = x.cWait := by
  unfold Slot.stopFor
  split <;> rfl

namespace Turned

variable {c : Nat}

theorem halt (s : State) (n : Nat) : Turned c s (s.halt c n) := updSlot s n id

theorem stopAll (s : State) (n : Nat) (p : Option Nat) : Turned c s (s.stopAll c n p) := by
  cases p with
  | none => exact refl s
  | some q =>
    refine ⟨?_, ?_, fun m hm => ?_⟩
    · rw [core_stopAll]
      rfl
    · rw [core_stopAll]
      rfl
    · rw [slot_stopAll, stopFor_cWait]
      exact hm

theorem turnOf (s : State) (n : Nat) : Turned c s (s.turnOf c n) := by
  unfold State.turnOf
  extract_lets x found next halted u
  have hnext : Turned c s next := updSlot s n id
  have hhalted : Turned c (s.halt c n) halted := updSlot (s.halt c n) n id
  have hu : Turned c s u := ((halt s n).trans hhalted).trans 
    (foldl found (g := fun t e => t.report (.dbm c n e.1)) (fun _ _ => of_cores rfl) halted)
  split
  · exact hnext.trans (of_cores rfl)
  · split
    · exact hu.trans (stopAll ..)
    · exact hu

theorem fatalTrap (s : State) (n : Nat) (tpc : Word) (cause : Nat) (val : Word) : Turned c s (s.fatalTrap c n tpc cause val) := by
  unfold State.fatalTrap
  extract_lets x
  split
  · exact of_ending (.freeSlot s c n)
  next p hp =>
    extract_lets t
    have ht : Turned c s t := by
      obtain ⟨u, hu, -, hrecord, hnone⟩ := endPop_eq s p .fatal
      have hword (v : State) : (v.fatalWord p x.gtid cause).cores = v.cores := by
        unfold State.fatalWord
        split <;> rfl
      have hcores : t.cores = u.cores := by
        refine (hword _).trans ?_
        change (s.endPop p .fatal).cores = u.cores
        cases hx : FMap.find? s.pops p with
        | none => rw [hnone hx]
        | some y => rw [hrecord y hx]
      exact (of_ending hu).trans (of_cores hcores)
    split
    · exact ht
    · exact ht.trans (of_ending (.freeSlot t c n))

theorem takeTrap (s : State) (n : Nat) (sync : Bool) (cause : Nat) (val : Word) : Turned c s (s.takeTrap c n sync cause val) := by
  unfold State.takeTrap
  extract_lets x tvec
  split
  · exact fatalTrap ..
  · exact updSlot s n fun _ => rfl

end Turned

/-- The slot that issues may wait for its register bank; no other slot begins a wait (R242). -/
structure Issued (c : Nat) (s t : State) : Prop where
  cyc : (t.core c).cyc = (s.core c).cyc
  wait : ∀ m, (s.slot c m).cWait = none → (t.slot c m).cWait = none ∨ (t.slot c m).cWait = some (.bank 0 c m)

theorem Turned.issued {c : Nat} {s t : State} (h : Turned c s t) : Issued c s t := ⟨h.cyc, fun m hm => .inl (h.wait m hm)⟩

theorem Issued.trans_turned {c : Nat} {s t u : State} (h : Turned c s t) (k : Issued c t u) : Issued c s u :=
  ⟨k.cyc.trans h.cyc, fun m hm => k.wait m (h.wait m hm)⟩

/-- What is kept account of at the end of a cycle is beside a core's waits. -/
theorem Issued.bookkept {c : Nat} {s t u : State} (h : Issued c s t) (k : Bookkept t u) : Issued c s u := by
  refine ⟨(k.cyc c).trans h.cyc, fun m hm => ?_⟩
  obtain ⟨b, hb⟩ := k.slot c m
  rw [hb]
  exact h.wait m hm

/-- A slot waits for its register bank (R242). -/
theorem issued_of_bank (s : State) (c n v : Nat) : Issued c s
    ((s.askBank 0 c n v).updSlot c n fun y => { y with mode := .parked, cWait := some (.bank 0 c n) }) := by
  have hask : (s.askBank 0 c n v).cores = s.cores := by
    unfold State.askBank
    dsimp only
    split <;> rfl
  refine .trans_turned (.of_cores hask) ⟨?_, fun m hm => ?_⟩
  · exact (congrArg Core.cyc ((onlyCvf_updSlot _ c n _).core_rest c) :)
  · by_cases hn : m = n
    · subst hn
      rw [State.slot_updSlot]
      exact .inr rfl
    · rw [State.slot_updSlot_ne _ _ (by simpa using hn)]
      exact .inl hm

theorem issued_issueSlot (s : State) (c n : Nat) : Issued c s (s.issueSlot c n) := by
  unfold State.issueSlot
  extract_lets k x t
  have ht : Turned c s t := .updSlot s n id
  split
  · exact (ht.trans (.halt t n)).issued
  split
  · exact .trans_turned ht (issued_of_bank t c n _)
  split
  next cause v y hy =>
    extract_lets u
    have hrest := nextAsync_rest hy
    have hset : Turned c t (t.setSlot c n y) := .setSlot t n fun hw => by
      rw [← hrest] at hw
      exact hw
    have hu : Turned c t u := (hset.trans (.takeTrap _ n false cause v)).trans (.updSlot _ n id)
    split
    · exact ((ht.trans hu).trans (.turnOf u n)).issued
    · exact (ht.trans hu).issued
  next => exact (ht.trans (.turnOf t n)).issued

/-! ### The issue cycle (R31) -/

section
variable {s : State} {c : Nat} (he : s.exists_ c = true) (hi : s.issuing = none)
include he hi

/-- A core that is being switched issues nothing (R239). -/
theorem exec_issueCycle_of_switching (hs : ((s.cycle c).core c).switchTo.isSome = true) :
    exec (.issueCycle c) s = .next ((s.cycle c).reportWaits c) := by
  change execIssueCycle c s = _
  simp only [execIssueCycle, he, hi, hs, Bool.not_true, Option.isSome_none, Bool.or_false, Bool.false_eq_true, if_false, if_true]

theorem exec_issueCycle_of_idle (hs : ((s.cycle c).core c).switchTo.isSome = false) (hp : ((s.cycle c).core c).pick = none) :
    exec (.issueCycle c) s = .next ((s.cycle c).endCycle c) := by
  change execIssueCycle c s = _
  simp only [execIssueCycle, he, hi, hs, hp, Bool.not_true, Option.isSome_none, Bool.or_false, Bool.false_eq_true, if_false]

theorem exec_issueCycle_of_pick {n : Nat} (hs : ((s.cycle c).core c).switchTo.isSome = false)
    (hp : ((s.cycle c).core c).pick = some n) : exec (.issueCycle c) s =
      .next (if ((s.cycle c).issueSlot c n).issuing.isSome then (s.cycle c).issueSlot c n else ((s.cycle c).issueSlot c n).endCycle c) := by
  change execIssueCycle c s = _
  simp only [execIssueCycle, he, hi, hs, hp, Bool.not_true, Option.isSome_none, Bool.or_false, Bool.false_eq_true, if_false]

/-- An issue cycle answers, and what it leaves of the core's slots. -/
theorem exec_issueCycle : Answers (.issueCycle c) s (Issued c (s.cycle c)) := by
  by_cases hs : ((s.cycle c).core c).switchTo.isSome = true
  · exact ⟨_, exec_issueCycle_of_switching he hi hs, (Turned.refl _).issued.bookkept (.reportWaits ..)⟩
  · have hs := Bool.eq_false_iff.2 hs
    cases hp : ((s.cycle c).core c).pick with
    | none => exact ⟨_, exec_issueCycle_of_idle he hi hs hp, (Turned.refl _).issued.bookkept (.endCycle ..)⟩
    | some n =>
      refine ⟨_, exec_issueCycle_of_pick he hi hs hp, ?_⟩
      split
      · exact issued_issueSlot ..
      · exact (issued_issueSlot ..).bookkept (.endCycle ..)

end

/-- What the beginning of a cycle leaves (R28, R201). -/
theorem woken_cycle (s : State) (c : Nat) : Woken c (s.ticking c) (s.cycle c) := .wakeDue _ c

theorem cycle_cyc (s : State) (c : Nat) : ((s.cycle c).core c).cyc = (s.core c).cyc + 1 := by
  rw [(woken_cycle s c).turned.cyc, core_ticking]
  rfl

theorem cycle_switchTo (s : State) (c : Nat) : ((s.cycle c).core c).switchTo = (s.core c).switchTo := by
  have hwoken : ((s.cycle c).core c).switchTo = ((s.ticking c).core c).switchTo := by
    have h := congrArg (fun k : Core => k.switchTo) (woken_cycle s c).core
    dsimp only at h
    exact h
  rw [hwoken, core_ticking]
  rfl

theorem switchTo_isSome_cycle {s : State} {c : Nat} (h : (s.core c).switchTo = none) : ((s.cycle c).core c).switchTo.isSome = false := by
  rw [cycle_switchTo, h]
  rfl

theorem cycle_issuing (s : State) (c : Nat) : (s.cycle c).issuing = s.issuing := by
  rw [(woken_cycle s c).issuing, State.ticking, State.popCycle]
  rfl

theorem cycle_mem (s : State) (c : Nat) : (s.cycle c).mem = s.mem := by
  rw [(woken_cycle s c).mem, State.ticking, State.popCycle]
  rfl

/-- With no slot due to wake the cycle has begun (R201). -/
theorem cycle_of_not_wakeDue {s : State} {c : Nat} (h : ∀ m, m < 16 → ¬WakeDue s c m) : s.cycle c = s.ticking c := by
  rw [cycle_eq, wakeDue_of_not fun m hm hw => h m hm ((wakeDue_ticking s c m).1 hw)]

theorem mayIssue_ticking (s : State) (c n : Nat) :
    MayIssue (((s.ticking c).core c).slot n) ((s.ticking c).core c).cyc.toNat ↔ MayIssue (s.slot c n) ((s.core c).cyc + 1).toNat := by
  obtain ⟨o, ho⟩ := timer_rest (s.slot c n) ((s.core c).cyc + 1).toNat
  have hslot : ((s.ticking c).core c).slot n = { s.slot c n with pendTimer := o } := (slot_ticking s c n).trans ho
  have hcyc : ((s.ticking c).core c).cyc = (s.core c).cyc + 1 := (congrArg Core.cyc (core_ticking_rest s c) :)
  rw [hslot, hcyc]
  rfl

theorem before_ticking (s : State) (c n m : Nat) : Before (((s.ticking c).core c).slot n) (((s.ticking c).core c).slot m) n m ↔
    Before (s.slot c n) (s.slot c m) n m := by
  obtain ⟨o, ho⟩ := timer_rest (s.slot c n) ((s.core c).cyc + 1).toNat
  obtain ⟨r, hr⟩ := timer_rest (s.slot c m) ((s.core c).cyc + 1).toNat
  have hn : ((s.ticking c).core c).slot n = { s.slot c n with pendTimer := o } := (slot_ticking s c n).trans ho
  have hm : ((s.ticking c).core c).slot m = { s.slot c m with pendTimer := r } := (slot_ticking s c m).trans hr
  rw [hn, hm]
  rfl

/-! ### The turn of the picked slot -/

/-- The slot whose turn it is has issued in this cycle (R31). -/
def State.inTurn (s : State) (c n : Nat) : State := s.updSlot c n fun y => { y with lastIssue := some (s.core c).cyc.toNat }

theorem slot_inTurn (s : State) (c n : Nat) : (s.inTurn c n).slot c n = { s.slot c n with lastIssue := some (s.core c).cyc.toNat } :=
  State.slot_updSlot ..

/-- A slot has taken an asynchronous cause, and is left as `z` by it (R226). -/
def State.caused (s : State) (c n cause : Nat) (v : Word) (z : Slot) : State :=
  ((s.setSlot c n z).takeTrap c n false cause v).updSlot c n fun z => { z with fate := .ok }

section
variable {u : State} {c n cause : Nat} {v : Word} {z : Slot} (ht : (u.cvf c).tvec ≠ 0)
include ht

theorem caused_eq : u.caused c n cause v z = ((u.updSlot c n fun _ => z).updSlot c n fun x => x.enter (u.cvf c).tvec z.pc cause v).updSlot c n
    fun z => { z with fate := .ok } := by
  have htvec : ((u.updSlot c n fun _ => z).cvf c).tvec = (u.cvf c).tvec := by rw [cvf_updSlot]
  have hpc : ((u.updSlot c n fun _ => z).slot c n).pc = z.pc := by rw [State.slot_updSlot]
  have hno : ¬((false && ((u.updSlot c n fun _ => z).slot c n).inTrap) || decide ((u.cvf c).tvec = 0)) = true := by
    rw [Bool.false_and, Bool.false_or, decide_eq_true_eq]
    exact ht
  change ((u.updSlot c n fun _ => z).takeTrap c n false cause v).updSlot c n _ = _
  rw [State.takeTrap, htvec, hpc, if_neg hno]
  rfl

theorem slot_caused : (u.caused c n cause v z).slot c n = { z.enter (u.cvf c).tvec z.pc cause v with fate := .ok } := by
  rw [caused_eq ht, State.slot_updSlot, State.slot_updSlot, State.slot_updSlot]

theorem Unarmed.caused (h : Unarmed u c) : Unarmed (u.caused c n cause v z) c := by
  rw [caused_eq ht]
  exact ((h.updSlot n _).updSlot n _).updSlot n _

end

section
variable {s : State} {c n : Nat} (hstop : (s.slot c n).stop = false)
  (htag : c < 2048 → FMap.find? (s.core c).gprTag n = some (s.runVf c)) (hdbm : Unarmed s c)
include hstop htag hdbm

/-- Without an asynchronous cause a slot's bundle is next. -/
theorem issueSlot_of_none (ha : State.nextAsync (s.slot c n) (s.cvf c).pmOvf = none) : s.issueSlot c n =
    { (s.inTurn c n).updSlot c n fun y => { y with matched := none } with
      issuing := some (c, n) } := by
  have hbank : ¬(c < Config.cscBase ∧ FMap.find? (s.core c).gprTag n ≠ some ((s.core c).vf.getD 0)) := fun h => h.2 (htag h.1)
  have hnone : State.nextAsync ((s.inTurn c n).slot c n)
      (s.core c).cvf.pmOvf = none := by
    rw [slot_inTurn, nextAsync_lastIssue]
    exact congrArg (Option.map _) ha
  rw [State.inTurn] at hnone
  simp only [State.issueSlot, hstop, if_neg hbank, hnone, Bool.false_eq_true, if_false]
  exact turnOf_of_unarmed (hdbm.updSlot n _) n

omit hdbm in
/-- A slot whose turn it is takes the asynchronous cause that is next. -/
theorem issueSlot_of_some {cause : Nat} {v : Word} {z : Slot}
    (ha : State.nextAsync ((s.inTurn c n).slot c n) (s.core c).cvf.pmOvf =
      some (cause, v, z))
    (hm : ((((s.inTurn c n).caused c n cause v z)).slot c n).mode = .ready) :
    s.issueSlot c n = ((s.inTurn c n).caused c n cause v z).turnOf c n := by
  have hbank : ¬(c < Config.cscBase ∧ FMap.find? (s.core c).gprTag n ≠ some ((s.core c).vf.getD 0)) := fun h => h.2 (htag h.1)
  rw [State.caused, State.inTurn] at hm
  rw [State.inTurn] at ha
  simp only [State.issueSlot, hstop, if_neg hbank, ha, hm, Bool.false_eq_true, if_false, if_true]
  rfl

/-- An asynchronous cause is taken, and the handler's first bundle is next (R226, R264). -/
theorem issueSlot_of_cause {cause : Nat} {v : Word} {y : Slot} (ha : State.nextAsync (s.slot c n) (s.cvf c).pmOvf = some (cause, v, y))
    (ht : (s.cvf c).tvec ≠ 0) : ∃ t : State, s.issueSlot c n = { t.updSlot c n fun y => { y with matched := none } with issuing := some (c, n) } ∧
      t.slot c n = { ({ y with lastIssue := some (s.core c).cyc.toNat } : Slot).enter (s.cvf c).tvec y.pc cause v with fate := .ok } := by
  have hsome : State.nextAsync ((s.inTurn c n).slot c n) (s.core c).cvf.pmOvf =
      some (cause, v, { y with lastIssue := some (s.core c).cyc.toNat }) := by
    rw [slot_inTurn, nextAsync_lastIssue]
    exact congrArg (Option.map _) ha
  have htvec : ((s.inTurn c n).cvf c).tvec = (s.cvf c).tvec := by
    rw [State.inTurn, cvf_updSlot]
  have hslot := slot_caused (u := s.inTurn c n) (n := n) (cause := cause) (v := v)
    (z := { y with lastIssue := some (s.core c).cyc.toNat }) (htvec ▸ ht)
  rw [htvec] at hslot
  refine ⟨_, ?_, hslot⟩
  rw [issueSlot_of_some hstop htag hsome (by rw [hslot]; rfl)]
  exact turnOf_of_unarmed ((hdbm.updSlot n _).caused (htvec ▸ ht)) n

end

section
variable {s : State} {c n : Nat}

theorem cyc_ticking : ((s.ticking c).core c).cyc = (s.core c).cyc + 1 := (congrArg Core.cyc (core_ticking_rest s c) :)

theorem stop_ticking (h : (s.slot c n).stop = false) : ((s.ticking c).slot c n).stop = false := by
  obtain ⟨o, ho⟩ := timer_rest (s.slot c n) ((s.core c).cyc + 1).toNat
  rw [slot_ticking, ho]
  exact h

theorem gprTag_ticking (h : c < 2048 → FMap.find? (s.core c).gprTag n = some (s.runVf c)) :
    c < 2048 → FMap.find? ((s.ticking c).core c).gprTag n = some ((s.ticking c).runVf c) := by
  rw [State.runVf, core_ticking]
  exact h

theorem nextAsync_ticking (s : State) (c n : Nat) : State.nextAsync ((s.ticking c).slot c n) ((s.ticking c).cvf c).pmOvf =
    State.nextAsync ((s.slot c n).timer ((s.core c).cyc + 1).toNat) (s.cvf c).pmOvf := by
  rw [slot_ticking, cvf_ticking]

theorem tvec_ticking (s : State) (c : Nat) : ((s.ticking c).cvf c).tvec = (s.cvf c).tvec := by
  rw [cvf_ticking]

theorem unarmed_ticking (h : Unarmed s c) : Unarmed (s.ticking c) c := by
  refine h.congr rfl rfl ?_
  rw [core_ticking]
  rfl

end

/-- A slot that is picked has its turn (R31 items 3-5). -/
theorem exec_issueCycle_of_turn {s : State} {c n : Nat} (he : s.exists_ c = true) (hi : s.issuing = none)
    (hs : (s.core c).switchTo = none) (hnot : ∀ m, m < 16 → ¬WakeDue s c m) (hn : n < 16)
    (hmay : MayIssue (s.slot c n) ((s.core c).cyc + 1).toNat)
    (hold : ∀ m, m < 16 → MayIssue (s.slot c m) ((s.core c).cyc + 1).toNat → Before (s.slot c n) (s.slot c m) n m)
    (hissues : ((s.ticking c).issueSlot c n).issuing = some (c, n)) :
    exec (.issueCycle c) s = .next ((s.ticking c).issueSlot c n) := by
  have hpick : ((s.ticking c).core c).pick = some n := by
    refine pick_eq_some hn ((mayIssue_ticking s c n).2 hmay) fun m hm h => ?_
    exact (before_ticking s c n m).2 (hold m hm ((mayIssue_ticking s c m).1 h))
  have hcycle := cycle_of_not_wakeDue hnot
  rw [exec_issueCycle_of_pick he hi (switchTo_isSome_cycle hs) (by rw [hcycle, hpick]), hcycle, hissues]
  rfl

section
variable {s : State} {c n : Nat} (he : s.exists_ c = true) (hi : s.issuing = none) (hs : (s.core c).switchTo = none)
  (hnot : ∀ m, m < 16 → ¬WakeDue s c m)
include he hi hs hnot

/-- With no slot that may issue none does (R31). -/
theorem answers_issueCycle_of_none (hnone : ∀ n, n < 16 → ¬MayIssue (s.slot c n) ((s.core c).cyc + 1).toNat) :
    Answers (.issueCycle c) s fun t => t.issuing = none ∧ t.mem = s.mem ∧
      ∀ n, (t.slot c n).pc = (s.slot c n).pc ∧ (t.slot c n).mode = (s.slot c n).mode := by
  have hpick : ((s.ticking c).core c).pick = none := pick_eq_none fun n hn h => hnone n hn ((mayIssue_ticking s c n).1 h)
  have hcycle := cycle_of_not_wakeDue hnot
  have hb := Bookkept.endCycle (s.cycle c) c
  refine ⟨_, exec_issueCycle_of_idle he hi (switchTo_isSome_cycle hs) (by rw [hcycle, hpick]), hb.issuing.trans ((cycle_issuing s c).trans hi),
    hb.mem.trans (cycle_mem s c), fun n => ?_⟩
  obtain ⟨b, hb⟩ := hb.slot c n
  obtain ⟨o, ho⟩ := timer_rest (s.slot c n) ((s.core c).cyc + 1).toNat
  rw [hb, hcycle, slot_ticking, ho]
  exact ⟨rfl, rfl⟩

variable (hn : n < 16) (hmay : MayIssue (s.slot c n) ((s.core c).cyc + 1).toNat)
  (hold : ∀ m, m < 16 → MayIssue (s.slot c m) ((s.core c).cyc + 1).toNat → Before (s.slot c n) (s.slot c m) n m)
  (hstop : (s.slot c n).stop = false) (htag : c < 2048 → FMap.find? (s.core c).gprTag n = some (s.runVf c)) (hdbm : Unarmed s c)
include hn hmay hold hstop htag hdbm

/-- The picked slot's bundle is next (R31). -/
theorem answers_issueCycle_of_bundle
    (ha : State.nextAsync ((s.slot c n).timer ((s.core c).cyc + 1).toNat) (s.cvf c).pmOvf = none) :
    Answers (.issueCycle c) s fun t => t.issuing = some (c, n) ∧ (t.slot c n).lastIssue = some ((s.core c).cyc + 1).toNat ∧
      ∀ m, m ≠ n → (t.slot c m).lastIssue = (s.slot c m).lastIssue := by
  have hnone := issueSlot_of_none (stop_ticking hstop) (gprTag_ticking htag) (unarmed_ticking hdbm) ((nextAsync_ticking s c n).trans ha)
  refine ⟨_, exec_issueCycle_of_turn he hi hs hnot hn hmay hold (by rw [hnone]), ?_⟩
  rw [hnone]
  refine ⟨rfl, ?_, fun m hm => ?_⟩
  · rw [slot_issuing, State.slot_updSlot, slot_inTurn, cyc_ticking]
  · have hne : (c, m) ≠ (c, n) := by simpa using hm
    obtain ⟨o, ho⟩ := timer_rest (s.slot c m) ((s.core c).cyc + 1).toNat
    rw [slot_issuing, State.slot_updSlot_ne _ _ hne, State.inTurn, State.slot_updSlot_ne _ _ hne, slot_ticking, ho]

/-- The picked slot takes the asynchronous cause that is its turn, and the handler's first bundle is next (R226, R264). -/
theorem answers_issueCycle_of_cause {cause : Nat} {v : Word} {y : Slot}
    (ha : State.nextAsync ((s.slot c n).timer ((s.core c).cyc + 1).toNat) (s.cvf c).pmOvf = some (cause, v, y)) (ht : (s.cvf c).tvec ≠ 0) :
    Answers (.issueCycle c) s fun t => t.issuing = some (c, n) ∧ (t.slot c n).pc = (s.cvf c).tvec ∧ (t.slot c n).tpc = (s.slot c n).pc ∧
      (t.slot c n).tcause = BitVec.ofNat 64 cause ∧ (t.slot c n).tval = v ∧ (t.slot c n).inTrap = true := by
  have htvec : ((s.ticking c).cvf c).tvec ≠ 0 := by rwa [tvec_ticking]
  obtain ⟨t, hissue, hslot⟩ := issueSlot_of_cause (stop_ticking hstop) (gprTag_ticking htag) (unarmed_ticking hdbm)
    ((nextAsync_ticking s c n).trans ha) htvec
  have hpc : y.pc = (s.slot c n).pc := (nextAsync_pc ha).trans (timer_pc ..)
  refine ⟨_, exec_issueCycle_of_turn he hi hs hnot hn hmay hold (by rw [hissue]), ?_⟩
  rw [hissue]
  dsimp only
  rw [slot_issuing, State.slot_updSlot, hslot]
  refine ⟨rfl, tvec_ticking s c, hpc, rfl, rfl, ?_⟩
  exact inTrap_enter ..

end

/-- Settles O41, by the slot that the fold over a core's slots picks, and by what each step of a turn leaves of the others' waits. -/
theorem issueCyclePicksTheOldest : Obligations.IssueCyclePicksTheOldest := by
  intro s c he hi
  dsimp only
  obtain ⟨t, ht, hissued⟩ := exec_issueCycle he hi
  refine ⟨⟨t, ht, hissued.cyc.trans (cycle_cyc s c)⟩, fun hs => ?_, fun m hm hw hfirst => ?_, fun hs hnot =>
    ⟨answers_issueCycle_of_none he hi hs hnot, fun n hn hmay hold hstop htag hdbm =>
      ⟨answers_issueCycle_of_bundle he hi hs hnot hn hmay hold hstop htag hdbm, fun _ _ _ ha htvec =>
        answers_issueCycle_of_cause he hi hs hnot hn hmay hold hstop htag hdbm ha htvec⟩⟩⟩
  · have hs : ((s.cycle c).core c).switchTo.isSome = true := by
      rw [cycle_switchTo]
      exact Option.isSome_iff_ne_none.2 hs
    refine ⟨_, exec_issueCycle_of_switching he hi hs, ?_, ?_⟩
    · exact (Bookkept.reportWaits _ c).issuing.trans ((cycle_issuing s c).trans hi)
    · exact (Bookkept.reportWaits _ c).mem.trans (cycle_mem s c)
  · refine ⟨t, ht, hissued.wait m ?_⟩
    exact wakeDue_cWait hm ((wakeDue_ticking s c m).2 hw) fun k hk hd => hfirst k hk ((wakeDue_ticking s c k).1 hd)

end Sys2Proof.Machine
end

section
/-! Words in a core's own scratchpad: little-endian values of bytes (R4), keys of the scratchpad (R141, R242), and what an access there
finds (R139, R142, R161). -/

namespace Sys2Proof.Machine

open Sys2Proof.Claims

/-! ### Little-endian values (R4) -/

theorem length_leBytes (n v : Nat) : (leBytes n v).length = n := by
  induction n generalizing v with
  | zero => rfl
  | succ n ih => rw [leBytes, List.length_cons, ih]

theorem leVal_leBytes (n v : Nat) : leVal (leBytes n v) = v % 256 ^ n := by
  induction n generalizing v with
  | zero => rw [Nat.pow_zero, Nat.mod_one]; rfl
  | succ n ih =>
    rw [leBytes, leVal, ih, BitVec.toNat_ofNat, Nat.pow_succ (m := n), Nat.mul_comm (256 ^ n)]
    exact Nat.mod_mul.symm

theorem leBytes_leVal (bs : List Byte) : leBytes bs.length (leVal bs) = bs := by
  induction bs with
  | nil => rfl
  | cons b r ih =>
    have hb : b.toNat < 256 := b.isLt
    have hbyte : BitVec.ofNat 8 (b.toNat + 256 * leVal r) = b := by
      apply BitVec.eq_of_toNat_eq
      rw [BitVec.toNat_ofNat]
      omega
    have hrest : (b.toNat + 256 * leVal r) / 256 = leVal r := by omega
    rw [List.length_cons, leBytes, leVal, hbyte, hrest, ih]

/-- One bit pattern above another (R4). -/
theorem toNat_append_eq_add {v w : Nat} (x : BitVec v) (y : BitVec w) : (x ++ y).toNat = y.toNat + 2 ^ w * x.toNat := by
  rw [BitVec.toNat_append, ← Nat.shiftLeft_add_eq_or_of_lt y.isLt, Nat.shiftLeft_eq, Nat.mul_comm, Nat.add_comm]

theorem toNat_le2 (m : Memory) (k : Nat) : (le2 m k).toNat = (m.get k).toNat + 2 ^ 8 * (m.get (k + 1)).toNat :=
  toNat_append_eq_add ..
theorem toNat_le4 (m : Memory) (k : Nat) : (le4 m k).toNat = (le2 m k).toNat + 2 ^ 16 * (le2 m (k + 2)).toNat :=
  toNat_append_eq_add ..

/-- The word at a key is the value of its eight bytes. -/
theorem toNat_le8 (m : Memory) (k : Nat) : (le8 m k).toNat = leVal (m.read k 8) := by
  have h : (le8 m k).toNat = (le4 m k).toNat + 2 ^ 32 * (le4 m (k + 4)).toNat := toNat_append_eq_add ..
  rw [h, toNat_le4, toNat_le4, toNat_le2, toNat_le2, toNat_le2, toNat_le2]
  simp only [Memory.read, leVal, Nat.add_assoc, Nat.reduceAdd]
  ring

theorem read_eq_leBytes (m : Memory) (k : Nat) : m.read k 8 = leBytes 8 (le8 m k).toNat := by
  have h := leBytes_leVal (m.read k 8)
  rw [Memory.length_read, ← toNat_le8] at h
  exact h.symm

theorem home_eq_le8 (s : State) (k : Nat) : s.home k 8 = (le8 s.mem k).toNat := (toNat_le8 s.mem k).symm

/-- A word that is written at home is the word there. -/
theorem le8_write (m : Memory) (k : Nat) (v : Word) : le8 (m.write k (leBytes 8 v.toNat)) k = v := by
  apply BitVec.eq_of_toNat_eq
  have h := Memory.read_write m k (leBytes 8 v.toNat)
  rw [length_leBytes] at h
  rw [toNat_le8, h, leVal_leBytes]
  exact Nat.mod_eq_of_lt v.isLt

/-- No other byte changes with a word. -/
theorem get_write_word (m : Memory) (k : Nat) (v : Word) {a : Nat} (h : a < k ∨ k + 8 ≤ a) :
    (m.write k (leBytes 8 v.toNat)).get a = m.get a := Memory.get_write_outside _ _ _ _ (by rwa [length_leBytes])

/-! ### Keys of a core's own scratchpad (R141, R242) -/

theorem spCore_spKey (vk : Nat) {c off : Nat} (hc : c < 4096) (hoff : off < 2 ^ 18) : State.spCore (spKey vk c off) = c := by
  simp only [State.spCore, spKey]
  omega

theorem spKey_mod (vk c : Nat) {off : Nat} (hoff : off < 2 ^ 18) : spKey vk c off % Config.spBytes = off := by
  simp only [spKey, Config.spBytes]
  omega

/-- An own scratchpad byte is not in another core's. -/
theorem remoteKey_spKey (vk : Nat) {c off : Nat} (hc : c < 4096) (hoff : off < 2 ^ 18) : State.remoteKey c (spKey vk c off) = false := by
  simp [State.remoteKey, spCore_spKey vk hc hoff]

/-- The bank of an own scratchpad byte is its VF's. -/
theorem bankReady_spKey {s : State} (vk : Nat) {c vf off : Nat} (hc : c < 4096) (hoff : off < 2 ^ 18)
    (h : s.spOwned c vf off = true) : s.bankReady (spKey vk c off) vf = true := by
  rw [State.bankReady, spCore_spKey vk hc hoff, spKey_mod vk c hoff, h, Bool.or_true]

/-- The key of a VF that runs. -/
theorem vk_of_runs {s : State} {c : Nat} (h : (s.core c).vf.isSome = true) : s.vk c = s.runVf c + 1 := by
  obtain ⟨v, hv⟩ := Option.isSome_iff_exists.1 h
  simp [State.vk, Core.vkey, State.runVf, hv]

/-! ### Accesses of the own scratchpad (R139, R141) -/

section
variable {s : State} {va : Word} {n : Nat} (h : OwnSp s va n)
include h

theorem offset_of_ownSp : va.toNat - 0x01E000000000 < 2 ^ 18 := by
  obtain ⟨hlo, hhi, -⟩ := h
  omega

theorem resolve_of_ownSp (k : Access) (peerOk : Bool) : s.resolve s.cur.core k va n peerOk =
    (.at (.sp s.cur.core (va.toNat - 0x01E000000000)), s) := by
  obtain ⟨hlo, hhi, hn, -⟩ := h
  rw [resolve_of_aperture _ k peerOk hlo (by omega) hn, State.aperture, if_pos (by simpa [Config.spAlias, Config.spBytes] using hhi)]
  rfl

/-- An access of the own scratchpad goes on at its place. -/
theorem access_of_ownSp (k : Access) (peerOk mig : Bool) (go : Place → State → State) : s.access k va n peerOk mig go =
    go (.sp s.cur.core (va.toNat - 0x01E000000000)) s := by
  obtain ⟨-, -, -, -, -, hown⟩ := id h
  simp only [State.access, resolve_of_ownSp h, if_true, hown]

theorem bankMissing_of_ownSp : s.bankMissing s.cur.core (.sp s.cur.core (va.toNat - 0x01E000000000)) = none := by
  obtain ⟨-, -, -, -, -, hown⟩ := h
  simp [State.bankMissing, hown]

theorem bankReady_of_ownSp : s.bankReady (ownKey s va) (s.runVf s.cur.core) = true := by
  obtain ⟨-, -, -, hc, -, hown⟩ := id h
  exact bankReady_spKey _ hc (offset_of_ownSp h) hown

end

/-- A plain operation on a word of a frame in the own scratchpad. -/
def State.ownOp (s : State) (va : Word) : MemOp := { baseOp va 8 0 false with key := ownKey s va }

theorem frameOp_of_own (s : State) (va : Word) : s.frameOp s.cur.core (.sp s.cur.core (va.toNat - 0x01E000000000)) va = s.ownOp va := rfl

theorem touch_ownOp (s : State) (c : Nat) (t : State) (va : Word) : s.touch c (t.ownOp va) = s := rfl

/-- A load of the own scratchpad finds its bytes at home where no store of the core covers them (R161). -/
theorem loadLook_of_home {s : State} {c : Nat} {op : MemOp} (hq : (s.core c).pq = []) (hn : op.size = 8) (hs : op.slice = none)
    (hc : State.spCore op.key = c) (hp : s.poisoned op.key op.size = false) : s.loadLook c op = .value (s.home op.key op.size) := by
  have hbytes : (s.core c).pqBytes op.key op.size = none := by
    rw [hn, Core.pqBytes, List.range_succ_eq_map, List.mapM_cons]
    simp [Core.pqByte, hq]
  have hcov : (s.core c).covered op.key op.size = false := by simp [Core.covered, hq]
  simp [State.loadLook, hbytes, hcov, hs, hc, hp]

end Sys2Proof.Machine
end

section
/-! Operations of a slot at home (R158, R163): watches that compare again leave all but watching slots and L views alone (R168); a request
that a slot sends, and what it finds once it has been performed in the own scratchpad. -/

namespace Sys2Proof.Machine

open Sys2Proof.Claims

/-! ### Watches that compare again (R168) -/

/-- A core without its view of memory. -/
def Core.unviewed (k : Core) : Core := { k with l1 := [], fills := [], uses := 0 }

theorem vfs_of_unviewed {k k' : Core} (h : k'.unviewed = k.unviewed) : k'.vfs = k.vfs := (congrArg Core.vfs h :)

theorem l1Put_unviewed (k : Core) (line set : Nat) (f : L1Line → L1Line) : (State.l1Put k line set f).unviewed = k.unviewed := by
  unfold State.l1Put
  split <;> rfl

theorem patchL1_unviewed (k : Core) (line : Nat) (ws : List (Nat × Half)) : (State.patchL1 k line ws).unviewed = k.unviewed := by
  refine List.foldlRecOn ws _ (motive := fun k' : Core => k'.unviewed = k.unviewed) rfl fun k' hk w _ => Eq.trans ?_ hk
  dsimp only
  split
  · exact l1Put_unviewed ..
  · split
    · split <;> rfl
    · rfl

theorem cvfV_updSlotV (s : State) (c vk n : Nat) (f : Slot → Slot) (d v : Nat) : (s.updSlotV c vk n f).cvfV d v =
    if d = c ∧ v = vk then { s.cvfV c vk with slots := FMap.insert (s.cvfV c vk).slots n (f (s.slotV c vk n)) }
    else s.cvfV d v := by
  rw [State.cvfV, State.updSlotV]
  by_cases hd : d = c
  · subst hd
    rw [State.core_updCore]
    by_cases hv : v = vk
    · subst hv
      rw [if_pos ⟨rfl, rfl⟩, FMap.getD_insert_self]
      rfl
    · rw [if_neg (hv ·.2), FMap.getD_insert_ne _ _ _ hv]
      rfl
  · rw [if_neg (hd ·.1), State.core_updCore_ne s _ hd]
    rfl

theorem slotV_updSlotV_ne (s : State) {c vk n d v m : Nat} (f : Slot → Slot) (h : ¬ (d = c ∧ v = vk ∧ m = n)) :
    (s.updSlotV c vk n f).slotV d v m = s.slotV d v m := by
  change FMap.getD ((s.updSlotV c vk n f).cvfV d v).slots m {} = FMap.getD (s.cvfV d v).slots m {}
  rw [cvfV_updSlotV]
  split
  next he =>
    obtain ⟨rfl, rfl⟩ := he
    exact FMap.getD_insert_ne _ _ _ fun hm => h ⟨rfl, rfl, hm⟩
  next => rfl

/-- Watches have compared again: slots that watch may go on, and the L views have taken what they read. -/
structure Recompared (s t : State) : Prop where
  rest : { t with cores := s.cores } = s
  core : ∀ c, { (t.core c).unviewed with vfs := [] } = { (s.core c).unviewed with vfs := [] }
  cvfV : ∀ c vk, { t.cvfV c vk with slots := [] } = { s.cvfV c vk with slots := [] }
  slotV : ∀ c vk n, (∀ op u pd, (s.slotV c vk n).cWait ≠ some (.watch op u pd)) → t.slotV c vk n = s.slotV c vk n

namespace Recompared

theorem refl (s : State) : Recompared s s := ⟨rfl, fun _ => rfl, fun _ _ => rfl, fun _ _ _ _ => rfl⟩

theorem trans {s t u : State} (h : Recompared s t) (k : Recompared t u) : Recompared s u where
  rest := (congrArg (fun t : State => { t with cores := s.cores }) k.rest).trans h.rest
  core c := (k.core c).trans (h.core c)
  cvfV c vk := (k.cvfV c vk).trans (h.cvfV c vk)
  slotV c vk n hw := (k.slotV c vk n (by rwa [h.slotV c vk n hw])).trans (h.slotV c vk n hw)

theorem foldl {α : Type} (l : List α) {g : State → α → State} (h : ∀ t x, Recompared t (g t x)) (s : State) :
    Recompared s (l.foldl g s) := by
  induction l generalizing s with
  | nil => exact refl s
  | cons x r ih => exact (h s x).trans (ih _)

/-- A core's view of memory changes. -/
theorem updCore {s : State} {c : Nat} {f : Core → Core} (h : (f (s.core c)).unviewed = (s.core c).unviewed) :
    Recompared s (s.updCore c f) := by
  have hvfs (d : Nat) : ((s.updCore c f).core d).unviewed = (s.core d).unviewed := by
    by_cases hd : d = c
    · subst hd
      rw [State.core_updCore, h]
    · rw [State.core_updCore_ne s f hd]
  have hcvf (d vk : Nat) : (s.updCore c f).cvfV d vk = s.cvfV d vk := by
    rw [State.cvfV, vfs_of_unviewed (hvfs d)]
    rfl
  exact ⟨rfl, fun d => by rw [hvfs], fun d vk => by rw [hcvf], fun d vk n _ =>
    congrArg (fun x : CoreVf => FMap.getD x.slots n {}) (hcvf d vk)⟩

theorem homeDirect (s : State) (c key n : Nat) (cached : Bool) : Recompared s (s.homeDirect c key n cached) := by
  rw [State.homeDirect]
  split
  · exact updCore (patchL1_unviewed ..)
  · exact refl s

/-- A slot that watches waits for something else. -/
theorem setWait {s : State} {c vk n : Nat} {op : MemOp} {u : Option Nat} {pd : Nat}
    (h : (s.slotV c vk n).cWait = some (.watch op u pd)) (w : Wait) : Recompared s (s.setWait c vk n w) := by
  refine ⟨rfl, fun d => ?_, fun d v => ?_, fun d v m hw => ?_⟩
  · by_cases hd : d = c
    · subst hd
      rw [State.setWait, State.updSlotV, State.core_updCore]
      rfl
    · rw [State.setWait, State.updSlotV, State.core_updCore_ne s _ hd]
  · rw [State.setWait, cvfV_updSlotV]
    split
    next he => rw [he.1, he.2]
    next => rfl
  · refine slotV_updSlotV_ne s _ ?_
    rintro ⟨rfl, rfl, rfl⟩
    exact hw _ _ _ h

/-- A slot that watches has its value. -/
theorem finishAcquire {s t : State} {c vk n : Nat} {op : MemOp} {u : Option Nat} {pd : Nat} (h : Recompared s t)
    (hw : (t.slotV c vk n).cWait = some (.watch op u pd)) (acq sys keep : Bool) (ms : List Mark) (ws : List Wr) :
    Recompared s (t.finishAcquire c vk n acq sys keep ms ws) := by
  rw [State.finishAcquire]
  split
  · split
    · have hinv : (t.updCore c (·.selfInvalidate)).slotV c vk n = t.slotV c vk n := by
        rw [State.slotV, State.core_updCore]
        rfl
      exact (h.trans (updCore rfl)).trans (setWait (hinv ▸ hw) _)
    · exact h.trans (setWait hw _)
  · exact h.trans (setWait hw _)

theorem slotV_homeDirect (s : State) (c key n : Nat) (cached : Bool) (d vk m : Nat) :
    (s.homeDirect c key n cached).slotV d vk m = s.slotV d vk m := by
  rw [State.homeDirect]
  split
  · by_cases hd : d = c
    · subst hd
      rw [State.slotV, State.core_updCore]
      rw [vfs_of_unviewed (patchL1_unviewed (s.core d) _ _)]
      rfl
    · rw [State.slotV, State.core_updCore_ne s _ hd]
      rfl
  · rfl

theorem recompareAt (s : State) (c n key : Nat) : Recompared s (s.recompareAt c n key) := by
  unfold State.recompareAt
  split
  next op u pd hw =>
    split
    · exact refl s
    · split
      · exact setWait (vk := s.vk c) hw _
      · split
        · exact setWait (vk := s.vk c) hw _
        · split
          · have hslot := slotV_homeDirect s c op.key op.size op.cached c (s.vk c) n
            exact (homeDirect s c op.key op.size op.cached).finishAcquire ((congrArg Slot.cWait hslot).trans hw) _ _ _ _ _
          · exact refl s
  next => exact refl s

theorem recompare (s : State) (key : Nat) : Recompared s (s.recompare key) := by
  rw [State.recompare]
  refine foldl _ (fun t e => ?_) s
  exact foldl _ (fun t n => recompareAt t e.1 n key) t

end Recompared

end Sys2Proof.Machine
end

section
/-! Requests of a slot at its core's own scratchpad (R158, R163): the request that an operation on a frame sends, and what it finds and
writes there. -/

namespace Sys2Proof.Machine

open Sys2Proof.Claims

/-! ### What stands on a core beside the work of its slots -/

/-- What a core holds for a VF, without its slots and counters. -/
def CoreVf.uncounted (x : CoreVf) : CoreVf := { x with slots := [], pmc := ({} : CoreVf).pmc, pmOvf := 0, deferred := [] }

/-- On one core nothing is different but its slots, counters and view of memory; the partitions stand, and the executing slot. -/
structure Undisturbed (c : Nat) (s t : State) : Prop where
  cur : t.cur = s.cur
  parts : t.parts = s.parts
  core : { (t.core c).unviewed with vfs := [] } = { (s.core c).unviewed with vfs := [] }
  cvf : (t.cvf c).uncounted = (s.cvf c).uncounted

namespace Undisturbed

variable {c : Nat} {s t u : State}

theorem refl (c : Nat) (s : State) : Undisturbed c s s := ⟨rfl, rfl, rfl, rfl⟩

theorem trans (h : Undisturbed c s t) (k : Undisturbed c t u) : Undisturbed c s u :=
  ⟨k.cur.trans h.cur, k.parts.trans h.parts, k.core.trans h.core, k.cvf.trans h.cvf⟩

/-- The cores stand. -/
theorem of_cores (hcur : t.cur = s.cur) (hparts : t.parts = s.parts) (h : t.cores = s.cores) : Undisturbed c s t := by
  have hcore : t.core c = s.core c := by rw [State.core, State.core, h]
  exact ⟨hcur, hparts, by rw [hcore], by rw [State.cvf, State.cvf, hcore]⟩

theorem of_bookkept (h : Bookkept s t) : Undisturbed c s t where
  cur := h.cur
  parts := by rw [← h.rest]
  core := congrArg Core.unviewed (h.core c)
  cvf := (congrArg CoreVf.uncounted (h.cvf c).rest :)

theorem of_onlySlot {n : Nat} (h : OnlySlot c n s t) : Undisturbed c s t where
  cur := h.cur
  parts := (congrArg State.parts h.cvf.core.rest :)
  core := congrArg Core.unviewed h.cvf.rest
  cvf := (congrArg CoreVf.uncounted h.rest :)

theorem updSlot (s : State) (c n : Nat) (f : Slot → Slot) : Undisturbed c s (s.updSlot c n f) := of_onlySlot (onlySlot_updSlot s c n f)

section
variable (h : Undisturbed c s t)
include h

theorem vf : (t.core c).vf = (s.core c).vf := (congrArg Core.vf h.core :)
theorem pq : (t.core c).pq = (s.core c).pq := (congrArg Core.pq h.core :)
theorem spTag : (t.core c).spTag = (s.core c).spTag := (congrArg Core.spTag h.core :)
theorem vk : t.vk c = s.vk c := by rw [State.vk, Core.vkey, h.vf]; rfl
theorem runVf : t.runVf c = s.runVf c := by rw [State.runVf, h.vf]; rfl
theorem deque : (t.cvf c).deque = (s.cvf c).deque := (congrArg CoreVf.deque h.cvf :)
theorem dqPop : (t.cvf c).dqPop = (s.cvf c).dqPop := (congrArg CoreVf.dqPop h.cvf :)
theorem ringCount : (t.cvf c).ringCount = (s.cvf c).ringCount := (congrArg CoreVf.ringCount h.cvf :)
theorem taskSeq : (t.cvf c).taskSeq = (s.cvf c).taskSeq := (congrArg CoreVf.taskSeq h.cvf :)
theorem holdsFor (p : Option Nat) : (t.cvf c).holdsFor p = (s.cvf c).holdsFor p := by
  simp only [CoreVf.holdsFor, CoreVf.hasRecords, h.deque, h.ringCount, h.dqPop]
theorem untraced (hu : Untraced s) : Untraced t := by
  intro pid p hp
  rw [State.part, h.parts] at hp
  exact hu pid p hp
theorem covered (key n : Nat) : (t.core c).covered key n = (s.core c).covered key n := by rw [Core.covered, h.pq]; rfl
theorem spOwned (vf off : Nat) : t.spOwned c vf off = s.spOwned c vf off := by rw [State.spOwned, h.spTag]; rfl

end

theorem of_recompared (h : Recompared s t) : Undisturbed c s t := by
  have hcur : t.cur = s.cur := by rw [← h.rest]
  have hvf : (t.core c).vf = (s.core c).vf := (congrArg Core.vf (h.core c) :)
  have hvk : t.vk c = s.vk c := by rw [State.vk, Core.vkey, hvf]; rfl
  refine ⟨hcur, by rw [← h.rest], h.core c, ?_⟩
  rw [← State.cvfV_vk, ← State.cvfV_vk, hvk]
  exact (congrArg CoreVf.uncounted (h.cvfV c _) :)

theorem newReq (s : State) (r : Req) : Undisturbed c s (s.newReq r) := of_cores rfl rfl rfl

theorem selfInvalidate (s : State) (c : Nat) : Undisturbed c s (s.updCore c (·.selfInvalidate)) := of_recompared (.updCore rfl)

end Undisturbed

/-! ### The request of an operation (R158) -/

/-- The request of a slot of the running VF for an operation. -/
def State.homeRequest (s : State) (c n : Nat) (op : MemOp) : Req :=
  { kind := .mem op, core := c, slot := n, vf := s.vk c - 1, key := op.key, size := op.size, slice := op.slice, cached := op.cached
    waiting := false, tag := 0 }

/-- A slot that begins to wait, and goes on as a continuation says. -/
def Slot.awaiting (x : Slot) (w : Wait) (k : Cont) : Slot :=
  { x with mode := if x.mode = .halted then .halted else .parked, cWait := some w, cont := some k }

theorem await_eq (s : State) (c n : Nat) (w : Wait) (k : Cont) : s.await c n w (some k) = s.updSlot c n (·.awaiting w k) := rfl

/-- A slot differs in what it owes to the counters and in a pending overflow trap alone (R251, R253). -/
def Slot.Tallied (x y : Slot) : Prop := ∃ o b, y = { x with owed := o, pendOvf := b }

theorem Slot.Tallied.refl (x : Slot) : Tallied x x := ⟨_, _, rfl⟩

theorem Slot.Tallied.trans {x y z : Slot} (h : Tallied x y) (k : Tallied y z) : Tallied x z := by
  obtain ⟨o, b, rfl⟩ := h
  obtain ⟨o', b', rfl⟩ := k
  exact ⟨o', b', rfl⟩

theorem Bookkept.tallied {s t : State} (h : Bookkept s t) (c n : Nat) : (s.slot c n).Tallied (t.slot c n) := by
  obtain ⟨b, hb⟩ := h.slot c n
  exact ⟨_, b, hb⟩

theorem Bookkept.nextReq {s t : State} (h : Bookkept s t) : t.nextReq = s.nextReq := by rw [← h.rest]

theorem Bookkept.poisoned {s t : State} (h : Bookkept s t) (key n : Nat) : t.poisoned key n = s.poisoned key n := by
  rw [← h.rest]
  rfl

theorem Bookkept.marksAt {s t : State} (h : Bookkept s t) (key : Nat) : t.marksAt key = s.marksAt key := by
  rw [← h.rest]
  rfl

/-- A slot has sent an operation on a frame to its home, and waits for it to go on as its continuation says. -/
structure Asked (c n : Nat) (op : MemOp) (k : Cont) (s t : State) : Prop where
  undisturbed : Undisturbed c s t
  mem : t.mem = s.mem
  poisoned : ∀ key m, t.poisoned key m = s.poisoned key m
  marksAt : ∀ key, t.marksAt key = s.marksAt key
  slot : Slot.Tallied ((s.slot c n).awaiting (.request s.nextReq) k) (t.slot c n)
  req : FMap.find? t.reqs s.nextReq = some (s.homeRequest c n op)

theorem Asked.of_bookkept {c n : Nat} {op : MemOp} {k : Cont} {s t u : State} (h : Asked c n op k s t) (hk : Bookkept t u) :
    Asked c n op k s u where
  undisturbed := h.undisturbed.trans (.of_bookkept hk)
  mem := hk.mem.trans h.mem
  poisoned key m := (hk.poisoned key m).trans (h.poisoned key m)
  marksAt key := (hk.marksAt key).trans (h.marksAt key)
  slot := h.slot.trans (hk.tallied c n)
  req := by rw [hk.reqs, h.req]

theorem slot_newReq (s : State) (r : Req) (c n : Nat) : (s.newReq r).slot c n = s.slot c n := rfl

theorem updSlotV_of_vk {s : State} {c vk : Nat} (h : vk = s.vk c) (n : Nat) (f : Slot → Slot) :
    s.updSlotV c vk n f = s.updSlot c n f := by
  subst h
  rfl

theorem frameHome_of_uncovered {s : State} {c : Nat} {op : MemOp} (n : Nat) (k : Cont)
    (h : (s.core c).covered op.key op.size = false) : s.frameHome c n op k =
      ((s.updSlot c n (·.awaiting (.cover op) k)).updSlot c n fun x =>
        { x with cWait := some (.request s.nextReq) }).newReq (s.homeRequest c n op) := by
  have hvk : s.vk c = (s.updSlot c n (·.awaiting (.cover op) k)).vk c := (onlyCvf_updSlot s c n _).vk.symm
  rw [State.frameHome, h, if_neg Bool.false_ne_true, await_eq, State.sendMem, State.setWait, updSlotV_of_vk hvk, State.homeRequest,
    hvk]
  rfl

/-- An operation that no own store covers goes home at once (R163). -/
theorem asked_frameHome {s : State} {c : Nat} {op : MemOp} (n : Nat) (k : Cont) (h : (s.core c).covered op.key op.size = false) :
    Asked c n op k s (s.frameHome c n op k) := by
  rw [frameHome_of_uncovered n k h]
  refine ⟨?_, rfl, fun _ _ => rfl, fun _ => rfl, ?_, FMap.find?_insert_self ..⟩
  · exact ((Undisturbed.updSlot s c n _).trans (Undisturbed.updSlot _ c n _)).trans (.newReq ..)
  · rw [slot_newReq, State.slot_updSlot, State.slot_updSlot]
    exact .refl _

end Sys2Proof.Machine
end

section
/-! What an operation finds and writes at home, in its core's own scratchpad (R155, R163, R165): one step of SLICE_REQUEST. -/

namespace Sys2Proof.Machine

open Sys2Proof.Claims

/-- The request of a slot whose VF runs stands before its core's own scratchpad, where neither a bank nor poison is in its way. -/
structure Arrives (c n rid : Nat) (op : MemOp) (s : State) : Prop where
  req : FMap.find? s.reqs rid = some (s.homeRequest c n op)
  wait : (s.slot c n).cWait = some (.request rid)
  runs : (s.core c).vf.isSome = true
  ready : s.bankReady op.key (s.runVf c) = true
  slice : op.slice = none
  cached : op.cached = false
  clean : s.poisoned op.key op.size = false

/-- What an operation answers: the value at home (R163). -/
def State.found (s : State) (op : MemOp) : Wr := .g op.d (op.result (s.home op.key op.size))

/-- An operation has been performed at home: memory is as given, and the slot waits for nothing but what marks ask for (R165). -/
structure Performed (c n : Nat) (op : MemOp) (s : State) (m : Memory) (t : State) : Prop where
  undisturbed : Undisturbed c s t
  mem : t.mem = m
  slot : ∃ w, t.slot c n = { s.slot c n with cWait := some w } ∧
    (op.acq = false ∨ s.marksAt op.key = [] → w = .done [s.found op])
  view : op.acq = true → s.marksAt op.key = [] → OwnedView (t.core c)

theorem slot_endReq (s : State) (rid c n : Nat) : (s.endReq rid).slot c n = s.slot c n := rfl
theorem core_endReq (s : State) (rid c : Nat) : (s.endReq rid).core c = s.core c := rfl
theorem Undisturbed.endReq (c : Nat) (s : State) (rid : Nat) : Undisturbed c s (s.endReq rid) := of_cores rfl rfl rfl

/-- The end of an operation: its slot has the value, or the forces of its marks to wait for, and its request has ended. -/
theorem performed_finishAcquire {c n rid : Nat} {op : MemOp} {s t : State} (keep : Bool) (hu : Undisturbed c s t)
    (hs : t.slot c n = s.slot c n) : Performed c n op s t.mem
      ((t.finishAcquire c (s.vk c) n op.acq op.sys keep (s.marksAt op.key) [s.found op]).endReq rid) := by
  have hvk : s.vk c = t.vk c := hu.vk.symm
  have hinv : s.vk c = (t.updCore c (·.selfInvalidate)).vk c := (hu.trans (.selfInvalidate t c)).vk.symm
  rw [State.finishAcquire]
  split
  next ha =>
    split
    next hm =>
      rw [updSlotV_of_vk hinv]
      refine ⟨((hu.trans (.selfInvalidate t c)).trans (.updSlot _ c n _)).trans (.endReq ..), rfl, ⟨_, ?_, fun _ => rfl⟩,
        fun _ _ => ?_⟩
      · rw [slot_endReq, State.slot_updSlot, slot_selfInvalidate, hs]
      · rw [core_endReq]
        refine ownedView_updSlot (s := t.updCore c (·.selfInvalidate)) ?_ c n _
        rw [State.core_updCore]
        exact ownedView_selfInvalidate _
    next hm =>
      rw [updSlotV_of_vk hvk]
      refine ⟨(hu.trans (.updSlot _ c n _)).trans (.endReq ..), rfl,
        ⟨.acquire (forcesOf (s.marksAt op.key)) op.sys [s.found op] keep, ?_, ?_⟩, ?_⟩
      · rw [slot_endReq, State.slot_updSlot, hs]
      · rintro (hn | hn)
        · simp [ha] at hn
        · simp [hn] at hm
      · exact fun _ hn => absurd (List.isEmpty_iff.2 hn) hm
  next ha =>
    rw [updSlotV_of_vk hvk]
    refine ⟨(hu.trans (.updSlot _ c n _)).trans (.endReq ..), rfl, ⟨_, ?_, fun _ => rfl⟩, fun hn => absurd hn ha⟩
    rw [slot_endReq, State.slot_updSlot, hs]

/-- An operation is performed for a slot that waits for it (R228). -/
theorem performMem_of_waits {s : State} {rid : Nat} {r : Req} {op : MemOp}
    (h : (s.slotV r.core (r.vf + 1) r.slot).cWait = some (.request rid)) : s.performMem rid r op = s.performAt rid r op := by
  simp only [State.performMem, h, if_true, Option.map_id']

section
variable {c n rid : Nat} {op : MemOp} {s : State} (h : Arrives c n rid op s)
include h

/-- The request is performed in one step (R163). -/
theorem exec_sliceRequest_of_arrives : exec (.sliceRequest rid) s =
    .next ((s.performAt rid { s.homeRequest c n op with tag := 1 } op).getD s) := by
  change execSliceRequest rid s = _
  have hvk := vk_of_runs h.runs
  have hready : s.bankReady (s.homeRequest c n op).key (s.homeRequest c n op).vf = true := by
    rw [State.homeRequest, hvk]
    exact h.ready
  have hperform : s.serve rid (s.homeRequest c n op) 1 = s.performAt rid { s.homeRequest c n op with tag := 1 } op := by
    refine performMem_of_waits ?_
    change (s.slotV c (s.vk c - 1 + 1) n).cWait = _
    rw [hvk]
    exact hvk ▸ h.wait
  have hkind : (s.homeRequest c n op).kind = .mem op := rfl
  have hwaiting : (s.homeRequest c n op).waiting = false := rfl
  have hslice : (s.homeRequest c n op).slice = none := h.slice
  simp only [execSliceRequest, h.req, hkind, hwaiting, hslice, hready, hperform, if_true, Bool.false_eq_true, if_false]

theorem homeRequest_vf : (s.homeRequest c n op).vf + 1 = s.vk c := by
  rw [State.homeRequest, vk_of_runs h.runs]
  rfl

/-- A read at home (R161, R165). -/
theorem performed_of_read (hk : op.kind = .home) :
    ∃ t, exec (.sliceRequest rid) s = .next t ∧ Performed c n op s s.mem t := by
  refine ⟨_, exec_sliceRequest_of_arrives h, ?_⟩
  have hclean : s.ticked.poisoned op.key op.size = false := h.clean
  have hslice : (s.homeRequest c n op).slice = none := h.slice
  have hperform : s.performAt rid { s.homeRequest c n op with tag := 1 } op =
      some ((s.ticked.finishAcquire c (s.vk c) n op.acq op.sys false (s.marksAt op.key) [s.found op]).endReq rid) := by
    simp only [State.performAt, hclean, hk, hslice, State.homeDirect, h.cached, homeRequest_vf h, Bool.false_eq_true, if_false,
      Option.isSome_none]
    rfl
  rw [hperform]
  exact performed_finishAcquire (t := s.ticked) false (.of_cores rfl rfl rfl) rfl

/-- An atomic operation that writes nothing: a CAS whose word differs (R294). -/
theorem performed_of_unwritten {k : AmoKind} (hk : op.kind = .amo k)
    (hx : amoNew k op.size (s.home op.key op.size) op.arg.toNat op.cmp.toNat = none) :
    ∃ t, exec (.sliceRequest rid) s = .next t ∧ Performed c n op s s.mem t := by
  refine ⟨_, exec_sliceRequest_of_arrives h, ?_⟩
  have hclean : s.ticked.poisoned op.key op.size = false := h.clean
  have hslice : (s.homeRequest c n op).slice = none := h.slice
  have hx' : amoNew k op.size (s.ticked.home op.key op.size) op.arg.toNat op.cmp.toNat = none := hx
  have hperform : s.performAt rid { s.homeRequest c n op with tag := 1 } op =
      some ((s.ticked.finishAcquire c (s.vk c) n op.acq op.sys true (s.marksAt op.key) [s.found op]).endReq rid) := by
    simp only [State.performAt, hclean, hk, hslice, hx', State.homeDirect, h.cached, homeRequest_vf h, Bool.false_eq_true, if_false,
      Option.isSome_none]
    rfl
  rw [hperform]
  exact performed_finishAcquire (t := s.ticked) true (.of_cores rfl rfl rfl) rfl

/-- An atomic operation that writes a value, with no mark (R163). -/
theorem performed_of_written {k : AmoKind} {x : Nat} (hk : op.kind = .amo k) (hm : op.mark = none)
    (hx : amoNew k op.size (s.home op.key op.size) op.arg.toNat op.cmp.toNat = some x) :
    ∃ t, exec (.sliceRequest rid) s = .next t ∧ Performed c n op s (s.mem.write op.key (leBytes op.size x)) t := by
  refine ⟨_, exec_sliceRequest_of_arrives h, ?_⟩
  have hclean : s.ticked.poisoned op.key op.size = false := h.clean
  have hslice : (s.homeRequest c n op).slice = none := h.slice
  have hx' : amoNew k op.size (s.ticked.home op.key op.size) op.arg.toNat op.cmp.toNat = some x := hx
  have hperform : s.performAt rid { s.homeRequest c n op with tag := 1 } op =
      some ((((s.ticked.putHome op.key (leBytes op.size x)).recompare op.key).finishAcquire c (s.vk c) n op.acq op.sys true
        (s.marksAt op.key) [s.found op]).endReq rid) := by
    simp only [State.performAt, hclean, hk, hslice, hx', hm, h.slice, State.homeDirect, h.cached, homeRequest_vf h,
      Bool.false_eq_true, if_false, Option.isSome_none, Bool.and_false, Bool.false_and]
    rfl
  rw [hperform]
  have hput : Recompared (s.ticked.putHome op.key (leBytes op.size x)) _ := .recompare _ op.key
  have hcores : Undisturbed c s (s.ticked.putHome op.key (leBytes op.size x)) := .of_cores rfl rfl rfl
  have hslot : ((s.ticked.putHome op.key (leBytes op.size x)).recompare op.key).slot c n = s.slot c n := by
    have hvk := (Undisturbed.of_recompared (c := c) hput).vk
    have hn : ∀ op' u pd, (s.slot c n).cWait ≠ some (.watch op' u pd) := by
      rw [h.wait]
      exact fun _ _ _ he => nomatch he
    change State.slotV _ c (State.vk _ c) n = _
    rw [hvk]
    exact hput.slotV c (s.vk c) n hn
  have hmem : ((s.ticked.putHome op.key (leBytes op.size x)).recompare op.key).mem = s.mem.write op.key (leBytes op.size x) := by
    have h := congrArg State.mem hput.rest
    exact h
  rw [← hmem]
  exact performed_finishAcquire true (hcores.trans (.of_recompared hput)) hslot

/-- An atomic operation on a word that writes it. -/
theorem performed_of_word {k : AmoKind} {w : Word} (hk : op.kind = .amo k) (hm : op.mark = none) (hn : op.size = 8)
    (hx : amoNew k 8 (le8 s.mem op.key).toNat op.arg.toNat op.cmp.toNat = some w.toNat) :
    ∃ t, exec (.sliceRequest rid) s = .next t ∧ Performed c n op s (s.mem.write op.key (leBytes 8 w.toNat)) t := by
  rw [← hn]
  refine performed_of_written h hk hm ?_
  rw [hn, home_eq_le8]
  exact hx

end

section
variable {c n : Nat} {op : MemOp} {k : Cont} {s t : State} (h : Asked c n op k s t)
include h

theorem Asked.found : t.found op = s.found op := by rw [State.found, State.found, State.home, State.home, h.mem]

/-- An operation that a slot has sent to its core's own scratchpad arrives there. -/
theorem Asked.arrives (hv : (s.core c).vf.isSome = true) (hc : State.spCore op.key = c) (hb : s.bankReady op.key (s.runVf c) = true)
    (hs : op.slice = none) (hd : op.cached = false) (hp : s.poisoned op.key op.size = false) : Arrives c n s.nextReq op t where
  req := by
    rw [State.homeRequest, h.undisturbed.vk]
    exact h.req
  wait := by
    obtain ⟨o, b, hslot⟩ := h.slot
    rw [hslot]
    rfl
  runs := by rw [h.undisturbed.vf]; exact hv
  ready := by
    rw [h.undisturbed.runVf, State.bankReady, hc, h.undisturbed.spOwned]
    rwa [State.bankReady, hc] at hb
  slice := hs
  cached := hd
  clean := (h.poisoned ..).trans hp

end

end Sys2Proof.Machine
end

section
/-! The reply of a parked slot whose C-word goes on with a task (R33, R45-R47, R62): it waits on for something else, or its bundle ends. -/

namespace Sys2Proof.Machine

open Sys2Proof.Claims

/-! ### The reply in the place of the running VF (R240) -/

/-- A slot of the running VF that waits has its reply there. -/
theorem parkedVk_of_waits {s : State} {c n : Nat} (hp : (s.slot c n).isParked = true) (hw : (s.slot c n).cWait.isSome = true) :
    s.parkedVk c n false = s.vk c := by
  have h : ((s.slotV c (s.vk c) n).isParked && (s.slotV c (s.vk c) n).cWait.isSome) = true := by
    rw [Bool.and_eq_true]
    exact ⟨hp, hw⟩
  simp only [State.parkedVk, Bool.false_eq_true, if_false, h, if_true]

/-- A core that runs its VF keeps it. -/
theorem Bookkept.updCore_same (s : State) (c : Nat) {f : Core → Core} (h : f (s.core c) = s.core c) : Bookkept s (s.updCore c f) := by
  refine updCore s c 0 (by rw [h]) ?_ fun v _ => by rw [h]; rfl
  rw [h]
  exact .refl _

/-- A core runs the VF that it ran, and is ordered to switch as it was. -/
def KeepsRun (c : Nat) (s t : State) : Prop := (t.core c).vf = (s.core c).vf ∧ (t.core c).switchTo = (s.core c).switchTo

theorem KeepsRun.trans {c : Nat} {s t u : State} (h : KeepsRun c s t) (k : KeepsRun c t u) : KeepsRun c s u :=
  ⟨k.1.trans h.1, k.2.trans h.2⟩

theorem Undisturbed.keepsRun {c : Nat} {s t : State} (h : Undisturbed c s t) : KeepsRun c s t :=
  ⟨h.vf, (congrArg Core.switchTo h.core :)⟩

/-- A slot of the running VF has its reply. -/
theorem exec_parkReply_of_waits {s : State} {c n : Nat} (hp : (s.slot c n).isParked = true) (hw : (s.slot c n).cWait.isSome = true)
    (hu : KeepsRun c s (s.replyC c n true)) : ∃ t, exec (.parkReply c n false) s = .next t ∧ Bookkept (s.replyC c n true) t := by
  refine ⟨_, ?_, .updCore_same (f := fun k => { k with vf := (s.core c).vf, switchTo := (s.core c).switchTo }) _ c ?_⟩
  · change execParkReply c n false s = _
    simp only [execParkReply, State.reply, parkedVk_of_waits hp hw, State.asVf, if_true, hp, Bool.not_true, Bool.false_eq_true,
      if_false, decide_true]
  · obtain ⟨hvf, hswitch⟩ := hu
    rw [← hvf, ← hswitch]

/-! ### The continuations of tasks -/

/-- What a C-word does next is a step of its task (R45-R47). -/
def Cont.isTask : Cont → Bool
  | .halt _ => false
  | .vrels => false
  | .reneg _ _ => false
  | _ => true

/-- What a step of a task leaves (R62): a slot that is no longer in its bundle, one that waits on, or one whose bundle ends. -/
def State.taskDone (t : State) (c n : Nat) (pop : Option Nat) : State :=
  if (t.slot c n).fate ≠ .ok then (t.updSlot c n fun x => { x with fate := .ok }).moved pop
  else if (t.slot c n).cWait.isSome then t.moved pop
  else t.endC c n pop

/-- A slot whose C-word goes on. -/
def Slot.resumed (x : Slot) : Slot := { x with cWait := none, cont := none }

theorem deliver_of_task {s : State} {c n : Nat} {k : Cont} (ws : List Wr) (hc : (s.slot c n).cont = some k) (hk : k.isTask = true) :
    s.deliver c n ws = ((s.updSlot c n Slot.resumed).runTask c n (replyValue ws) k).taskDone c n (s.slot c n).pop := by
  cases k with
  | halt _ => nomatch hk
  | vrels => nomatch hk
  | reneg _ _ => nomatch hk
  | _ =>
    simp only [State.deliver, hc]
    rfl

/-- The C-word waits on. -/
theorem bookkept_taskDone {t : State} {c n : Nat} (pop : Option Nat) (hf : (t.slot c n).fate = .ok)
    (hw : (t.slot c n).cWait.isSome = true) : Bookkept t (t.taskDone c n pop) := by
  rw [State.taskDone, hf, if_neg (fun h => h rfl), if_pos hw]
  exact .moved t pop

/-- A slot after its bundle (R31): it goes on at its next address with its task as it is. -/
structure Slot.Ended (x y : Slot) : Prop where
  mode : y.mode = if x.mode = .parked then .ready else x.mode
  pc : y.pc = x.nextPc
  nextPc : y.nextPc = x.nextPc
  g : y.g = x.g
  gtid : y.gtid = x.gtid
  pop : y.pop = x.pop

theorem Slot.ended_stepSlot (x : Slot) : Ended x (State.stepSlot x) := by
  unfold State.stepSlot
  dsimp only
  split
  next h => exact ⟨by rw [h]; rfl, rfl, rfl, rfl, rfl, rfl⟩
  next h => exact ⟨by rw [h]; rfl, rfl, rfl, rfl, rfl, rfl⟩
  next hp hh => exact ⟨(if_neg hp).symm, rfl, rfl, rfl, rfl, rfl⟩

/-- The bundle of a slot has ended. -/
structure EndedBundle (c n : Nat) (s t : State) : Prop where
  undisturbed : Undisturbed c s t
  mem : t.mem = s.mem
  slot : Slot.Ended (s.slot c n) (t.slot c n)

/-- The C-word is complete, and no other word waits. -/
theorem endedBundle_taskDone {t : State} {c n : Nat} (pop : Option Nat) (hf : (t.slot c n).fate = .ok) (hw : (t.slot c n).cWait = none)
    (ha : (t.slot c n).aWait = none) : EndedBundle c n t (t.taskDone c n pop) := by
  rw [State.taskDone, hf, if_neg (fun h => h rfl), hw, if_neg (by simp), State.endC]
  set u := (t.updSlot c n Slot.resumed).unhold c n with hu
  have hslot : u.slot c n = { (t.slot c n).resumed with claim := (u.slot c n).claim } := by
    rw [hu, State.unhold, State.slot_updSlot, State.slot_updSlot]
  have hstep : OnlySlot c n t (u.updSlot c n State.stepSlot) :=
    ((onlySlot_updSlot t c n _).trans (onlySlot_updSlot _ c n _)).trans (onlySlot_updSlot _ c n _)
  have hdone := Bookkept.bundleDone u c n pop
  have hwaits : (u.slot c n).aWait.isSome = false := by
    rw [hslot, Option.isSome_eq_false_iff, Option.isNone_iff_eq_none]
    exact ha
  change EndedBundle c n t (if (u.slot c n).aWait.isSome then _ else _)
  rw [hwaits, if_neg Bool.false_ne_true]
  refine ⟨((Undisturbed.of_onlySlot hstep).trans (.of_bookkept hdone)).trans (.updSlot _ c n _), hdone.mem, ?_⟩
  have hended : Slot.Ended (t.slot c n) ((u.bundleDone c n pop).slot c n) := by
    obtain ⟨b, hb⟩ := hdone.slot c n
    have h := Slot.ended_stepSlot (u.slot c n)
    rw [State.slot_updSlot] at hb
    rw [hb]
    rw [hslot] at h ⊢
    exact ⟨h.mode, h.pc, h.nextPc, h.g, h.gtid, h.pop⟩
  rw [State.slot_updSlot]
  exact ⟨hended.mode, hended.pc, hended.nextPc, hended.g, hended.gtid, hended.pop⟩

theorem EndedBundle.trans_bookkept {c n : Nat} {s t u : State} (h : EndedBundle c n s t) (k : Bookkept t u) : EndedBundle c n s u := by
  obtain ⟨b, hb⟩ := k.slot c n
  refine ⟨h.undisturbed.trans (.of_bookkept k), k.mem.trans h.mem, ?_⟩
  rw [hb]
  exact ⟨h.slot.mode, h.slot.pc, h.slot.nextPc, h.slot.g, h.slot.gtid, h.slot.pop⟩

/-! ### The reply that a task waits for -/

/-- What a slot owes to the counters with its reply has been counted (R251). -/
structure OwedCounted (c n : Nat) (s t : State) : Prop where
  undisturbed : Undisturbed c s t
  mem : t.mem = s.mem
  nextReq : t.nextReq = s.nextReq
  poisoned : ∀ key m, t.poisoned key m = s.poisoned key m
  marksAt : ∀ key, t.marksAt key = s.marksAt key
  slot : (s.slot c n).Tallied (t.slot c n)

theorem OwedCounted.refl (c n : Nat) (s : State) : OwedCounted c n s s := ⟨.refl c s, rfl, rfl, fun _ _ => rfl, fun _ => rfl, .refl _⟩

theorem owedCounted_countOwed (s : State) (c n : Nat) : OwedCounted c n s (s.countOwed c n) := by
  unfold State.countOwed
  split
  next tag h =>
    have hcount := Bookkept.countTag (s.updSlot c n fun x => { x with owed := none }) c (s.vk c - 1) n tag
    obtain ⟨b, hb⟩ := hcount.slot c n
    rw [State.slot_updSlot] at hb
    exact ⟨(Undisturbed.updSlot s c n _).trans (.of_bookkept hcount), hcount.mem, hcount.nextReq, hcount.poisoned,
      hcount.marksAt, _, b, hb⟩
  next => exact .refl c n s

/-- The reply of a slot whose task goes on: it waits on, or its bundle ends (R62). -/
theorem exec_parkReply_of_deliver {s t z : State} {c n : Nat} {ws : List Wr} {k : Cont} (hp : (s.slot c n).mode = .parked)
    (hw : (s.slot c n).cWait.isSome = true) (hc : (s.slot c n).cont = some k) (hk : k.isTask = true)
    (hr : s.replyC c n true = t.deliver c n ws) (ho : OwedCounted c n s t)
    (hz : (t.updSlot c n Slot.resumed).runTask c n (replyValue ws) k = z) (hrun : KeepsRun c s z) (hf : (z.slot c n).fate = .ok) :
    ((z.slot c n).cWait.isSome = true → ∃ v, exec (.parkReply c n false) s = .next v ∧ Bookkept z v) ∧
    ((z.slot c n).cWait = none → (z.slot c n).aWait = none →
      ∃ v, exec (.parkReply c n false) s = .next v ∧ EndedBundle c n z v) := by
  have hcont : (t.slot c n).cont = some k := by
    obtain ⟨o, b, h⟩ := ho.slot
    rw [h]
    exact hc
  have hparked : (s.slot c n).isParked = true := by simp [Slot.isParked, hp]
  have hreply : s.replyC c n true = z.taskDone c n (t.slot c n).pop := by rw [hr, deliver_of_task ws hcont hk, hz]
  refine ⟨fun hwait => ?_, fun hwait ha => ?_⟩
  · have hdone := bookkept_taskDone (t.slot c n).pop hf hwait
    obtain ⟨v, hv, hkept⟩ := exec_parkReply_of_waits hparked hw
      (hreply ▸ hrun.trans (Undisturbed.of_bookkept hdone).keepsRun)
    exact ⟨v, hv, hdone.trans (hreply ▸ hkept)⟩
  · have hdone := endedBundle_taskDone (t.slot c n).pop hf hwait ha
    obtain ⟨v, hv, hkept⟩ := exec_parkReply_of_waits hparked hw (hreply ▸ hrun.trans hdone.undisturbed.keepsRun)
    exact ⟨v, hv, hdone.trans_bookkept (hreply ▸ hkept)⟩

theorem replyC_of_done {s : State} {c n : Nat} {ws : List Wr} (hw : (s.slot c n).cWait = some (.done ws)) (running : Bool) :
    s.replyC c n running = (s.countOwed c n).deliver c n ws := by simp only [State.replyC, hw]

/-- A drain of a core whose PQ is empty is over (R165). -/
theorem replyC_of_drained {s : State} {c n seq : Nat} (hw : (s.slot c n).cWait = some (.drain seq false false))
    (hq : (s.core c).pq = []) (running : Bool) : s.replyC c n running = s.deliver c n [] := by
  simp only [State.replyC, hw, forced_of_empty seq hq, if_true, Bool.false_eq_true, if_false]

/-- A parked slot goes on with its task: `y` is the state in which it takes its next step, on the value `v`. -/
structure Resuming (c n : Nat) (v : Word) (k : Cont) (s y : State) : Prop where
  undisturbed : Undisturbed c s y
  mem : y.mem = s.mem
  nextReq : y.nextReq = s.nextReq
  poisoned : ∀ key m, y.poisoned key m = s.poisoned key m
  marksAt : ∀ key, y.marksAt key = s.marksAt key
  slot : Slot.Tallied (s.slot c n).resumed (y.slot c n)
  waits : ∀ z, y.runTask c n v k = z → KeepsRun c s z → (z.slot c n).fate = .ok → (z.slot c n).cWait.isSome = true →
    ∃ t, exec (.parkReply c n false) s = .next t ∧ Bookkept z t
  ends : ∀ z, y.runTask c n v k = z → KeepsRun c s z → (z.slot c n).fate = .ok → (z.slot c n).cWait = none →
    (z.slot c n).aWait = none → ∃ t, exec (.parkReply c n false) s = .next t ∧ EndedBundle c n z t

theorem resuming_of_deliver {s t : State} {c n : Nat} {ws : List Wr} {k : Cont} (hp : (s.slot c n).mode = .parked)
    (hw : (s.slot c n).cWait.isSome = true) (hc : (s.slot c n).cont = some k) (hk : k.isTask = true)
    (hr : s.replyC c n true = t.deliver c n ws) (ho : OwedCounted c n s t) :
    Resuming c n (replyValue ws) k s (t.updSlot c n Slot.resumed) where
  undisturbed := ho.undisturbed.trans (.updSlot t c n _)
  mem := ho.mem
  nextReq := ho.nextReq
  poisoned := ho.poisoned
  marksAt := ho.marksAt
  slot := by
    obtain ⟨o, b, h⟩ := ho.slot
    exact ⟨o, b, by rw [State.slot_updSlot, h]; rfl⟩
  waits z hz hrun hf := (exec_parkReply_of_deliver hp hw hc hk hr ho hz hrun hf).1
  ends z hz hrun hf := (exec_parkReply_of_deliver hp hw hc hk hr ho hz hrun hf).2

/-- The value that a slot waited for is there. -/
theorem resuming_of_done {s : State} {c n : Nat} {ws : List Wr} {k : Cont} (hp : (s.slot c n).mode = .parked)
    (hw : (s.slot c n).cWait = some (.done ws)) (hc : (s.slot c n).cont = some k) (hk : k.isTask = true) :
    ∃ y, Resuming c n (replyValue ws) k s y :=
  ⟨_, resuming_of_deliver hp (by rw [hw]; rfl) hc hk (replyC_of_done hw true) (owedCounted_countOwed s c n)⟩

/-- The stores that a slot waited for are home. -/
theorem resuming_of_drained {s : State} {c n seq : Nat} {k : Cont} (hp : (s.slot c n).mode = .parked)
    (hw : (s.slot c n).cWait = some (.drain seq false false)) (hc : (s.slot c n).cont = some k) (hk : k.isTask = true)
    (hq : (s.core c).pq = []) : ∃ y, Resuming c n 0 k s y :=
  ⟨_, resuming_of_deliver (ws := []) hp (by rw [hw]; rfl) hc hk (replyC_of_drained hw hq true) (.refl c n s)⟩

end Sys2Proof.Machine
end

section
/-! TEND in a frame (R46, R340), and what operations on the words of frames share. -/

namespace Sys2Proof.Machine

open Sys2Proof.Claims

/-! ### Operations on frames -/

theorem Asked.me {n : Nat} {op : MemOp} {k : Cont} {s t : State} (h : Asked s.cur.core n op k s t) :
    t.me = t.slot s.cur.core s.cur.slot := by
  rw [State.me, h.undisturbed.cur]

/-- An operation that a slot has sent as it went on with its task. -/
theorem Asked.of_resuming {c n : Nat} {v : Word} {op : MemOp} {j k : Cont} {s y z : State} (h : Asked c n op k y z)
    (hy : Resuming c n v j s y) : Asked c n op k s z where
  undisturbed := hy.undisturbed.trans h.undisturbed
  mem := h.mem.trans hy.mem
  poisoned key m := (h.poisoned key m).trans (hy.poisoned key m)
  marksAt key := (h.marksAt key).trans (hy.marksAt key)
  slot := by
    obtain ⟨o, b, hslot⟩ := hy.slot
    have hz := h.slot
    rw [hslot, hy.nextReq] at hz
    exact Slot.Tallied.trans ⟨o, b, rfl⟩ hz
  req := by
    rw [← hy.nextReq, h.req, State.homeRequest, State.homeRequest, hy.undisturbed.vk]

/-- A slot that has been ready is parked for its operation. -/
theorem Asked.mode {c n : Nat} {op : MemOp} {k : Cont} {s t : State} (h : Asked c n op k s t) (hm : (s.slot c n).mode ≠ .halted) :
    (t.slot c n).mode = .parked := by
  obtain ⟨o, b, hslot⟩ := h.slot
  rw [hslot]
  exact if_neg hm

theorem covered_of_empty {k : Core} (h : k.pq = []) (key n : Nat) : k.covered key n = false := by rw [Core.covered, h]; rfl

theorem releaseMark_of_empty {s : State} {c : Nat} (h : (s.core c).pq = []) (sys : Bool) : s.releaseMark c sys = none := by
  rw [State.releaseMark, h]
  rfl

/-- An operation on a word of a frame in the own scratchpad that the executing slot has sent arrives. -/
theorem Asked.arrives_of_ownSp {n : Nat} {op : MemOp} {k : Cont} {s t : State} {va : Word} (h : Asked s.cur.core n op k s t)
    (ho : OwnSp s va 8) (hkey : op.key = ownKey s va) (hn : op.size = 8) (hs : op.slice = none) (hd : op.cached = false)
    (hp : s.poisoned (ownKey s va) 8 = false) : Arrives s.cur.core n s.nextReq op t := by
  obtain ⟨-, -, -, hc, hv, -⟩ := id ho
  refine h.arrives hv ?_ ?_ hs hd ?_
  · rw [hkey]
    exact spCore_spKey _ hc (offset_of_ownSp ho)
  · rw [hkey]
    exact bankReady_of_ownSp ho
  · rw [hkey, hn]
    exact hp

/-- The value that a slot has of a word (R163). -/
theorem replyValue_found {s : State} {op : MemOp} (hn : op.size = 8) : replyValue [s.found op] = le8 s.mem op.key := by
  have h : op.result (le8 s.mem op.key).toNat = le8 s.mem op.key := by
    rw [MemOp.result, hn]
    split <;> simp
  rw [State.found, hn, home_eq_le8, h]
  rfl

/-- The slot of an operation that has been performed has its value, and goes on with it. -/
theorem Performed.resuming {c n : Nat} {op : MemOp} {k : Cont} {m : Memory} {s t u : State} (h : Performed c n op t m u)
    (ha : Asked c n op k s t) (hm : op.acq = false ∨ s.marksAt op.key = []) (hn : op.size = 8) (hmode : (s.slot c n).mode ≠ .halted)
    (hk : k.isTask = true) : ∃ y, Resuming c n (le8 s.mem op.key) k u y ∧ Undisturbed c s y ∧ y.mem = m ∧
      Slot.Tallied { (s.slot c n).resumed with mode := .parked } (y.slot c n) := by
  obtain ⟨w, hw, hdone⟩ := h.slot
  obtain ⟨o, b, hslot⟩ := ha.slot
  rw [hdone (by rwa [ha.marksAt]), ha.found, hslot] at hw
  obtain ⟨y, hy⟩ := resuming_of_done (s := u) (c := c) (n := n) (by rw [hw]; exact if_neg hmode) (by rw [hw]) (by rw [hw]; rfl) hk
  have htallied := hy.slot
  rw [hw] at htallied
  rw [replyValue_found hn] at hy
  refine ⟨y, hy, (ha.undisturbed.trans h.undisturbed).trans hy.undisturbed, hy.mem.trans h.mem,
    Slot.Tallied.trans ⟨o, b, ?_⟩ htallied⟩
  simp only [Slot.resumed, Slot.awaiting, if_neg hmode]

/-- An operation on a frame leaves its slot waiting. -/
theorem awaiting_frameHome (s : State) (c n : Nat) (op : MemOp) (k : Cont) :
    Undisturbed c s (s.frameHome c n op k) ∧ ∃ w, (s.frameHome c n op k).slot c n = (s.slot c n).awaiting w k := by
  cases h : (s.core c).covered op.key op.size with
  | false =>
    refine ⟨(asked_frameHome n k h).undisturbed, .request s.nextReq, ?_⟩
    rw [frameHome_of_uncovered n k h, slot_newReq, State.slot_updSlot, State.slot_updSlot]
    rfl
  | true =>
    rw [State.frameHome, h, if_pos rfl, await_eq]
    exact ⟨.updSlot s c n _, _, State.slot_updSlot ..⟩

/-! ### TEND (R46) -/

/-- TEND's decrement of the JOIN word of a parent's frame. -/
def State.tendOp (s : State) (pf : Word) : MemOp :=
  { s.ownOp pf with
    kind := .amo .tend, acq := true, rel := true, mark := s.releaseMark s.cur.core false }

theorem exec_tend_of_parent {s : State} {pf : Word} (h3 : s.rg 3 ≠ 0) (h64 : (s.rg 3).toNat % 64 = 0)
    (hread : OwnSpRead s (s.rg 3 + 8) 8) (hword : le8 s.mem (ownKey s (s.rg 3 + 8)) = pf) (hpf : pf ≠ 0) (ho : OwnSp s pf 8)
    (hq : (s.core s.cur.core).pq = []) :
    exec .tend s = .next (s.frameHome s.cur.core s.cur.slot (s.tendOp pf) (.tendJoin pf (ownKey s pf))) := by
  obtain ⟨hown, -, hclean⟩ := hread
  obtain ⟨-, -, -, hc, -⟩ := id hown
  have hlook : s.loadLook s.cur.core (s.ownOp (s.rg 3 + 8)) = .value pf.toNat := by
    rw [← hword, ← home_eq_le8]
    exact loadLook_of_home hq rfl rfl (spCore_spKey _ hc (offset_of_ownSp hown)) hclean
  change execTend s = _
  rw [execTend, if_neg h3, if_neg (by simpa using h64), access_of_ownSp hown]
  simp only [frameOp_of_own, hlook, touch_ownOp, BitVec.ofNat_toNat, BitVec.setWidth_eq, State.tendParent, if_neg hpf,
    resolve_of_ownSp ho]
  rfl

theorem amoNew_tend (old : Word) (x cmp : Nat) :
    amoNew .tend 8 old.toNat x cmp = some (if old = 0x8000000000000001 then 0 else old - 1 : Word).toNat := by
  rw [amoNew]
  by_cases h : old = 0x8000000000000001
  · subst h
    rfl
  · have hne : old.toNat ≠ 0x8000000000000001 := fun he => h (BitVec.eq_of_toNat_eq he)
    rw [if_neg hne, if_neg h, BitVec.toNat_sub]
    have hlt := old.isLt
    have hone : (1 : Word).toNat = 1 := rfl
    rw [hone]
    congr 2
    omega

theorem tendDecrementsTheJoinWord : Claims.TendDecrementsTheJoinWord := by
  intro s pf hm h3 h64 hread hword hpf hown hq old
  have hasked : Asked s.cur.core s.cur.slot (s.tendOp pf) (.tendJoin pf (ownKey s pf)) s _ :=
    asked_frameHome s.cur.slot _ (covered_of_empty hq ..)
  refine ⟨_, exec_tend_of_parent h3 h64 hread hword hpf hown.1 hq, ?_, hasked.mem, ?_⟩
  · rw [hasked.me]
    exact hasked.mode (by rw [show (s.slot _ _).mode = _ from hm]; nofun)
  · obtain ⟨u, hu, hperformed⟩ := performed_of_word (hasked.arrives_of_ownSp hown.1 rfl rfl rfl rfl hown.2.2) rfl
      (releaseMark_of_empty hq false) rfl (amoNew_tend ..)
    refine ⟨u, hu, ?_⟩
    dsimp only
    rw [hperformed.mem, hasked.mem]
    exact ⟨le8_write .., fun _ => get_write_word _ _ _⟩

end Sys2Proof.Machine
end

section
/-! SYNC (R47, R336): the stores of a continuation's words to its frame, the CAS, and what follows it. -/

namespace Sys2Proof.Machine

open Sys2Proof.Claims

/-! ### Stores that enter the PQ (R144, R157) -/

theorem useLine_unviewed (k : Core) (line : Nat) : (k.useLine line).unviewed = k.unviewed := rfl

theorem storeL1_unviewed (k : Core) (key : Nat) (bs : List Byte) : (k.storeL1 key bs).unviewed = k.unviewed := by
  unfold Core.storeL1
  split
  · rfl
  · dsimp only
    split
    · exact useLine_unviewed ..
    · rfl

/-- The place and the bytes of a store. -/
def PqEntry.written (e : PqEntry) : Nat × List Byte := (e.key, e.bytes)

/-- Stores have entered a core's PQ, and nothing else is different but its view of memory. -/
structure Entered (c : Nat) (es : List PqEntry) (s t : State) : Prop where
  cur : t.cur = s.cur
  parts : t.parts = s.parts
  mem : t.mem = s.mem
  core : { (t.core c).unviewed with pq := [], seq := 0 } = { (s.core c).unviewed with pq := [], seq := 0 }
  pq : ∃ fs, (t.core c).pq = (s.core c).pq ++ fs ∧ fs.map PqEntry.written = es.map PqEntry.written

namespace Entered

variable {c : Nat} {es : List PqEntry} {s t : State}

theorem nil (c : Nat) (s : State) : Entered c [] s s := ⟨rfl, rfl, rfl, rfl, [], (List.append_nil _).symm, rfl⟩

theorem append {fs : List PqEntry} {u : State} (h : Entered c es s t) (k : Entered c fs t u) : Entered c (es ++ fs) s u := by
  refine ⟨k.cur.trans h.cur, k.parts.trans h.parts, k.mem.trans h.mem, k.core.trans h.core, ?_⟩
  obtain ⟨gs, hgs, hws⟩ := h.pq
  obtain ⟨gs', hgs', hws'⟩ := k.pq
  exact ⟨gs ++ gs', by rw [hgs', hgs, List.append_assoc], by rw [List.map_append, List.map_append, hws, hws']⟩

theorem enterPq (s : State) (c : Nat) (e : PqEntry) : Entered c [e] s (s.enterPq c e) := by
  set f : PqEntry := { e with seq := ((s.core c).seq + 1).toNat } with hf
  have hcore : ((s.enterPq c e).core c).unviewed =
      { (s.core c).unviewed with seq := (s.core c).seq + 1, pq := (s.core c).pq ++ [f] } := by
    rw [State.enterPq, State.core_updCore]
    exact storeL1_unviewed { s.core c with seq := (s.core c).seq + 1, pq := (s.core c).pq ++ [f] } e.key e.bytes
  refine ⟨rfl, rfl, rfl, by rw [hcore], [f], ?_, rfl⟩
  exact (congrArg Core.pq hcore :)

/-- Stores enter one after the other. -/
theorem foldl (es : List PqEntry) (s : State) : Entered c es s (es.foldl (fun t e => t.enterPq c e) s) := by
  induction es generalizing s with
  | nil => exact nil c s
  | cons e r ih => exact (enterPq s c e).append (ih _)

section
variable (h : Entered c es s t)
include h

theorem vfs : (t.core c).vfs = (s.core c).vfs := (congrArg Core.vfs h.core :)
theorem keepsRun : KeepsRun c s t := ⟨(congrArg Core.vf h.core :), (congrArg Core.switchTo h.core :)⟩
theorem cvf : t.cvf c = s.cvf c := by
  rw [State.cvf, Core.cvf, h.vfs, Core.vkey, h.keepsRun.1]
  rfl
theorem slot (n : Nat) : t.slot c n = s.slot c n := (congrArg (fun x : CoreVf => FMap.getD x.slots n {}) h.cvf :)
theorem untraced (hu : Untraced s) : Untraced t := by
  intro pid p hp
  rw [State.part, h.parts] at hp
  exact hu pid p hp

end

end Entered

/-- Stores to places that are not another core's enter the PQ at once where there is room for all (R157). -/
theorem storeAll_of_room {s : State} {c : Nat} {es : List PqEntry} (n : Nat) (k : Cont) (go : State → State) (hne : es ≠ [])
    (hroom : (s.core c).pq.length + es.length ≤ 32) (hown : ∀ e ∈ es, State.remoteKey c e.key = false) :
    s.storeAll c n es k go = go (es.foldl (fun t e => t.enterPq c e) s) := by
  have hsent : (es.zipIdx.filter fun e => State.remoteKey c e.1.key) = [] := by
    rw [List.filter_eq_nil_iff]
    rintro ⟨e, i⟩ he
    simp [hown e (List.fst_mem_of_mem_zipIdx he)]
  have hemp : es.isEmpty = false := by simpa using hne
  rw [State.storeAll, hemp, if_neg Bool.false_ne_true, if_neg (by simpa [Config.pqSize] using hroom)]
  simp only [hsent, List.map_nil, List.isEmpty_nil, if_true]

end Sys2Proof.Machine
end

section
/-! SYNC (R47, R336): it reads the JOIN word, stores its continuation to the frame, and sets SUSP with a CAS. -/

namespace Sys2Proof.Machine

open Sys2Proof.Claims

/-! ### The read of the JOIN word -/

/-- SYNC's read of the JOIN word of its frame. -/
def State.syncOp (s : State) : MemOp := { s.ownOp (s.rg 3) with kind := .home, acq := true }

/-- The words of SYNC's continuation, from the third of the frame on (R39). -/
def State.syncWords (s : State) : List PqEntry :=
  ([s.successor, s.rg 4, s.rg 5, s.src.slot.fmtd, s.src.slot.scale, s.src.slot.gtid.zeroExtend 64].zipIdx).map fun e =>
    s.frameEntry s.cur.core s.cur.slot s.syncOp e.1 (e.2 + 2)

theorem exec_sync_of_frameless {s : State} (h3 : s.rg 3 = 0) : exec .sync s = .next s := by
  change execSync s = _
  rw [execSync, if_pos h3]

theorem exec_sync_of_frame {s : State} (h3 : s.rg 3 ≠ 0) (h64 : (s.rg 3).toNat % 64 = 0) (ho : OwnSp s (s.rg 3) 8) :
    exec .sync s = .next (s.frameHome s.cur.core s.cur.slot s.syncOp (.syncRead s.syncOp s.syncWords)) := by
  change execSync s = _
  rw [execSync, if_neg h3, if_neg (by simpa using h64), access_of_ownSp ho]
  rfl

theorem syncWords_written (s : State) : s.syncWords.map PqEntry.written =
    ([s.me.pc + (if s.cur.pair then 8 else 4), s.rg 4, s.rg 5, s.src.slot.fmtd, s.src.slot.scale,
      s.src.slot.gtid.zeroExtend 64].zipIdx).map fun e => (ownKey s (s.rg 3) + 16 + 8 * e.2, leBytes 8 e.1.toNat) := by
  rw [State.syncWords, List.map_map]
  refine List.map_congr_left fun e _ => ?_
  have hkey : ownKey s (s.rg 3) + 8 * (e.2 + 2) = ownKey s (s.rg 3) + 16 + 8 * e.2 := by omega
  exact Prod.ext hkey rfl

theorem length_syncWords (s : State) : s.syncWords.length = 6 := by rw [State.syncWords, List.length_map, List.length_zipIdx]; rfl

/-- The words of a frame in the own scratchpad are not in another core's. -/
theorem remoteKey_syncWords {s : State} (h64 : (s.rg 3).toNat % 64 = 0) (ho : OwnSp s (s.rg 3) 8) :
    ∀ e ∈ s.syncWords, State.remoteKey s.cur.core e.key = false := by
  obtain ⟨hlo, hhi, -, hc, -⟩ := ho
  intro e he
  obtain ⟨⟨w, i⟩, hi, rfl⟩ := List.mem_map.1 he
  have hi6 : i < 6 := by
    have h := List.snd_lt_of_mem_zipIdx hi
    simpa using h
  have hkey : ownKey s (s.rg 3) + 8 * (i + 2) = spKey (s.vk s.cur.core) s.cur.core ((s.rg 3).toNat - 0x01E000000000 + 8 * (i + 2)) := by
    rw [ownKey, spKey, spKey]
    omega
  change State.remoteKey s.cur.core (ownKey s (s.rg 3) + 8 * (i + 2)) = false
  rw [hkey]
  exact remoteKey_spKey _ hc (by omega)

/-! ### The steps of SYNC -/

theorem runTask_syncRead_of_zero (s : State) (c n : Nat) (op : MemOp) (es : List PqEntry) :
    s.runTask c n 0 (.syncRead op es) = s.updSlot c n Slot.resumed := rfl

/-- Children are left: the words of the continuation enter the PQ. -/
theorem runTask_syncRead_of_children {s : State} {c n : Nat} {v : Word} {op : MemOp} {es : List PqEntry} (h1 : 1 ≤ v.toNat)
    (h63 : v.toNat < 2 ^ 63) (hne : es ≠ []) (hroom : (s.core c).pq.length + es.length ≤ 32)
    (hown : ∀ e ∈ es, State.remoteKey c e.key = false) :
    s.runTask c n v (.syncRead op es) = (es.foldl (fun t e => t.enterPq c e) s).syncCas c n op v es := by
  have hcount : v &&& 0x7FFFFFFFFFFFFFFF ≠ 0 := by
    intro h
    have h := congrArg BitVec.toNat h
    rw [BitVec.toNat_and] at h
    have hmask : v.toNat &&& (2 ^ 63 - 1) = 0 := h
    rw [Nat.and_two_pow_sub_one_eq_mod, Nat.mod_eq_of_lt h63] at hmask
    omega
  have hsusp : v.getLsbD 63 = false := Nat.testBit_lt_two_pow h63
  rw [State.runTask, if_neg hcount, hsusp, if_neg Bool.false_ne_true, storeAll_of_room n _ _ hne hroom hown]

/-- SYNC's CAS leaves its slot waiting, for its stores or for the answer. -/
theorem awaiting_syncCas (s : State) (c n : Nat) (op : MemOp) (v : Word) (es : List PqEntry) :
    Undisturbed c s (s.syncCas c n op v es) ∧ ∃ w k, (s.syncCas c n op v es).slot c n = (s.slot c n).awaiting w k := by
  rw [State.syncCas]
  split
  · exact ⟨.updSlot s c n _, _, _, State.slot_updSlot ..⟩
  · obtain ⟨hu, w, hw⟩ := awaiting_frameHome s c n { op with
      kind := .amo .cas, cmp := v, arg := v ||| 0x8000000000000000, acq := false, rel := true, mark := s.releaseMark c false }
      (.syncCas op v es)
    exact ⟨hu, w, _, hw⟩

section
variable {c n : Nat} {op : MemOp} {es : List PqEntry} {u y : State} {x : Slot} {w : Word}
  (hy : Resuming c n w (.syncRead op es) u y) (hs : Slot.Tallied { x.resumed with mode := .parked } (y.slot c n)) (hf : x.fate = .ok)
include hy hs hf

/-- No child is left: the task goes on. -/
theorem reply_syncRead_of_zero (hw : w = 0) (ha : x.aWait = none) : ∃ v, exec (.parkReply c n false) u = .next v ∧
    Undisturbed c y v ∧ (v.slot c n).mode = .ready ∧ (v.slot c n).g = x.g ∧ v.mem = y.mem := by
  subst hw
  obtain ⟨o, b, hslot⟩ := hs
  have hz : Undisturbed c y (y.updSlot c n Slot.resumed) := .updSlot y c n _
  have hzslot : (y.updSlot c n Slot.resumed).slot c n = _ := (State.slot_updSlot ..).trans (congrArg Slot.resumed hslot)
  obtain ⟨v, hv, hend⟩ := hy.ends _ (runTask_syncRead_of_zero ..) (hy.undisturbed.trans hz).keepsRun (by rw [hzslot]; exact hf)
    (by rw [hzslot]; rfl) (by rw [hzslot]; exact ha)
  have hended := hend.slot
  rw [hzslot] at hended
  exact ⟨v, hv, hz.trans hend.undisturbed, hended.mode, hended.g, hend.mem⟩

/-- Children are left: the words of the continuation have entered the PQ. -/
theorem reply_syncRead_of_children (h1 : 1 ≤ w.toNat) (h63 : w.toNat < 2 ^ 63) (hne : es ≠ [])
    (hroom : (y.core c).pq.length + es.length ≤ 32) (hown : ∀ e ∈ es, State.remoteKey c e.key = false) :
    ∃ v, exec (.parkReply c n false) u = .next v ∧
      ∃ fs, (v.core c).pq = (y.core c).pq ++ fs ∧ fs.map PqEntry.written = es.map PqEntry.written := by
  obtain ⟨o, b, hslot⟩ := hs
  have hentered : Entered c es y _ := .foldl es y
  obtain ⟨hz, a, k, hzslot⟩ := awaiting_syncCas (es.foldl (fun t e => t.enterPq c e) y) c n op w es
  rw [hentered.slot, hslot] at hzslot
  obtain ⟨v, hv, hkept⟩ := hy.waits _ (runTask_syncRead_of_children h1 h63 hne hroom hown)
    ((hy.undisturbed.keepsRun.trans hentered.keepsRun).trans hz.keepsRun) (by rw [hzslot]; exact hf) (by rw [hzslot]; rfl)
  obtain ⟨fs, hfs, hwritten⟩ := hentered.pq
  exact ⟨v, hv, fs, by rw [hkept.pq, hz.pq, hfs], hwritten⟩

end

theorem syncReadsTheJoinWord (s : State) : (s.rg 3 = 0 → Answers .sync s fun t => t = s) ∧
    (s.me.mode = .ready → s.me.fate = .ok → s.rg 3 ≠ 0 → (s.rg 3).toNat % 64 = 0 → OwnSpRead s (s.rg 3) 8 → s.me.aWait = none →
      s.marksAt (ownKey s (s.rg 3)) = [] → (s.core s.cur.core).pq = [] →
      Answers .sync s fun t => t.me.mode = .parked ∧ Answers (.sliceRequest s.nextReq) t fun u =>
        u.mem = s.mem ∧ OwnedView (u.core s.cur.core) ∧
        (le8 s.mem (ownKey s (s.rg 3)) = 0 → Answers (.parkReply s.cur.core s.cur.slot false) u fun v =>
          v.me.mode = .ready ∧ v.me.g = s.me.g ∧ v.mem = s.mem) ∧
        (1 ≤ (le8 s.mem (ownKey s (s.rg 3))).toNat → (le8 s.mem (ownKey s (s.rg 3))).toNat < 2 ^ 63 →
          Answers (.parkReply s.cur.core s.cur.slot false) u fun v =>
            (v.core s.cur.core).pq.map (fun e => (e.key, e.bytes)) =
              ([s.me.pc + (if s.cur.pair then 8 else 4), s.rg 4, s.rg 5, s.src.slot.fmtd, s.src.slot.scale,
                s.src.slot.gtid.zeroExtend 64].zipIdx).map fun e =>
                  (ownKey s (s.rg 3) + 16 + 8 * e.2, leBytes 8 e.1.toNat))) := by
  refine ⟨fun h3 => ⟨s, exec_sync_of_frameless h3, rfl⟩, fun hm hf h3 h64 hread ha hmarks hq => ?_⟩
  obtain ⟨hown, hcov, hclean⟩ := hread
  set c := s.cur.core
  set n := s.cur.slot
  have hmode : (s.slot c n).mode ≠ .halted := by rw [show (s.slot c n).mode = .ready from hm]; nofun
  have hasked : Asked c n s.syncOp (.syncRead s.syncOp s.syncWords) s _ := asked_frameHome n _ hcov
  refine ⟨_, exec_sync_of_frame h3 h64 hown, by rw [hasked.me]; exact hasked.mode hmode, ?_⟩
  obtain ⟨u, hu, hread⟩ := performed_of_read (hasked.arrives_of_ownSp hown rfl rfl rfl rfl hclean) rfl
  obtain ⟨y, hy, hyund, hymem, hyslot⟩ := hread.resuming hasked (.inr hmarks) rfl hmode rfl
  rw [hasked.mem] at hymem
  refine ⟨u, hu, hread.mem.trans hasked.mem, hread.view rfl ((hasked.marksAt _).trans hmarks), fun h0 => ?_, fun h1 h63 => ?_⟩
  · obtain ⟨v, hv, hund, hready, hg, hmem⟩ := reply_syncRead_of_zero hy hyslot hf h0 ha
    have hme : v.me = v.slot c n := by rw [State.me, (hyund.trans hund).cur]
    exact ⟨v, hv, by rw [hme, hready], by rw [hme, hg]; rfl, hmem.trans hymem⟩
  · have hyq : (y.core c).pq = [] := hyund.pq.trans hq
    obtain ⟨v, hv, fs, hfs, hwritten⟩ := reply_syncRead_of_children hy hyslot hf h1 h63
      (List.ne_nil_of_length_pos (by rw [length_syncWords]; decide)) (by rw [hyq, length_syncWords]; decide) (remoteKey_syncWords h64 hown)
    refine ⟨v, hv, ?_⟩
    dsimp only
    rw [hfs, hyq, List.nil_append]
    exact hwritten.trans (syncWords_written s)

end Sys2Proof.Machine
end

section
/-! SYNC's CAS (R47): it sets SUSP where the JOIN word still is what SYNC has read, and the slot takes the next task; else SYNC reads
again. -/

namespace Sys2Proof.Machine

open Sys2Proof.Claims

/-! ### CAS on a word (R294) -/

theorem amoNew_cas (old cmp x : Word) : amoNew .cas 8 old.toNat x.toNat cmp.toNat = if old = cmp then some x.toNat else none := by
  have hx : x.toNat % 2 ^ (8 * 8) = x.toNat := Nat.mod_eq_of_lt x.isLt
  have hc : cmp.toNat % 2 ^ (8 * 8) = cmp.toNat := Nat.mod_eq_of_lt cmp.isLt
  simp only [amoNew, hx, hc, BitVec.toNat_inj]

/-- SYNC's CAS of the JOIN word, from the value that SYNC has read. -/
def State.casOp (s : State) (c : Nat) (op : MemOp) (w : Word) : MemOp :=
  { op with kind := .amo .cas, cmp := w, arg := w ||| 0x8000000000000000, acq := false, rel := true, mark := s.releaseMark c false }

/-- With every store home SYNC's CAS goes to the JOIN word. -/
theorem syncCas_of_empty {s : State} {c : Nat} (n : Nat) (op : MemOp) (w : Word) (es : List PqEntry) (hq : (s.core c).pq = []) :
    s.syncCas c n op w es = s.frameHome c n (s.casOp c op w) (.syncCas op w es) := by
  have h : (es.any fun e => (s.core c).covered e.key 8) = false := by
    rw [List.any_eq_false]
    intro e _
    rw [covered_of_empty hq]
    exact Bool.false_ne_true
  rw [State.syncCas, h, if_neg Bool.false_ne_true]
  rfl

/-- The stores of SYNC's continuation are home: its CAS goes to the JOIN word. -/
theorem asked_casOp {s : State} {c n seq : Nat} {w : Word} {op : MemOp} {es : List PqEntry} (hm : (s.slot c n).mode = .parked)
    (hf : (s.slot c n).fate = .ok) (hw : (s.slot c n).cWait = some (.drain seq false false))
    (hcont : (s.slot c n).cont = some (.syncStore op w es)) (hq : (s.core c).pq = []) :
    ∃ t, exec (.parkReply c n false) s = .next t ∧ Asked c n (s.casOp c op w) (.syncCas op w es) s t := by
  obtain ⟨y, hy⟩ := resuming_of_drained hm hw hcont rfl hq
  have hyq : (y.core c).pq = [] := hy.undisturbed.pq.trans hq
  have hop : y.casOp c op w = s.casOp c op w := by
    rw [State.casOp, State.casOp, releaseMark_of_empty hq, releaseMark_of_empty hyq]
  have hz : y.runTask c n 0 (.syncStore op w es) = y.frameHome c n (s.casOp c op w) (.syncCas op w es) := by
    rw [← hop]
    exact syncCas_of_empty n op w es hyq
  have hasked : Asked c n (s.casOp c op w) (.syncCas op w es) y _ := asked_frameHome n _ (covered_of_empty hyq ..)
  have hsent := hasked.of_resuming hy
  obtain ⟨o, b, hslot⟩ := hsent.slot
  obtain ⟨t, ht, hkept⟩ := hy.waits _ hz hsent.undisturbed.keepsRun (by rw [hslot]; exact hf) (by rw [hslot]; rfl)
  exact ⟨t, ht, hsent.of_bookkept hkept⟩

/-- What SYNC's CAS writes at home. -/
theorem performed_casOp {c n rid : Nat} {op : MemOp} {w : Word} {s t : State} (h : Arrives c n rid (s.casOp c op w) t)
    (hn : op.size = 8) (hq : (s.core c).pq = []) : ∃ u, exec (.sliceRequest rid) t = .next u ∧
      Performed c n (s.casOp c op w) t (if le8 t.mem op.key = w
        then t.mem.write op.key (leBytes 8 (w ||| 0x8000000000000000).toNat) else t.mem) u := by
  have hnew := amoNew_cas (le8 t.mem op.key) w (w ||| 0x8000000000000000)
  split
  next he =>
    rw [if_pos he] at hnew
    exact performed_of_word h rfl (releaseMark_of_empty hq false) hn hnew
  next he =>
    rw [if_neg he] at hnew
    refine performed_of_unwritten h rfl ?_
    change amoNew .cas op.size (t.home op.key op.size) (w ||| 0x8000000000000000).toNat w.toNat = none
    rw [hn, home_eq_le8]
    exact hnew

/-- The bytes of a word that is written where a condition holds. -/
theorem read_of_written {m m' : Memory} {key : Nat} {v : Word} {p : Prop} [Decidable p]
    (h : m' = if p then m.write key (leBytes 8 v.toNat) else m) :
    m'.read key 8 = (if p then leBytes 8 v.toNat else m.read key 8) ∧ ∀ z, z < key ∨ key + 8 ≤ z → m'.get z = m.get z := by
  subst h
  split
  · exact ⟨by rw [read_eq_leBytes, le8_write], fun _ => get_write_word m key v⟩
  · exact ⟨rfl, fun _ _ => rfl⟩

/-! ### After the CAS -/

/-- The CAS has set SUSP: the task has ended, and without a record its slot searches for work (R46). -/
theorem runTask_syncCas_of_same {s : State} {c n : Nat} {w : Word} {op : MemOp} {es : List PqEntry} (hu : Untraced s)
    (ha : (s.slot c n).aWait = none) (hc : (s.slot c n).claim = none) (hp : (s.slot c n).pop ≠ none)
    (h : (s.cvf c).holdsFor (s.slot c n).pop = false) : Undisturbed c s (s.runTask c n w (.syncCas op w es)) ∧
      (s.runTask c n w (.syncCas op w es)).slot c n = { (s.slot c n).searching (s.core c).cyc.toNat with claim := none } := by
  set t := s.updSlot c n Slot.resumed with ht
  have hslot : t.slot c n = (s.slot c n).resumed := State.slot_updSlot ..
  have hcyc : (t.core c).cyc = (s.core c).cyc := by rw [ht, State.updSlot, State.core_setSlot]; rfl
  have hrun : s.runTask c n w (.syncCas op w es) = (t.dropClaim c n).updSlot c n fun x => x.searching (t.core c).cyc.toNat := by
    have hend : s.runTask c n w (.syncCas op w es) = t.endTask c n false := by rw [State.runTask, if_pos rfl]; rfl
    have hut : Untraced t := hu
    rw [hend, endTask_tend hut (by rw [hslot]; exact ha), popOrSteal_of_noRecord (by rw [hslot]; exact hc) (by rw [hslot]; exact hp)]
    rw [hslot, (Undisturbed.updSlot s c n Slot.resumed).holdsFor]
    exact h
  rw [hrun, hcyc]
  refine ⟨((Undisturbed.updSlot s c n _).trans (.updSlot _ c n _)).trans (.updSlot _ c n _), ?_⟩
  rw [State.slot_updSlot, State.dropClaim, State.slot_updSlot, hslot]
  rfl

theorem runTask_syncCas_of_changed {s : State} {c n : Nat} {v w : Word} {op : MemOp} {es : List PqEntry} (h : v ≠ w) :
    s.runTask c n v (.syncCas op w es) = s.frameHome c n { op with kind := .home, acq := true } (.syncRead op es) := by
  rw [State.runTask, if_neg h]

section
variable {c n : Nat} {op : MemOp} {es : List PqEntry} {u y : State} {x : Slot} {v w : Word}
  (hy : Resuming c n v (.syncCas op w es) u y) (hs : Slot.Tallied { x.resumed with mode := .parked } (y.slot c n)) (hf : x.fate = .ok)
include hy hs hf

/-- SUSP is set: without a record of its population the slot searches for work (R46, R47). -/
theorem reply_syncCas_of_same (he : v = w) (hu : Untraced y) (ha : x.aWait = none) (hc : x.claim = none) (hp : x.pop ≠ none)
    (h : (y.cvf c).holdsFor x.pop = false) : Answers (.parkReply c n false) u fun t =>
      (t.slot c n).mode = .idleSteal ∧ (t.slot c n).pop = x.pop := by
  subst he
  obtain ⟨o, b, hslot⟩ := hs
  obtain ⟨hend, hendslot⟩ := runTask_syncCas_of_same (s := y) (c := c) (n := n) (w := v) (op := op) (es := es) hu
    (by rw [hslot]; exact ha) (by rw [hslot]; exact hc) (by rw [hslot]; exact hp) (by rw [hslot]; exact h)
  rw [hslot] at hendslot
  obtain ⟨t, ht, hended⟩ := hy.ends _ rfl (hy.undisturbed.trans hend).keepsRun (by rw [hendslot]; exact hf) (by rw [hendslot]; rfl)
    (by rw [hendslot]; exact ha)
  have htslot := hended.slot
  rw [hendslot] at htslot
  exact ⟨t, ht, htslot.mode, htslot.pop⟩

/-- The word has changed: SYNC reads it again (R47). -/
theorem reply_syncCas_of_changed (he : v ≠ w) (hq : (y.core c).pq = []) : Answers (.parkReply c n false) u fun t =>
    (t.slot c n).mode = .parked ∧
      ∃ q, FMap.find? t.reqs u.nextReq = some q ∧ q.key = op.key ∧ q.kind = .mem { op with kind := .home, acq := true } := by
  obtain ⟨o, b, hslot⟩ := hs
  have hread : Asked c n { op with kind := .home, acq := true } (.syncRead op es) y _ :=
    asked_frameHome n _ (covered_of_empty hq ..)
  obtain ⟨o', b', hreadslot⟩ := hread.slot
  rw [hslot] at hreadslot
  obtain ⟨t, ht, hkept⟩ := hy.waits _ (runTask_syncCas_of_changed he) (hy.undisturbed.trans hread.undisturbed).keepsRun
    (by rw [hreadslot]; exact hf) (by rw [hreadslot]; rfl)
  have hasked := hread.of_bookkept hkept
  have hreq := hasked.req
  rw [hy.nextReq] at hreq
  exact ⟨t, ht, hasked.mode (by rw [hslot]; nofun), _, hreq, rfl, rfl⟩

end

theorem syncSetsSusp (s : State) (c n seq off : Nat) (w : Word) (op : MemOp) (es : List PqEntry) (hm : (s.slot c n).mode = .parked)
    (hf : (s.slot c n).fate = .ok) (ha : (s.slot c n).aWait = none) (hclaim : (s.slot c n).claim = none)
    (hw : (s.slot c n).cWait = some (.drain seq false false)) (hcont : (s.slot c n).cont = some (.syncStore op w es))
    (hv : (s.core c).vf.isSome = true) (hc : c < 4096) (hoff : off < 2 ^ 18) (hkey : op.key = spKey (s.vk c) c off)
    (hn : op.size = 8) (hs : op.slice = none) (hd : op.cached = false) (hown : s.spOwned c (s.runVf c) off = true)
    (hclean : s.poisoned op.key 8 = false) (hq : (s.core c).pq = []) (hu : Untraced s) :
    Answers (.parkReply c n false) s fun t => (t.slot c n).mode = .parked ∧ t.mem = s.mem ∧
      Answers (.sliceRequest s.nextReq) t fun u =>
        u.mem.read op.key 8 = (if le8 s.mem op.key = w then leBytes 8 (w ||| 0x8000000000000000).toNat else s.mem.read op.key 8) ∧
        (∀ z, z < op.key ∨ op.key + 8 ≤ z → u.mem.get z = s.mem.get z) ∧
        (le8 s.mem op.key = w → (s.cvf c).holdsFor (s.slot c n).pop = false → (s.slot c n).pop ≠ none →
          Answers (.parkReply c n false) u fun v => (v.slot c n).mode = .idleSteal ∧ (v.slot c n).pop = (s.slot c n).pop) ∧
        (le8 s.mem op.key ≠ w → Answers (.parkReply c n false) u fun v => (v.slot c n).mode = .parked ∧
          ∃ q, FMap.find? v.reqs u.nextReq = some q ∧ q.key = op.key ∧ q.kind = .mem { op with kind := .home, acq := true }) := by
  obtain ⟨t, ht, hasked⟩ := asked_casOp hm hf hw hcont hq
  have hmode : (s.slot c n).mode ≠ .halted := by rw [hm]; nofun
  refine ⟨t, ht, hasked.mode hmode, hasked.mem, ?_⟩
  have harrives : Arrives c n s.nextReq (s.casOp c op w) t := by
    refine hasked.arrives hv ?_ ?_ hs hd ?_
    · change State.spCore op.key = c
      rw [hkey]
      exact spCore_spKey _ hc hoff
    · change s.bankReady op.key _ = true
      rw [hkey]
      exact bankReady_spKey _ hc hoff hown
    · change s.poisoned op.key op.size = false
      rw [hn]
      exact hclean
  obtain ⟨u, hexec, hperformed⟩ := performed_casOp harrives hn hq
  have hmem := hperformed.mem
  rw [hasked.mem] at hmem
  obtain ⟨hread, hothers⟩ := read_of_written hmem
  obtain ⟨y, hy, hyund, -, hyslot⟩ := hperformed.resuming hasked (.inl rfl) hn hmode rfl
  exact ⟨u, hexec, hread, hothers,
    fun he hrec hpop => reply_syncCas_of_same hy hyslot hf he (hyund.untraced hu) ha hclaim hpop ((hyund.holdsFor _).trans hrec),
    fun he => reply_syncCas_of_changed hy hyslot hf he (hyund.pq.trans hq)⟩

theorem syncWaitsForChildren : Claims.SyncWaitsForChildren := by
  refine ⟨syncReadsTheJoinWord, ?_⟩
  intro s c n seq off w op es hm hf ha hclaim hw hcont hv hc _ hoff hkey hn hs hd hown hclean hq hu
  exact syncSetsSusp s c n seq off w op es hm hf ha hclaim hw hcont hv hc hoff hkey hn hs hd hown hclean hq hu

end Sys2Proof.Machine
end

section
/-! SPAWN (R45, R331): the increment of the JOIN word, the stores of the child's frame, the record, the child; the settlement of O35. -/

namespace Sys2Proof.Machine

open Sys2Proof.Claims

/-! ### What SPAWN does at issue -/

/-- The record of the continuation of a SPAWN (R39, R45). -/
def State.spawnRec (s : State) : TaskRec :=
  { pc := s.successor, fp := s.rg 3, g4 := s.rg 4, g5 := s.rg 5, g6 := s.rg 6, fmtd := s.src.slot.fmtd, scale := s.src.slot.scale
    gtid := s.src.slot.gtid, stolen := false }

/-- The stores of JOIN and PARENT of the child's frame. -/
def State.spawnWords (s : State) (fp : Word) : List PqEntry :=
  [s.frameEntry s.cur.core s.cur.slot (s.ownOp fp) 0 0, s.frameEntry s.cur.core s.cur.slot (s.ownOp fp) (s.rg 3) 1]

/-- The increment of the JOIN word of the executing task's frame. -/
def State.joinOp (s : State) : MemOp := { s.ownOp (s.rg 3) with kind := .amo .add, arg := 1 }

/-- No other slot's SPAWN is under way where no slot goes on with anything. -/
theorem spawning_of_idle {s : State} {c : Nat} (n : Nat) (h : ∀ m, (s.slot c m).cont = none) : s.spawning c n = [] := by
  rw [State.spawning, List.filterMap_eq_nil_iff]
  intro m _
  rw [h m]

theorem misaligned_eq_none {fp pf pc : Word} (hfp : fp.toNat % 64 = 0) (hpf : pf.toNat % 64 = 0) (hpc : pc.toNat % 4 = 0) :
    State.misaligned [(fp, 64), (pf, 64), (pc, 4)] = none := by
  simp [State.misaligned, hfp, hpf, hpc]

/-- The deque holds records of no other population. -/
theorem ownsDeque_of_records {x : CoreVf} {p : Option Nat} (h : x.hasRecords = true → x.dqPop = p) :
    (x.hasRecords && decide (x.dqPop ≠ p)) = false := by simpa using h

theorem dequeFull_of_room {x : CoreVf} (h : x.deque.length < 64) : x.dequeFull = false := by
  rw [CoreVf.dequeFull, decide_eq_false (by simpa [Config.dequeSize] using h), Bool.false_and]

section
variable {s : State} {a b : BitVec 6} (hfp : (s.rg b).toNat % 64 = 0) (hpf : (s.rg 3).toNat % 64 = 0) (hpc : (s.rg a).toNat % 4 = 0)
  (ho : OwnSp s (s.rg b) 8) (ho8 : OwnSp s (s.rg b + 8) 8)
  (hpop : (s.cvf s.cur.core).hasRecords = true → (s.cvf s.cur.core).dqPop = s.src.slot.pop)
  (hroom : (s.cvf s.cur.core).deque.length < 64) (hidle : ∀ m, (s.slot s.cur.core m).cont = none)
include hfp hpf hpc ho ho8 hpop hroom hidle

theorem exec_spawn_of_frameless (h3 : s.rg 3 = 0) : exec (.spawn a b) s =
    .next (s.runTask s.cur.core s.cur.slot 0 (.spawn s.spawnRec (s.rg a) (s.rg b) (s.spawnWords (s.rg b)))) := by
  change execSpawn a b s = _
  simp only [execSpawn, misaligned_eq_none hfp hpf hpc, ownsDeque_of_records hpop, dequeFull_of_room hroom,
    spawning_of_idle _ hidle, if_pos h3,
    List.nil_append, State.resolveAll, resolve_of_ownSp ho, resolve_of_ownSp ho8, List.findSome?_cons, bankMissing_of_ownSp ho,
    bankMissing_of_ownSp ho8, List.findSome?_nil, Bool.false_eq_true, if_false, List.any_nil, ne_eq, not_true_eq_false, false_and,
    or_self]
  rfl

theorem exec_spawn_of_frame (h3 : s.rg 3 ≠ 0) (ho3 : OwnSp s (s.rg 3) 8) : exec (.spawn a b) s =
    .next (s.frameHome s.cur.core s.cur.slot s.joinOp (.spawn s.spawnRec (s.rg a) (s.rg b) (s.spawnWords (s.rg b)))) := by
  change execSpawn a b s = _
  simp only [execSpawn, misaligned_eq_none hfp hpf hpc, ownsDeque_of_records hpop, dequeFull_of_room hroom,
    spawning_of_idle _ hidle, if_neg h3,
    List.cons_append, List.nil_append, State.resolveAll, resolve_of_ownSp ho, resolve_of_ownSp ho8, resolve_of_ownSp ho3,
    List.findSome?_cons, bankMissing_of_ownSp ho, bankMissing_of_ownSp ho8, bankMissing_of_ownSp ho3, List.findSome?_nil,
    Bool.false_eq_true, if_false, List.any_nil, ne_eq, not_true_eq_false, false_and, or_self]
  rfl

end

/-! ### The last step of SPAWN -/

theorem updCvf_congr {s : State} {c : Nat} {f g : CoreVf → CoreVf} (h : f (s.cvf c) = g (s.cvf c)) :
    s.updCvf c f = s.updCvf c g := congrArg (fun x => s.setCore c ((s.core c).setCvf x)) h

/-- A core's deque with a record of a population that has been pushed (R43, R44). -/
def CoreVf.pushed (x : CoreVf) (r : TaskRec) : CoreVf := { x with deque := x.deque ++ [r] }

/-- A record is pushed on a hardware deque that has room (R43). -/
theorem push_of_room {s : State} {c : Nat} (r : TaskRec) (p : Option Nat) (h : (s.cvf c).deque.length < 64) :
    s.push c r p = (s.updCvf c fun x => { x with dqPop := p }).updCvf c (·.pushed r) := by
  have hroom : ¬ Config.dequeSize ≤ (s.cvf c).deque.length := Nat.not_le.2 h
  unfold State.push
  dsimp only
  split
  next => 
    rw [if_neg hroom]
    rfl
  next hnil =>
    refine updCvf_congr ?_
    rw [cvf_updCvf, CoreVf.pushed, hnil, List.nil_append]

/-- A slot that goes on as the child of its SPAWN (R45). -/
def Slot.spawned (x : Slot) (gtid : BitVec 48) (pc fp : Word) : Slot :=
  { x with gtid := gtid, g := x.g.set 3 fp, nextPc := pc, cWait := none, cont := none }

/-- The state once a record of a population has been pushed and a GTID given (R44, R45, R51). -/
def State.forked (s : State) (c : Nat) (r : TaskRec) (p : Option Nat) : State :=
  ((s.updCvf c fun x => { x with dqPop := p }).updCvf c (·.pushed r)).updCvf c fun x => { x with taskSeq := x.taskSeq + 1 }

theorem onlyCvf_forked (s : State) (c : Nat) (r : TaskRec) (p : Option Nat) : OnlyCvf c s (s.forked c r p) :=
  ((onlyCvf_updCvf s c _).trans (onlyCvf_updCvf _ c _)).trans (onlyCvf_updCvf _ c _)

theorem cvf_forked (s : State) (c : Nat) (r : TaskRec) (p : Option Nat) : (s.forked c r p).cvf c =
    { s.cvf c with dqPop := p, deque := (s.cvf c).deque ++ [r], taskSeq := (s.cvf c).taskSeq + 1 } := by
  rw [State.forked, cvf_updCvf, cvf_updCvf, cvf_updCvf]
  rfl

theorem spawnEnd_of_room {s : State} {c : Nat} (n : Nat) (r : TaskRec) (pc fp : Word) (hu : Untraced s)
    (h : (s.cvf c).deque.length < 64) : s.spawnEnd c n r pc fp = (s.forked c r (s.slot c n).pop).updSlot c n
      (·.spawned (BitVec.ofNat 48 (c % 2 ^ 16 * 2 ^ 32 + (s.cvf c).taskSeq.toNat)) pc fp) := by
  have hbank : s.pushBank c = none := if_neg (Nat.not_le.2 h)
  set t := (s.updCvf c fun x => { x with dqPop := (s.slot c n).pop }).updCvf c (·.pushed r) with ht
  have hut : Untraced t := hu
  have hseq : (t.cvf c).taskSeq = (s.cvf c).taskSeq := by
    rw [ht, cvf_updCvf, cvf_updCvf]
    rfl
  rw [State.spawnEnd, hbank]
  simp only [push_of_room r _ h]
  rw [← ht, trace_of_untraced hut, State.newGtid, hseq]
  rfl

/-- The step of a slot that becomes the child of its SPAWN. -/
structure Spawned (c n : Nat) (r : TaskRec) (pc fp : Word) (es : List PqEntry) (s t : State) : Prop where
  run : KeepsRun c s t
  cur : t.cur = s.cur
  mem : t.mem = s.mem
  deque : (t.cvf c).deque = (s.cvf c).deque ++ [r]
  taskSeq : (t.cvf c).taskSeq = (s.cvf c).taskSeq + 1
  pq : ∃ fs, (t.core c).pq = (s.core c).pq ++ fs ∧ fs.map PqEntry.written = es.map PqEntry.written
  slot : t.slot c n = (s.slot c n).spawned (BitVec.ofNat 48 (c % 2 ^ 16 * 2 ^ 32 + (s.cvf c).taskSeq.toNat)) pc fp

/-- SPAWN goes on once its JOIN word has been counted. -/
theorem spawned_runTask {s : State} {c n : Nat} {v pc fp : Word} {r : TaskRec} {es : List PqEntry} (hu : Untraced s)
    (hdeque : (s.cvf c).deque.length < 64) (hne : es ≠ []) (hroom : (s.core c).pq.length + es.length ≤ 32)
    (hown : ∀ e ∈ es, State.remoteKey c e.key = false) :
    Spawned c n r pc fp es s (s.runTask c n v (.spawn r pc fp es)) := by
  have hentered : Entered c es s _ := .foldl es s
  rw [State.runTask, storeAll_of_room n _ _ hne hroom hown,
    spawnEnd_of_room n r pc fp (hentered.untraced hu) (by rw [hentered.cvf]; exact hdeque), hentered.cvf]
  set t := es.foldl (fun t e => t.enterPq c e) s
  have honly : OnlyCvf c t (t.forked c r (t.slot c n).pop) := onlyCvf_forked ..
  have hall := honly.trans (onlyCvf_updSlot _ c n
    (·.spawned (BitVec.ofNat 48 (c % 2 ^ 16 * 2 ^ 32 + (s.cvf c).taskSeq.toNat)) pc fp))
  have hslot : (t.forked c r (t.slot c n).pop).slot c n = s.slot c n := by
    refine Eq.trans ?_ (hentered.slot n)
    have hslots : ((t.forked c r (t.slot c n).pop).cvf c).slots = (t.cvf c).slots := by rw [cvf_forked]
    exact congrArg (fun m => FMap.getD m n {}) hslots
  obtain ⟨fs, hfs, hwritten⟩ := hentered.pq
  refine ⟨hentered.keepsRun.trans ⟨(congrArg Core.vf hall.rest :), (congrArg Core.switchTo hall.rest :)⟩, hentered.cur,
    hentered.mem, ?_, ?_, ⟨fs, ?_, hwritten⟩, ?_⟩
  · rw [deque_updSlot, cvf_forked, hentered.cvf]
  · rw [cvf_updSlot, cvf_forked, hentered.cvf]
  · exact (congrArg Core.pq hall.rest :).trans hfs
  · rw [State.slot_updSlot, hslot]

/-- The sum of an add of a word (R290). -/
theorem amoNew_add_word (old x : Word) (cmp : Nat) : amoNew .add 8 old.toNat x.toNat cmp = some (old + x).toNat := by
  rw [amoNew_add_eight, BitVec.toNat_add]

/-! ### The statement -/

/-- The stores of a child's frame go to the own scratchpad. -/
theorem remoteKey_spawnWords {s : State} {fp : Word} (h64 : fp.toNat % 64 = 0) (ho : OwnSp s fp 8) :
    ∀ e ∈ s.spawnWords fp, State.remoteKey s.cur.core e.key = false := by
  obtain ⟨hlo, hhi, -, hc, -⟩ := ho
  have hkey (i : Nat) (hi : i ≤ 1) : State.remoteKey s.cur.core (ownKey s fp + 8 * i) = false := by
    have h : ownKey s fp + 8 * i = spKey (s.vk s.cur.core) s.cur.core (fp.toNat - 0x01E000000000 + 8 * i) := by
      rw [ownKey, spKey, spKey]
      omega
    rw [h]
    exact remoteKey_spKey _ hc (by omega)
  intro e he
  rcases List.mem_pair.1 he with rfl | rfl
  · exact hkey 0 (by decide)
  · exact hkey 1 (by decide)

/-- The stores of JOIN and PARENT, youngest last (R39). -/
theorem written_spawnWords {s : State} {fp : Word} {fs : List PqEntry}
    (h : fs.map PqEntry.written = (s.spawnWords fp).map PqEntry.written) :
    ∃ e f, fs = [e, f] ∧ e.key = ownKey s fp ∧ e.bytes = List.replicate 8 0 ∧ f.key = ownKey s fp + 8 ∧
      f.bytes = leBytes 8 (s.rg 3).toNat := by
  obtain ⟨e, fs', rfl, he, hfs⟩ := List.map_eq_cons_iff.1 h
  obtain ⟨f, fs'', rfl, hf, hnil⟩ := List.map_eq_cons_iff.1 hfs
  obtain rfl := List.map_eq_nil_iff.1 hnil
  obtain ⟨hek, heb⟩ : e.key = ownKey s fp + 8 * 0 ∧ e.bytes = leBytes 8 (0 : Word).toNat := Prod.mk.inj he
  obtain ⟨hfk, hfb⟩ : f.key = ownKey s fp + 8 * 1 ∧ f.bytes = leBytes 8 (s.rg 3).toNat := Prod.mk.inj hf
  have hzero : leBytes 8 (0 : Word).toNat = List.replicate 8 0 := by decide
  rw [Nat.mul_zero, Nat.add_zero] at hek
  rw [Nat.mul_one] at hfk
  exact ⟨e, f, rfl, hek, heb.trans hzero, hfk, hfb⟩

/-- What a write of `g3` leaves in each register. -/
theorem getElem_set_three (g : Vector Word 64) (v : Word) (m : Fin 64) :
    (g.set 3 v)[m] = if m.val = (3 : BitVec 6).toNat ∧ m.val ≠ 0 then v else g[m] := by
  have h3 : (3 : BitVec 6).toNat = 3 := rfl
  simp only [Fin.getElem_fin, Vector.getElem_set, h3]
  grind

/-- SPAWN's stores and its record, the child's registers and GTID, in a state whose memory is as given (R45, R51). -/
structure SpawnDone (s : State) (pc fp : Word) (m : Memory) (t : State) : Prop where
  deque : (t.cvf s.cur.core).deque = (s.cvf s.cur.core).deque ++ [s.spawnRec]
  nextPc : t.me.nextPc = pc
  regs : Regs s.me t.me 3 fp
  gtid : t.me.gtid = BitVec.ofNat 48 (s.cur.core % 2 ^ 16 * 2 ^ 32 + (s.cvf s.cur.core).taskSeq.toNat)
  taskSeq : (t.cvf s.cur.core).taskSeq = (s.cvf s.cur.core).taskSeq + 1
  mem : t.mem = m
  pq : ∃ e f, (t.core s.cur.core).pq = (s.core s.cur.core).pq ++ [e, f] ∧ e.key = ownKey s fp ∧ e.bytes = List.replicate 8 0 ∧
    f.key = ownKey s fp + 8 ∧ f.bytes = leBytes 8 (s.rg 3).toNat

/-- The child runs in the state that its step leaves, and in one in which its bundle has ended since. -/
theorem Spawned.done {s y z t : State} {pc fp : Word}
    (hz : Spawned s.cur.core s.cur.slot s.spawnRec pc fp (s.spawnWords fp) y z) (hy : Undisturbed s.cur.core s y)
    (hg : (y.slot s.cur.core s.cur.slot).g = s.me.g) (ht : Undisturbed s.cur.core z t) (hmem : t.mem = z.mem)
    (hslot : (t.slot s.cur.core s.cur.slot).nextPc = (z.slot s.cur.core s.cur.slot).nextPc ∧
      (t.slot s.cur.core s.cur.slot).g = (z.slot s.cur.core s.cur.slot).g ∧
      (t.slot s.cur.core s.cur.slot).gtid = (z.slot s.cur.core s.cur.slot).gtid) : SpawnDone s pc fp y.mem t := by
  have hme : t.me = t.slot s.cur.core s.cur.slot := by rw [State.me, ht.cur, hz.cur, hy.cur]
  obtain ⟨hpc, hr, hi⟩ := hslot
  obtain ⟨fs, hfs, hwritten⟩ := hz.pq
  obtain ⟨e, f, rfl, hwords⟩ := written_spawnWords hwritten
  refine ⟨?_, ?_, fun m => ?_, ?_, ?_, hmem.trans hz.mem, e, f, ?_, hwords⟩
  · rw [ht.deque, hz.deque, hy.deque]
  · rw [hme, hpc, hz.slot]
    rfl
  · rw [hme, hr, hz.slot, Slot.spawned, hg]
    exact getElem_set_three ..
  · rw [hme, hi, hz.slot, hy.taskSeq]
    rfl
  · rw [ht.taskSeq, hz.taskSeq, hy.taskSeq]
  · rw [ht.pq, hfs, hy.pq]

theorem spawnPushesTheContinuation : Claims.SpawnPushesTheContinuation := by
  intro s a b c k fp pf hfp hpc ho ho8 hu hpop hdeque hidle hpq spawned
  have hdone {u t : State} (h : SpawnDone s (s.rg a) fp u.mem t) : spawned u t :=
    ⟨h.deque, h.nextPc, h.regs, h.gtid, h.taskSeq, h.mem, h.pq⟩
  have hne : s.spawnWords fp ≠ [] := List.cons_ne_nil _ _
  have hremote := remoteKey_spawnWords hfp ho
  refine ⟨fun h3 => ?_, fun h3 hpf hread hm hf ha => ?_⟩
  · have hz : Spawned c s.cur.slot s.spawnRec (s.rg a) fp (s.spawnWords fp) s _ :=
      spawned_runTask (v := 0) hu hdeque hne hpq hremote
    exact ⟨_, exec_spawn_of_frameless hfp (by rw [show s.rg 3 = 0 from h3]; rfl) hpc ho ho8 hpop hdeque hidle h3,
      hdone (hz.done (.refl ..) rfl (.refl ..) rfl ⟨rfl, rfl, rfl⟩)⟩
  · obtain ⟨hown, hcov, hclean⟩ := hread
    have hmode : (s.slot c s.cur.slot).mode ≠ .halted := by rw [show (s.slot c s.cur.slot).mode = .ready from hm]; nofun
    have hasked : Asked c s.cur.slot s.joinOp (.spawn s.spawnRec (s.rg a) fp (s.spawnWords fp)) s _ := asked_frameHome _ _ hcov
    refine ⟨_, exec_spawn_of_frame hfp hpf hpc ho ho8 hpop hdeque hidle h3 hown, ?_, hasked.mem, hasked.undisturbed.deque, ?_⟩
    · rw [hasked.me]
      exact hasked.mode hmode
    obtain ⟨u, hexec, hperformed⟩ := performed_of_word (hasked.arrives_of_ownSp hown rfl rfl rfl rfl hclean) rfl rfl rfl
      (amoNew_add_word ..)
    have hmem := hperformed.mem
    rw [hasked.mem] at hmem
    obtain ⟨y, hy, hyund, -, o, d, hyslot⟩ := hperformed.resuming hasked (.inl rfl) rfl hmode rfl
    have hz := spawned_runTask (n := s.cur.slot) (v := le8 s.mem s.joinOp.key) (pc := s.rg a) (fp := fp) (r := s.spawnRec)
      (hyund.untraced hu) (by rw [hyund.deque]; exact hdeque) hne (by rw [hyund.pq]; exact hpq) hremote
    have hzslot := hz.slot
    rw [hyslot] at hzslot
    obtain ⟨v, hv, hend⟩ := hy.ends _ rfl (hy.undisturbed.keepsRun.trans hz.run) (by rw [hzslot]; exact hf) (by rw [hzslot]; rfl)
      (by rw [hzslot]; exact ha)
    have hended := hend.slot
    have hspawned := hz.done hyund (by rw [hyslot]; rfl) hend.undisturbed hend.mem ⟨hended.nextPc, hended.g, hended.gtid⟩
    rw [hy.mem] at hspawned
    have hme : v.me = v.slot c s.cur.slot := by rw [State.me, hend.undisturbed.cur, hz.cur, hyund.cur]
    rw [hzslot] at hended
    refine ⟨u, hexec, ?_, fun z hz => ?_, v, hv, hdone hspawned, ?_, ?_⟩
    · rw [hmem]
      exact le8_write ..
    · rw [hmem]
      exact get_write_word _ _ _ hz
    · rw [hme, hended.mode]
      rfl
    · rw [hme, hended.pc]
      rfl

/-- Settles O35, by the request of the frame's word, what it finds at home, and the reply with which the task goes on. -/
theorem framesForkAndJoin : Obligations.FramesForkAndJoin :=
  ⟨spawnPushesTheContinuation, tendDecrementsTheJoinWord, syncWaitsForChildren⟩

end Sys2Proof.Machine
end

section
/-! The decoder inverts the encoder (R58, R64-R72): a word is the number of its fields, so reading its fields and writing them are the
same condition on it; the settlement of O1 and O2. -/

namespace Sys2Proof

/-! ### A word and its fields (R64) -/

/-- The number of bit fields, lowest first, with a number above them. -/
def ofFields : List (Σ n, BitVec n) → Nat → Nat
  | [], t => t
  | ⟨n, v⟩ :: r, t => v.toNat + 2 ^ n * ofFields r t

/-- A word holds fields one behind the other from a bit up, and a number above them. -/
def HoldsFields (w : Nat) : Nat → List (Σ n, BitVec n) → Nat → Prop
  | lo, [], t => w / 2 ^ lo = t
  | lo, ⟨n, v⟩ :: r, t => fld w lo n = v.toNat ∧ HoldsFields w (lo + n) r t

theorem ofFields_eq_div_iff (w lo : Nat) (l : List (Σ n, BitVec n)) (t : Nat) : ofFields l t = w / 2 ^ lo ↔ HoldsFields w lo l t := by
  induction l generalizing lo with
  | nil => exact eq_comm
  | cons e r ih =>
    obtain ⟨n, v⟩ := e
    have hv : v.toNat < 2 ^ n := v.isLt
    rw [ofFields, HoldsFields, ← ih, Nat.pow_add, ← Nat.div_div_eq_div_mul, fld]
    constructor
    · intro h
      rw [← h, Nat.add_mul_mod_self_left, Nat.mod_eq_of_lt hv, Nat.add_mul_div_left _ _ (by positivity), Nat.div_eq_of_lt hv,
        Nat.zero_add]
      exact ⟨rfl, rfl⟩
    · rintro ⟨h, h'⟩
      rw [← h, h', Nat.mod_add_div]

/-- A word is the number of its fields. -/
@[simp] theorem ofFields_eq_iff (w : Nat) (l : List (Σ n, BitVec n)) (t : Nat) : ofFields l t = w ↔ HoldsFields w 0 l t := by
  rw [← ofFields_eq_div_iff, Nat.pow_zero, Nat.div_one]

/-! ### The shapes of the words (R64-R68): their operands, and what the fixed part of the word holds between them -/

@[simp] theorem enc0_eq_ofFields {m : Nat} (h : m % 2 ^ 20 = 0 ∧ m / 2 ^ 21 % 2 ^ 3 = 0) (x : BitVec 3) (y : BitVec 20) :
    enc0 m x y = ofFields [⟨20, y⟩, ⟨1, .ofNat 1 (m / 2 ^ 20)⟩, ⟨3, x⟩] (m / 2 ^ 24) := by
  simp only [enc0, ofFields, BitVec.toNat_ofNat]
  omega

@[simp] theorem enc1_eq_ofFields {m : Nat} (h : m % 2 ^ 24 = 0) (x : BitVec 6) (y : BitVec 18) :
    enc1 m x y = ofFields [⟨18, y⟩, ⟨6, x⟩] (m / 2 ^ 24) := by
  simp only [enc1, ofFields]
  omega

@[simp] theorem enc2_eq_ofFields {m : Nat} (h : m % 2 ^ 24 = 0) (x y : BitVec 6) (z : BitVec 12) :
    enc2 m x y z = ofFields [⟨12, z⟩, ⟨6, y⟩, ⟨6, x⟩] (m / 2 ^ 24) := by
  simp only [enc2, ofFields]
  omega

@[simp] theorem enc3_eq_ofFields {m : Nat} (h : m % 2 ^ 18 = 0) (x : BitVec 18) :
    enc3 m x = ofFields [⟨18, x⟩, ⟨6, .ofNat 6 (m / 2 ^ 18)⟩] (m / 2 ^ 24) := by
  simp only [enc3, ofFields, BitVec.toNat_ofNat]
  omega

@[simp] theorem enc4_eq_ofFields {m : Nat} (h : m / 2 ^ 2 % 2 ^ 1 = 0 ∧ m / 2 ^ 4 % 2 ^ 5 = 0 ∧ m / 2 ^ 12 % 2 ^ 12 = 0)
    (x y : BitVec 6) (z : BitVec 1) (u v : BitVec 2) (t : BitVec 1) :
    enc4 m x y z u v t =
      ofFields [⟨2, .ofNat 2 m⟩, ⟨1, t⟩, ⟨1, .ofNat 1 (m / 2 ^ 3)⟩, ⟨2, v⟩, ⟨2, u⟩, ⟨1, z⟩, ⟨3, .ofNat 3 (m / 2 ^ 9)⟩, ⟨6, y⟩, ⟨6, x⟩]
        (m / 2 ^ 24) := by
  simp only [enc4, ofFields, BitVec.toNat_ofNat]
  omega

@[simp] theorem enc5_eq_ofFields {m : Nat} (h : m / 2 ^ 3 % 2 ^ 5 = 0 ∧ m / 2 ^ 12 % 2 ^ 12 = 0)
    (x y : BitVec 6) (z u : BitVec 2) (v : BitVec 1) :
    enc5 m x y z u v =
      ofFields [⟨3, .ofNat 3 m⟩, ⟨1, v⟩, ⟨2, u⟩, ⟨2, z⟩, ⟨4, .ofNat 4 (m / 2 ^ 8)⟩, ⟨6, y⟩, ⟨6, x⟩] (m / 2 ^ 24) := by
  simp only [enc5, ofFields, BitVec.toNat_ofNat]
  omega

@[simp] theorem enc6_eq_ofFields {m : Nat} (h : m / 2 ^ 1 % 2 ^ 23 = 0) (x y z : BitVec 6) (u v : BitVec 2) (t : BitVec 1) :
    enc6 m x y z u v t = ofFields [⟨1, .ofNat 1 m⟩, ⟨1, t⟩, ⟨2, v⟩, ⟨2, u⟩, ⟨6, z⟩, ⟨6, y⟩, ⟨6, x⟩] (m / 2 ^ 24) := by
  simp only [enc6, ofFields, BitVec.toNat_ofNat]
  omega

@[simp] theorem enc7_eq_ofFields {m : Nat} (h : m / 2 ^ 2 % 2 ^ 22 = 0) (x y z : BitVec 6) (u v : BitVec 2) :
    enc7 m x y z u v = ofFields [⟨2, .ofNat 2 m⟩, ⟨2, v⟩, ⟨2, u⟩, ⟨6, z⟩, ⟨6, y⟩, ⟨6, x⟩] (m / 2 ^ 24) := by
  simp only [enc7, ofFields, BitVec.toNat_ofNat]
  omega

@[simp] theorem enc8_eq_ofFields {m : Nat} (h : m / 2 ^ 2 % 2 ^ 4 = 0) (x y : BitVec 2) :
    enc8 m x y = ofFields [⟨2, .ofNat 2 m⟩, ⟨2, y⟩, ⟨2, x⟩, ⟨18, .ofNat 18 (m / 2 ^ 6)⟩] (m / 2 ^ 24) := by
  simp only [enc8, ofFields, BitVec.toNat_ofNat]
  omega

@[simp] theorem enc9_eq_ofFields {m : Nat} (h : m / 2 ^ 1 % 2 ^ 2 = 0 ∧ m / 2 ^ 4 % 2 ^ 20 = 0)
    (x y z : BitVec 6) (u : BitVec 2) (v t : BitVec 1) :
    enc9 m x y z u v t =
      ofFields [⟨1, .ofNat 1 m⟩, ⟨1, t⟩, ⟨1, v⟩, ⟨1, .ofNat 1 (m / 2 ^ 3)⟩, ⟨2, u⟩, ⟨6, z⟩, ⟨6, y⟩, ⟨6, x⟩] (m / 2 ^ 24) := by
  simp only [enc9, ofFields, BitVec.toNat_ofNat]
  omega

@[simp] theorem enc10_eq_ofFields {m : Nat} (h : m % 2 ^ 18 = 0 ∧ m / 2 ^ 21 % 2 ^ 3 = 0) (x : BitVec 3) (y z u : BitVec 6) :
    enc10 m x y z u = ofFields [⟨6, u⟩, ⟨6, z⟩, ⟨6, y⟩, ⟨3, .ofNat 3 (m / 2 ^ 18)⟩, ⟨3, x⟩] (m / 2 ^ 24) := by
  simp only [enc10, ofFields, BitVec.toNat_ofNat]
  omega

@[simp] theorem enc11_eq_ofFields {m : Nat} (h : m % 2 ^ 4 = 0) (x : BitVec 4) :
    enc11 m x = ofFields [⟨4, x⟩, ⟨20, .ofNat 20 (m / 2 ^ 4)⟩] (m / 2 ^ 24) := by
  simp only [enc11, ofFields, BitVec.toNat_ofNat]
  omega

@[simp] theorem enc12_eq_ofFields {m : Nat} (h : m / 2 ^ 12 % 2 ^ 12 = 0) (x y : BitVec 6) :
    enc12 m x y = ofFields [⟨12, .ofNat 12 m⟩, ⟨6, y⟩, ⟨6, x⟩] (m / 2 ^ 24) := by
  simp only [enc12, ofFields, BitVec.toNat_ofNat]
  omega

@[simp] theorem enc13_eq_ofFields {m : Nat} (h : m / 2 ^ 6 % 2 ^ 18 = 0) (x y z : BitVec 6) :
    enc13 m x y z = ofFields [⟨6, .ofNat 6 m⟩, ⟨6, z⟩, ⟨6, y⟩, ⟨6, x⟩] (m / 2 ^ 24) := by
  simp only [enc13, ofFields, BitVec.toNat_ofNat]
  omega

@[simp] theorem enc14_eq_ofFields {m : Nat} (h : m / 2 ^ 12 % 2 ^ 6 = 0) (x : BitVec 6) :
    enc14 m x = ofFields [⟨12, .ofNat 12 m⟩, ⟨6, x⟩, ⟨6, .ofNat 6 (m / 2 ^ 18)⟩] (m / 2 ^ 24) := by
  simp only [enc14, ofFields, BitVec.toNat_ofNat]
  omega

@[simp] theorem enc15_eq_ofFields {m : Nat} (h : m / 2 ^ 6 % 2 ^ 12 = 0) (x y : BitVec 6) :
    enc15 m x y = ofFields [⟨6, .ofNat 6 m⟩, ⟨6, y⟩, ⟨6, x⟩, ⟨6, .ofNat 6 (m / 2 ^ 18)⟩] (m / 2 ^ 24) := by
  simp only [enc15, ofFields, BitVec.toNat_ofNat]
  omega

@[simp] theorem enc16_eq_ofFields {m : Nat} (h : m % 2 ^ 4 = 0 ∧ m / 2 ^ 6 % 2 ^ 18 = 0) (x y z : BitVec 6) (u : BitVec 4) :
    enc16 m x y z u = ofFields [⟨4, u⟩, ⟨2, .ofNat 2 (m / 2 ^ 4)⟩, ⟨6, z⟩, ⟨6, y⟩, ⟨6, x⟩] (m / 2 ^ 24) := by
  simp only [enc16, ofFields, BitVec.toNat_ofNat]
  omega

@[simp] theorem enc17_eq_ofFields {m : Nat} (h : m / 2 ^ 18 % 2 ^ 6 = 0) (x : BitVec 6) :
    enc17 m x = ofFields [⟨18, .ofNat 18 m⟩, ⟨6, x⟩] (m / 2 ^ 24) := by
  simp only [enc17, ofFields, BitVec.toNat_ofNat]
  omega

@[simp] theorem enc18_eq_ofFields {m : Nat} (h : m % 2 ^ 2 = 0 ∧ m / 2 ^ 12 % 2 ^ 6 = 0) (x : BitVec 6) (y : BitVec 2) :
    enc18 m x y = ofFields [⟨2, y⟩, ⟨10, .ofNat 10 (m / 2 ^ 2)⟩, ⟨6, x⟩, ⟨6, .ofNat 6 (m / 2 ^ 18)⟩] (m / 2 ^ 24) := by
  simp only [enc18, ofFields, BitVec.toNat_ofNat]
  omega

@[simp] theorem enc19_eq_ofFields {m : Nat} (h : m / 2 ^ 3 % 2 ^ 21 = 0)
    (x : BitVec 1) (y : BitVec 5) (z u : BitVec 6) (v : BitVec 3) :
    enc19 m x y z u v = ofFields [⟨3, .ofNat 3 m⟩, ⟨3, v⟩, ⟨6, u⟩, ⟨6, z⟩, ⟨5, y⟩, ⟨1, x⟩] (m / 2 ^ 24) := by
  simp only [enc19, ofFields, BitVec.toNat_ofNat]
  omega

@[simp] theorem enc20_eq_ofFields {m : Nat} (h : m / 2 ^ 3 % 2 ^ 3 = 0 ∧ m / 2 ^ 7 % 2 ^ 17 = 0)
    (x : BitVec 1) (y : BitVec 5) (z : BitVec 6) (u : BitVec 5) (v : BitVec 3) :
    enc20 m x y z u v =
      ofFields [⟨3, .ofNat 3 m⟩, ⟨3, v⟩, ⟨1, .ofNat 1 (m / 2 ^ 6)⟩, ⟨5, u⟩, ⟨6, z⟩, ⟨5, y⟩, ⟨1, x⟩] (m / 2 ^ 24) := by
  simp only [enc20, ofFields, BitVec.toNat_ofNat]
  omega

@[simp] theorem enc21_eq_ofFields {m : Nat} (h : m % 2 ^ 12 = 0 ∧ m / 2 ^ 18 % 2 ^ 6 = 0) (x : BitVec 6) (y : BitVec 12) :
    enc21 m x y = ofFields [⟨12, y⟩, ⟨6, .ofNat 6 (m / 2 ^ 12)⟩, ⟨6, x⟩] (m / 2 ^ 24) := by
  simp only [enc21, ofFields, BitVec.toNat_ofNat]
  omega

@[simp] theorem enc22_eq_ofFields {m : Nat} (h : m % 2 ^ 18 = 0) (x : BitVec 6) (y : BitVec 12) :
    enc22 m x y = ofFields [⟨12, y⟩, ⟨6, x⟩, ⟨6, .ofNat 6 (m / 2 ^ 18)⟩] (m / 2 ^ 24) := by
  simp only [enc22, ofFields, BitVec.toNat_ofNat]
  omega

@[simp] theorem enc23_eq_ofFields {m : Nat} (h : m / 2 ^ 6 % 2 ^ 6 = 0) (x : BitVec 6) :
    enc23 m x = ofFields [⟨6, .ofNat 6 m⟩, ⟨6, x⟩, ⟨12, .ofNat 12 (m / 2 ^ 12)⟩] (m / 2 ^ 24) := by
  simp only [enc23, ofFields, BitVec.toNat_ofNat]
  omega

@[simp] theorem enc24_eq_ofFields {m : Nat} (h : m / 2 ^ 5 % 2 ^ 19 = 0) (x y z : BitVec 6) (u : BitVec 1) :
    enc24 m x y z u = ofFields [⟨5, .ofNat 5 m⟩, ⟨1, u⟩, ⟨6, z⟩, ⟨6, y⟩, ⟨6, x⟩] (m / 2 ^ 24) := by
  simp only [enc24, ofFields, BitVec.toNat_ofNat]
  omega

@[simp] theorem enc25_eq_ofFields {m : Nat} (h : m / 2 ^ 5 % 2 ^ 1 = 0 ∧ m / 2 ^ 12 % 2 ^ 12 = 0) (x y : BitVec 6) (z : BitVec 1) :
    enc25 m x y z = ofFields [⟨5, .ofNat 5 m⟩, ⟨1, z⟩, ⟨6, .ofNat 6 (m / 2 ^ 6)⟩, ⟨6, y⟩, ⟨6, x⟩] (m / 2 ^ 24) := by
  simp only [enc25, ofFields, BitVec.toNat_ofNat]
  omega

@[simp] theorem enc26_eq_ofFields {m : Nat} (h : m % 2 ^ 7 = 0 ∧ m / 2 ^ 12 % 2 ^ 12 = 0)
    (x y : BitVec 6) (z : BitVec 1) (u : BitVec 6) :
    enc26 m x y z u = ofFields [⟨6, u⟩, ⟨1, z⟩, ⟨5, .ofNat 5 (m / 2 ^ 7)⟩, ⟨6, y⟩, ⟨6, x⟩] (m / 2 ^ 24) := by
  simp only [enc26, ofFields, BitVec.toNat_ofNat]
  omega

@[simp] theorem enc27_eq_ofFields {m : Nat} (h : m / 2 ^ 5 % 2 ^ 19 = 0) (x y : BitVec 3) (z u : BitVec 6) (v : BitVec 1) :
    enc27 m x y z u v = ofFields [⟨5, .ofNat 5 m⟩, ⟨1, v⟩, ⟨6, u⟩, ⟨6, z⟩, ⟨3, y⟩, ⟨3, x⟩] (m / 2 ^ 24) := by
  simp only [enc27, ofFields, BitVec.toNat_ofNat]
  omega

@[simp] theorem enc28_eq_ofFields {m : Nat} (h : m % 2 ^ 24 = 0) (x y : BitVec 3) (z : BitVec 6) (u : BitVec 12) :
    enc28 m x y z u = ofFields [⟨12, u⟩, ⟨6, z⟩, ⟨3, y⟩, ⟨3, x⟩] (m / 2 ^ 24) := by
  simp only [enc28, ofFields]
  omega

@[simp] theorem enc29_eq_ofFields {m : Nat} (h : m / 2 ^ 13 % 2 ^ 11 = 0) (x y z : BitVec 3) (u v : BitVec 1) :
    enc29 m x y z u v = ofFields [⟨13, .ofNat 13 m⟩, ⟨1, v⟩, ⟨1, u⟩, ⟨3, z⟩, ⟨3, y⟩, ⟨3, x⟩] (m / 2 ^ 24) := by
  simp only [enc29, ofFields, BitVec.toNat_ofNat]
  omega

@[simp] theorem enc30_eq_ofFields {m : Nat} (h : m % 2 ^ 3 = 0 ∧ m / 2 ^ 6 % 2 ^ 18 = 0) (x y z : BitVec 6) (u : BitVec 3) :
    enc30 m x y z u = ofFields [⟨3, u⟩, ⟨3, .ofNat 3 (m / 2 ^ 3)⟩, ⟨6, z⟩, ⟨6, y⟩, ⟨6, x⟩] (m / 2 ^ 24) := by
  simp only [enc30, ofFields, BitVec.toNat_ofNat]
  omega

@[simp] theorem enc31_eq_ofFields {m : Nat} (h : m % 2 ^ 24 = 0) (x y z u : BitVec 6) :
    enc31 m x y z u = ofFields [⟨6, u⟩, ⟨6, z⟩, ⟨6, y⟩, ⟨6, x⟩] (m / 2 ^ 24) := by
  simp only [enc31, ofFields]
  omega

@[simp] theorem enc32_eq_ofFields {m : Nat} (h : m / 2 ^ 5 % 2 ^ 15 = 0 ∧ m / 2 ^ 21 % 2 ^ 3 = 0)
    (x : BitVec 3) (y : BitVec 2) (z u : BitVec 6) (v : BitVec 1) :
    enc32 m x y z u v =
      ofFields [⟨5, .ofNat 5 m⟩, ⟨1, v⟩, ⟨6, u⟩, ⟨6, z⟩, ⟨2, y⟩, ⟨1, .ofNat 1 (m / 2 ^ 20)⟩, ⟨3, x⟩] (m / 2 ^ 24) := by
  simp only [enc32, ofFields, BitVec.toNat_ofNat]
  omega

@[simp] theorem enc33_eq_ofFields {m : Nat} (h : m % 2 ^ 4 = 0 ∧ m / 2 ^ 12 % 2 ^ 6 = 0 ∧ m / 2 ^ 21 % 2 ^ 3 = 0)
    (x : BitVec 3) (y : BitVec 6) (z : BitVec 4) :
    enc33 m x y z = ofFields [⟨4, z⟩, ⟨8, .ofNat 8 (m / 2 ^ 4)⟩, ⟨6, y⟩, ⟨3, .ofNat 3 (m / 2 ^ 18)⟩, ⟨3, x⟩] (m / 2 ^ 24) := by
  simp only [enc33, ofFields, BitVec.toNat_ofNat]
  omega

@[simp] theorem enc34_eq_ofFields {m : Nat} (h : m % 2 ^ 4 = 0 ∧ m / 2 ^ 9 % 2 ^ 15 = 0)
    (x y : BitVec 6) (z : BitVec 3) (u : BitVec 4) :
    enc34 m x y z u = ofFields [⟨4, u⟩, ⟨5, .ofNat 5 (m / 2 ^ 4)⟩, ⟨3, z⟩, ⟨6, y⟩, ⟨6, x⟩] (m / 2 ^ 24) := by
  simp only [enc34, ofFields, BitVec.toNat_ofNat]
  omega

@[simp] theorem enc35_eq_ofFields {m : Nat} (h : m % 2 ^ 4 = 0 ∧ m / 2 ^ 12 % 2 ^ 12 = 0) (x y : BitVec 6) (z : BitVec 4) :
    enc35 m x y z = ofFields [⟨4, z⟩, ⟨8, .ofNat 8 (m / 2 ^ 4)⟩, ⟨6, y⟩, ⟨6, x⟩] (m / 2 ^ 24) := by
  simp only [enc35, ofFields, BitVec.toNat_ofNat]
  omega

@[simp] theorem enc36_eq_ofFields {m : Nat} (h : m % 2 ^ 6 = 0 ∧ m / 2 ^ 12 % 2 ^ 12 = 0)
    (x y : BitVec 6) (z : BitVec 2) (u : BitVec 4) :
    enc36 m x y z u = ofFields [⟨4, u⟩, ⟨2, z⟩, ⟨6, .ofNat 6 (m / 2 ^ 6)⟩, ⟨6, y⟩, ⟨6, x⟩] (m / 2 ^ 24) := by
  simp only [enc36, ofFields, BitVec.toNat_ofNat]
  omega

@[simp] theorem enc37_eq_ofFields {m : Nat} (h : m / 2 ^ 5 % 2 ^ 19 = 0) (x : BitVec 1) (y z u : BitVec 5) (v : BitVec 3) :
    enc37 m x y z u v = ofFields [⟨5, .ofNat 5 m⟩, ⟨3, v⟩, ⟨5, u⟩, ⟨5, z⟩, ⟨5, y⟩, ⟨1, x⟩] (m / 2 ^ 24) := by
  simp only [enc37, ofFields, BitVec.toNat_ofNat]
  omega

@[simp] theorem enc38_eq_ofFields {m : Nat} (h : m % 2 ^ 24 = 0) (x : BitVec 1) (y z u : BitVec 5) (v : BitVec 3) (t : BitVec 5) :
    enc38 m x y z u v t = ofFields [⟨5, t⟩, ⟨3, v⟩, ⟨5, u⟩, ⟨5, z⟩, ⟨5, y⟩, ⟨1, x⟩] (m / 2 ^ 24) := by
  simp only [enc38, ofFields]
  omega

@[simp] theorem enc39_eq_ofFields {m : Nat} (h : m % 2 ^ 2 = 0 ∧ m / 2 ^ 5 % 2 ^ 13 = 0 ∧ m / 2 ^ 23 % 2 ^ 1 = 0)
    (x : BitVec 1) (y z : BitVec 5) (u : BitVec 3) (v : BitVec 2) :
    enc39 m x y z u v =
      ofFields [⟨2, v⟩, ⟨3, .ofNat 3 (m / 2 ^ 2)⟩, ⟨3, u⟩, ⟨5, z⟩, ⟨5, y⟩, ⟨5, .ofNat 5 (m / 2 ^ 18)⟩, ⟨1, x⟩] (m / 2 ^ 24) := by
  simp only [enc39, ofFields, BitVec.toNat_ofNat]
  omega

@[simp] theorem enc40_eq_ofFields {m : Nat} (h : m / 2 ^ 5 % 2 ^ 18 = 0) (x y z : BitVec 5) (u : BitVec 3) :
    enc40 m x y z u = ofFields [⟨5, .ofNat 5 m⟩, ⟨3, u⟩, ⟨5, z⟩, ⟨5, y⟩, ⟨5, x⟩, ⟨1, .ofNat 1 (m / 2 ^ 23)⟩] (m / 2 ^ 24) := by
  simp only [enc40, ofFields, BitVec.toNat_ofNat]
  omega

@[simp] theorem enc41_eq_ofFields {m : Nat} (h : m % 2 ^ 4 = 0 ∧ m / 2 ^ 5 % 2 ^ 3 = 0 ∧ m / 2 ^ 13 % 2 ^ 11 = 0)
    (x : BitVec 1) (y z : BitVec 5) (u : BitVec 3) (v : BitVec 4) :
    enc41 m x y z u v =
      ofFields [⟨4, v⟩, ⟨1, .ofNat 1 (m / 2 ^ 4)⟩, ⟨3, u⟩, ⟨5, .ofNat 5 (m / 2 ^ 8)⟩, ⟨5, z⟩, ⟨5, y⟩, ⟨1, x⟩] (m / 2 ^ 24) := by
  simp only [enc41, ofFields, BitVec.toNat_ofNat]
  omega

@[simp] theorem enc42_eq_ofFields {m : Nat} (h : m % 2 ^ 3 = 0 ∧ m / 2 ^ 12 % 2 ^ 12 = 0)
    (x : BitVec 1) (y : BitVec 6) (z : BitVec 5) (u : BitVec 3) :
    enc42 m x y z u = ofFields [⟨3, u⟩, ⟨9, .ofNat 9 (m / 2 ^ 3)⟩, ⟨5, z⟩, ⟨6, y⟩, ⟨1, x⟩] (m / 2 ^ 24) := by
  simp only [enc42, ofFields, BitVec.toNat_ofNat]
  omega

@[simp] theorem enc43_eq_ofFields {m : Nat} (h : m / 2 ^ 5 % 2 ^ 3 = 0 ∧ m / 2 ^ 12 % 2 ^ 12 = 0)
    (x : BitVec 1) (y : BitVec 5) (z : BitVec 6) (u : BitVec 3) :
    enc43 m x y z u = ofFields [⟨5, .ofNat 5 m⟩, ⟨3, u⟩, ⟨4, .ofNat 4 (m / 2 ^ 8)⟩, ⟨6, z⟩, ⟨5, y⟩, ⟨1, x⟩] (m / 2 ^ 24) := by
  simp only [enc43, ofFields, BitVec.toNat_ofNat]
  omega

@[simp] theorem enc44_eq_ofFields {m : Nat} (h : m % 2 ^ 3 = 0 ∧ m / 2 ^ 6 % 2 ^ 17 = 0)
    (x : BitVec 6) (y : BitVec 5) (z : BitVec 6) (u : BitVec 3) :
    enc44 m x y z u =
      ofFields [⟨3, u⟩, ⟨3, .ofNat 3 (m / 2 ^ 3)⟩, ⟨6, z⟩, ⟨5, y⟩, ⟨6, x⟩, ⟨1, .ofNat 1 (m / 2 ^ 23)⟩] (m / 2 ^ 24) := by
  simp only [enc44, ofFields, BitVec.toNat_ofNat]
  omega

@[simp] theorem enc45_eq_ofFields {m : Nat} (h : m / 2 ^ 5 % 2 ^ 3 = 0 ∧ m / 2 ^ 13 % 2 ^ 11 = 0)
    (x : BitVec 1) (y z : BitVec 5) (u : BitVec 3) :
    enc45 m x y z u = ofFields [⟨5, .ofNat 5 m⟩, ⟨3, u⟩, ⟨5, .ofNat 5 (m / 2 ^ 8)⟩, ⟨5, z⟩, ⟨5, y⟩, ⟨1, x⟩] (m / 2 ^ 24) := by
  simp only [enc45, ofFields, BitVec.toNat_ofNat]
  omega

@[simp] theorem enc46_eq_ofFields {m : Nat} (h : m / 2 ^ 12 % 2 ^ 12 = 0) (x : BitVec 1) (y : BitVec 5) (z : BitVec 6) :
    enc46 m x y z = ofFields [⟨12, .ofNat 12 m⟩, ⟨6, z⟩, ⟨5, y⟩, ⟨1, x⟩] (m / 2 ^ 24) := by
  simp only [enc46, ofFields, BitVec.toNat_ofNat]
  omega

@[simp] theorem enc47_eq_ofFields {m : Nat} (h : m % 2 ^ 4 = 0 ∧ m / 2 ^ 13 % 2 ^ 5 = 0 ∧ m / 2 ^ 23 % 2 ^ 1 = 0)
    (x : BitVec 1) (y : BitVec 5) (z : BitVec 4) :
    enc47 m x y z = ofFields [⟨4, z⟩, ⟨9, .ofNat 9 (m / 2 ^ 4)⟩, ⟨5, y⟩, ⟨5, .ofNat 5 (m / 2 ^ 18)⟩, ⟨1, x⟩] (m / 2 ^ 24) := by
  simp only [enc47, ofFields, BitVec.toNat_ofNat]
  omega

@[simp] theorem enc48_eq_ofFields {m : Nat} (h : m % 2 ^ 4 = 0 ∧ m / 2 ^ 13 % 2 ^ 10 = 0) (x y : BitVec 5) (z : BitVec 4) :
    enc48 m x y z = ofFields [⟨4, z⟩, ⟨9, .ofNat 9 (m / 2 ^ 4)⟩, ⟨5, y⟩, ⟨5, x⟩, ⟨1, .ofNat 1 (m / 2 ^ 23)⟩] (m / 2 ^ 24) := by
  simp only [enc48, ofFields, BitVec.toNat_ofNat]
  omega

@[simp] theorem enc49_eq_ofFields {m : Nat} (h : m / 2 ^ 5 % 2 ^ 1 = 0 ∧ m / 2 ^ 18 % 2 ^ 6 = 0)
    (x : BitVec 1) (y : BitVec 5) (z : BitVec 1) :
    enc49 m x y z = ofFields [⟨5, .ofNat 5 m⟩, ⟨1, z⟩, ⟨12, .ofNat 12 (m / 2 ^ 6)⟩, ⟨5, y⟩, ⟨1, x⟩] (m / 2 ^ 24) := by
  simp only [enc49, ofFields, BitVec.toNat_ofNat]
  omega

/-! ### Reading a word (R58, R64) -/

/-- A field below bit 31 does not see that bit. -/
theorem fld_of_mod {v w : Nat} (h : w % 2 ^ 31 = v) {lo n : Nat} (hlo : lo + n ≤ 31) : fld w lo n = fld v lo n := by
  obtain ⟨k, hk⟩ := Nat.exists_eq_add_of_le hlo
  have hsplit : 2 ^ 31 = 2 ^ lo * 2 ^ (n + k) := by rw [← Nat.pow_add, ← Nat.add_assoc, ← hk]
  rw [← h, fld, fld, hsplit, Nat.mod_mul_right_div_self, Nat.mod_mod_of_dvd _ (Nat.pow_dvd_pow 2 (Nat.le_add_right n k))]

theorem fld_class (w : Nat) : fld w 30 1 = w / 16777216 / 64 % 2 := by
  rw [fld, Nat.div_div_eq_div_mul]
  rfl

theorem fld_major (w : Nat) : fld w 24 6 = w / 16777216 % 64 := rfl

/-- A word with bit 31 clear or set decodes by its bits below. -/
theorem decode_of_mod {v w : Nat} (h : w % 2 ^ 31 = v) :
    decode w = if v / 16777216 / 64 % 2 = 0 then decodeC (v / 16777216 % 64) w else decodeA (v / 16777216 % 64) w := by
  rw [decode, fld_of_mod h (by decide), fld_of_mod h (by decide), fld_class, fld_major]

/-- A field in two parts. -/
theorem fld_add (w lo n k : Nat) : fld w lo (n + k) = 2 ^ n * fld w (lo + n) k + fld w lo n := by
  rw [fld, fld, fld, Nat.pow_add, Nat.mod_mul, Nat.pow_add, Nat.div_div_eq_div_mul, Nat.add_comm]

/-- The low part of a field. -/
theorem fld_eq_mod (w lo n k : Nat) : fld w lo n = fld w lo (n + k) % 2 ^ n := by
  rw [fld, fld, Nat.mod_mod_of_dvd _ (Nat.pow_dvd_pow 2 (Nat.le_add_right n k))]

/-- A word without operands. -/
theorem eq_ofFields (m : Nat) : m = ofFields [⟨24, .ofNat 24 m⟩] (m / 2 ^ 24) := by
  rw [ofFields, ofFields, BitVec.toNat_ofNat, Nat.mod_add_div]

/-- A number leaves bit 31 to the bundle, and with that bit clear or set it decodes to an instruction (R58). -/
def DecodesTo (v : Nat) (i : Instr) : Prop := v < 2 ^ 31 ∧ ∀ w, w % 2 ^ 31 = v → decode w = some i

/-! ### The word of an instruction decodes to it -/

theorem isWord_of_encode {i : Instr} {w : Nat} (h : encode i = some w) : i.isWord = true := by
  cases i <;> cases h <;> rfl

theorem decodesTo_of_encode_a {i : Instr} {v : Nat} (h : encode i = some v) (ha : i.isAWord = true) : DecodesTo v i := by
  cases i <;> cases ha
  all_goals
    replace h := Option.some.inj h
    simp [HoldsFields] at h
    refine ⟨by omega, ?_⟩
    intro w hv
    simp only [decode_of_mod hv, h, Nat.reduceDiv, Nat.reduceMod, one_ne_zero, if_false]
  -- Integer operations.
  case add | sub | and | or | xor | andn | sll | srl | sra | min | max | minu | maxu | mul | mulh | mulhu | div | divu | rem | remu |
    clz | ctz | popc | bswap =>
    simp [decodeA.eq_1, fld_of_mod hv, h]
  -- Immediates.
  case addi | andi | ori | xori | slli | srli | srai | lui | addpc =>
    simp [decodeA.eq_2, decodeA.eq_3, decodeA.eq_4, decodeA.eq_5, decodeA.eq_6, decodeA.eq_7, decodeA.eq_8, decodeA.eq_9,
      decodeA.eq_10,
      fld_of_mod hv, h]
  -- Compares, predicates, moves.
  case cmp | cmpi | pand | por | pxor | pandn | sel | movpG =>
    simp [decodeA.eq_11, decodeA.eq_12, decodeA.eq_13, decodeA.eq_14, decodeA.eq_15, fld_of_mod hv, h]
  -- Floating operations.
  case fadd | fsub | fmul | fmin | fmax | fsgnj | fsgnjn | fsgnjx | fclass | fma | fmaD | fcmp | fcvtF32I64 | fcvtF32I64u | fcvtI64F32
    |
    fcvtI64uF32 | fcvtF64I64 | fcvtI64F64 | fcvtF32F64 | fcvtF64F32 =>
    simp [decodeA.eq_16, decodeA.eq_17, decodeA.eq_18, decodeA.eq_19, decodeA.eq_20, fld_of_mod hv, h]
  -- Formats, generator, special functions.
  case abtAbs | abtPrs | abm | cvtd | cvte | rand | sfuRcp | sfuSqrt | sfuRsqrt | sfuExp2 | sfuLog2 | sfuSinpi | sfuCospi =>
    simp [decodeA.eq_21, decodeA.eq_22, decodeA.eq_23, decodeA.eq_24, decodeA.eq_25, decodeA.eq_26, fld_of_mod hv, h]
  -- Lane arithmetic.
  case vadd | vsub | vmul | vmin | vmax | vand | vor | vxor | vshl | vshr | vsra | vfma | vcmp | vsel | vcvtDec | vcvtEnc =>
    simp [decodeA.eq_27, decodeA.eq_28, decodeA.eq_29, decodeA.eq_30, decodeA.eq_31, fld_of_mod hv, h]
  -- Lane movement, special functions, absent elements.
  case vredAdd | vredMin | vredMax | vbc | vext | vperm | vsfuRcp | vsfuSqrt | vsfuRsqrt | vsfuExp2 | vsfuLog2 | vsfuSinpi | vsfuCospi
    |
    vaccFrom | vaccTo | vabt | vabm | viota =>
    simp [decodeA.eq_32, decodeA.eq_33, decodeA.eq_34, decodeA.eq_35, decodeA.eq_36, decodeA.eq_37, decodeA.eq_38, decodeA.eq_39,
      decodeA.eq_40, fld_of_mod hv, h]
  -- A function code that the decoder reads together with the field beside it.
  case movpP => simp [decodeA.eq_15, fld_of_mod hv, show fld v 0 18 = _ from fld_add v 0 12 6, h]

/-- A write of a special register, whichever row its selector has (R332). -/
theorem decodesTo_of_swrWord {a : BitVec 6} {k v : Nat} (hk : k < 4096) (h : swrWord k a = v) :
    DecodesTo v (decodeSwr a (.ofNat 12 k)) := by
  refine ⟨h ▸ Laws.Encodes.swrWord_lt k a hk, fun w hv => ?_⟩
  have hy : (BitVec.ofNat 12 k).toNat = k := Nat.mod_eq_of_lt hk
  generalize BitVec.ofNat 12 k = y at hy ⊢
  subst hy
  replace h : enc22 0x35000000 a y = v := h
  simp [HoldsFields] at h
  simp [decode_of_mod hv, decodeC.eq_53, fld_of_mod hv, h]

theorem decodeSwr_of_plain (a : BitVec 6) {y : BitVec 12} (h : selOwnRow y = false) : decodeSwr a y = .swr a y := by
  simp only [selOwnRow, decide_eq_false_iff_not, not_or] at h
  obtain ⟨htcmp, hfmtd, hdqbase, hrseed, hpmc, hpmsel, hpmctl, hpmovf⟩ := h
  rw [decodeSwr, if_neg htcmp, if_neg hfmtd, if_neg hdqbase, if_neg hrseed, if_neg hpmc, if_neg hpmsel, if_neg hpmctl, if_neg hpmovf]

theorem decodeSwr_rseed (n : BitVec 2) (a : BitVec 6) : decodeSwr a (.ofNat 12 (0x035 + n.toNat)) = .rseedWrite n a := by
  obtain ⟨n⟩ := n
  fin_cases n <;> rfl

theorem decodeSwr_pmc (n : BitVec 3) (a : BitVec 6) : decodeSwr a (.ofNat 12 (0x100 + n.toNat)) = .pmcWrite n a := by
  obtain ⟨n⟩ := n
  fin_cases n <;> rfl

theorem decodeSwr_pmsel (n : BitVec 3) (a : BitVec 6) : decodeSwr a (.ofNat 12 (0x110 + n.toNat)) = .pmselWrite n a := by
  obtain ⟨n⟩ := n
  fin_cases n <;> rfl

theorem decodesTo_of_encode_c {i : Instr} {v : Nat} (hwf : i.wellFormed = true) (h : encode i = some v) (hw : i.isWord = true)
    (ha : i.isAWord = false) : DecodesTo v i := by
  cases i <;> cases hw <;> cases ha
  -- Words without operands.
  case exit | tret | sync | tend | vrels | vfence | park | tlbiAll =>
    replace h := (eq_ofFields _).symm.trans (Option.some.inj h)
    simp [HoldsFields] at h
    refine ⟨by omega, ?_⟩
    intro w hv
    simp [decode_of_mod hv, decodeC.eq_4, decodeC.eq_6, decodeC.eq_39, decodeC.eq_47, decodeC.eq_54, decodeC.eq_56,
      show fld v 0 6 = _ from fld_eq_mod v 0 6 18, fld_of_mod hv, show fld v 0 18 = _ from fld_eq_mod v 0 18 6, h]
  -- Writes of special registers (R332).
  case swr a y =>
    have hy : selOwnRow y = false := by simp [Instr.wellFormed] at hwf; exact hwf.2
    have h' := decodesTo_of_swrWord y.isLt (Option.some.inj h)
    rwa [BitVec.ofNat_toNat, BitVec.setWidth_eq, decodeSwr_of_plain a hy] at h'
  case tcmpWrite => exact decodesTo_of_swrWord (k := 0x011) (by decide) (Option.some.inj h)
  case fmtdWrite => exact decodesTo_of_swrWord (k := 0x030) (by decide) (Option.some.inj h)
  case dqbaseWrite => exact decodesTo_of_swrWord (k := 0x040) (by decide) (Option.some.inj h)
  case pmctlWrite => exact decodesTo_of_swrWord (k := 0x120) (by decide) (Option.some.inj h)
  case pmovfWrite => exact decodesTo_of_swrWord (k := 0x121) (by decide) (Option.some.inj h)
  case rseedWrite n a => exact decodeSwr_rseed n a ▸ decodesTo_of_swrWord (by omega) (Option.some.inj h)
  case pmcWrite n a => exact decodeSwr_pmc n a ▸ decodesTo_of_swrWord (by omega) (Option.some.inj h)
  case pmselWrite n a => exact decodeSwr_pmsel n a ▸ decodesTo_of_swrWord (by omega) (Option.some.inj h)
  all_goals
    replace h := Option.some.inj h
    simp [HoldsFields] at h
    refine ⟨by omega, ?_⟩
    intro w hv
    simp only [decode_of_mod hv, h, Nat.reduceDiv, Nat.reduceMod, Nat.zero_mod, if_true]
  -- Control flow and traps (R66).
  case br | brn | jal | jalr | trap | dbrk =>
    simp [decodeC.eq_1, decodeC.eq_2, decodeC.eq_3, decodeC.eq_4, decodeC.eq_5, decodeC.eq_6, decodeC.eq_7, fld_of_mod hv, h]
  -- Loads.
  case ldb | ldbu | ldh | ldhu | ldw | ldwu | ldd | lda =>
    simp [decodeC.eq_8, decodeC.eq_9, decodeC.eq_10, decodeC.eq_11, decodeC.eq_12, decodeC.eq_13, decodeC.eq_14, decodeC.eq_15,
      fld_of_mod
      hv, h]
  -- Stores.
  case stb | sth | stw | std | str =>
    simp [decodeC.eq_16, decodeC.eq_17, decodeC.eq_18, decodeC.eq_19, decodeC.eq_20, fld_of_mod hv, h]
  -- Atomics.
  case amoadd | amoand | amoor | amoxor | amomin | amomax | amominu | amomaxu | amoswap | amofadd | cas =>
    simp [decodeC.eq_21, decodeC.eq_22, decodeC.eq_23, decodeC.eq_24, decodeC.eq_25, decodeC.eq_26, decodeC.eq_27, decodeC.eq_28,
      decodeC.eq_29, decodeC.eq_30, decodeC.eq_31, fld_of_mod hv, h]
  -- Fences, waits, semaphores.
  case fence | waitw | waitwt | semp | semv =>
    simp [decodeC.eq_32, decodeC.eq_33, decodeC.eq_34, decodeC.eq_35, decodeC.eq_36, fld_of_mod hv, h]
  -- Counters and queues.
  case cntInc | cntDec | qEnq =>
    simp [decodeC.eq_37, decodeC.eq_38, fld_of_mod hv, h]
  -- Tasks and messages.
  case spawn | asend | asendG | ibx | ibxTry | setlive =>
    simp [decodeC.eq_39, decodeC.eq_40, decodeC.eq_41, decodeC.eq_42, fld_of_mod hv, h]
  -- Engines and claims.
  case cpy | cpyCvt | cpyGather | cpyPeer | cpyFill | mxMul | mxRot | mxDrain | mxZero | mxLoad | jpoll | dtld | vclaim =>
    simp [decodeC.eq_43, decodeC.eq_44, decodeC.eq_45, decodeC.eq_46, decodeC.eq_47, fld_of_mod hv, h]
  -- Vector memory.
  case vld | vst | vgth | vsct =>
    simp [decodeC.eq_48, decodeC.eq_49, decodeC.eq_50, decodeC.eq_51, fld_of_mod hv, h]
  -- Special registers, translation.
  case srd | tlbwCore | tlbwClus | tlbiPage | tlbiVf | frepRetry | frepKill =>
    simp [decodeC.eq_52, decodeC.eq_53, decodeC.eq_54, decodeC.eq_55, decodeC.eq_56, decodeC.eq_57, fld_of_mod hv, h]
  -- Function codes that the decoder reads together with the fields beside them.
  case cntCan | cntSprd | cntCfg | qMake =>
    simp [decodeC.eq_37, decodeC.eq_38, fld_of_mod hv, show fld v 0 12 = _ from fld_add v 0 6 6, h]
  case cntBar | cntRdq | qDeq | qWait | qFree | qStat =>
    simp [decodeC.eq_37, decodeC.eq_38, fld_of_mod hv, show fld v 0 6 = _ from fld_eq_mod v 0 6 6, h]
  case vreneg =>
    simp [decodeC.eq_47, fld_of_mod hv, show fld v 0 6 = _ from fld_eq_mod v 0 6 12, show fld v 0 24 = _ from fld_add v 0 18 6, h]

theorem decodesTo_of_encode {i : Instr} {v : Nat} (hwf : i.wellFormed = true) (h : encode i = some v) : DecodesTo v i := by
  cases ha : i.isAWord with
  | true => exact decodesTo_of_encode_a h ha
  | false => exact decodesTo_of_encode_c hwf h (isWord_of_encode h) ha

/-- Settles O1, by the fields of the word of each instruction, which a word that differs in bit 31 alone has too. -/
theorem decodeOfEncodeIsIdentity : Obligations.DecodeOfEncodeIsIdentity := by
  intro i w hwf h
  obtain ⟨hlt, hdec⟩ := decodesTo_of_encode hwf h
  exact ⟨hlt, hdec w (Nat.mod_eq_of_lt hlt), hdec _ (by rw [Nat.add_mod_left, Nat.mod_eq_of_lt hlt])⟩

/-! ### A legal word is the word of its instruction -/

theorem toNat_ofNat_fld (w lo n : Nat) : (BitVec.ofNat n (fld w lo n)).toNat = fld w lo n := by
  rw [BitVec.toNat_ofNat, fld, Nat.mod_mod]

/-- A selector of a bank of registers is its first one and the number in the bank. -/
theorem add_toNat_ofNat_sub {k n x : Nat} (hlo : k ≤ x) (hhi : x < k + 2 ^ n) : k + (BitVec.ofNat n (x - k)).toNat = x := by
  rw [BitVec.toNat_ofNat, Nat.mod_eq_of_lt (by omega)]
  omega

theorem encode_decodeSwr (a : BitVec 6) (y : BitVec 12) : encode (decodeSwr a y) = some (swrWord y.toNat a) := by
  have hbank {k n : Nat} {lo hi : BitVec 12} (hy : lo ≤ y ∧ y ≤ hi) (hlo : lo.toNat = k) (hhi : hi.toNat < k + 2 ^ n) :
      some (swrWord (k + (BitVec.ofNat n (y.toNat - k)).toNat) a) = some (swrWord y.toNat a) := by
    rw [add_toNat_ofNat_sub (hlo ▸ hy.1) (lt_of_le_of_lt hy.2 hhi)]
  unfold decodeSwr
  split_ifs with htcmp hfmtd hdqbase hrseed hpmc hpmsel hpmctl hpmovf
  · exact htcmp ▸ rfl
  · exact hfmtd ▸ rfl
  · exact hdqbase ▸ rfl
  · exact hbank hrseed rfl (by decide)
  · exact hbank hpmc rfl (by decide)
  · exact hbank hpmsel rfl (by decide)
  · exact hpmctl ▸ rfl
  · exact hpmovf ▸ rfl
  · rfl

theorem encode_of_decodeC {m w : Nat} {i : Instr} (hm : w / 16777216 = m) (h : decodeC m w = some i) : encode i = some w := by
  revert h
  fun_cases decodeC m w
  all_goals
    intro h
    cases h
  -- A write of a special register.
  case case119 =>
    refine (encode_decodeSwr ..).trans (congrArg some (show enc22 0x35000000 _ _ = w from ?_))
    simp [HoldsFields, toNat_ofNat_fld, -BitVec.toNat_ofNat, *]
  -- Words without operands: EXIT, TRET, SYNC, TEND, VRELS, VFENCE, TLBI ALL, PARK.
  case case6 | case10 | case77 | case78 | case105 | case107 | case121 | case128 =>
    refine congrArg some ((eq_ofFields _).trans ((ofFields_eq_iff ..).2 ?_))
    simp [HoldsFields, *]
  all_goals
    refine congrArg some ?_
    simp [HoldsFields, toNat_ofNat_fld, -BitVec.toNat_ofNat, *]

theorem encode_of_decodeA {m w : Nat} {i : Instr} (hm : w / 16777216 = 64 + m) (h : decodeA m w = some i) : encode i = some w := by
  revert h
  fun_cases decodeA m w
  all_goals
    intro h
    cases h
  all_goals
    refine congrArg some ?_
    simp [HoldsFields, toNat_ofNat_fld, -BitVec.toNat_ofNat, *]

/-- Settles O2, by the branches of the decoder: each reads every field of the word that it accepts. -/
theorem encodeOfDecodeIsIdentity : Obligations.EncodeOfDecodeIsIdentity := by
  intro w i hlt h
  have hclass := fld_class w
  have hmajor := fld_major w
  unfold decode at h
  split at h
  next hc => exact encode_of_decodeC (by omega) h
  next ha => exact encode_of_decodeA (by omega) h

end Sys2Proof
end

section
/-! The traps that a bundle's words take before they run (R61-R63, R71, R332): what the check of a lone word and of a pair refuses,
and the step that follows; the settlement of O6. -/

namespace Sys2Proof.Machine

/-! ### What the checks refuse -/

theorem checkLone_of_privileged {w : Nat} {i : Instr} (h : legal w = some i) (hp : i.privileged = true) :
    checkLone w false = .trap 0x03 (BitVec.ofNat 64 w) := by
  simp [checkLone, h, hp]

theorem isSeedWrite_iff (i : Instr) : isSeedWrite i = true ↔ ∃ q a, i = .rseedWrite q a := by
  constructor
  · intro h
    unfold isSeedWrite at h
    split at h
    next q a => exact ⟨q, a, rfl⟩
    next => exact nomatch h
  · rintro ⟨q, a, rfl⟩
    rfl

section
variable {wc wa : Nat} {fw : Bool} {i j : Instr}

/-- The second word is to have bit 31 clear and to be an A-word (R61). -/
theorem checkPair_of_shape (h : fld wa 31 1 = 1 ∨ fld wa 30 1 = 0) :
    checkPair wc wa fw = .trap 0x02 (BitVec.ofNat 64 (wc + wa * 2 ^ 32)) := if_pos h

variable (h31 : fld wa 31 1 = 0) (h30 : fld wa 30 1 = 1)
include h31 h30

theorem checkPair_of_first_illegal (hc : legal wc = none) : checkPair wc wa fw = .trap 0x01 (BitVec.ofNat 64 wc) := by
  simp [checkPair, h31, h30, hc]

theorem checkPair_of_second_illegal (hc : legal wc = some i) (ha : legal wa = none) : checkPair wc wa fw =
    .trap 0x01 (if isSeedWrite i = true then BitVec.ofNat 64 wc else BitVec.ofNat 64 (wa + 2 ^ 32)) := by
  simp [checkPair, h31, h30, hc, ha]

variable (hc : legal wc = some i) (ha : legal wa = some j)
include hc ha

theorem checkPair_of_sameDest (hd : i.sameDest j = true) :
    checkPair wc wa fw = .trap 0x02 (BitVec.ofNat 64 (wc + wa * 2 ^ 32)) := by
  simp [checkPair, h31, h30, hc, ha, hd]

theorem checkPair_of_seedWrite (hd : i.sameDest j = false) (hs : isSeedWrite i = true) :
    checkPair wc wa fw = .trap 0x01 (BitVec.ofNat 64 wc) := by
  simp [checkPair, h31, h30, hc, ha, hd, hs]

theorem checkPair_of_privileged (hd : i.sameDest j = false) (hs : isSeedWrite i = false) (hp : i.privileged = true) :
    checkPair wc wa false = .trap 0x03 (BitVec.ofNat 64 wc) := by
  simp [checkPair, h31, h30, hc, ha, hd, hs, hp]

end

/-! ### The bundle that is fetched -/

/-- A word with bit 31 clear that stands at 4 mod 8 or is no C-word: nothing more is fetched (R61). -/
theorem fetchBundle_of_misplaced {s u : State} {c n w : Nat} (h : s.fetchWord c (s.slot c n).pc = .word w u) (h31 : fld w 31 1 = 0)
    (hw : (s.slot c n).pc.toNat % 8 = 4 ∨ fld w 30 1 = 1) : s.fetchBundle c n = (.trap 0x02 (BitVec.ofNat 64 w), u) := by
  simp only [State.fetchBundle, h, h31, hw, zero_ne_one, if_false, if_true]

/-- A C-word that does not stand at 4 mod 8, and the word behind it. -/
theorem fetchBundle_of_two_words {s t u : State} {c n w v : Nat} (h : s.fetchWord c (s.slot c n).pc = .word w t)
    (h4 : (s.slot c n).pc.toNat % 8 ≠ 4) (h31 : fld w 31 1 = 0) (h30 : fld w 30 1 = 0)
    (h' : t.fetchWord c ((s.slot c n).pc + 4) = .word v u) : s.fetchBundle c n = (checkPair w v (s.slot c n).fw, u) := by
  simp only [State.fetchBundle, h, h31, h30, h4, h', zero_ne_one, if_false, or_self]

/-! ### The step -/

/-- A step at a bundle that the checks refuse takes the trap in the state that the fetch has left. -/
theorem step_of_refused_bundle {s u : State} {c n cause : Nat} {val : Word} (hi : s.issuing = some (c, n))
    (hb : ({ s with issuing := none, cur := { core := c, slot := n } } : State).fetchBundle c n = (.trap cause val, u))
    (ht : (u.cvf c).tvec ≠ 0) (hx : (u.slot c n).inTrap = false) :
    ∃ t, TookTrap c n cause val u t ∧ step s = .next (t.commit c n) := by
  refine ⟨_, (takeTrap_tookTrap u c n cause val ht hx).updFate (.trap cause val), ?_⟩
  rw [step_of_issuing hi]
  simp only [runBundle, hb]

/-- Settles O6, by the branches of the fetch and of the checks of a lone word and of a pair. -/
theorem illegalAndPrivilegedWordsTrap : Obligations.IllegalAndPrivilegedWordsTrap := by
  intro s u c n w hi hf ht hx legal' traps
  have hlone {cause : Nat} {val : Word} (h31 : fld w 31 1 = 1) (hc : checkLone w (s.slot c n).fw = .trap cause val) :
      traps u cause val :=
    step_of_refused_bundle hi ((fetchBundle_of_lone hf h31).trans (congrArg (·, u) hc)) ht hx
  refine ⟨fun h31 => ⟨fun hbad => hlone h31 (checkLone_of_illegal (legal_eq_none hbad)), fun i hl hp hfw => ?_⟩,
    fun h31 hw => step_of_refused_bundle hi (fetchBundle_of_misplaced hf h31 hw) ht hx, ?_⟩
  · rw [hfw] at hlone
    exact hlone h31 (checkLone_of_privileged (legal_of_decode hl.1 hl.2) hp)
  intro v wa h31 h4 h30 hf' ht' hx' both seed
  have hpair {cause : Nat} {val : Word} (hc : checkPair w wa (s.slot c n).fw = .trap cause val) : traps v cause val :=
    step_of_refused_bundle hi ((fetchBundle_of_two_words hf h4 h31 h30 hf').trans (congrArg (·, v) hc)) ht' hx'
  refine ⟨fun hs => hpair (checkPair_of_shape hs), fun ha31 ha30 =>
    ⟨fun hbad => hpair (checkPair_of_first_illegal ha31 ha30 (legal_eq_none hbad)), fun i hli => ?_⟩⟩
  have hc := legal_of_decode hli.1 hli.2
  refine ⟨fun hbad => ?second, fun j hlj => ?both⟩
  case second =>
    have h := hpair (checkPair_of_second_illegal ha31 ha30 hc (legal_eq_none hbad))
    refine ⟨fun hs => ?_, fun hs => ?_⟩
    · rwa [if_pos ((isSeedWrite_iff i).2 hs)] at h
    · rwa [if_neg (mt (isSeedWrite_iff i).1 hs)] at h
  case both =>
    have ha := legal_of_decode hlj.1 hlj.2
    refine ⟨fun hd => hpair (checkPair_of_sameDest ha31 ha30 hc ha hd),
      fun hd hs => hpair (checkPair_of_seedWrite ha31 ha30 hc ha hd ((isSeedWrite_iff i).2 hs)), fun hd hs hp hfw => ?_⟩
    have hseed : isSeedWrite i = false := Bool.eq_false_iff.2 (mt (isSeedWrite_iff i).1 hs)
    rw [hfw] at hpair
    exact hpair (checkPair_of_privileged ha31 ha30 hc ha hd hseed hp)

end Sys2Proof.Machine
end

section
/-! Branches, jumps and semaphores (R59, R293, R315, R316, R330): the next address and the link, the units of a semaphore and its
waiters; the settlement of O17. -/

namespace Sys2Proof.Machine

open Sys2Proof.Claims

/-! ### Offsets and alignment (R59, R65) -/

/-- An offset in words is four times as many bytes. -/
theorem signExtend_append_zero {n : Nat} (x : BitVec n) (hn : n ≠ 0) :
    (x ++ (0 : BitVec 2)).signExtend 64 = (4 : BitVec 64) * x.signExtend 64 := by
  have hshift : (4 : BitVec 64) * x.signExtend 64 = x.signExtend 64 <<< 2 := by
    rw [BitVec.shiftLeft_eq_mul_twoPow, BitVec.mul_comm]
    rfl
  rw [hshift]
  apply BitVec.eq_of_getLsbD_eq
  intro i hi
  rw [BitVec.getLsbD_signExtend, BitVec.getLsbD_shiftLeft, BitVec.getLsbD_signExtend, BitVec.getLsbD_append, BitVec.msb_append,
    if_neg hn]
  by_cases h : i < 2
  · rw [if_pos (by omega), if_pos h]
    simp [h]
  · have hlt : i - 2 < n ↔ i < n + 2 := by omega
    have h64 : i - 2 < 64 := by omega
    simp only [h, hlt, hi, h64, decide_true, decide_false, Bool.true_and, Bool.not_false, if_false]

/-- A target with bits 0 and 1 clear is aligned (R59). -/
theorem and_three_eq_zero {w : BitVec 64} (h0 : w.getLsbD 0 = false) (h1 : w.getLsbD 1 = false) : w &&& 3 = 0 := by
  have hmask : ∀ i < 64, 2 ≤ i → (3 : BitVec 64).getLsbD i = false := by decide
  apply BitVec.eq_of_getLsbD_eq
  intro i hi
  rw [BitVec.getLsbD_and, show (0 : BitVec 64).getLsbD i = false from BitVec.getLsbD_zero]
  match i with
  | 0 => rw [h0, Bool.false_and]
  | 1 => rw [h1, Bool.false_and]
  | i + 2 => rw [hmask _ hi (by omega), Bool.and_false]

/-! ### Branches and jumps (R293, R315, R316) -/

theorem becomes_self (s : State) : Becomes s s s.me :=
  ⟨⟨⟨⟨rfl, fun _ _ => rfl⟩, rfl, fun _ _ => rfl⟩, rfl, fun _ _ => rfl⟩, rfl⟩

/-- A branch that is taken on a condition. -/
theorem becomes_goto_if (s : State) (b : Bool) (t : Word) :
    Becomes s (if b then s.goto t else s) { s.me with nextPc := if b then t else s.me.nextPc } := by
  cases b with
  | true => exact becomes_updMe s fun x => { x with nextPc := t }
  | false => exact becomes_self s

/-- A jump that links. -/
theorem becomes_link_goto (s : State) (d : BitVec 6) (v t : Word) :
    let u := (s.wg d v).goto t
    Becomes s u { s.me with g := u.me.g, nextPc := t } ∧ Regs s.me u.me d v := by
  obtain ⟨⟨hlink, hme⟩, hregs⟩ := writesG_wg s d v
  obtain ⟨hgoto, hme'⟩ := becomes_updMe (s.wg d v) fun x => { x with nextPc := t }
  refine ⟨⟨hlink.trans hgoto, ?_⟩, ?_⟩
  · rw [State.goto, hme', hme]
  · rw [State.goto, hme']
    exact hregs

theorem branchesAndJumps : Claims.BranchesAndJumps := by
  intro s q o d a j i link target
  have hbr : s.addr + brOffset o = s.me.pc + 4 * o.signExtend 64 := congrArg (s.me.pc + ·) (signExtend_append_zero o (by decide))
  have hjal : s.addr + jalOffset j = s.me.pc + 4 * j.signExtend 64 := congrArg (s.me.pc + ·) (signExtend_append_zero j (by decide))
  refine ⟨⟨_, rfl, ?br⟩, ⟨_, rfl, ?brn⟩, ⟨_, rfl, ?jal⟩, fun h0 h1 => ⟨_, exec_jalr_of_aligned (and_three_eq_zero h0 h1), ?jalr⟩,
    fun h => traps_of_raise (congrArg Host.Outcome.next (if_pos (and_three_ne_zero h)))⟩
  case br =>
    rw [← hbr]
    exact becomes_goto_if s (s.rp q) _
  case brn =>
    have h := becomes_goto_if s (!s.rp q) (s.addr + brOffset o)
    simp only [Bool.not_eq_true', ← Bool.not_eq_true, ite_not] at h
    rw [← hbr]
    exact h
  case jal =>
    rw [← hjal]
    exact becomes_link_goto s d link _
  case jalr => exact becomes_link_goto s d link target

/-! ### Semaphores (R330) -/

/-- An entry of a map that is replaced by a value from itself. -/
theorem getD_insert_getD {α : Type} (m : FMap α) (n j : Nat) (f : α → α) (d : α) :
    FMap.getD (FMap.insert m n (f (FMap.getD m n d))) j d = if j = n then f (FMap.getD m j d) else FMap.getD m j d := by
  split
  next h => rw [h, FMap.getD_insert_self]
  next h => exact FMap.getD_insert_ne m _ d h

/-- A change of what a core holds beside its slots, and then of one of its slots. -/
theorem updSlot_updCvf (s : State) (c n : Nat) {g : CoreVf → CoreVf} (hg : ∀ x, (g x).slots = x.slots) (f : Slot → Slot) :
    let t := (s.updCvf c g).updSlot c n f
    OnlyCvf c s t ∧ t.slot c n = f (s.slot c n) ∧ (∀ m, m ≠ n → t.slot c m = s.slot c m) ∧
      t.cvf c = { g (s.cvf c) with slots := (t.cvf c).slots } := by
  have hslot (m : Nat) : (s.updCvf c g).slot c m = s.slot c m := State.slot_updCvf_of_slots s c m hg
  refine ⟨(onlyCvf_updCvf s c g).trans (onlyCvf_updSlot _ c n f), ?_, fun m hm => ?_, ?_⟩
  · rw [State.slot_updSlot, hslot]
  · rw [State.slot_updSlot_ne _ _ fun h => hm (Prod.ext_iff.1 h).2, hslot]
  · rw [cvf_updSlot, cvf_updCvf]

section
variable {s : State} {n : BitVec 4}

theorem exec_semp_of_unit (h : 0 < FMap.getD (s.cvf s.cur.core).sems n.toNat 0) : exec (.semp n) s =
    .next (s.updCvf s.cur.core fun x =>
      { x with sems := FMap.insert x.sems n.toNat (FMap.getD (s.cvf s.cur.core).sems n.toNat 0 - 1) }) :=
  congrArg Host.Outcome.next (if_pos h)

theorem exec_semp_of_none (h : FMap.getD (s.cvf s.cur.core).sems n.toNat 0 = 0) : exec (.semp n) s =
    .next ((s.updCvf s.cur.core fun x =>
      { x with semWait := FMap.insert x.semWait n.toNat (FMap.getD x.semWait n.toNat [] ++ [s.cur.slot]) }).parkC (.semp n.toNat)) :=
  congrArg Host.Outcome.next (if_neg (by rw [h]; decide))

theorem exec_semv_of_waiter {w : Nat} {r : List Nat} (h : FMap.getD (s.cvf s.cur.core).semWait n.toNat [] = w :: r) :
    exec (.semv n) s = .next ((s.updCvf s.cur.core fun y => { y with semWait := FMap.insert y.semWait n.toNat r }).updSlot
      s.cur.core w fun y => { y with cWait := some (.done []) }) := by
  change execSemv n s = _
  rw [execSemv, h]

theorem exec_semv_of_no_waiter (h : FMap.getD (s.cvf s.cur.core).semWait n.toNat [] = []) :
    exec (.semv n) s = .next (s.updCvf s.cur.core fun y =>
      { y with sems := FMap.insert y.sems n.toNat (min (FMap.getD (s.cvf s.cur.core).sems n.toNat 0 + 1) 65535) }) := by
  change execSemv n s = _
  rw [execSemv, h]

end

theorem semaphoresCount : Claims.SemaphoresCount := by
  intro s n c count waiters
  refine ⟨fun h => ⟨_, exec_semp_of_unit h, onlyCvf_updCvf .., ?taken⟩, fun h => ⟨_, exec_semp_of_none h, ?parked⟩,
    fun w r h => ⟨_, exec_semv_of_waiter h, ?woken⟩, fun h => ⟨_, exec_semv_of_no_waiter h, onlyCvf_updCvf .., ?added⟩⟩
  case taken =>
    dsimp only [count]
    rw [cvf_updCvf]
    exact ⟨rfl, fun m => getD_insert_getD _ _ m (· - 1) 0⟩
  case added =>
    dsimp only [count]
    rw [cvf_updCvf]
    exact ⟨rfl, fun m => getD_insert_getD _ _ m (fun x => min (x + 1) 65535) 0⟩
  case parked =>
    obtain ⟨honly, hme, hslot, hcvf⟩ := updSlot_updCvf s c s.cur.slot
      (g := fun x => { x with semWait := FMap.insert x.semWait n.toNat (FMap.getD x.semWait n.toNat [] ++ [s.cur.slot]) })
      (fun _ => rfl) fun x => { x with mode := .parked, cWait := some (.semp n.toNat) }
    refine ⟨honly, hme, congrArg Slot.waitCode hme, hslot, fun m => congrArg (fun x => FMap.getD x.sems m 0) hcvf, fun m => ?_⟩
    exact (congrArg (fun x => FMap.getD x.semWait m []) hcvf).trans (getD_insert_getD _ _ m (· ++ [s.cur.slot]) [])
  case woken =>
    obtain ⟨honly, hw, hslot, hcvf⟩ := updSlot_updCvf s c w
      (g := fun y => { y with semWait := FMap.insert y.semWait n.toNat r }) (fun _ => rfl)
      fun y => { y with cWait := some (.done []) }
    refine ⟨honly, hw, hslot, fun m => congrArg (fun x => FMap.getD x.sems m 0) hcvf, fun m => ?_⟩
    exact (congrArg (fun x => FMap.getD x.semWait m []) hcvf).trans (getD_insert_getD _ _ m (fun _ => r) [])

/-- Settles O17, by the equation of each instruction and what an update of the executing slot or of its core leaves. -/
theorem controlFlowAndSemaphores : Obligations.ControlFlowAndSemaphores := ⟨branchesAndJumps, semaphoresCount⟩

end Sys2Proof.Machine
end
